-- ==== Sys2Proof/Word.lean ====
section
/-! DEFINITION. The word types of the Z96 and their plainest arithmetic (R3: bit 0 is the least
significant bit; a vector row is 768 bytes, R226; a mask has one bit a lane, R229). -/

namespace Sys2Proof

/-- One byte of memory. -/
abbrev Byte := BitVec 8
/-- One 32-bit instruction word (R168). -/
abbrev Word := BitVec 32
/-- A scalar register or control register (R193, R183). -/
abbrev W64 := BitVec 64
/-- A row of the vector engine, which is a row of Z: 768 bytes, byte 0 in bits [7:0] (R226, R227). -/
abbrev Row := BitVec 6144
/-- A mask register: bit i governs lane i (R229). -/
abbrev MaskBits := BitVec 768

end Sys2Proof
end

