-- ==== Sys2Proof/Config.lean ====
section
/-! DEFINITION. What an implementation fixes and the values the spec leaves open. Each is an opaque
constant without a body: nothing can prove a value of it. The counter it is applied to is
`State.free`, plain data that a use reads and advances. -/

namespace Sys2Proof.Config

/-- Clocks a step takes beyond the first (R2 fixes the unit; no rule fixes the count). Log 4. -/
opaque stepClocks : Nat → Nat
/-- Nanojoules a step adds to ENERGY; R136 says that ENERGY is not deterministic. Log 5. -/
opaque stepEnergy : Nat → Nat
/-- Which of the allowed moments a plain read sees (R88 "any such moment may be chosen"). Log 6. -/
opaque readMoment : Nat → Nat
/-- Whether a cached translation, leaf or pointer, has been evicted when it is looked up (R414 "may be evicted at any time"). Log 7. -/
opaque tlbEvicted : Nat → Bool
/-- Where a search for free tile storage starts, as an offset in 64-byte units (R320 names type and die
only). Log 8. -/
opaque placeStart : Nat → Nat
/-- The HBM stack, of the die's two, that holds a device physical address. Log 8. -/
opaque stackOfDie : Nat → Fin 2
/-- The die on which an HBM-P address of this device lies (R78 gives no map). Log 107. -/
opaque dieOfAddr : Nat → Fin 4
/-- Where the search for a free task slot starts (R318: handle values depend on allocation). Log 9. -/
opaque slotStart : Nat → Nat
/-- The vendor-key hash that the fuses hold (R427). Log 11. -/
opaque fusedKeyHash : BitVec 384
/-- The power of base die, HBM and SerDes that the controller deducts, in units of 0.25 W (R128). Log 5. -/
opaque deductedPower : Nat → Nat
/-- The station that the hash of a fabric block address selects, before modulo 24 (R398). Log 12. -/
opaque stationHash : Nat → Nat
/-- Silicon revision, package power, core rail and temperatures, as Bobbin's sensors give them (R434).
Log 5. -/
opaque sensorWord : Nat → Nat → BitVec 32
/-- Which of several equal choices an arbiter without a stated order makes (R112, R124, R126). Log 3. -/
opaque pick : Nat → Nat
/-- COUNT of MCHKN after 65,535 starts without a check (R282 gives it 16 bits and states no value then). Log 18. -/
opaque countPast : Nat → BitVec 16

/-- Length in bytes of a save image, before the limit of 4 MiB (R342: its layout is opaque). Log 16. -/
opaque imageLength : Nat → Nat
/-- Clocks until the tag group that carried some traffic on a station in skid mode has passed its check (R45, R406). Log 83. -/
opaque skidClocks : Nat → Nat
/-- Whether a version's record was changed while the lost device's changes were not mirrored (R56). Log 84. -/
opaque unmirroredChange : Nat → Bool
/-- What an MMA without a self-check computes on an array that computes wrongly (R283). Log 85. -/
opaque wrongElement : Nat → BitVec 32
/-- A word that a rule leaves unstated. Log 24. -/
opaque unstated : Nat → BitVec 64

end Sys2Proof.Config
end

