-- ==== Sys2Proof/Syntax.lean ====
section
/-! DEFINITION. The abstract syntax of the Z96: one constructor of `Instr` per row of the opcode table.
The first 215 are the encoded instructions of R180. The other 133 are the table's operations and
events, "each whole and indivisible" (spec/95_what_each_step_holds.md); no word encodes them. What one of
them carries, the message or the moment that the rule it cites speaks of, is an `Event`. -/

namespace Sys2Proof

/-- A scalar source of an F3 or FI form: S0 to S31, or a scalar stream Q0 to Q7 (R181, R193). -/
inductive Src where
  | s (r : Fin 32)
  | q (r : Fin 8)
  deriving DecidableEq, Repr

/-- A vector source under its class (R175). -/
inductive VSrc where
  | v (r : Fin 128)
  | q (r : Fin 8)
  | s (r : Fin 32)
  | imm (x : BitVec 32)
  deriving DecidableEq, Repr

/-- Format codes 0x0 to 0xD (R139). -/
inductive Fmt where
  | fp32 | bf16 | fp16 | e4m3 | e5m2 | int8 | ui8 | int16 | ui16 | int32 | ui32 | bs8 | q4n | sc20
  deriving DecidableEq, Repr

/-- A matrix format field: a format, or 0xF, the format table (R139, R262). -/
inductive MFmt where
  | fmt (f : Fmt)
  | tab
  deriving DecidableEq, Repr

/-- Rounding modes 0 to 5 (R151). -/
inductive Rm where
  | rne | rtz | rdn | rup | rna | sr
  deriving DecidableEq, Repr

/-- The RM field: a mode, or 6, which means RMODE (R173). -/
inductive RmSel where
  | mode (m : Rm)
  | rmode
  deriving DecidableEq, Repr

/-- Scope codes (R182). -/
inductive Scope where
  | lane | core | quad | die | pkg | pod
  deriving DecidableEq, Repr

/-- The vector modifier word (R173) less the source classes, which the sources carry, and less GARG,
which only VSHUF and VCOMP use and carry themselves. `ty = none` is TOV = 0. -/
structure VMod where
  mask : Fin 8
  ty : Option Fmt
  rm : RmSel
  sat : Bool
  gsz : Fin 16
  deriving DecidableEq, Repr

/-- What X = 0 stands for: the modifier value 0x0006_0000 (R173). -/
def VMod.plain : VMod := ⟨0, none, .rmode, false, 0⟩

/-- VCMP predicates (R237). -/
inductive Pred where
  | eq | ne | lt | le | gt | ge | uno | ord
  deriving DecidableEq, Repr

/-- VSHUF patterns, GARG 0 to 3 (R251). -/
inductive ShufPat where
  | zlo | zhi | uev | uod
  deriving DecidableEq, Repr

/-- The modes of LOOP (R210, R211). -/
inductive LoopOp where
  | close (s : Fin 32) (disp : BitVec 12) (slot : Fin 32)
  | set (s : Fin 32)
  | get (d : Fin 32)
  deriving DecidableEq, Repr

/-- The modes of LOOPI (R210, R211). -/
inductive LoopIOp where
  | close (count : BitVec 28) (disp : BitVec 12) (slot : Fin 32)
  | set (v : BitVec 28)
  deriving DecidableEq, Repr

/-- The transposed copy of MDRAIN: its S address register and format (R280). -/
structure DrainT where
  b : Fin 32
  tf : Fmt
  deriving DecidableEq, Repr

/-- SBIND kinds (R296). -/
inductive StreamKind where
  | scalar | row | result | feed
  deriving DecidableEq, Repr

/-- FRED operations (R312). -/
inductive RedOp where
  | add | max | min | absmax
  deriving DecidableEq, Repr

/-- GREP rules (R289). -/
inductive RepRule where
  | first | maxnorm | mean | near
  deriving DecidableEq, Repr

/-- TNEWV target types, TT codes 0 to 2 (R316). -/
inductive TileTgt where
  | hbm | hbmp | commons
  deriving DecidableEq, Repr

/-! What the operations and events carry. -/

/-- A fault processor's answer (R333, R419). -/
inductive FaultAns where
  | retry | refuseAbsent | refusePerm
  deriving DecidableEq, Repr

/-- KIND of a faulting access (R418). -/
inductive AccKind where
  | read | write | readWrite | fetch
  deriving DecidableEq, Repr

/-- STATUS of an access (R391). -/
inductive AccStatus where
  | done | pageAbsent | pagePerm | ecc | straddle | bad
  deriving DecidableEq, Repr

/-- Which part of an MMIO register an access reaches: LD64 and ST64 the whole, LD32 and ST32 a half
(R443). -/
inductive Half where
  | whole | low | high
  deriving DecidableEq, Repr

/-- How a run of a task came about: its first run, a recovery run (R49), or a re-enqueued run (R345). -/
inductive RunKind where
  | first | recovery | requeued
  deriving DecidableEq, Repr

/-- What a published packet runs under: its launch, ASID and generator key (R31, R317), and the LAUNCHID of its launch (R11, R387). -/
structure SpawnInfo where
  launch : W64
  asid : BitVec 16
  key : BitVec 128
  id : W64
  deriving DecidableEq, Repr

/-- A thief of a steal: a core of this device, or another device (R114). -/
inductive Thief where
  | core (n : Nat)
  | dev (d : Fin 1024)
  deriving DecidableEq, Repr

/-- What a task's run has done so far, in order (R345): its allocations, spawns, reservations, signals and seals; with the
device and the number of the packet-pool entry that its first allocation filled (R53, R446). -/
structure Actions where
  allocs : List W64 := []
  spawns : List W64 := []
  ress : List W64 := []
  sigs : List W64 := []
  seals : List W64 := []
  pool : Option (Fin 1024 × Nat) := none
  deriving DecidableEq, Repr

/-- How a task failed, as a completion record reports it (R389). -/
structure FailRec where
  ftask : W64
  cause : BitVec 8
  cause2 : BitVec 8 := 0
  unit : BitVec 16 := 0
  fcode : BitVec 16 := 0
  taddr : W64 := 0
  tile : W64 := 0
  deriving DecidableEq, Repr

/-- A ready task in a deque, pool or queue, with its age (R112 to R115, R41); after a pre-emption, the save slot that
holds its image (R342); and what earlier instances of it did (R345). -/
structure Waiting where
  handle : W64
  packet : List W64
  info : SpawnInfo
  idx : List W64
  kind : RunKind
  since : Nat
  image : Option Nat
  prior : Actions := {}
  deriving DecidableEq, Repr

/-- Where a version's bytes lie (R51 PLACE, REPPLACE), with the die that holds them. -/
structure Place where
  ty : TileTgt
  dev : Fin 1024
  addr : BitVec 44
  die : Fin 4
  deriving DecidableEq, Repr

/-- What a scrub finds in a block (R439, R444). -/
inductive EccKind where
  | corrected | uncorrectable | rebuilt
  deriving DecidableEq, Repr

/-- The atomics that a unit performs on 4 or 8 bytes (R201). -/
inductive AmoOp where
  | add | swp | cas | min | max | minu | maxu | and | or | xor
  deriving DecidableEq, Repr

/-- An access from a peer, by device physical address (R396, R93); a store may leave out bytes of its block (R255); for a
queue the end of its page, for a chase the virtual page as well (R203, R205). A load of a code line is its own kind (R79).
ENC and KEYID travel with each (R412). -/
inductive RemoteOp where
  | load (pa : Nat) (n : Nat) (key : Option (BitVec 10))
  | fetch (pa : Nat) (n : Nat) (key : Option (BitVec 10))
  | store (pa : Nat) (data : List Byte) (key : Option (BitVec 10))
  | storeSome (pa : Nat) (data : List (Option Byte)) (key : Option (BitVec 10))
  | amo (op : AmoOp) (dbl : Bool) (pa : Nat) (c e : W64) (key : Option (BitVec 10))
  | cas2 (pa : Nat) (e c : BitVec 128) (key : Option (BitVec 10))
  | lenq (pa hi : Nat) (c : W64) (key : Option (BitVec 10))
  | ldeq (pa hi : Nat) (key : Option (BitVec 10))
  | chase (pa b lo hi n link : Nat) (key : Option (BitVec 10))
  | opk (pa : Nat) (packet : BitVec 128) (src : List Byte) (key : Option (BitVec 10))
  deriving DecidableEq, Repr

/-- A cast store (R101, R309, R401): group, sender, per-source serial, window offset, bytes. -/
structure CastItem where
  g : Fin 4096
  src : Fin 1024
  serial : BitVec 32
  off : BitVec 32
  data : List Byte
  deriving DecidableEq, Repr

/-- A reduction contribution (R108, R401). -/
structure RedItem where
  g : Fin 4096
  tag : BitVec 16
  src : Fin 1024
  op : RedOp
  int : Bool
  nanskip : Bool
  value : BitVec 32
  deriving DecidableEq, Repr

/-- The outcome of a reduction (R111, R313): status code, OVF, number of contributions, value and
contributor bitmap. -/
structure RedOutcome where
  status : BitVec 3
  ovf : Bool
  ncont : Nat
  value : BitVec 32
  bitmap : BitVec 1024
  deriving DecidableEq, Repr

/-- What a device asks of, or tells, another device's shard (R54, R60, R63 to R66, R320 to R327): a TNEWV, with the packet
where it is the first of a replayable task and the pool entry where another one was (R53); a declaration, with the asking
device's count of references and their highest priority; an input listed for an output; a TREADV; TREPL; TPIN; TSTAT; the
count and priority as they change; a version whose producer failed; storage beside a version's (a shadow buffer or a
replica), and its return; an output made for a pool entry, or gone; a recovery that is needed no longer; what a recovery
run's allocation returns; that the instance which writes a PENDING version runs on the asking device (R345); the end of a recovery run that another device ran (0 exited, 1 diverged, 2 killed). -/
inductive HomeAsk where
  | newv (id : W64) (size : Nat) (tt : TileTgt) (die : Fin 4) (producer : W64) (outix : Nat) (packet : List W64)
      (info : SpawnInfo) (idx : List W64) (pool : Option (Fin 1024 × Nat)) (inputs : List W64)
  | decl (tile : W64) (count prio : Nat)
  | link (tile input : W64)
  | read (tile : W64)
  | repl (tile : W64) (wait : Bool)
  | pin (tile : W64) (rel : Bool)
  | stat (tile : W64)
  | refs (tile : W64) (count prio : Nat)
  | retell (tile : W64) (count prio : Nat)
  | fail (tile : W64)
  | lend (tile : W64) (replica : Bool) (tt : TileTgt) (die : Fin 4) (size : Nat)
  | giveBack (tile : W64)
  | out (pool outix : Nat) (tile : W64) (gone : Bool)
  | outPrio (pool : Nat) (tile : W64) (prio : Nat)
  | unrecover (tile : W64)
  | known (pool outix : Nat)
  | adopt (tile : W64)
  | ranRec (pool kind : Nat) (digests : List (W64 × W64))
  deriving DecidableEq, Repr

/-- What another device's shard answers to a TSK word or to a walk (R54, R64, R320 to R327). -/
inductive ShardAns where
  | newv (tile : W64) (pl : Place) (pool : Option (Fin 1024 × Nat))
  | refused
  | declared (depth : Nat)
  | address (pl : Place) (size : Nat)
  | sealed
  | held
  | stat (v : W64)
  | state (tile : W64) (code : Fin 16)
  | known (tile : W64) (pl : Place) (size : Nat) (rebuilt : Bool)
  deriving DecidableEq, Repr

/-! ## Occurrences of the operations and events -/

/-- A frame that the Ethernet port receives (R381): its bytes, its 802.1Q tags, the EtherType behind them, the IPv6 next header, the UDP
destination port, whether the checksum is right, the host that sent it (an index into the host table, R429), and the UDP payload. -/
structure Frame where
  bytes : Nat
  tags : Nat
  ethertype : BitVec 16
  nextHeader : BitVec 8
  port : Nat
  sumOk : Bool
  host : Nat
  payload : List Byte
  deriving DecidableEq, Repr

/-- One occurrence of an operation or event of the table: the message that arrives, or the moment that comes, with
what it carries. The row of the table is the constructor of `Instr` of the same name (`Event.row`). -/
inductive Event where
  /-- LOAD_RESPONSE (R192). -/
  | loadResponse (core k : Nat)
  /-- ATOMIC_RESPONSE (R95). -/
  | atomicResponse (core k : Nat)
  /-- STREAM_DELIVERY (R23). -/
  | streamDelivery (core : Nat) (q : Fin 8)
  /-- FAULT_ANSWER (R333). -/
  | faultAnswer (uid : Nat) (ans : FaultAns)
  /-- FAULT_SWITCH_BACK_TIMEOUT (R27). -/
  | faultSwitchBackTimeout (core : Nat)
  /-- WAIT_BANK_SWITCH (R315). -/
  | waitBankSwitch (core : Nat)
  /-- CWAIT_STARVED_TIMEOUT (R311). -/
  | cwaitStarvedTimeout (core : Nat)
  /-- BARRIER_COMPLETE (R87). -/
  | barrierComplete (k : Nat)
  /-- BARRIER_TIMEOUT (R11). -/
  | barrierTimeout (k : Nat)
  /-- TRAP_ENTRY (R336). -/
  | trapEntry (core : Nat)
  /-- ASYNC_INTERRUPT (R338). -/
  | asyncInterrupt (core : Nat)
  /-- TIMER_EXPIRY (R331). -/
  | timerExpiry (core : Nat)
  /-- IDLE_WAKE (R361). -/
  | idleWake (core : Nat)
  /-- PRE_EMPTION (R340). -/
  | preEmption (core : Nat)
  /-- CONTEXT_RESTORE (R342). -/
  | contextRestore (core img : Nat) (readable : Bool)
  /-- MACHINE_CHECK (R354). -/
  | machineCheck (unit : BitVec 16) (kind : BitVec 8)
  /-- TASK_SELECTION (R126). -/
  | taskSelection (core : Nat)
  /-- PRELOAD (R26). -/
  | preload (core : Nat)
  /-- DISPATCHER_REPORT (R112). -/
  | dispatcherReport (die : Fin 4)
  /-- AGEING (R41). -/
  | ageing (h : W64)
  /-- PRIORITY_PREEMPTION_REQUEST (R127). -/
  | priorityPreemptionRequest (h : W64)
  /-- LOOP_NEST_WALK (R34). -/
  | loopNestWalk (slot : Nat)
  /-- SIGNAL_ARRIVAL (R118): a signal of another device, to be acknowledged when it is accepted (R319). -/
  | signalArrival (src : Fin 1024) (tag : Nat) (h : W64)
  /-- SIGNAL_ARRIVAL (R114, R329, R332): a task of a slot of this device has ended on another one. -/
  | taskEnd (h : W64) (idx : List W64) (fail : Option FailRec)
  /-- SIGNAL_ARRIVAL (R389): another device's task of a launch of this device has been spawned or has ended. -/
  | launchCount (key : W64) (spawned ended exited : Bool) (fail : Option FailRec) (energy : W64)
  /-- REMOTE_SPAWN (R345): a task of this device that another one has killed comes back to be run again. -/
  | taskBack (w : Waiting) (avoid : List Nat)
  /-- REMOTE_SPAWN (R317). -/
  | remoteSpawn (src : Fin 1024) (tag : Nat) (p : List W64) (job : SpawnInfo)
  /-- SIGNAL_ARRIVAL (R318): a launch of another device has completed. -/
  | launchClosed (key : W64)
  /-- STEAL_REQUEST (R115). -/
  | stealRequest (thief : Thief) (victim : Nat)
  /-- OFFER (R115). -/
  | offer (core : Nat) (from_ : Thief) (sid : Nat) (w : Waiting)
  /-- TAKE (R115), from a thief. -/
  | take (thief : Thief) (sid : Nat)
  /-- ACK (R115), from a victim to a core; or, from a thief of another device, that its dispatcher has accepted ACK. -/
  | ack (core : Nat) (from_ : Thief) (sid : Nat)
  /-- REFUSE (R115), from a victim to a core; or, from a thief of another device, that its dispatcher has refused ACK. -/
  | refuse (core : Nat) (from_ : Thief) (sid : Nat)
  /-- CUSTODY_TIMEOUT (R115). -/
  | custodyTimeout (sid : Nat)
  /-- LEASE_GRANT (R124). -/
  | leaseGrant (quad : Nat)
  /-- LEASE_EXPIRY (R123). -/
  | leaseExpiry (quad : Nat)
  /-- GOVERNOR_INTERVAL (R132). -/
  | governorInterval
  /-- BUDGET_HOLD_TIMEOUT (R129). -/
  | budgetHoldTimeout (die : Fin 4)
  /-- BUDGET_STEP_LOWER (R129). -/
  | budgetStepLower (die : Fin 4)
  /-- THERMAL_SAMPLE (R431). -/
  | thermalSample (die : Fin 4) (t : BitVec 8)
  /-- THERMAL_LOWER (R431). -/
  | thermalLower (die : Fin 4)
  /-- THERMAL_TRIP (R431). -/
  | thermalTrip (die : Fin 4) (t : BitVec 8)
  /-- POOL_WAIT_TIMEOUT (R53). -/
  | poolWaitTimeout (core : Nat)
  /-- RECORD_WAIT_TIMEOUT (R58). -/
  | recordWaitTimeout (core : Nat)
  /-- STORAGE_WAIT_TIMEOUT (R320). -/
  | storageWaitTimeout (core : Nat)
  /-- SLOT_WAIT_TIMEOUT (R318). -/
  | slotWaitTimeout (core : Nat)
  /-- RECOVERY_STORAGE_TIMEOUT (R72). -/
  | recoveryStorageTimeout (tile : W64)
  /-- RETENTION_REPLICATION (R58). -/
  | retentionReplication
  /-- REPLICA_WRITTEN (R44). -/
  | replicaWritten (tile : W64) (at_ : Option Place)
  /-- PRIMARY_REBUILT (R44). -/
  | primaryRebuilt (tile : W64) (data : List Byte)
  /-- RECOVER_REQUEST (R64). -/
  | recoverRequest (src : Fin 1024) (tile : W64) (pool outix size prio : Nat) (place : Place) (inputs : List W64)
  /-- STATE_QUERY (R64). -/
  | stateQuery (src : Fin 1024) (tag : Nat) (tile : W64)
  /-- STATE_QUERY (R54, R63): another device asks something else of this shard. -/
  | homeAsk (src : Fin 1024) (tag : Nat) (q : HomeAsk)
  /-- REMOTE_SEAL (R54). -/
  | remoteSeal (src : Fin 1024) (tag : Nat) (tile : W64) (digest : W64) (replayable compare : Bool) (inputs : List (W64 × Nat))
  /-- MIRROR_CHANGE (R55). -/
  | mirrorChange (src : Fin 1024) (index : Nat) (data : BitVec 512)
  /-- MIRROR_ACK (R55). -/
  | mirrorAck (tile : W64)
  /-- MIRROR_TIMEOUT (R56). -/
  | mirrorTimeout
  /-- BUDDY_COPY_COMPLETE (R56). -/
  | buddyCopyComplete
  /-- SCRUB (R439). -/
  | scrub (stack : Fin 8) (found : List (Nat × EccKind))
  /-- DIE_LOSS (R61). -/
  | dieLoss (die : Fin 4)
  /-- DEVICE_LOSS (R63): a device is lost, with the device named as its buddy. -/
  | deviceLoss (dev : Fin 1024) (buddy : Option (Fin 1024))
  /-- REMOTE_REQUEST (R93). -/
  | remoteRequest (src : Fin 1024) (tag : Nat) (rq : RemoteOp)
  /-- REMOTE_RESPONSE (R90). -/
  | remoteResponse (tag : Nat) (status : AccStatus) (data : List Byte)
  /-- CAST_STAMP (R101). -/
  | castStamp (c : CastItem)
  /-- CAST_STAMP (R100, R307, R308): group control of another device reaches the switch; it joins, with the size of its window and the planes that
  can carry a group there (R397), tells which these are now, or leaves. -/
  | groupControl (src : Fin 1024) (g : Fin 4096) (join : Bool) (size : Nat) (planes : BitVec 24)
  /-- CAST_STAMP and the events of the other kinds (R401): an item arrives as its Caten header and its data. -/
  | catenItem (plane : Fin 24) (w0 w1 : W64) (data : List Byte)
  /-- STAMPED (R102). -/
  | stamped (seq : BitVec 32) (c : CastItem)
  /-- GAPREQ (R104). -/
  | gapreq (src : Fin 1024) (g : Fin 4096) (first : BitVec 32) (count : Nat)
  /-- REPLAY (R104). -/
  | replay (seq : BitVec 32) (c : CastItem)
  /-- GAP_TIMEOUT (R104). -/
  | gapTimeout (g : Fin 4096)
  /-- PLANE_FAILURE (R105). -/
  | planeFailure (plane : Fin 24)
  /-- MEMBER_REMOVAL (R445). -/
  | memberRemoval (dev : Fin 1024)
  /-- RED (R108). -/
  | red (c : RedItem)
  /-- REDUCTION_TIMEOUT (R110). -/
  | reductionTimeout (g : Fin 4096) (tag : BitVec 16)
  /-- REDUCTION_FENCE_EXPIRY (R110). -/
  | reductionFenceExpiry (g : Fin 4096) (tag : BitVec 16)
  /-- REDRES (R313). -/
  | redres (g : Fin 4096) (tag : BitVec 16) (r : RedOutcome)
  /-- REDNACK (R402). -/
  | rednack (g : Fin 4096) (tag : BitVec 16) (status : BitVec 3)
  /-- FRED_RESEND (R108). -/
  | fredResend (g : Fin 4096) (tag : BitVec 16)
  /-- REL (R98). -/
  | rel (plane : Fin 24) (src : Fin 1024) (marker : BitVec 32)
  /-- RELDONE (R98). -/
  | reldone (plane : Fin 24) (marker : BitVec 32)
  /-- PAGE_FAULT_MESSAGE (R418). -/
  | pageFaultMessage (src : Fin 1024) (asid : BitVec 16) (page : BitVec 36) (kind : AccKind) (uid : Nat)
  /-- TLB_SHOOTDOWN (R421). -/
  | tlbShootdown (src : Fin 1024) (asid : BitVec 16) (range : Option (W64 × Nat))
  /-- SHOOTDOWN_ACK (R421). -/
  | shootdownAck (src : Fin 1024) (asid : BitVec 16)
  /-- HOLDERS_OUTSTANDING (R421). -/
  | holdersOutstanding (asid : BitVec 16)
  /-- STATION_RETRAIN (R400). -/
  | stationRetrain (k : Fin 24) (width : Fin 4) (dorvia : Bool)
  /-- TAG_FAILURE (R406): a tag group fails, which skid mode has released before the check, with data of tiles and of the requests of some
  tags, or which has been held. -/
  | tagFailure (k : Fin 24) (skid : Bool) (tiles : List W64) (tags : List Nat)
  /-- TAG_FAILURE (R406): a tag group passes after failures. -/
  | tagPass (k : Fin 24)
  /-- KEY_CHANGEOVER (R404): a group of toggled phase arrives; whether it passes under the next key. -/
  | keyChangeover (k : Fin 24) (passed : Bool)
  /-- KEY_HOLD_TIMEOUT (R404). -/
  | keyHoldTimeout (k : Fin 24)
  /-- KEY_EXHAUSTED (R405). -/
  | keyExhausted (k : Fin 24)
  /-- LAUNCH (R388). -/
  | launch (sess : Fin 65) (psn : BitVec 32) (ws : List W64)
  /-- READ (R392). -/
  | hostRead (sess : Fin 65) (psn : BitVec 32) (addr : W64) (asid : BitVec 16) (len : BitVec 32)
  /-- WRITE (R392). -/
  | hostWrite (sess : Fin 65) (psn : BitVec 32) (addr : W64) (asid : BitVec 16) (len : BitVec 32) (data : List Byte)
  /-- FARPOR_ACK (R384). -/
  | farporAck (sess : Fin 65) (ackpsn : BitVec 32) (credit : BitVec 16) (sack : W64)
  /-- HOST_READ_RESPONSE (R393). -/
  | hostReadResponse (sess : Fin 65) (psn : BitVec 32) (tag : Nat) (status : AccStatus) (data : List Byte)
  /-- HOST_WRITE_RESPONSE (R91). -/
  | hostWriteResponse (sess : Fin 65) (psn : BitVec 32) (tag : Nat) (status : AccStatus)
  /-- OPEN (R383). -/
  | mgmtOpen (host : Nat) (sess : Fin 65) (rxPsn txPsn : BitVec 32)
  /-- CLOSE (R394). -/
  | mgmtClose (sess : Fin 65) (psn : BitVec 32)
  /-- RESERVE (R394). -/
  | mgmtReserve (sess : Fin 65) (psn : BitVec 32) (n : Nat)
  /-- RELEASE (R394). -/
  | mgmtRelease (sess : Fin 65) (psn : BitVec 32) (hs : List W64)
  /-- WINDOW (R393). -/
  | mgmtWindow (sess : Fin 65) (psn : BitVec 32) (w : Fin 64) (onSess : Fin 65) (base : W64)
  /-- RTO (R384). -/
  | mgmtRto (sess : Fin 65) (psn : BitVec 32) (us : Nat)
  /-- RETRANSMISSION_TIMEOUT (R384). -/
  | retransmissionTimeout (sess : Fin 65) (psn : BitVec 32)
  /-- FRAME_DROP (R381). -/
  | frameDrop
  /-- FRAME_DROP (R381) and HEADER_DROP (R382): a frame arrives; where both tables admit it, its packet is taken apart. -/
  | frame (f : Frame)
  /-- HEADER_DROP (R382). -/
  | headerDrop
  /-- MMIO_WRITE (R443). -/
  | mmioWrite (pa : Nat) (half : Half) (v : W64)
  /-- LINCFG_WRITE (R56). -/
  | lincfgWrite (half : Half) (v : W64)
  /-- LINSTAT_READ (R57). -/
  | linstatRead (half : Half)
  /-- PWRCFG_WRITE (R135). -/
  | pwrcfgWrite (half : Half) (v : W64)
  /-- ECWT_WRITE (R129). -/
  | ecwtWrite (half : Half) (v : W64)
  /-- THERMCFG_WRITE (R431). -/
  | thermcfgWrite (half : Half) (v : W64)
  /-- CORE_MAP_WRITE (R122). -/
  | coreMapWrite (n : Fin 384) (half : Half) (v : W64)
  /-- FANS_WRITE (R419). -/
  | fansWrite (half : Half) (v : W64)
  /-- FSTAT_READ (R419). -/
  | fstatRead (half : Half)
  /-- STCFG_WRITE (R407). -/
  | stcfgWrite (k : Fin 24) (half : Half) (v : W64)
  /-- HBMHLTH_READ (R439). -/
  | hbmhlthRead (k : Fin 8) (half : Half)
  /-- RESETCTL (R434). -/
  | resetctl (v : BitVec 32)
  /-- CAPSTEP_WRITE (R433). -/
  | capstepWrite (v : BitVec 32)
  /-- UPDATE_ERASE (R436). -/
  | updateErase
  /-- UPDATE_OPEN (R436). -/
  | updateOpen
  /-- UPDATE_VERIFY (R436). -/
  | updateVerify
  /-- UPDDATA_WRITE (R434). -/
  | upddataWrite (v : BitVec 32)
  /-- I3C_REGISTER_WRITE (R434). -/
  | i3cRegisterWrite (off : BitVec 8) (v : BitVec 32)
  /-- I3C_REGISTER_WRITE (R434): a private write of the offset alone. -/
  | i3cOffset (off : BitVec 8)
  /-- I3C_REGISTER_WRITE (R434): a private read. -/
  | i3cRegisterRead
  /-- SETDASA (R434). -/
  | setdasa (static_ dyn : BitVec 7)
  /-- ENTDAA (R434). -/
  | entdaa (dyn : BitVec 7)
  /-- COLD_RESET (R426). -/
  | coldReset
  /-- WARM_RESET (R426). -/
  | warmReset
  /-- RAIL_FAULT (R423). -/
  | railFault (rail : Fin 6)
  /-- RAIL_ENABLE (R424). -/
  | railEnable (rail : Fin 6)
  /-- PLL_LOCK (R425), or that a PLL does not lock (R428). -/
  | pllLock (ok : Bool)
  /-- CLOCK_LOCK_LOSS (R425). -/
  | clockLockLoss (ser : Bool)
  /-- IMAGE (R427). -/
  | bootImage
  /-- MEMORY (R428), or that the phase fails. -/
  | bootMemory (ok : Bool) (badStacks : List (Fin 8)) (badDies : List (Fin 4))
  /-- CONFIG (R429). -/
  | bootConfig
  /-- PORTS (R428), or that the phase fails. -/
  | bootPorts (ok : Bool) (dorvia : BitVec 24) (widths : List (Fin 4))
  /-- READY (R428). -/
  | bootReady
  /-- POWER_GATING (R117). -/
  | powerGating (core : Nat) (gate : Bool)
  /-- BUDGET_CALCULATION (R128). -/
  | budgetCalculation
  /-- SHARD_ACKNOWLEDGEMENT (R54). -/
  | shardAcknowledgement (uid : Nat) (a : ShardAns)
  /-- LOSS_REPORT (R61). -/
  | lossReport (tile : W64) (primary replica : Bool)
  /-- POWER_LOSS (R436). -/
  | powerLoss
  deriving DecidableEq, Repr

/-- Every row of the opcode table. An operation or event finds what it carries in the state's `now`. -/
inductive Instr where
  /-- NOP (R225). No operation. -/
  | nop
  /-- ADD (R194). Writes a + b modulo 2^64 to D. -/
  | add (d : Fin 32) (a b : Src)
  /-- SUB (R194). Writes a − b modulo 2^64 to D. -/
  | sub (d : Fin 32) (a b : Src)
  /-- AND (R194). Writes the bitwise AND of a and b to D. -/
  | and (d : Fin 32) (a b : Src)
  /-- OR (R194). Writes the bitwise OR of a and b to D. -/
  | or (d : Fin 32) (a b : Src)
  /-- XOR (R194). Writes the bitwise XOR of a and b to D. -/
  | xor (d : Fin 32) (a b : Src)
  /-- SHL (R194). Shifts a left by b[5:0], with zeros in. -/
  | shl (d : Fin 32) (a b : Src)
  /-- SHR (R194). Shifts a right by b[5:0], with zeros in. -/
  | shr (d : Fin 32) (a b : Src)
  /-- SAR (R194). Shifts a right arithmetically by b[5:0]. -/
  | sar (d : Fin 32) (a b : Src)
  /-- MUL (R194). Writes the low 64 bits of a × b. -/
  | mul (d : Fin 32) (a b : Src)
  /-- MULH (R194). Writes the high 64 bits of the signed product. -/
  | mulh (d : Fin 32) (a b : Src)
  /-- MULHU (R194). Writes the high 64 bits of the unsigned product. -/
  | mulhu (d : Fin 32) (a b : Src)
  /-- DIV (R195). Writes the signed quotient, never trapping. -/
  | div (d : Fin 32) (a b : Src)
  /-- DIVU (R195). Writes the unsigned quotient, never trapping. -/
  | divu (d : Fin 32) (a b : Src)
  /-- REM (R195). Writes the signed remainder, never trapping. -/
  | rem (d : Fin 32) (a b : Src)
  /-- REMU (R195). Writes the unsigned remainder, never trapping. -/
  | remu (d : Fin 32) (a b : Src)
  /-- MIN (R194). Writes the signed minimum of a and b. -/
  | min (d : Fin 32) (a b : Src)
  /-- MAX (R194). Writes the signed maximum of a and b. -/
  | max (d : Fin 32) (a b : Src)
  /-- MINU (R194). Writes the unsigned minimum of a and b. -/
  | minu (d : Fin 32) (a b : Src)
  /-- MAXU (R194). Writes the unsigned maximum of a and b. -/
  | maxu (d : Fin 32) (a b : Src)
  /-- SLT (R194). Writes 1 if a < b signed, else 0. -/
  | slt (d : Fin 32) (a b : Src)
  /-- SLTU (R194). Writes 1 if a < b unsigned, else 0. -/
  | sltu (d : Fin 32) (a b : Src)
  /-- SEQ (R194). Writes 1 if a equals b, else 0. -/
  | seq (d : Fin 32) (a b : Src)
  /-- CLZ (R194). Writes the number of leading zero bits of a. -/
  | clz (d : Fin 32) (a : Src)
  /-- POPC (R194). Writes the number of one bits of a. -/
  | popc (d : Fin 32) (a : Src)
  /-- ADDI (R196). Adds a sign-extended 8-bit immediate to a. -/
  | addi (d : Fin 32) (a : Src) (i : BitVec 8)
  /-- ANDI (R196). ANDs a with a sign-extended 8-bit immediate. -/
  | andi (d : Fin 32) (a : Src) (i : BitVec 8)
  /-- ORI (R196). ORs a with a sign-extended 8-bit immediate. -/
  | ori (d : Fin 32) (a : Src) (i : BitVec 8)
  /-- XORI (R196). XORs a with a sign-extended 8-bit immediate. -/
  | xori (d : Fin 32) (a : Src) (i : BitVec 8)
  /-- SHLI (R196). Shifts a left by an immediate amount. -/
  | shli (d : Fin 32) (a : Src) (i : BitVec 6)
  /-- SHRI (R196). Shifts a right logically by an immediate amount. -/
  | shri (d : Fin 32) (a : Src) (i : BitVec 6)
  /-- SARI (R196). Shifts a right arithmetically by an immediate amount. -/
  | sari (d : Fin 32) (a : Src) (i : BitVec 6)
  /-- LI (R197). Writes a sign-extended 15-bit immediate to D. -/
  | li (d : Fin 32) (i : BitVec 15)
  /-- LIX (R197). Writes a sign-extended 32-bit extension word to D. -/
  | lix (d : Fin 32) (x : BitVec 32)
  /-- LIX64 (R197). Writes a 64-bit constant from two extension words to D. -/
  | lix64 (d : Fin 32) (lo hi : BitVec 32)
  /-- LD8 (R198). Loads one byte, zero-extended. -/
  | ld8 (d : Fin 32) (a : Src) (i : BitVec 8)
  /-- LD16 (R198). Loads two bytes, zero-extended. -/
  | ld16 (d : Fin 32) (a : Src) (i : BitVec 8)
  /-- LD32 (R198). Loads four bytes, zero-extended. -/
  | ld32 (d : Fin 32) (a : Src) (i : BitVec 8)
  /-- LD64 (R198). Loads eight bytes. -/
  | ld64 (d : Fin 32) (a : Src) (i : BitVec 8)
  /-- LDS8 (R198). Loads one byte, sign-extended. -/
  | lds8 (d : Fin 32) (a : Src) (i : BitVec 8)
  /-- LDS16 (R198). Loads two bytes, sign-extended. -/
  | lds16 (d : Fin 32) (a : Src) (i : BitVec 8)
  /-- LDS32 (R198). Loads four bytes, sign-extended. -/
  | lds32 (d : Fin 32) (a : Src) (i : BitVec 8)
  /-- ST8 (R198). Stores one byte. -/
  | st8 (d : Src) (a : Src) (i : BitVec 8)
  /-- ST16 (R198). Stores two bytes. -/
  | st16 (d : Src) (a : Src) (i : BitVec 8)
  /-- ST32 (R198). Stores four bytes. -/
  | st32 (d : Src) (a : Src) (i : BitVec 8)
  /-- ST64 (R198). Stores eight bytes. -/
  | st64 (d : Src) (a : Src) (i : BitVec 8)
  /-- AMOADD (R201). Atomically adds at the target and returns the old value. -/
  | amoadd (a b c : Fin 32) (dbl : Bool)
  /-- AMOSWP (R201). Atomically swaps at the target and returns the old value. -/
  | amoswp (a b c : Fin 32) (dbl : Bool)
  /-- AMOCAS (R201). Atomically compares and swaps at the target. -/
  | amocas (a b c : Fin 32) (dbl : Bool)
  /-- AMOMIN (R201). Atomically stores the lesser value and returns the old one. -/
  | amomin (a b c : Fin 32) (dbl u : Bool)
  /-- AMOMAX (R201). Atomically stores the greater value and returns the old one. -/
  | amomax (a b c : Fin 32) (dbl u : Bool)
  /-- AMOAND (R201). Atomically ANDs at the target. -/
  | amoand (a b c : Fin 32) (dbl : Bool)
  /-- AMOOR (R201). Atomically ORs at the target. -/
  | amoor (a b c : Fin 32) (dbl : Bool)
  /-- AMOXOR (R201). Atomically XORs at the target. -/
  | amoxor (a b c : Fin 32) (dbl : Bool)
  /-- AMOCAS2 (R202). Atomic 16-byte compare-and-swap. -/
  | amocas2 (a b c : Fin 32)
  /-- LENQ (R203). Enqueues a word on a memory queue at the target unit. -/
  | lenq (a b c : Fin 32)
  /-- LDEQ (R203). Dequeues a word from a memory queue at the target unit. -/
  | ldeq (a b c : Fin 32)
  /-- PCHASE (R205). Follows a pointer chain in one atomic step at the owning unit. -/
  | pchase (a b c : Fin 32) (f : BitVec 7)
  /-- B (R206). Branches always. -/
  | b (disp : BitVec 17) (slot : Fin 32)
  /-- BZ (R206). Branches if the register is zero. -/
  | bz (s : Fin 32) (disp : BitVec 12) (slot : Fin 32)
  /-- BNZ (R206). Branches if the register is non-zero. -/
  | bnz (s : Fin 32) (disp : BitVec 12) (slot : Fin 32)
  /-- BCQ (R207). Pops CQ and branches if the entry is 1. -/
  | bcq (disp : BitVec 12) (slot : Fin 32)
  /-- BCQN (R207). Pops CQ and branches if the entry is 0. -/
  | bcqn (disp : BitVec 12) (slot : Fin 32)
  /-- CALL (R208). Writes the return address to S31 and branches. -/
  | call (disp : BitVec 17) (slot : Fin 32)
  /-- CALLR (R208). Branches to a register target and writes the return address. -/
  | callr (d : Fin 32) (a : Src)
  /-- JR (R208). Branches to a register target. -/
  | jr (a : Src)
  /-- RET (R208). Returns to the address in a register, S31 by default. -/
  | ret (a : Src)
  /-- LOOP (R211). Closes, sets or gets a hardware loop with a register count. -/
  | loop (op : LoopOp) (k : Fin 4)
  /-- LOOPI (R211). Closes or sets a hardware loop with an immediate count. -/
  | loopi (op : LoopIOp) (k : Fin 4)
  /-- CQPOP (R212). Pops the head of CQ into D. -/
  | cqpop (d : Fin 32)
  /-- XQPOP (R212). Pops the head of XQ into D. -/
  | xqpop (d : Fin 32)
  /-- MOVC (R213). Writes a user control register. -/
  | movc (a : Src) (n : BitVec 8)
  /-- MOVCR (R213). Reads a user control register into D. -/
  | movcr (d : Fin 32) (n : BitVec 8)
  /-- BAR (R214). Barrier at a scope, containing a PHASE. -/
  | bar (sc : Scope)
  /-- FENCE (R216). Holds later CTL words until earlier atomics have been performed. -/
  | fence
  /-- PHASE (R214). Phase boundary at a scope. -/
  | phase (sc : Scope)
  /-- QFENCE (R217). Orders the named engine queues. -/
  | qfence (m : BitVec 7)
  /-- RKEY (R220). Sets the generator key. -/
  | rkey (a b : Src)
  /-- RCTR (R220). Sets the generator counter. -/
  | rctr (a b : Src)
  /-- RSKIP (R220). Advances the generator counter by a 128-bit amount. -/
  | rskip (a b : Src)
  /-- RNEXT (R220). Writes two draws of F(K, C) and advances the counter. -/
  | rnext (d : Fin 32)
  /-- RDEN (R221). Reads ENERGY into D. -/
  | rden (d : Fin 32)
  /-- RDPWR (R221). Reads PWRSTAT into D, clearing RAMPHOLD. -/
  | rdpwr (d : Fin 32)
  /-- RDCYC (R221). Reads the device clock count into D. -/
  | rdcyc (d : Fin 32)
  /-- RDRET (R221). Reads the retired-instruction count into D. -/
  | rdret (d : Fin 32)
  /-- TRAP (R224). Raises cause USER with a 15-bit code. -/
  | trap (code : BitVec 15)
  /-- VADD (R233). Adds lanes. -/
  | vadd (d : Fin 128) (a b : VSrc) (m : VMod)
  /-- VSUB (R233). Subtracts lanes. -/
  | vsub (d : Fin 128) (a b : VSrc) (m : VMod)
  /-- VMUL (R233). Multiplies lanes. -/
  | vmul (d : Fin 128) (a b : VSrc) (m : VMod)
  /-- VFMA (R233). Fused a × b + c per lane. -/
  | vfma (d : Fin 128) (a b : VSrc) (m : VMod)
  /-- VFMS (R233). Fused a × b − c per lane. -/
  | vfms (d : Fin 128) (a b : VSrc) (m : VMod)
  /-- VFNMA (R233). Fused c − a × b per lane. -/
  | vfnma (d : Fin 128) (a b : VSrc) (m : VMod)
  /-- VMIN (R234). Lesser of two lanes. -/
  | vmin (d : Fin 128) (a b : VSrc) (m : VMod)
  /-- VMAX (R234). Greater of two lanes. -/
  | vmax (d : Fin 128) (a b : VSrc) (m : VMod)
  /-- VABS (R234). Absolute value per lane. -/
  | vabs (d : Fin 128) (a : VSrc) (m : VMod)
  /-- VNEG (R234). Negation per lane. -/
  | vneg (d : Fin 128) (a : VSrc) (m : VMod)
  /-- VAND (R235). Bitwise AND of lanes. -/
  | vand (d : Fin 128) (a b : VSrc) (m : VMod)
  /-- VOR (R235). Bitwise OR of lanes. -/
  | vor (d : Fin 128) (a b : VSrc) (m : VMod)
  /-- VXOR (R235). Bitwise XOR of lanes. -/
  | vxor (d : Fin 128) (a b : VSrc) (m : VMod)
  /-- VSHL (R235). Shifts lanes left. -/
  | vshl (d : Fin 128) (a b : VSrc) (m : VMod)
  /-- VSHR (R235). Shifts lanes right logically. -/
  | vshr (d : Fin 128) (a b : VSrc) (m : VMod)
  /-- VSAR (R235). Shifts lanes right arithmetically. -/
  | vsar (d : Fin 128) (a b : VSrc) (m : VMod)
  /-- VMOV (R236). Copies or broadcasts lane bits. -/
  | vmov (d : Fin 128) (a : VSrc) (m : VMod)
  /-- VSEL (R236). Selects a or b per lane by the mask. -/
  | vsel (d : Fin 128) (a b : VSrc) (m : VMod)
  /-- VBCAST (R250). Broadcasts one lane of a across each group. -/
  | vbcast (d : Fin 128) (a b : VSrc) (m : VMod)
  /-- VIOTA (R236). Numbers active lanes from a start value. -/
  | viota (d : Fin 128) (a : VSrc) (m : VMod)
  /-- VCMP (R237). Compares lanes into a mask. -/
  | vcmp (p : Pred) (d : Fin 8) (a b : VSrc) (m : VMod)
  /-- VCLASS (R238). Writes a class code per lane. -/
  | vclass (d : Fin 128) (a : VSrc) (m : VMod)
  /-- VCVT (R239). Converts lanes to another format. -/
  | vcvt (d : Fin 128) (a : VSrc) (df : Fmt) (part : Fin 4) (m : VMod)
  /-- VQUANT (R240). Quantises a row to BS8 or Q4N. -/
  | vquant (d : Fin 128) (a : VSrc) (df : Fmt) (m : VMod)
  /-- VDEQ (R241). Dequantises a BS8 or Q4N row. -/
  | vdeq (d : Fin 128) (a : VSrc) (df : Fmt) (m : VMod)
  /-- VRCP (R242). Faithful reciprocal, rounded toward zero. -/
  | vrcp (d : Fin 128) (a : VSrc) (m : VMod)
  /-- VRSQ (R242). Faithful reciprocal square root. -/
  | vrsq (d : Fin 128) (a : VSrc) (m : VMod)
  /-- VSQRT (R244). Correctly rounded square root. -/
  | vsqrt (d : Fin 128) (a : VSrc) (m : VMod)
  /-- VEXP2F (R243). 2^f for f in [−0.5, 0.5]. -/
  | vexp2f (d : Fin 128) (a : VSrc) (m : VMod)
  /-- VLOG2F (R243). Base-2 logarithm. -/
  | vlog2f (d : Fin 128) (a : VSrc) (m : VMod)
  /-- VRINT (R244). Rounds to an integral value in the same format. -/
  | vrint (d : Fin 128) (a : VSrc) (m : VMod)
  /-- VFINT (R244). Converts floats to signed integers of the same width. -/
  | vfint (d : Fin 128) (a : VSrc) (m : VMod)
  /-- VEXPI (R245). Computes a × 2^e with one rounding. -/
  | vexpi (d : Fin 128) (a b : VSrc) (m : VMod)
  /-- VGETEXP (R245). Writes the exponent of each lane. -/
  | vgetexp (d : Fin 128) (a : VSrc) (m : VMod)
  /-- VGETMANT (R245). Writes the mantissa of each lane. -/
  | vgetmant (d : Fin 128) (a : VSrc) (m : VMod)
  /-- VREDADD (R247). Tree sum of active lanes per group. -/
  | vredadd (d : Fin 128) (a : VSrc) (m : VMod)
  /-- VREDMAX (R247). Maximum of active lanes per group. -/
  | vredmax (d : Fin 128) (a : VSrc) (m : VMod)
  /-- VREDAMAX (R247). Largest-magnitude lane per group. -/
  | vredamax (d : Fin 128) (a : VSrc) (m : VMod)
  /-- VREDMIN (R247). Minimum of active lanes per group. -/
  | vredmin (d : Fin 128) (a : VSrc) (m : VMod)
  /-- VSCAN (R248). Inclusive running sums per group. -/
  | vscan (d : Fin 128) (a : VSrc) (m : VMod)
  /-- VPERM (R250). Permutes lanes by an index row. -/
  | vperm (d : Fin 128) (a b : VSrc) (m : VMod)
  /-- VSHUF (R251). Interleaves or unzips two rows. -/
  | vshuf (d : Fin 128) (a b : VSrc) (pat : ShufPat) (m : VMod)
  /-- VROT (R252). Rotates lanes within groups. -/
  | vrot (d : Fin 128) (a b : VSrc) (m : VMod)
  /-- VSLIDE (R252). Slides lanes within groups, filling with zero. -/
  | vslide (d : Fin 128) (a b : VSrc) (m : VMod)
  /-- VCOMP (R253). Keeps the k largest-magnitude active lanes per group. -/
  | vcomp (d : Fin 128) (a : VSrc) (k : BitVec 8) (m : VMod)
  /-- VRNG (R254). Fills a row with generator draws. -/
  | vrng (d : Fin 128) (m : VMod)
  /-- VLD (R255). Loads a 768-byte row. -/
  | vld (d : Fin 128) (a : Fin 32) (m : VMod)
  /-- VST (R255). Stores the active lanes of a row. -/
  | vst (d : Fin 128) (a : Fin 32) (m : VMod)
  /-- VLDS (R256). Loads a row as 12 strided blocks. -/
  | vlds (d : Fin 128) (a b : Fin 32) (m : VMod)
  /-- VSTS (R256). Stores a row as 12 strided blocks. -/
  | vsts (d : Fin 128) (a b : Fin 32) (m : VMod)
  /-- VGATH (R257). Gathers one element per active lane. -/
  | vgath (d : Fin 128) (a : Fin 32) (b : Fin 128) (m : VMod)
  /-- VSCAT (R257). Scatters one element per active lane. -/
  | vscat (d : Fin 128) (a : Fin 32) (b : Fin 128) (m : VMod)
  /-- MAND (R258). ANDs two masks. -/
  | mand (d a b : Fin 8) (m : VMod)
  /-- MOR (R258). ORs two masks. -/
  | mor (d a b : Fin 8) (m : VMod)
  /-- MXOR (R258). XORs two masks. -/
  | mxor (d a b : Fin 8) (m : VMod)
  /-- MNOT (R258). Inverts a mask. -/
  | mnot (d a : Fin 8) (m : VMod)
  /-- MPOP (R258). Pushes the count of set active mask bits into XQ. -/
  | mpop (a : Fin 8) (m : VMod)
  /-- MFIRST (R258). Keeps only the lowest active set bit. -/
  | mfirst (d a : Fin 8) (m : VMod)
  /-- VANYQ (R259). Pushes 1 into CQ if any active lane's mask bit is set. -/
  | vanyq (a : Fin 8) (m : VMod)
  /-- VALLQ (R259). Pushes 1 into CQ if every active lane's mask bit is set. -/
  | vallq (a : Fin 8) (m : VMod)
  /-- VXQ (R259). Pushes one lane's value into XQ. -/
  | vxq (a b : VSrc) (m : VMod)
  /-- MLEASE (R267). Opens a single or gang lease session and waits for the grant. -/
  | mlease (gang : Bool)
  /-- MREL (R268). Closes the lease session. -/
  | mrel
  /-- MLDT (R276). Loads a tile register from memory. -/
  | mldt (a b c : Fin 32) (t : Fin 8)
  /-- MSTT (R276). Stores a tile register to memory. -/
  | mstt (a b c : Fin 32) (t : Fin 8)
  /-- MCVT (R279). Converts every element of a tile. -/
  | mcvt (d a : Fin 8) (sf df : MFmt) (rm : RmSel) (sat : Bool)
  /-- MTRN (R278). Transposes a tile. -/
  | mtrn (d a : Fin 8)
  /-- MZERO (R278). Clears Z rows. -/
  | mzero (d : Fin 128) (n : Fin 128)
  /-- MZERO_T (R278). Clears a tile register. -/
  | mzeroT (t : Fin 8)
  /-- MMA (R273). Multiplies two tiles into Z under a lease. -/
  | mma (d : Fin 128) (a b : Fin 8) (f : MFmt) (acc : Bool) (zc : BitVec 8)
  /-- MMAG (R274). Gang multiply writing a quadrant to each core. -/
  | mmag (a b : Fin 8) (f : MFmt) (acc : Bool)
  /-- MDRAIN (R280). Drains a Z block to the scratchpad, optionally transposed. -/
  | mdrain (d : Fin 128) (a : Fin 32) (df : Fmt) (tr : Option DrainT) (rm : RmSel) (sat : Bool) (rows : Fin 128) (cols : BitVec 8)
  /-- MFMT (R279). Writes a format-table entry at routing. -/
  | mfmt (n : Fin 16) (code : Fmt)
  /-- MCHKN (R282). Sets the self-check period. -/
  | mchkn (a : Fin 32)
  /-- MKAT (R284). Known-answer digest check of the array. -/
  | mkat (a b : Fin 32) (disp : BitVec 17) (slot : Fin 32)
  /-- MWAIT (R271). Holds the matrix queue for completion or gang end. -/
  | mwait (z gang : Bool)
  /-- COPY (R298). Copies bytes in 64-byte beats. -/
  | copy (a b c : Fin 32)
  /-- COPY2 (R299). Copies strided rows. -/
  | copy2 (a b c : Fin 32) (len : BitVec 18) (rows : BitVec 14)
  /-- GATHER (R300). Gathers elements by an index array, to memory or a feed stream. -/
  | gather (a b c : Fin 32) (q : Option (Fin 8)) (esz : Fin 4) (count : BitVec 24)
  /-- SCATTER (R300). Scatters elements by an index array. -/
  | scatter (a b c : Fin 32) (esz : Fin 4) (count : BitVec 24)
  /-- SBIND (R301). Binds a stream register. -/
  | sbind (a b c : Fin 32) (kind : StreamKind) (q : Fin 8)
  /-- SUNBIND (R302). Unbinds a stream register. -/
  | sunbind (q : Fin 8)
  /-- SOUT (R303). Writes Z rows to memory. -/
  | sout (a b c : Fin 32) (f : Fin 128)
  /-- PREF (R304). Announces a range to the stream TLB and HBM controllers. -/
  | pref (a b : Fin 32)
  /-- OPK (R305). Sends an operation packet to the owning unit. -/
  | opk (a b c : Fin 32) (q : Option (Fin 8))
  /-- CJOIN (R307). Joins a cast group. -/
  | cjoin (a b c : Fin 32) (q : Fin 8)
  /-- CLEAVE (R308). Leaves a cast group. -/
  | cleave (a : Fin 32)
  /-- CSTORE (R309). Sends a cast store. -/
  | cstore (a b c : Fin 32) (q : Option (Fin 8))
  /-- CWAIT (R311). Waits until a cast store number is applied. -/
  | cwait (a b : Fin 32)
  /-- FRED (R312). Contributes a value to an in-switch reduction. -/
  | fred (a b c : Fin 32) (op : RedOp) (int nanskip : Bool)
  /-- FREDW (R313). Delivers a reduction outcome to a stream. -/
  | fredw (a b c : Fin 32) (q : Fin 8)
  /-- FREL (R314). Switch-counted release of remote stores. -/
  | frel
  /-- GCFG (R286). Writes gauge K, BW and format at routing. -/
  | gcfg (k bw : BitVec 7) (f : BitVec 4)
  /-- GPLANE (R287). Fills the plane buffer from the generator. -/
  | gplane (a b : Fin 32)
  /-- GHASH (R288). Hashes tile rows to hyperplane codes. -/
  | ghash (d : Fin 128) (a : Fin 8)
  /-- GREP (R289). Forms buckets and chooses representatives. -/
  | grep (d a : Fin 128) (t : Fin 8) (rule : RepRule)
  /-- GPACK (R291). Packs representatives or means into a tile. -/
  | gpack (d a : Fin 8) (b : Fin 128)
  /-- GSCAT (R292). Copies each bucket's result row to its members. -/
  | gscat (d a b : Fin 128)
  /-- GMAP (R294). Stores the map and bucket table to memory. -/
  | gmap (a : Fin 32) (m : Fin 128)
  /-- GLMAP (R294). Loads the map and bucket table from memory. -/
  | glmap (a : Fin 32) (m : Fin 128)
  /-- GGSUM (R293). Sums member gradient rows per bucket. -/
  | ggsum (d a b : Fin 128)
  /-- TSPAWN (R317). Publishes a task packet, or with RES only reserves a handle. -/
  | tspawn (a b : Fin 32) (res : Bool)
  /-- TSPAWNL (R317). Publishes a loop-nest record, or with RES only reserves a handle. -/
  | tspawnl (a b : Fin 32) (res : Bool)
  /-- TSIG (R319). Signals a task handle as a boundary. -/
  | tsig (a : Fin 32)
  /-- TNEWV (R320). Allocates the next version of a tile. -/
  | tnewv (a b c : Fin 32) (tt : TileTgt) (dsel : Bool) (die : Fin 4)
  /-- TDECL (R321). Declares a version as an input. -/
  | tdecl (a : Fin 32)
  /-- TREADV (R322). Resolves a version to its address, waiting if unavailable. -/
  | treadv (a b : Fin 32)
  /-- TSEAL (R324). Seals a version with its digest and depth. -/
  | tseal (a : Fin 32)
  /-- TREPL (R325). Requests a replica of a version now. -/
  | trepl (a : Fin 32) (wait : Bool)
  /-- TPIN (R326). Raises or lowers a version's hold count. -/
  | tpin (a : Fin 32) (rel : Bool)
  /-- TYIELD (R328). Yields the core to an equal or higher priority ready task. -/
  | tyield
  /-- TEXIT (R329). Ends the task and signals its successors. -/
  | texit
  /-- TSTAT (R327). Reads the status of a version or task handle. -/
  | tstat (a b : Fin 32) (task : Bool)
  /-- SRET (R337). Ends the trap handler with the action in TRET. -/
  | sret
  /-- CTXSAVE (R357). Saves the standby context to an image slot. -/
  | ctxsave (a b : Fin 32)
  /-- CTXLOAD (R357). Loads an image into the empty standby bank. -/
  | ctxload (a b : Fin 32)
  /-- TLBINV (R358). Invalidates translations of an ASID, optionally pod-wide. -/
  | tlbinv (a b c : Fin 32) (all pod : Bool)
  /-- ASIDBIND (R362). Binds an ASID to a descriptor. -/
  | asidbind (a b : Fin 32)
  /-- ASIDRET (R421). Retires an ASID with a pod-wide shootdown. -/
  | asidret (a : Fin 32)
  /-- KEYLD (R363). Installs a memory key and zeroes its source. -/
  | keyld (a b : Fin 32)
  /-- KEYINV (R363). Clears a memory key. -/
  | keyinv (a : Fin 32)
  /-- QUAR (R359). Quarantines or releases a unit. -/
  | quar (a : Fin 32) (rel : Bool)
  /-- PWRCAP (R360). Writes the package cap and external-cap step. -/
  | pwrcap (a b : Fin 32)
  /-- IDLE (R361). Holds the control engine until an interrupt or takeable task. -/
  | idle
  /-- MCACK (R361). Removes the head machine-check record. -/
  | mcack
  /-- SMOVC (R356). Writes any assigned control register. -/
  | smovc (a : Fin 32) (n : BitVec 8)
  /-- SMOVCR (R356). Reads any assigned control register. -/
  | smovcr (d : Fin 32) (n : BitVec 8)
  /-- ARTSET (R417). Writes an ownership table entry. -/
  | artset (a b : Fin 32)
  /-- LINKKEY (R404). Installs the next link key of a station direction. -/
  | linkkey (a b : Fin 32)
  /-- LOAD_RESPONSE (R192). Load data returns, possibly faulting late with ECC. -/
  | loadResponse
  /-- ATOMIC_RESPONSE (R95). An atomic's old value returns to its destination register. -/
  | atomicResponse
  /-- STREAM_DELIVERY (R23). The copy engine delivers an element into a stream buffer. -/
  | streamDelivery
  /-- FAULT_ANSWER (R333). A RETRY or REFUSE answer reaches the faulted context. -/
  | faultAnswer
  /-- FAULT_SWITCH_BACK_TIMEOUT (R27). 10 µs after the answer the core switches back to the faulted
  context. -/
  | faultSwitchBackTimeout
  /-- WAIT_BANK_SWITCH (R315). A TREADV, TREPL.wait or CWAIT waiting 10 µs switches banks. -/
  | waitBankSwitch
  /-- CWAIT_STARVED_TIMEOUT (R311). CWAIT faults with LINK_STARVED 50 µs after an unrecoverable
  freeze. -/
  | cwaitStarvedTimeout
  /-- BARRIER_COMPLETE (R87). Every participant has arrived and published, completing the barrier.
  -/
  | barrierComplete
  /-- BARRIER_TIMEOUT (R11). A .die, .pkg or .pod barrier times out and traps waiters with QUEUE. -/
  | barrierTimeout
  /-- TRAP_ENTRY (R336). After the drain the handler is entered at TVEC. -/
  | trapEntry
  /-- ASYNC_INTERRUPT (R338). A pending enabled interrupt is taken at an instruction boundary. -/
  | asyncInterrupt
  /-- TIMER_EXPIRY (R331). TIMER reaches 0 and sets INTPEND.TIMER. -/
  | timerExpiry
  /-- IDLE_WAKE (R361). IDLE ends on an interrupt, a takeable task or a pre-emption. -/
  | idleWake
  /-- PRE_EMPTION (R340). Halts a context, writes its save image and returns the task to its deque.
  -/
  | preEmption
  /-- CONTEXT_RESTORE (R342). A saved context is reloaded once its stores are acknowledged. -/
  | contextRestore
  /-- MACHINE_CHECK (R354). An uncorrectable error in core state kills contexts and quarantines the
  unit. -/
  | machineCheck
  /-- TASK_SELECTION (R126). A free core chooses a ready task in priority and energy order. -/
  | taskSelection
  /-- PRELOAD (R26). The die dispatcher preloads the standby bank. -/
  | preload
  /-- DISPATCHER_REPORT (R112). Every 100 ns each die dispatcher reports free slots and top
  priority. -/
  | dispatcherReport
  /-- AGEING (R41). A task waiting 100 µs is moved to the die pool as aged. -/
  | ageing
  /-- PRIORITY_PREEMPTION_REQUEST (R127). After 200 ns waiting a ready task causes a pre-emption
  request. -/
  | priorityPreemptionRequest
  /-- LOOP_NEST_WALK (R34). The walker issues the next iteration of a ready record. -/
  | loopNestWalk
  /-- SIGNAL_ARRIVAL (R118). A signal from another device arrives at the owning distributor. -/
  | signalArrival
  /-- REMOTE_SPAWN (R317). A packet spawned for this device arrives at its master distributor. -/
  | remoteSpawn
  /-- STEAL_REQUEST (R115). A victim accepts a steal request and sends OFFER. -/
  | stealRequest
  /-- OFFER (R115). A thief receives a stolen packet and answers TAKE. -/
  | offer
  /-- TAKE (R115). The victim receives TAKE and sends ACK or REFUSE. -/
  | take
  /-- ACK (R115). The thief's dispatcher accepts or refuses the ACK. -/
  | ack
  /-- REFUSE (R115). The thief discards its copy on REFUSE. -/
  | refuse
  /-- CUSTODY_TIMEOUT (R115). The 10 µs offer timer expires and the task is reinstated. -/
  | custodyTimeout
  /-- LEASE_GRANT (R124). The array is granted to the next single or gang request. -/
  | leaseGrant
  /-- LEASE_EXPIRY (R123). A lease's 4,096 clocks run out. -/
  | leaseExpiry
  /-- GOVERNOR_INTERVAL (R132). Each 1 µs the governor grants or removes density increments. -/
  | governorInterval
  /-- BUDGET_HOLD_TIMEOUT (R129). A task held by budget for 20 µs raises the budget step. -/
  | budgetHoldTimeout
  /-- BUDGET_STEP_LOWER (R129). The power controller lowers the budget step at most every 100 µs. -/
  | budgetStepLower
  /-- THERMAL_SAMPLE (R431). Every 100 µs a sample above TLIM raises the thermal request. -/
  | thermalSample
  /-- THERMAL_LOWER (R431). After 1 ms below TLIM − HYST the thermal request drops by one. -/
  | thermalLower
  /-- THERMAL_TRIP (R431). A sensor at 115 °C drops every main rail. -/
  | thermalTrip
  /-- POOL_WAIT_TIMEOUT (R53). A first TNEWV waiting 100 µs for a pool entry faults with SEAL. -/
  | poolWaitTimeout
  /-- RECORD_WAIT_TIMEOUT (R58). TNEWV or TDECL waiting 100 µs for a record faults with SEAL. -/
  | recordWaitTimeout
  /-- STORAGE_WAIT_TIMEOUT (R320). TNEWV waiting 100 µs for storage faults with SEAL. -/
  | storageWaitTimeout
  /-- SLOT_WAIT_TIMEOUT (R318). A reservation waiting 100 µs for a slot faults with QUEUE. -/
  | slotWaitTimeout
  /-- RECOVERY_STORAGE_TIMEOUT (R72). A RECOVERING version without storage for 100 µs becomes
  FAILED. -/
  | recoveryStorageTimeout
  /-- RETENTION_REPLICATION (R58). With records scarce the retention unit replicates SEALED
  versions. -/
  | retentionReplication
  /-- REPLICA_WRITTEN (R44). A replica copy completes and the version becomes REPLICA. -/
  | replicaWritten
  /-- PRIMARY_REBUILT (R44). A copy from the replica replaces lost primary bytes. -/
  | primaryRebuilt
  /-- RECOVER_REQUEST (R64). A shard receives a recover request and walks the producer. -/
  | recoverRequest
  /-- STATE_QUERY (R64). A shard answers a version state query. -/
  | stateQuery
  /-- REMOTE_SEAL (R54). A home shard records a seal sent from another device. -/
  | remoteSeal
  /-- MIRROR_CHANGE (R55). The buddy records a mirrored record change and acknowledges. -/
  | mirrorChange
  /-- MIRROR_ACK (R55). The buddy's acknowledgement lets a record change take effect. -/
  | mirrorAck
  /-- MIRROR_TIMEOUT (R56). No buddy acknowledgement in 50 µs sets UNMIRR. -/
  | mirrorTimeout
  /-- BUDDY_COPY_COMPLETE (R56). The copy to a new buddy completes and UNMIRR clears. -/
  | buddyCopyComplete
  /-- SCRUB (R439). An HBM controller scrubs its stack once per 24 hours. -/
  | scrub
  /-- DIE_LOSS (R61). Loss of a compute die marks its versions and kills its tasks. -/
  | dieLoss
  /-- DEVICE_LOSS (R63). All stations to a peer are down; its buddy acts for its shard. -/
  | deviceLoss
  /-- REMOTE_REQUEST (R93). A load, store or atomic from a peer is performed at this device. -/
  | remoteRequest
  /-- REMOTE_RESPONSE (R90). Read data or an acknowledgement returns from a peer. -/
  | remoteResponse
  /-- CAST_STAMP (R101). The sequencing switch stamps or discards a cast store. -/
  | castStamp
  /-- STAMPED (R102). A member receives a stamped store and applies or records it. -/
  | stamped
  /-- GAPREQ (R104). A member answers a gap request from its replay ring. -/
  | gapreq
  /-- REPLAY (R104). A member receives a replayed store filling a gap. -/
  | replay
  /-- GAP_TIMEOUT (R104). An unfilled gap after 50 µs puts the member in GAP. -/
  | gapTimeout
  /-- PLANE_FAILURE (R105). A group's sequencing plane fails; it freezes and re-forms. -/
  | planeFailure
  /-- MEMBER_REMOVAL (R445). The switch removes a lost or reset member. -/
  | memberRemoval
  /-- RED (R108). The switch receives a contribution and allocates or fills a slot. -/
  | red
  /-- REDUCTION_TIMEOUT (R110). An open slot releases an INCOMPLETE result on timeout. -/
  | reductionTimeout
  /-- REDUCTION_FENCE_EXPIRY (R110). The fence against absent members ends after 16 timeouts. -/
  | reductionFenceExpiry
  /-- REDRES (R313). A reduction result arrives and is kept for FREDW. -/
  | redres
  /-- REDNACK (R402). A reduction NACK arrives with its status. -/
  | rednack
  /-- FRED_RESEND (R108). A NACKed contribution is resent after back-off. -/
  | fredResend
  /-- REL (R98). The switch receives a release marker and counts acknowledgements. -/
  | rel
  /-- RELDONE (R98). Release-done arrives from a plane's switch. -/
  | reldone
  /-- PAGE_FAULT_MESSAGE (R418). The home fault processor opens or joins a waiter list. -/
  | pageFaultMessage
  /-- TLB_SHOOTDOWN (R421). A holder removes an ASID's translations and acknowledges. -/
  | tlbShootdown
  /-- SHOOTDOWN_ACK (R421). A holder's acknowledgement arrives; the ASID becomes FREE when all have.
  -/
  | shootdownAck
  /-- HOLDERS_OUTSTANDING (R421). Every 1 ms an event names holders still outstanding. -/
  | holdersOutstanding
  /-- STATION_RETRAIN (R400). A station retrains to a new width and parks or regains channels. -/
  | stationRetrain
  /-- TAG_FAILURE (R406). A tag group fails its check. -/
  | tagFailure
  /-- KEY_CHANGEOVER (R404). A group of toggled key phase arrives at the receive side. -/
  | keyChangeover
  /-- KEY_HOLD_TIMEOUT (R404). A toggled group held 100 µs without a key retrains the link. -/
  | keyHoldTimeout
  /-- KEY_EXHAUSTED (R405). The send counter reaches its last value and sending stops. -/
  | keyExhausted
  /-- LAUNCH (R388). A Farpor LAUNCH is checked and its packets published. -/
  | launch
  /-- READ (R392). A host READ of device memory is served. -/
  | hostRead
  /-- WRITE (R392). A host WRITE to device memory is performed and answered. -/
  | hostWrite
  /-- FARPOR_ACK (R384). An acknowledgement updates the sender's retained packets. -/
  | farporAck
  /-- HOST_READ_RESPONSE (R393). A host answers a device READ of a HOST page. -/
  | hostReadResponse
  /-- HOST_WRITE_RESPONSE (R91). A host acknowledges a device WRITE. -/
  | hostWriteResponse
  /-- OPEN (R383). MGMT OPEN opens a session. -/
  | mgmtOpen
  /-- CLOSE (R394). MGMT CLOSE ends a session. -/
  | mgmtClose
  /-- RESERVE (R394). MGMT RESERVE returns reserved task handles. -/
  | mgmtReserve
  /-- RELEASE (R394). MGMT RELEASE frees reserved unpublished handles. -/
  | mgmtRelease
  /-- WINDOW (R393). MGMT WINDOW sets a host window. -/
  | mgmtWindow
  /-- RTO (R384). MGMT RTO sets a session's retransmission timeout. -/
  | mgmtRto
  /-- RETRANSMISSION_TIMEOUT (R384). An unacknowledged packet is resent after the timeout. -/
  | retransmissionTimeout
  /-- FRAME_DROP (R381). A received frame the port does not admit is dropped and counted. -/
  | frameDrop
  /-- HEADER_DROP (R382). A Farpor packet with a bad header is dropped and counted. -/
  | headerDrop
  /-- MMIO_WRITE (R443). A write to an MMIO register without behaviour of its own. -/
  | mmioWrite
  /-- LINCFG_WRITE (R56). A LINCFG write may start copying to a new buddy. -/
  | lincfgWrite
  /-- LINSTAT_READ (R57). Reading LINSTAT clears FAILEDN. -/
  | linstatRead
  /-- PWRCFG_WRITE (R135). Writes the cap and ramp limit with clamping. -/
  | pwrcfgWrite
  /-- ECWT_WRITE (R129). Energy weights take effect at the next selection. -/
  | ecwtWrite
  /-- THERMCFG_WRITE (R431). Writes the thermal limit and hysteresis within range. -/
  | thermcfgWrite
  /-- CORE_MAP_WRITE (R122). A core map entry write, ignored if it would duplicate a physical core.
  -/
  | coreMapWrite
  /-- FANS_WRITE (R419). A fault answer for a page goes to every waiter. -/
  | fansWrite
  /-- FSTAT_READ (R419). Reading FSTAT clears ORPHAN. -/
  | fstatRead
  /-- STCFG_WRITE (R407). Sets a station's containment or skid mode. -/
  | stcfgWrite
  /-- HBMHLTH_READ (R439). Reading a stack health register clears its counts. -/
  | hbmhlthRead
  /-- RESETCTL (R434). Writing 0x5A orders a warm reset. -/
  | resetctl
  /-- CAPSTEP_WRITE (R433). Sets Bobbin's out-of-band step request. -/
  | capstepWrite
  /-- UPDATE_ERASE (R436). UPDCTL erases the inactive slot. -/
  | updateErase
  /-- UPDATE_OPEN (R436). UPDCTL opens the inactive slot for writes. -/
  | updateOpen
  /-- UPDATE_VERIFY (R436). UPDCTL verifies the inactive slot's images. -/
  | updateVerify
  /-- UPDDATA_WRITE (R434). Stores 4 bytes at UPDADDR and advances it. -/
  | upddataWrite
  /-- I3C_REGISTER_WRITE (R434). A private write to a Bobbin register without behaviour of its own.
  -/
  | i3cRegisterWrite
  /-- SETDASA (R434). Assigns Bobbin's dynamic address from its static address. -/
  | setdasa
  /-- ENTDAA (R434). Dynamic address assignment of Bobbin. -/
  | entdaa
  /-- COLD_RESET (R426). VDD_AUX rise or PORST_N resets Bobbin and the device. -/
  | coldReset
  /-- WARM_RESET (R426). Bobbin resets the device, keeping its log and CAPSTEP. -/
  | warmReset
  /-- RAIL_FAULT (R423). A rail out of range past its fault time holds the device in reset. -/
  | railFault
  /-- RAIL_ENABLE (R424). After 1 ms in range the next rail is enabled. -/
  | railEnable
  /-- PLL_LOCK (R425). Both PLLs report lock and reset may be released. -/
  | pllLock
  /-- CLOCK_LOCK_LOSS (R425). Loss of PLL lock records an event and warm-resets. -/
  | clockLockLoss
  /-- IMAGE (R427). The device image is chosen, verified and loaded. -/
  | bootImage
  /-- MEMORY (R428). HBM is trained and scrubbed and listed units quarantined. -/
  | bootMemory
  /-- CONFIG (R429). The configuration block is applied and pools placed. -/
  | bootConfig
  /-- PORTS (R428). The Ethernet port and stations come up. -/
  | bootPorts
  /-- READY (R428). Farpor accepts OPEN, and fuses are raised to the image SVN. -/
  | bootReady
  /-- POWER_GATING (R117). A core is power-gated: its deque, shadow entries included, moves to the
  die pool and it stops being eligible. -/
  | powerGating
  /-- BUDGET_CALCULATION (R128). The power controller recomputes each die's allocation DBUD from the
  package cap less measured base-die, HBM and SerDes power. -/
  | budgetCalculation
  /-- SHARD_ACKNOWLEDGEMENT (R54). A home shard's acknowledgement of a remote seal or allocation, or
  its answer to a state query, reaches the requesting core or walking shard. -/
  | shardAcknowledgement
  /-- LOSS_REPORT (R61). A shard receives a report that bytes or a replica of a version it homes
  were lost on another die or device, and marks the version under R44. -/
  | lossReport
  /-- POWER_LOSS (R436). VDD_AUX or the main rails fall, the last rail being VDD_AUX, and the device
  stops, leaving the active flash slot unchanged. -/
  | powerLoss
  deriving DecidableEq, Repr

/-- The row of the table that an occurrence is one of. -/
def Event.row : Event → Instr
  | .loadResponse _ _ => .loadResponse
  | .atomicResponse _ _ => .atomicResponse
  | .streamDelivery _ _ => .streamDelivery
  | .faultAnswer _ _ => .faultAnswer
  | .faultSwitchBackTimeout _ => .faultSwitchBackTimeout
  | .waitBankSwitch _ => .waitBankSwitch
  | .cwaitStarvedTimeout _ => .cwaitStarvedTimeout
  | .barrierComplete _ => .barrierComplete
  | .barrierTimeout _ => .barrierTimeout
  | .trapEntry _ => .trapEntry
  | .asyncInterrupt _ => .asyncInterrupt
  | .timerExpiry _ => .timerExpiry
  | .idleWake _ => .idleWake
  | .preEmption _ => .preEmption
  | .contextRestore _ _ _ => .contextRestore
  | .machineCheck _ _ => .machineCheck
  | .taskSelection _ => .taskSelection
  | .preload _ => .preload
  | .dispatcherReport _ => .dispatcherReport
  | .ageing _ => .ageing
  | .priorityPreemptionRequest _ => .priorityPreemptionRequest
  | .loopNestWalk _ => .loopNestWalk
  | .signalArrival _ _ _ => .signalArrival
  | .taskEnd _ _ _ => .signalArrival
  | .launchCount _ _ _ _ _ _ => .signalArrival
  | .launchClosed _ => .signalArrival
  | .taskBack _ _ => .remoteSpawn
  | .remoteSpawn _ _ _ _ => .remoteSpawn
  | .stealRequest _ _ => .stealRequest
  | .offer _ _ _ _ => .offer
  | .take _ _ => .take
  | .ack _ _ _ => .ack
  | .refuse _ _ _ => .refuse
  | .custodyTimeout _ => .custodyTimeout
  | .leaseGrant _ => .leaseGrant
  | .leaseExpiry _ => .leaseExpiry
  | .governorInterval => .governorInterval
  | .budgetHoldTimeout _ => .budgetHoldTimeout
  | .budgetStepLower _ => .budgetStepLower
  | .thermalSample _ _ => .thermalSample
  | .thermalLower _ => .thermalLower
  | .thermalTrip _ _ => .thermalTrip
  | .poolWaitTimeout _ => .poolWaitTimeout
  | .recordWaitTimeout _ => .recordWaitTimeout
  | .storageWaitTimeout _ => .storageWaitTimeout
  | .slotWaitTimeout _ => .slotWaitTimeout
  | .recoveryStorageTimeout _ => .recoveryStorageTimeout
  | .retentionReplication => .retentionReplication
  | .replicaWritten _ _ => .replicaWritten
  | .primaryRebuilt _ _ => .primaryRebuilt
  | .recoverRequest _ _ _ _ _ _ _ _ => .recoverRequest
  | .stateQuery _ _ _ => .stateQuery
  | .homeAsk _ _ _ => .stateQuery
  | .remoteSeal _ _ _ _ _ _ _ => .remoteSeal
  | .mirrorChange _ _ _ => .mirrorChange
  | .mirrorAck _ => .mirrorAck
  | .mirrorTimeout => .mirrorTimeout
  | .buddyCopyComplete => .buddyCopyComplete
  | .scrub _ _ => .scrub
  | .dieLoss _ => .dieLoss
  | .deviceLoss _ _ => .deviceLoss
  | .remoteRequest _ _ _ => .remoteRequest
  | .remoteResponse _ _ _ => .remoteResponse
  | .castStamp _ => .castStamp
  | .groupControl _ _ _ _ _ => .castStamp
  | .catenItem _ _ _ _ => .castStamp
  | .stamped _ _ => .stamped
  | .gapreq _ _ _ _ => .gapreq
  | .replay _ _ => .replay
  | .gapTimeout _ => .gapTimeout
  | .planeFailure _ => .planeFailure
  | .memberRemoval _ => .memberRemoval
  | .red _ => .red
  | .reductionTimeout _ _ => .reductionTimeout
  | .reductionFenceExpiry _ _ => .reductionFenceExpiry
  | .redres _ _ _ => .redres
  | .rednack _ _ _ => .rednack
  | .fredResend _ _ => .fredResend
  | .rel _ _ _ => .rel
  | .reldone _ _ => .reldone
  | .pageFaultMessage _ _ _ _ _ => .pageFaultMessage
  | .tlbShootdown _ _ _ => .tlbShootdown
  | .shootdownAck _ _ => .shootdownAck
  | .holdersOutstanding _ => .holdersOutstanding
  | .stationRetrain _ _ _ => .stationRetrain
  | .tagFailure _ _ _ _ => .tagFailure
  | .tagPass _ => .tagFailure
  | .keyChangeover _ _ => .keyChangeover
  | .keyHoldTimeout _ => .keyHoldTimeout
  | .keyExhausted _ => .keyExhausted
  | .launch _ _ _ => .launch
  | .hostRead _ _ _ _ _ => .hostRead
  | .hostWrite _ _ _ _ _ _ => .hostWrite
  | .farporAck _ _ _ _ => .farporAck
  | .hostReadResponse _ _ _ _ _ => .hostReadResponse
  | .hostWriteResponse _ _ _ _ => .hostWriteResponse
  | .mgmtOpen _ _ _ _ => .mgmtOpen
  | .mgmtClose _ _ => .mgmtClose
  | .mgmtReserve _ _ _ => .mgmtReserve
  | .mgmtRelease _ _ _ => .mgmtRelease
  | .mgmtWindow _ _ _ _ _ => .mgmtWindow
  | .mgmtRto _ _ _ => .mgmtRto
  | .retransmissionTimeout _ _ => .retransmissionTimeout
  | .frameDrop => .frameDrop
  | .frame _ => .frameDrop
  | .headerDrop => .headerDrop
  | .mmioWrite _ _ _ => .mmioWrite
  | .lincfgWrite _ _ => .lincfgWrite
  | .linstatRead _ => .linstatRead
  | .pwrcfgWrite _ _ => .pwrcfgWrite
  | .ecwtWrite _ _ => .ecwtWrite
  | .thermcfgWrite _ _ => .thermcfgWrite
  | .coreMapWrite _ _ _ => .coreMapWrite
  | .fansWrite _ _ => .fansWrite
  | .fstatRead _ => .fstatRead
  | .stcfgWrite _ _ _ => .stcfgWrite
  | .hbmhlthRead _ _ => .hbmhlthRead
  | .resetctl _ => .resetctl
  | .capstepWrite _ => .capstepWrite
  | .updateErase => .updateErase
  | .updateOpen => .updateOpen
  | .updateVerify => .updateVerify
  | .upddataWrite _ => .upddataWrite
  | .i3cRegisterWrite _ _ => .i3cRegisterWrite
  | .i3cOffset _ => .i3cRegisterWrite
  | .i3cRegisterRead => .i3cRegisterWrite
  | .setdasa _ _ => .setdasa
  | .entdaa _ => .entdaa
  | .coldReset => .coldReset
  | .warmReset => .warmReset
  | .railFault _ => .railFault
  | .railEnable _ => .railEnable
  | .pllLock _ => .pllLock
  | .clockLockLoss _ => .clockLockLoss
  | .bootImage => .bootImage
  | .bootMemory _ _ _ => .bootMemory
  | .bootConfig => .bootConfig
  | .bootPorts _ _ _ => .bootPorts
  | .bootReady => .bootReady
  | .powerGating _ _ => .powerGating
  | .budgetCalculation => .budgetCalculation
  | .shardAcknowledgement _ _ => .shardAcknowledgement
  | .lossReport _ _ _ => .lossReport
  | .powerLoss => .powerLoss

end Sys2Proof
end

