-- ==== Sys2Proof/Machine/Forms.lean ====
section
/-! DEFINITION. Formats and their codes, and what each encoded form admits: the checks of R169 step 5
that do not follow from the shape of a constructor (R174, R179, R182, R200 to R203, R210, R214, R217,
R231, R264, R297, R316, R355). -/

namespace Sys2Proof

/-! ## Codes of R139, R151, R182, R237 and the field values of the forms -/

/-- Format code (R139). -/
def Fmt.code : Fmt → Nat
  | .fp32 => 0 | .bf16 => 1 | .fp16 => 2 | .e4m3 => 3 | .e5m2 => 4 | .int8 => 5 | .ui8 => 6
  | .int16 => 7 | .ui16 => 8 | .int32 => 9 | .ui32 => 10 | .bs8 => 11 | .q4n => 12 | .sc20 => 13

/-- The formats in code order (R139). -/
def fmtList : List Fmt :=
  [.fp32, .bf16, .fp16, .e4m3, .e5m2, .int8, .ui8, .int16, .ui16, .int32, .ui32, .bs8, .q4n, .sc20]

/-- The format of a code; 0xE and 0xF have none (R139). -/
def fmtOf? (n : Nat) : Option Fmt := fmtList[n]?

/-- The format of a code, FP32 where there is none: the callers compare the code again. -/
def fmtOf (n : Nat) : Fmt := (fmtOf? n).getD .fp32

/-- Matrix format field: 0xF is the format table (R262). -/
def MFmt.code : MFmt → Nat
  | .fmt f => f.code
  | .tab => 15

/-- The matrix format of a field. -/
def mfmtOf (n : Nat) : MFmt := if n = 15 then .tab else .fmt (fmtOf n)

/-- Rounding mode code (R151). -/
def Rm.code : Rm → Nat
  | .rne => 0 | .rtz => 1 | .rdn => 2 | .rup => 3 | .rna => 4 | .sr => 5

/-- The rounding mode of a code (R151); codes 6 and 7 are refused by the callers. -/
def rmOf (n : Nat) : Rm :=
  match n with | 0 => .rne | 1 => .rtz | 2 => .rdn | 3 => .rup | 4 => .rna | _ => .sr

/-- RM field (R173). -/
def RmSel.code : RmSel → Nat
  | .mode m => m.code
  | .rmode => 6

/-- The RM field's value. -/
def rmSelOf (n : Nat) : RmSel := if n = 6 then .rmode else .mode (rmOf n)

/-- Scope code (R182). -/
def Scope.code : Scope → Nat
  | .lane => 0 | .core => 1 | .quad => 2 | .die => 3 | .pkg => 4 | .pod => 5

/-- The scope of a code. -/
def scopeOf (n : Nat) : Scope :=
  match n with | 0 => .lane | 1 => .core | 2 => .quad | 3 => .die | 4 => .pkg | _ => .pod

/-- Predicate code (R237). -/
def Pred.code : Pred → Nat
  | .eq => 0 | .ne => 1 | .lt => 2 | .le => 3 | .gt => 4 | .ge => 5 | .uno => 6 | .ord => 7

/-- The predicate of a code. -/
def predOf (n : Nat) : Pred :=
  match n with
  | 0 => .eq | 1 => .ne | 2 => .lt | 3 => .le | 4 => .gt | 5 => .ge | 6 => .uno | _ => .ord

/-- GARG of VSHUF (R251). -/
def ShufPat.code : ShufPat → Nat
  | .zlo => 0 | .zhi => 1 | .uev => 2 | .uod => 3

/-- The pattern of a GARG. -/
def shufOf (n : Nat) : ShufPat := match n with | 0 => .zlo | 1 => .zhi | 2 => .uev | _ => .uod

/-- KIND of SBIND (R297, R301). -/
def StreamKind.code : StreamKind → Nat
  | .scalar => 0 | .row => 1 | .result => 2 | .feed => 3

/-- The kind of a code. -/
def streamKindOf (n : Nat) : StreamKind :=
  match n with | 0 => .scalar | 1 => .row | 2 => .result | _ => .feed

/-- OP of FRED (R312). -/
def RedOp.code : RedOp → Nat
  | .add => 0 | .max => 1 | .min => 2 | .absmax => 3

/-- The operation of a code. -/
def redOpOf (n : Nat) : RedOp := match n with | 0 => .add | 1 => .max | 2 => .min | _ => .absmax

/-- Rule code of GREP (R289). -/
def RepRule.code : RepRule → Nat
  | .first => 0 | .maxnorm => 1 | .mean => 2 | .near => 3

/-- The rule of a code. -/
def repRuleOf (n : Nat) : RepRule :=
  match n with | 0 => .first | 1 => .maxnorm | 2 => .mean | _ => .near

/-- TT of TNEWV (R316). -/
def TileTgt.code : TileTgt → Nat
  | .hbm => 0 | .hbmp => 1 | .commons => 2

/-- The target of a TT code. -/
def tileTgtOf (n : Nat) : TileTgt := match n with | 0 => .hbm | 1 => .hbmp | _ => .commons

/-- A scalar source field: 0x00 to 0x1F S0 to S31, 0x20 to 0x27 Q0 to Q7 (R181). -/
def Src.code : Src → Nat
  | .s r => r.val
  | .q r => 32 + r.val

/-- The source of a field. -/
def srcOf (n : Nat) : Src := if n < 32 then .s (Fin.ofNat 32 n) else .q (Fin.ofNat 8 n)

/-- CLA or CLB (R173). -/
def VSrc.cls : VSrc → Nat
  | .v _ => 0 | .q _ => 1 | .s _ => 2 | .imm _ => 3

/-- The 7-bit field of a vector source (R175). -/
def VSrc.field : VSrc → Nat
  | .v r => r.val | .q r => r.val | .s r => r.val | .imm _ => 0

/-- The vector source of a class, a field and an immediate word (R175). -/
def vsrcOf (cls fld imm : Nat) : VSrc :=
  match cls with
  | 0 => .v (Fin.ofNat 128 fld)
  | 1 => .q (Fin.ofNat 8 fld)
  | 2 => .s (Fin.ofNat 32 fld)
  | _ => .imm (BitVec.ofNat 32 imm)

/-! ## Format classes (R139, R227, R231) -/

/-- Element width of a format in bytes, in the vector view (R227: 1 for a block-scaled format). -/
def Fmt.width : Fmt → Nat
  | .fp32 | .int32 | .ui32 | .sc20 => 4
  | .bf16 | .fp16 | .int16 | .ui16 => 2
  | _ => 1

/-- The class F of R231. -/
def Fmt.isF : Fmt → Bool
  | .fp32 | .bf16 | .fp16 => true
  | _ => false

/-- The class I of R231. -/
def Fmt.isI : Fmt → Bool
  | .int8 | .ui8 | .int16 | .ui16 | .int32 | .ui32 => true
  | _ => false

/-- Whether a format is a signed integer format. -/
def Fmt.signed : Fmt → Bool
  | .int8 | .int16 | .int32 => true
  | _ => false

/-- The class "All" of R231: codes 0x0 to 0xA. -/
def Fmt.isAll (f : Fmt) : Bool := f.code ≤ 10

/-- F or I. -/
def Fmt.isFI (f : Fmt) : Bool := f.isF || f.isI

/-- Lanes of the view of a format (R227). -/
def Fmt.lanes (f : Fmt) : Nat := 768 / f.width

/-! ## What a vector form admits (R231) -/

/-- The RM column of R231. -/
inductive RmRule where
  | six
  | f
  | any
  deriving DecidableEq, Repr

/-- The SAT column of R231. -/
inductive SatRule where
  | no
  | i
  | yes
  deriving DecidableEq, Repr

/-- The GSZ column of R231: none, 0 to 9, or 1 to 8 (VCOMP). -/
inductive GszRule where
  | none
  | groups
  | comp
  deriving DecidableEq, Repr

/-- One row of R231's table, less the registers, which the constructor holds. -/
structure VecForm where
  fmts : Fmt → Bool
  rm : RmRule := .six
  sat : SatRule := .no
  gsz : GszRule := .none
  m0 : Bool := false

/-- Whether a modifier is admitted by a form in a format (R174, R231). -/
def modOk (v : VecForm) (f : Fmt) (m : VMod) : Bool :=
  v.fmts f
  && (match v.rm with | .six => m.rm == .rmode | .f => f.isF || m.rm == .rmode | .any => true)
  && (match v.sat with | .no => !m.sat | .i => f.isI || !m.sat | .yes => true)
  && (match v.gsz with
      | .none => m.gsz == 0
      | .groups => m.gsz.val ≤ 9 && f.lanes % 2 ^ m.gsz.val == 0
      | .comp => 1 ≤ m.gsz.val && m.gsz.val ≤ 8 && f.lanes % 2 ^ m.gsz.val == 0)
  && (!v.m0 || m.mask == 0)

/-- R175: the bits of an immediate above the element width are zero. -/
def immOk (f : Fmt) : VSrc → Bool
  | .imm x => x.toNat < 2 ^ (8 * f.width)
  | _ => true

/-- R174: not both classes are 3. -/
def notBothImm (a b : VSrc) : Bool := !(a.cls == 3 && b.cls == 3)

/-- The row of a VEC instruction in R231's table, its modifier and its vector sources. -/
def vecInfo : Instr → Option (VecForm × VMod × List VSrc)
  | .vadd _ a b m | .vsub _ a b m | .vmul _ a b m | .vfma _ a b m | .vfms _ a b m | .vfnma _ a b m =>
    some ({ fmts := Fmt.isFI, rm := .f, sat := .i }, m, [a, b])
  | .vmin _ a b m | .vmax _ a b m | .vcmp _ _ a b m => some ({ fmts := Fmt.isFI }, m, [a, b])
  | .vabs _ a m | .vneg _ a m => some ({ fmts := Fmt.isFI, sat := .i }, m, [a])
  | .vand _ a b m | .vor _ a b m | .vxor _ a b m | .vsel _ a b m =>
    some ({ fmts := Fmt.isAll }, m, [a, b])
  | .vshl _ a b m => some ({ fmts := Fmt.isI, sat := .i }, m, [a, b])
  | .vshr _ a b m | .vsar _ a b m => some ({ fmts := Fmt.isI }, m, [a, b])
  | .vmov _ a m => some ({ fmts := Fmt.isAll }, m, [a])
  | .viota _ a m => some ({ fmts := Fmt.isI }, m, [a])
  | .vbcast _ a b m | .vperm _ a b m | .vshuf _ a b _ m | .vrot _ a b m | .vslide _ a b m =>
    some ({ fmts := Fmt.isAll, gsz := .groups }, m, [a, b])
  | .vclass _ a m => some ({ fmts := fun f => f.isF || f == .e4m3 || f == .e5m2 }, m, [a])
  | .vcvt _ a _ _ m =>
    some ({ fmts := fun f => f.isAll || f == .sc20, rm := .any, sat := .yes }, m, [a])
  | .vquant _ a _ m => some ({ fmts := Fmt.isF, rm := .any, m0 := true }, m, [a])
  | .vdeq _ a _ m => some ({ fmts := fun f => f == .bs8 || f == .q4n, rm := .any, m0 := true }, m, [a])
  | .vrcp _ a m | .vrsq _ a m | .vexp2f _ a m | .vlog2f _ a m =>
    some ({ fmts := fun f => f == .fp32 }, m, [a])
  | .vsqrt _ a m | .vrint _ a m | .vfint _ a m => some ({ fmts := Fmt.isF, rm := .any }, m, [a])
  | .vexpi _ a b m => some ({ fmts := Fmt.isF, rm := .any }, m, [a, b])
  | .vgetexp _ a m | .vgetmant _ a m => some ({ fmts := Fmt.isF }, m, [a])
  | .vredadd _ a m | .vscan _ a m =>
    some ({ fmts := Fmt.isFI, rm := .f, sat := .i, gsz := .groups }, m, [a])
  | .vredmax _ a m | .vredamax _ a m | .vredmin _ a m =>
    some ({ fmts := Fmt.isFI, gsz := .groups }, m, [a])
  | .vcomp _ a _ m => some ({ fmts := Fmt.isFI, gsz := .comp }, m, [a])
  | .vrng _ m => some ({ fmts := Fmt.isAll }, m, [])
  | .vld _ _ m | .vst _ _ m | .vlds _ _ _ m | .vsts _ _ _ m | .vgath _ _ _ m | .vscat _ _ _ m =>
    some ({ fmts := Fmt.isAll }, m, [])
  | .mand _ _ _ m | .mor _ _ _ m | .mxor _ _ _ m | .mnot _ _ m =>
    some ({ fmts := Fmt.isAll, m0 := true }, m, [])
  | .mfirst _ _ m | .mpop _ m | .vanyq _ m | .vallq _ m => some ({ fmts := Fmt.isAll }, m, [])
  | .vxq a b m => some ({ fmts := Fmt.isAll }, m, [a, b])
  | _ => none

/-- The limits a VEC form has of its own in a format (R239 to R241, R253, R257). -/
def vecExtra (f : Fmt) : Instr → Bool
  | .vcvt _ _ df part _ =>
    (df.isAll || df == .sc20) &&
    (if df.width == f.width then part == 0
     else part.val < Nat.max df.width f.width / Nat.min df.width f.width)
  | .vquant _ _ df _ => df == .bs8 || (df == .q4n && f != .fp32)
  | .vdeq _ _ df _ => df.isF && (f == .bs8 || df != .fp32)
  | .vcomp _ _ k m => 1 ≤ k.toNat && k.toNat < 2 ^ m.gsz.val
  | .vgath _ _ b _ | .vscat _ _ b _ => b.val + f.lanes / 192 - 1 ≤ 127
  | _ => true

/-- Whether a VEC word is admitted in format `f`: R174, R175, R227, R231 and the form's own limits. -/
def vecOk (f : Fmt) (i : Instr) : Bool :=
  match vecInfo i with
  | none => true
  | some (v, m, srcs) => modOk v f m && srcs.all (immOk f) && vecExtra f i

/-- The static part of R174: with TOV = 1 the format is the word's; with TOV = 0 the word is refused
only if no format that VTYPE can hold (R226) admits it. -/
def vecStatic (i : Instr) : Bool :=
  match vecInfo i with
  | none => true
  | some (_, m, srcs) =>
    (match m.ty with
     | some f => vecOk f i
     | none => (fmtList.take 11).any (vecOk · i))
    && (match srcs with | [a, b] => notBothImm a b | _ => true)

/-! ## Well-formed instructions -/

/-- R179: SLOT values 0 and 1 are ILLEGAL. -/
def slotOk (s : Fin 32) : Bool := 2 ≤ s.val

/-- The checks of R169 step 5 on an instruction whose fields have been read. -/
def instrWf : Instr → Bool
  | .amocas2 a _ c => a.val % 2 == 0 && c.val % 2 == 0
  | .ldeq a _ c => a != c || a == 0
  | .b _ s | .call _ s | .bcq _ s | .bcqn _ s => slotOk s
  | .bz _ _ s | .bnz _ _ s => slotOk s
  | .loop (.close _ _ s) _ => slotOk s
  | .loopi (.close n _ s) _ => slotOk s && n != 0
  | .bar sc | .phase sc => sc != .lane
  | .qfence m => m != 0
  | .vcmp p d a b m => d != 0 && vecStatic (.vcmp p d a b m)
  | .mand d a b m => d != 0 && vecStatic (.mand d a b m)
  | .mor d a b m => d != 0 && vecStatic (.mor d a b m)
  | .mxor d a b m => d != 0 && vecStatic (.mxor d a b m)
  | .mnot d a m => d != 0 && vecStatic (.mnot d a m)
  | .mfirst d a m => d != 0 && vecStatic (.mfirst d a m)
  | .mzero d n => d.val + n.val ≤ 127
  | .mkat _ _ _ s => 2 ≤ s.val && s.val ≤ 30
  | .mwait z g => z || g
  | .grep d _ _ _ => d.val ≤ 126
  | .gpack _ _ b => 1 ≤ b.val
  | .gmap _ m | .glmap _ m => m.val ≤ 126
  | .gather a _ _ q esz n => n != 0 && (match q with | none => true | some _ => a == 0 && esz.val ≤ 2)
  | .scatter _ _ _ _ n => n != 0
  | .sbind a b c k _ =>
    (match k with | .scalar | .row => true | .result | .feed => a == 0 && b == 0 && c == 0)
  | .copy2 _ _ _ len _ => len != 0
  | .fred _ _ _ _ int nan => !(int && nan)
  | .tspawn _ b res | .tspawnl _ b res => !res || b == 0
  | .tlbinv _ b c all _ => !all || (b == 0 && c == 0)
  | i => vecStatic i

end Sys2Proof
end

