-- ==== Sys2Proof/WellFormed.lean ====
section
/-! DEFINITION. Well-formed instructions: the checks of R169 step 5, which Machine/Forms.lean computes. -/

namespace Sys2Proof

/-- An instruction that passes every check of R169 step 5 on its fields. The 133 operations and events
carry no encoding and are always well formed. -/
abbrev Instr.WellFormed (i : Instr) : Prop := instrWf i = true

end Sys2Proof
end

