-- ==== Sys2Proof/Decode.lean ====
section
/-! DEFINITION. The encoder and the decoder of instruction words, from R168 to R175, R180, R181, R193, R210,
R231, R239, R264, R297, R316 and R355. The encoder stands first because the decoder uses it: a word
is accepted only if the instruction that its fields name encodes back to exactly that word, which is how
every reserved bit and every unused field is held to zero (R169 step 5, R171). -/

namespace Sys2Proof

/-- `len` bits of `w` from bit `lo` up. -/
def fld (w lo len : Nat) : Nat := w / 2 ^ lo % 2 ^ len

/-- A field value at bit `lo`. -/
def sh (v lo : Nat) : Nat := v * 2 ^ lo

/-- Field D of F3, FI and FL (R171). -/
def fD (w : Nat) : Nat := fld w 15 7
/-- Field A of F3 and FI (R171). -/
def fA (w : Nat) : Nat := fld w 8 7
/-- Field B of F3 (R171). -/
def fB (w : Nat) : Nat := fld w 1 7

/-- F of OPK, CSTORE and GATHER: bit 6 and the stream register (R297). -/
def optQ : Option (Fin 8) → Nat
  | none => 0
  | some q => 64 + q.val

/-- The stream register of such an F field. -/
def qOf (f : Nat) : Option (Fin 8) := if f = 0 then none else some (Fin.ofNat 8 f)

/-- The vector modifier word (R173). -/
def vExt (m : VMod) (cla clb garg : Nat) : Nat :=
  m.mask.val * 2 ^ 29 + (match m.ty with | none => 0 | some f => 2 ^ 27 + f.code * 2 ^ 23)
  + cla * 2 ^ 21 + clb * 2 ^ 19 + m.rm.code * 2 ^ 16 + m.sat.toNat * 2 ^ 15 + m.gsz.val * 2 ^ 11 + garg * 2 ^ 3

/-- The modifier that such a word holds. -/
def vMod (x : Nat) : VMod :=
  { mask := Fin.ofNat 8 (fld x 29 3), ty := if fld x 27 1 = 1 then some (fmtOf (fld x 23 4)) else none,
    rm := rmSelOf (fld x 16 3), sat := fld x 15 1 == 1, gsz := Fin.ofNat 16 (fld x 11 4) }

/-- The immediate word of a class-3 source (R175). -/
def vImm : VSrc → List Nat
  | .imm v => [v.toNat]
  | _ => []

/-- The words of a VEC form with X = 1. -/
def vWords (base d a b ext : Nat) (imm : List Nat) : List Nat :=
  (base + d * 2 ^ 15 + a * 2 ^ 8 + b * 2 + 1) :: ext :: imm

/-- The modifier that X = 0 stands for (R173). -/
def plainExt : Nat := 0x00060000


/-- The words of a CTL form (R180); none for any other instruction. -/
def wordsCtl : Instr → List Nat
  | .nop => [0x00000000]
  | .add d a b => [0x00400000 + sh d.val 15 + sh a.code 8 + sh b.code 1]
  | .sub d a b => [0x00800000 + sh d.val 15 + sh a.code 8 + sh b.code 1]
  | .and d a b => [0x00C00000 + sh d.val 15 + sh a.code 8 + sh b.code 1]
  | .or d a b => [0x01000000 + sh d.val 15 + sh a.code 8 + sh b.code 1]
  | .xor d a b => [0x01400000 + sh d.val 15 + sh a.code 8 + sh b.code 1]
  | .shl d a b => [0x01800000 + sh d.val 15 + sh a.code 8 + sh b.code 1]
  | .shr d a b => [0x01C00000 + sh d.val 15 + sh a.code 8 + sh b.code 1]
  | .sar d a b => [0x02000000 + sh d.val 15 + sh a.code 8 + sh b.code 1]
  | .mul d a b => [0x02400000 + sh d.val 15 + sh a.code 8 + sh b.code 1]
  | .mulh d a b => [0x02800000 + sh d.val 15 + sh a.code 8 + sh b.code 1]
  | .mulhu d a b => [0x02C00000 + sh d.val 15 + sh a.code 8 + sh b.code 1]
  | .div d a b => [0x03000000 + sh d.val 15 + sh a.code 8 + sh b.code 1]
  | .divu d a b => [0x03400000 + sh d.val 15 + sh a.code 8 + sh b.code 1]
  | .rem d a b => [0x03800000 + sh d.val 15 + sh a.code 8 + sh b.code 1]
  | .remu d a b => [0x03C00000 + sh d.val 15 + sh a.code 8 + sh b.code 1]
  | .min d a b => [0x04000000 + sh d.val 15 + sh a.code 8 + sh b.code 1]
  | .max d a b => [0x04400000 + sh d.val 15 + sh a.code 8 + sh b.code 1]
  | .minu d a b => [0x04800000 + sh d.val 15 + sh a.code 8 + sh b.code 1]
  | .maxu d a b => [0x04C00000 + sh d.val 15 + sh a.code 8 + sh b.code 1]
  | .slt d a b => [0x05000000 + sh d.val 15 + sh a.code 8 + sh b.code 1]
  | .sltu d a b => [0x05400000 + sh d.val 15 + sh a.code 8 + sh b.code 1]
  | .seq d a b => [0x05800000 + sh d.val 15 + sh a.code 8 + sh b.code 1]
  | .clz d a => [0x05C00000 + sh d.val 15 + sh a.code 8]
  | .popc d a => [0x06000000 + sh d.val 15 + sh a.code 8]
  | .addi d a i => [0x06400000 + sh d.val 15 + sh a.code 8 + i.toNat]
  | .andi d a i => [0x06800000 + sh d.val 15 + sh a.code 8 + i.toNat]
  | .ori d a i => [0x06C00000 + sh d.val 15 + sh a.code 8 + i.toNat]
  | .xori d a i => [0x07000000 + sh d.val 15 + sh a.code 8 + i.toNat]
  | .shli d a i => [0x07400000 + sh d.val 15 + sh a.code 8 + i.toNat]
  | .shri d a i => [0x07800000 + sh d.val 15 + sh a.code 8 + i.toNat]
  | .sari d a i => [0x07C00000 + sh d.val 15 + sh a.code 8 + i.toNat]
  | .li d i => [0x08000000 + sh d.val 15 + i.toNat]
  | .lix d x => [0x08400000 + sh d.val 15, x.toNat]
  | .lix64 d lo hi => [0x08800000 + sh d.val 15, lo.toNat, hi.toNat]
  | .ld8 d a i => [0x08C00000 + sh d.val 15 + sh a.code 8 + i.toNat]
  | .ld16 d a i => [0x09000000 + sh d.val 15 + sh a.code 8 + i.toNat]
  | .ld32 d a i => [0x09400000 + sh d.val 15 + sh a.code 8 + i.toNat]
  | .ld64 d a i => [0x09800000 + sh d.val 15 + sh a.code 8 + i.toNat]
  | .lds8 d a i => [0x09C00000 + sh d.val 15 + sh a.code 8 + i.toNat]
  | .lds16 d a i => [0x0A000000 + sh d.val 15 + sh a.code 8 + i.toNat]
  | .lds32 d a i => [0x0A400000 + sh d.val 15 + sh a.code 8 + i.toNat]
  | .st8 d a i => [0x0A800000 + sh d.code 15 + sh a.code 8 + i.toNat]
  | .st16 d a i => [0x0AC00000 + sh d.code 15 + sh a.code 8 + i.toNat]
  | .st32 d a i => [0x0B000000 + sh d.code 15 + sh a.code 8 + i.toNat]
  | .st64 d a i => [0x0B400000 + sh d.code 15 + sh a.code 8 + i.toNat]
  | .amoadd a b c dbl => [0x0B800002 + sh a.val 17 + sh b.val 12 + sh c.val 7 + dbl.toNat]
  | .amoswp a b c dbl => [0x0BC00002 + sh a.val 17 + sh b.val 12 + sh c.val 7 + dbl.toNat]
  | .amocas a b c dbl => [0x0C000002 + sh a.val 17 + sh b.val 12 + sh c.val 7 + dbl.toNat]
  | .amomin a b c dbl u => [0x0C400002 + sh a.val 17 + sh b.val 12 + sh c.val 7 + dbl.toNat + sh u.toNat 2]
  | .amomax a b c dbl u => [0x0C800002 + sh a.val 17 + sh b.val 12 + sh c.val 7 + dbl.toNat + sh u.toNat 2]
  | .amoand a b c dbl => [0x0CC00002 + sh a.val 17 + sh b.val 12 + sh c.val 7 + dbl.toNat]
  | .amoor a b c dbl => [0x0D000002 + sh a.val 17 + sh b.val 12 + sh c.val 7 + dbl.toNat]
  | .amoxor a b c dbl => [0x0D400002 + sh a.val 17 + sh b.val 12 + sh c.val 7 + dbl.toNat]
  | .amocas2 a b c => [0x0D800000 + sh a.val 17 + sh b.val 12 + sh c.val 7]
  | .lenq a b c => [0x0DC00000 + sh a.val 17 + sh b.val 12 + sh c.val 7]
  | .ldeq a b c => [0x0E000000 + sh a.val 17 + sh b.val 12 + sh c.val 7]
  | .pchase a b c f => [0x0E400000 + sh a.val 17 + sh b.val 12 + sh c.val 7 + f.toNat]
  | .b disp slot => [0x0E800000 + sh disp.toNat 5 + slot.val]
  | .bz s disp slot => [0x0EC00000 + sh s.val 17 + sh disp.toNat 5 + slot.val]
  | .bnz s disp slot => [0x0F000000 + sh s.val 17 + sh disp.toNat 5 + slot.val]
  | .bcq disp slot => [0x0F400000 + sh disp.toNat 5 + slot.val]
  | .bcqn disp slot => [0x0F800000 + sh disp.toNat 5 + slot.val]
  | .call disp slot => [0x0FC00000 + sh disp.toNat 5 + slot.val]
  | .callr d a => [0x10000000 + sh d.val 15 + sh a.code 8]
  | .jr a => [0x10400000 + sh a.code 8]
  | .ret a => [0x10800000 + sh a.code 8]
  | .loop (.close s disp slot) k => [0x10C00000 + sh s.val 17 + sh disp.toNat 5 + slot.val, k.val]
  | .loop (.set s) k => [0x10C00000 + sh s.val 17, sh 1 2 + k.val]
  | .loop (.get d) k => [0x10C00000 + sh d.val 17, sh 2 2 + k.val]
  | .loopi (.close n disp slot) k => [0x11000000 + sh disp.toNat 5 + slot.val, sh n.toNat 4 + k.val]
  | .loopi (.set v) k => [0x11000000, sh v.toNat 4 + sh 1 2 + k.val]
  | .cqpop d => [0x11400000 + sh d.val 15]
  | .xqpop d => [0x11800000 + sh d.val 15]
  | .movc a n => [0x11C00000 + sh a.code 8 + n.toNat]
  | .movcr d n => [0x12000000 + sh d.val 15 + n.toNat]
  | .bar sc => [0x12400000 + sc.code]
  | .fence => [0x12800000]
  | .phase sc => [0x12C00000 + sc.code]
  | .qfence m => [0x13000000 + m.toNat]
  | .rkey a b => [0x13400000 + sh a.code 8 + sh b.code 1]
  | .rctr a b => [0x13800000 + sh a.code 8 + sh b.code 1]
  | .rskip a b => [0x13C00000 + sh a.code 8 + sh b.code 1]
  | .rnext d => [0x14000000 + sh d.val 15]
  | .rden d => [0x14400000 + sh d.val 15]
  | .rdpwr d => [0x14800000 + sh d.val 15]
  | .rdcyc d => [0x14C00000 + sh d.val 15]
  | .rdret d => [0x15000000 + sh d.val 15]
  | .trap code => [0x15400000 + code.toNat]
  | _ => []

/-- The words of a VEC form (R180); none for any other instruction. -/
def wordsVec : Instr → List Nat
  | .vadd d a b m => vWords 0x20000000 d.val a.field b.field (vExt m a.cls b.cls 0) (vImm a ++ vImm b)
  | .vsub d a b m => vWords 0x20400000 d.val a.field b.field (vExt m a.cls b.cls 0) (vImm a ++ vImm b)
  | .vmul d a b m => vWords 0x20800000 d.val a.field b.field (vExt m a.cls b.cls 0) (vImm a ++ vImm b)
  | .vfma d a b m => vWords 0x20C00000 d.val a.field b.field (vExt m a.cls b.cls 0) (vImm a ++ vImm b)
  | .vfms d a b m => vWords 0x21000000 d.val a.field b.field (vExt m a.cls b.cls 0) (vImm a ++ vImm b)
  | .vfnma d a b m => vWords 0x21400000 d.val a.field b.field (vExt m a.cls b.cls 0) (vImm a ++ vImm b)
  | .vmin d a b m => vWords 0x21800000 d.val a.field b.field (vExt m a.cls b.cls 0) (vImm a ++ vImm b)
  | .vmax d a b m => vWords 0x21C00000 d.val a.field b.field (vExt m a.cls b.cls 0) (vImm a ++ vImm b)
  | .vabs d a m => vWords 0x22000000 d.val a.field 0 (vExt m a.cls 0 0) (vImm a)
  | .vneg d a m => vWords 0x22400000 d.val a.field 0 (vExt m a.cls 0 0) (vImm a)
  | .vand d a b m => vWords 0x22800000 d.val a.field b.field (vExt m a.cls b.cls 0) (vImm a ++ vImm b)
  | .vor d a b m => vWords 0x22C00000 d.val a.field b.field (vExt m a.cls b.cls 0) (vImm a ++ vImm b)
  | .vxor d a b m => vWords 0x23000000 d.val a.field b.field (vExt m a.cls b.cls 0) (vImm a ++ vImm b)
  | .vshl d a b m => vWords 0x23400000 d.val a.field b.field (vExt m a.cls b.cls 0) (vImm a ++ vImm b)
  | .vshr d a b m => vWords 0x23800000 d.val a.field b.field (vExt m a.cls b.cls 0) (vImm a ++ vImm b)
  | .vsar d a b m => vWords 0x23C00000 d.val a.field b.field (vExt m a.cls b.cls 0) (vImm a ++ vImm b)
  | .vmov d a m => vWords 0x24000000 d.val a.field 0 (vExt m a.cls 0 0) (vImm a)
  | .vsel d a b m => vWords 0x24400000 d.val a.field b.field (vExt m a.cls b.cls 0) (vImm a ++ vImm b)
  | .vbcast d a b m => vWords 0x24800000 d.val a.field b.field (vExt m a.cls b.cls 0) (vImm a ++ vImm b)
  | .viota d a m => vWords 0x24C00000 d.val a.field 0 (vExt m a.cls 0 0) (vImm a)
  | .vcmp p d a b m => vWords 0x25000000 (p.code * 8 + d.val) a.field b.field (vExt m a.cls b.cls 0) (vImm a ++ vImm b)
  | .vclass d a m => vWords 0x25400000 d.val a.field 0 (vExt m a.cls 0 0) (vImm a)
  | .vcvt d a df part m => vWords 0x25800000 d.val a.field (part.val * 16 + df.code) (vExt m a.cls 0 0) (vImm a)
  | .vquant d a df m => vWords 0x25C00000 d.val a.field df.code (vExt m a.cls 0 0) (vImm a)
  | .vdeq d a df m => vWords 0x26000000 d.val a.field df.code (vExt m a.cls 0 0) (vImm a)
  | .vrcp d a m => vWords 0x26400000 d.val a.field 0 (vExt m a.cls 0 0) (vImm a)
  | .vrsq d a m => vWords 0x26800000 d.val a.field 0 (vExt m a.cls 0 0) (vImm a)
  | .vsqrt d a m => vWords 0x26C00000 d.val a.field 0 (vExt m a.cls 0 0) (vImm a)
  | .vexp2f d a m => vWords 0x27000000 d.val a.field 0 (vExt m a.cls 0 0) (vImm a)
  | .vlog2f d a m => vWords 0x27400000 d.val a.field 0 (vExt m a.cls 0 0) (vImm a)
  | .vrint d a m => vWords 0x27800000 d.val a.field 0 (vExt m a.cls 0 0) (vImm a)
  | .vfint d a m => vWords 0x27C00000 d.val a.field 0 (vExt m a.cls 0 0) (vImm a)
  | .vexpi d a b m => vWords 0x28000000 d.val a.field b.field (vExt m a.cls b.cls 0) (vImm a ++ vImm b)
  | .vgetexp d a m => vWords 0x28400000 d.val a.field 0 (vExt m a.cls 0 0) (vImm a)
  | .vgetmant d a m => vWords 0x28800000 d.val a.field 0 (vExt m a.cls 0 0) (vImm a)
  | .vredadd d a m => vWords 0x28C00000 d.val a.field 0 (vExt m a.cls 0 0) (vImm a)
  | .vredmax d a m => vWords 0x29000000 d.val a.field 0 (vExt m a.cls 0 0) (vImm a)
  | .vredamax d a m => vWords 0x29400000 d.val a.field 0 (vExt m a.cls 0 0) (vImm a)
  | .vredmin d a m => vWords 0x29800000 d.val a.field 0 (vExt m a.cls 0 0) (vImm a)
  | .vscan d a m => vWords 0x29C00000 d.val a.field 0 (vExt m a.cls 0 0) (vImm a)
  | .vperm d a b m => vWords 0x2A000000 d.val a.field b.field (vExt m a.cls b.cls 0) (vImm a ++ vImm b)
  | .vshuf d a b pat m => vWords 0x2A400000 d.val a.field b.field (vExt m a.cls b.cls pat.code) (vImm a ++ vImm b)
  | .vrot d a b m => vWords 0x2A800000 d.val a.field b.field (vExt m a.cls b.cls 0) (vImm a ++ vImm b)
  | .vslide d a b m => vWords 0x2AC00000 d.val a.field b.field (vExt m a.cls b.cls 0) (vImm a ++ vImm b)
  | .vcomp d a k m => vWords 0x2B000000 d.val a.field 0 (vExt m a.cls 0 k.toNat) (vImm a)
  | .vrng d m => vWords 0x2B400000 d.val 0 0 (vExt m 0 0 0) []
  | .vld d a m => vWords 0x2B800000 d.val a.val 0 (vExt m 0 0 0) []
  | .vst d a m => vWords 0x2BC00000 d.val a.val 0 (vExt m 0 0 0) []
  | .vlds d a b m => vWords 0x2C000000 d.val a.val b.val (vExt m 0 0 0) []
  | .vsts d a b m => vWords 0x2C400000 d.val a.val b.val (vExt m 0 0 0) []
  | .vgath d a b m => vWords 0x2C800000 d.val a.val b.val (vExt m 0 0 0) []
  | .vscat d a b m => vWords 0x2CC00000 d.val a.val b.val (vExt m 0 0 0) []
  | .mand d a b m => vWords 0x2D000000 d.val a.val b.val (vExt m 0 0 0) []
  | .mor d a b m => vWords 0x2D400000 d.val a.val b.val (vExt m 0 0 0) []
  | .mxor d a b m => vWords 0x2D800000 d.val a.val b.val (vExt m 0 0 0) []
  | .mnot d a m => vWords 0x2DC00000 d.val a.val 0 (vExt m 0 0 0) []
  | .mpop a m => vWords 0x2E000000 0 a.val 0 (vExt m 0 0 0) []
  | .mfirst d a m => vWords 0x2E400000 d.val a.val 0 (vExt m 0 0 0) []
  | .vanyq a m => vWords 0x2E800000 0 a.val 0 (vExt m 0 0 0) []
  | .vallq a m => vWords 0x2EC00000 0 a.val 0 (vExt m 0 0 0) []
  | .vxq a b m => vWords 0x2F000000 0 a.field b.field (vExt m a.cls b.cls 0) (vImm a ++ vImm b)
  | _ => []

/-- The words of a MTX form (R180); none for any other instruction. -/
def wordsMtx : Instr → List Nat
  | .mlease gang => [0x40000000 + gang.toNat]
  | .mrel => [0x40400000]
  | .mldt a b c t => [0x40800000 + sh a.val 17 + sh b.val 12 + sh c.val 7 + t.val]
  | .mstt a b c t => [0x40C00000 + sh a.val 17 + sh b.val 12 + sh c.val 7 + t.val]
  | .mcvt d a sf df rm sat => [0x41000001 + sh d.val 15 + sh a.val 8, sh sf.code 28 + sh df.code 24 + sh rm.code 21 + sh sat.toNat 20]
  | .mtrn d a => [0x41400000 + sh d.val 15 + sh a.val 8]
  | .mzero d n => [0x41800000 + sh d.val 15 + sh n.val 8]
  | .mzeroT t => [0x41800000 + sh t.val 15 + 1]
  | .mma d a b f acc zc => [0x41C00001 + sh d.val 15 + sh a.val 8 + sh b.val 1, sh f.code 28 + sh acc.toNat 27 + sh zc.toNat 19]
  | .mmag a b f acc => [0x42000001 + sh a.val 8 + sh b.val 1, sh f.code 28 + sh acc.toNat 27]
  | .mdrain d a df tr rm sat rows cols =>
    [0x42400001 + sh d.val 15 + sh a.val 8 + (match tr with | none => 0 | some t => t.b.val * 2),
     sh df.code 28 + (match tr with | none => 0 | some t => sh t.tf.code 24 + 2 ^ 23)
     + sh rm.code 19 + sh sat.toNat 18 + sh rows.val 11 + sh cols.toNat 3]
  | .mfmt n code => [0x42800000 + sh n.val 15 + code.code]
  | .mchkn a => [0x42C00000 + sh a.val 8]
  | .mkat a b disp slot => [0x43000001 + sh a.val 8 + sh b.val 1, sh disp.toNat 15 + sh slot.val 10]
  | .mwait z gang => [0x43400000 + sh z.toNat 8 + sh gang.toNat 9]
  | _ => []

/-- The words of a CPY form (R180); none for any other instruction. -/
def wordsCpy : Instr → List Nat
  | .copy a b c => [0x60000000 + sh a.val 17 + sh b.val 12 + sh c.val 7]
  | .copy2 a b c len rows => [0x60400000 + sh a.val 17 + sh b.val 12 + sh c.val 7, sh len.toNat 14 + rows.toNat]
  | .gather a b c q esz count =>
    [0x60800000 + sh a.val 17 + sh b.val 12 + sh c.val 7 + optQ q, sh esz.val 30 + count.toNat]
  | .scatter a b c esz count => [0x60C00000 + sh a.val 17 + sh b.val 12 + sh c.val 7, sh esz.val 30 + count.toNat]
  | .sbind a b c kind q => [0x61000000 + sh a.val 17 + sh b.val 12 + sh c.val 7 + sh kind.code 5 + q.val]
  | .sunbind q => [0x61400000 + q.val]
  | .sout a b c f => [0x61800000 + sh a.val 17 + sh b.val 12 + sh c.val 7 + f.val]
  | .pref a b => [0x61C00000 + sh a.val 17 + sh b.val 12]
  | .opk a b c q => [0x62000000 + sh a.val 17 + sh b.val 12 + sh c.val 7 + optQ q]
  | .cjoin a b c q => [0x62400000 + sh a.val 17 + sh b.val 12 + sh c.val 7 + q.val]
  | .cleave a => [0x62800000 + sh a.val 17]
  | .cstore a b c q => [0x62C00000 + sh a.val 17 + sh b.val 12 + sh c.val 7 + optQ q]
  | .cwait a b => [0x63000000 + sh a.val 17 + sh b.val 12]
  | .fred a b c op int nanskip => [0x63400000 + sh a.val 17 + sh b.val 12 + sh c.val 7 + sh op.code 2 + sh int.toNat 5 + sh nanskip.toNat 6]
  | .fredw a b c q => [0x63800000 + sh a.val 17 + sh b.val 12 + sh c.val 7 + q.val]
  | .frel => [0x63C00000]
  | _ => []

/-- The words of a GAU form (R180); none for any other instruction. -/
def wordsGau : Instr → List Nat
  | .gcfg k bw f => [0x80000000 + sh k.toNat 15 + sh bw.toNat 8 + f.toNat]
  | .gplane a b => [0x80400000 + sh a.val 8 + sh b.val 1]
  | .ghash d a => [0x80800000 + sh d.val 15 + sh a.val 8]
  | .grep d a t rule => [0x80C00000 + sh d.val 15 + sh a.val 8 + t.val + sh rule.code 3]
  | .gpack d a b => [0x81000000 + sh d.val 15 + sh a.val 8 + sh b.val 1]
  | .gscat d a b => [0x81400000 + sh d.val 15 + sh a.val 8 + sh b.val 1]
  | .gmap a m => [0x81800000 + sh a.val 17 + m.val]
  | .glmap a m => [0x81C00000 + sh a.val 17 + m.val]
  | .ggsum d a b => [0x82000000 + sh d.val 15 + sh a.val 8 + sh b.val 1]
  | _ => []

/-- The words of a TSK form (R180); none for any other instruction. -/
def wordsTsk : Instr → List Nat
  | .tspawn a b res => [0xA0000000 + sh a.val 17 + sh b.val 12 + res.toNat]
  | .tspawnl a b res => [0xA0400000 + sh a.val 17 + sh b.val 12 + res.toNat]
  | .tsig a => [0xA0800000 + sh a.val 17]
  | .tnewv a b c tt dsel die => [0xA0C00000 + sh a.val 17 + sh b.val 12 + sh c.val 7 + tt.code + sh dsel.toNat 2 + sh die.val 3]
  | .tdecl a => [0xA1000000 + sh a.val 17]
  | .treadv a b => [0xA1400000 + sh a.val 17 + sh b.val 12]
  | .tseal a => [0xA1800000 + sh a.val 17]
  | .trepl a wait => [0xA1C00000 + sh a.val 17 + wait.toNat]
  | .tpin a rel => [0xA2000000 + sh a.val 17 + rel.toNat]
  | .tyield => [0xA2400000]
  | .texit => [0xA2800000]
  | .tstat a b task => [0xA2C00000 + sh a.val 17 + sh b.val 12 + task.toNat]
  | _ => []

/-- The words of a SYS form (R180); none for any other instruction. -/
def wordsSys : Instr → List Nat
  | .sret => [0xC0000000]
  | .ctxsave a b => [0xC0400000 + sh a.val 17 + sh b.val 12]
  | .ctxload a b => [0xC0800000 + sh a.val 17 + sh b.val 12]
  | .tlbinv a b c all pod => [0xC0C00000 + sh a.val 17 + sh b.val 12 + sh c.val 7 + all.toNat + sh pod.toNat 1]
  | .asidbind a b => [0xC1000000 + sh a.val 17 + sh b.val 12]
  | .asidret a => [0xC1400000 + sh a.val 17]
  | .keyld a b => [0xC1800000 + sh a.val 17 + sh b.val 12]
  | .keyinv a => [0xC1C00000 + sh a.val 17]
  | .quar a rel => [0xC2000000 + sh a.val 17 + rel.toNat]
  | .pwrcap a b => [0xC2400000 + sh a.val 17 + sh b.val 12]
  | .idle => [0xC2800000]
  | .mcack => [0xC2C00000]
  | .smovc a n => [0xC3000000 + sh a.val 8 + n.toNat]
  | .smovcr d n => [0xC3400000 + sh d.val 15 + n.toNat]
  | .artset a b => [0xC3800000 + sh a.val 17 + sh b.val 12]
  | .linkkey a b => [0xC3C00000 + sh a.val 17 + sh b.val 12]
  | _ => []

/-- The words of an encoded instruction with its modifier word written out, the first word first; an
operation or event has none. An instruction is a form of one engine, so one of these lists holds its words. -/
def fullWords (i : Instr) : List Nat :=
  wordsCtl i ++ wordsVec i ++ wordsMtx i ++ wordsCpy i ++ wordsGau i ++ wordsTsk i ++ wordsSys i

/-- The words of an instruction as yelas emits them: X = 0 where the modifier is the plain one (R185). -/
def encode (i : Instr) : List Nat :=
  match vecInfo i, fullWords i with
  | some _, [w, x] => if x = plainExt then [w - 1] else [w, x]
  | _, ws => ws

/-- The CTL form of an opcode, its fields read from the words (R180). -/
def rawCtl (op w x y : Nat) : Option Instr :=
  match op with
  | 0 => some .nop
  | 1 => some (.add (Fin.ofNat 32 (fD w)) (srcOf (fA w)) (srcOf (fB w)))
  | 2 => some (.sub (Fin.ofNat 32 (fD w)) (srcOf (fA w)) (srcOf (fB w)))
  | 3 => some (.and (Fin.ofNat 32 (fD w)) (srcOf (fA w)) (srcOf (fB w)))
  | 4 => some (.or (Fin.ofNat 32 (fD w)) (srcOf (fA w)) (srcOf (fB w)))
  | 5 => some (.xor (Fin.ofNat 32 (fD w)) (srcOf (fA w)) (srcOf (fB w)))
  | 6 => some (.shl (Fin.ofNat 32 (fD w)) (srcOf (fA w)) (srcOf (fB w)))
  | 7 => some (.shr (Fin.ofNat 32 (fD w)) (srcOf (fA w)) (srcOf (fB w)))
  | 8 => some (.sar (Fin.ofNat 32 (fD w)) (srcOf (fA w)) (srcOf (fB w)))
  | 9 => some (.mul (Fin.ofNat 32 (fD w)) (srcOf (fA w)) (srcOf (fB w)))
  | 10 => some (.mulh (Fin.ofNat 32 (fD w)) (srcOf (fA w)) (srcOf (fB w)))
  | 11 => some (.mulhu (Fin.ofNat 32 (fD w)) (srcOf (fA w)) (srcOf (fB w)))
  | 12 => some (.div (Fin.ofNat 32 (fD w)) (srcOf (fA w)) (srcOf (fB w)))
  | 13 => some (.divu (Fin.ofNat 32 (fD w)) (srcOf (fA w)) (srcOf (fB w)))
  | 14 => some (.rem (Fin.ofNat 32 (fD w)) (srcOf (fA w)) (srcOf (fB w)))
  | 15 => some (.remu (Fin.ofNat 32 (fD w)) (srcOf (fA w)) (srcOf (fB w)))
  | 16 => some (.min (Fin.ofNat 32 (fD w)) (srcOf (fA w)) (srcOf (fB w)))
  | 17 => some (.max (Fin.ofNat 32 (fD w)) (srcOf (fA w)) (srcOf (fB w)))
  | 18 => some (.minu (Fin.ofNat 32 (fD w)) (srcOf (fA w)) (srcOf (fB w)))
  | 19 => some (.maxu (Fin.ofNat 32 (fD w)) (srcOf (fA w)) (srcOf (fB w)))
  | 20 => some (.slt (Fin.ofNat 32 (fD w)) (srcOf (fA w)) (srcOf (fB w)))
  | 21 => some (.sltu (Fin.ofNat 32 (fD w)) (srcOf (fA w)) (srcOf (fB w)))
  | 22 => some (.seq (Fin.ofNat 32 (fD w)) (srcOf (fA w)) (srcOf (fB w)))
  | 23 => some (.clz (Fin.ofNat 32 (fD w)) (srcOf (fA w)))
  | 24 => some (.popc (Fin.ofNat 32 (fD w)) (srcOf (fA w)))
  | 25 => some (.addi (Fin.ofNat 32 (fD w)) (srcOf (fA w)) (BitVec.ofNat 8 (fld w 0 8)))
  | 26 => some (.andi (Fin.ofNat 32 (fD w)) (srcOf (fA w)) (BitVec.ofNat 8 (fld w 0 8)))
  | 27 => some (.ori (Fin.ofNat 32 (fD w)) (srcOf (fA w)) (BitVec.ofNat 8 (fld w 0 8)))
  | 28 => some (.xori (Fin.ofNat 32 (fD w)) (srcOf (fA w)) (BitVec.ofNat 8 (fld w 0 8)))
  | 29 => some (.shli (Fin.ofNat 32 (fD w)) (srcOf (fA w)) (BitVec.ofNat 6 (fld w 0 8)))
  | 30 => some (.shri (Fin.ofNat 32 (fD w)) (srcOf (fA w)) (BitVec.ofNat 6 (fld w 0 8)))
  | 31 => some (.sari (Fin.ofNat 32 (fD w)) (srcOf (fA w)) (BitVec.ofNat 6 (fld w 0 8)))
  | 32 => some (.li (Fin.ofNat 32 (fD w)) (BitVec.ofNat 15 (fld w 0 15)))
  | 33 => some (.lix (Fin.ofNat 32 (fD w)) (BitVec.ofNat 32 (fld x 0 32)))
  | 34 => some (.lix64 (Fin.ofNat 32 (fD w)) (BitVec.ofNat 32 (fld x 0 32)) (BitVec.ofNat 32 (fld y 0 32)))
  | 35 => some (.ld8 (Fin.ofNat 32 (fD w)) (srcOf (fA w)) (BitVec.ofNat 8 (fld w 0 8)))
  | 36 => some (.ld16 (Fin.ofNat 32 (fD w)) (srcOf (fA w)) (BitVec.ofNat 8 (fld w 0 8)))
  | 37 => some (.ld32 (Fin.ofNat 32 (fD w)) (srcOf (fA w)) (BitVec.ofNat 8 (fld w 0 8)))
  | 38 => some (.ld64 (Fin.ofNat 32 (fD w)) (srcOf (fA w)) (BitVec.ofNat 8 (fld w 0 8)))
  | 39 => some (.lds8 (Fin.ofNat 32 (fD w)) (srcOf (fA w)) (BitVec.ofNat 8 (fld w 0 8)))
  | 40 => some (.lds16 (Fin.ofNat 32 (fD w)) (srcOf (fA w)) (BitVec.ofNat 8 (fld w 0 8)))
  | 41 => some (.lds32 (Fin.ofNat 32 (fD w)) (srcOf (fA w)) (BitVec.ofNat 8 (fld w 0 8)))
  | 42 => some (.st8 (srcOf (fD w)) (srcOf (fA w)) (BitVec.ofNat 8 (fld w 0 8)))
  | 43 => some (.st16 (srcOf (fD w)) (srcOf (fA w)) (BitVec.ofNat 8 (fld w 0 8)))
  | 44 => some (.st32 (srcOf (fD w)) (srcOf (fA w)) (BitVec.ofNat 8 (fld w 0 8)))
  | 45 => some (.st64 (srcOf (fD w)) (srcOf (fA w)) (BitVec.ofNat 8 (fld w 0 8)))
  | 46 => some (.amoadd (Fin.ofNat 32 (fld w 17 5)) (Fin.ofNat 32 (fld w 12 5)) (Fin.ofNat 32 (fld w 7 5)) (fld w 0 1 == 1))
  | 47 => some (.amoswp (Fin.ofNat 32 (fld w 17 5)) (Fin.ofNat 32 (fld w 12 5)) (Fin.ofNat 32 (fld w 7 5)) (fld w 0 1 == 1))
  | 48 => some (.amocas (Fin.ofNat 32 (fld w 17 5)) (Fin.ofNat 32 (fld w 12 5)) (Fin.ofNat 32 (fld w 7 5)) (fld w 0 1 == 1))
  | 49 => some (.amomin (Fin.ofNat 32 (fld w 17 5)) (Fin.ofNat 32 (fld w 12 5)) (Fin.ofNat 32 (fld w 7 5)) (fld w 0 1 == 1) (fld w 2 1 == 1))
  | 50 => some (.amomax (Fin.ofNat 32 (fld w 17 5)) (Fin.ofNat 32 (fld w 12 5)) (Fin.ofNat 32 (fld w 7 5)) (fld w 0 1 == 1) (fld w 2 1 == 1))
  | 51 => some (.amoand (Fin.ofNat 32 (fld w 17 5)) (Fin.ofNat 32 (fld w 12 5)) (Fin.ofNat 32 (fld w 7 5)) (fld w 0 1 == 1))
  | 52 => some (.amoor (Fin.ofNat 32 (fld w 17 5)) (Fin.ofNat 32 (fld w 12 5)) (Fin.ofNat 32 (fld w 7 5)) (fld w 0 1 == 1))
  | 53 => some (.amoxor (Fin.ofNat 32 (fld w 17 5)) (Fin.ofNat 32 (fld w 12 5)) (Fin.ofNat 32 (fld w 7 5)) (fld w 0 1 == 1))
  | 54 => some (.amocas2 (Fin.ofNat 32 (fld w 17 5)) (Fin.ofNat 32 (fld w 12 5)) (Fin.ofNat 32 (fld w 7 5)))
  | 55 => some (.lenq (Fin.ofNat 32 (fld w 17 5)) (Fin.ofNat 32 (fld w 12 5)) (Fin.ofNat 32 (fld w 7 5)))
  | 56 => some (.ldeq (Fin.ofNat 32 (fld w 17 5)) (Fin.ofNat 32 (fld w 12 5)) (Fin.ofNat 32 (fld w 7 5)))
  | 57 => some (.pchase (Fin.ofNat 32 (fld w 17 5)) (Fin.ofNat 32 (fld w 12 5)) (Fin.ofNat 32 (fld w 7 5)) (BitVec.ofNat 7 (fld w 0 7)))
  | 58 => some (.b (BitVec.ofNat 17 (fld w 5 17)) (Fin.ofNat 32 (fld w 0 5)))
  | 59 => some (.bz (Fin.ofNat 32 (fld w 17 5)) (BitVec.ofNat 12 (fld w 5 12)) (Fin.ofNat 32 (fld w 0 5)))
  | 60 => some (.bnz (Fin.ofNat 32 (fld w 17 5)) (BitVec.ofNat 12 (fld w 5 12)) (Fin.ofNat 32 (fld w 0 5)))
  | 61 => some (.bcq (BitVec.ofNat 12 (fld w 5 12)) (Fin.ofNat 32 (fld w 0 5)))
  | 62 => some (.bcqn (BitVec.ofNat 12 (fld w 5 12)) (Fin.ofNat 32 (fld w 0 5)))
  | 63 => some (.call (BitVec.ofNat 17 (fld w 5 17)) (Fin.ofNat 32 (fld w 0 5)))
  | 64 => some (.callr (Fin.ofNat 32 (fD w)) (srcOf (fA w)))
  | 65 => some (.jr (srcOf (fA w)))
  | 66 => some (.ret (srcOf (fA w)))
  | 67 => some (.loop (match fld x 2 2 with
        | 0 => .close (Fin.ofNat 32 (fld w 17 5)) (BitVec.ofNat 12 (fld w 5 12)) (Fin.ofNat 32 (fld w 0 5))
        | 1 => .set (Fin.ofNat 32 (fld w 17 5))
        | _ => .get (Fin.ofNat 32 (fld w 17 5))) (Fin.ofNat 4 (fld x 0 2)))
  | 68 => some (.loopi (match fld x 2 2 with
        | 0 => .close (BitVec.ofNat 28 (fld x 4 28)) (BitVec.ofNat 12 (fld w 5 12)) (Fin.ofNat 32 (fld w 0 5))
        | _ => .set (BitVec.ofNat 28 (fld x 4 28))) (Fin.ofNat 4 (fld x 0 2)))
  | 69 => some (.cqpop (Fin.ofNat 32 (fD w)))
  | 70 => some (.xqpop (Fin.ofNat 32 (fD w)))
  | 71 => some (.movc (srcOf (fA w)) (BitVec.ofNat 8 (fld w 0 8)))
  | 72 => some (.movcr (Fin.ofNat 32 (fD w)) (BitVec.ofNat 8 (fld w 0 8)))
  | 73 => some (.bar (scopeOf (fld w 0 8)))
  | 74 => some .fence
  | 75 => some (.phase (scopeOf (fld w 0 8)))
  | 76 => some (.qfence (BitVec.ofNat 7 (fld w 0 8)))
  | 77 => some (.rkey (srcOf (fA w)) (srcOf (fB w)))
  | 78 => some (.rctr (srcOf (fA w)) (srcOf (fB w)))
  | 79 => some (.rskip (srcOf (fA w)) (srcOf (fB w)))
  | 80 => some (.rnext (Fin.ofNat 32 (fD w)))
  | 81 => some (.rden (Fin.ofNat 32 (fD w)))
  | 82 => some (.rdpwr (Fin.ofNat 32 (fD w)))
  | 83 => some (.rdcyc (Fin.ofNat 32 (fD w)))
  | 84 => some (.rdret (Fin.ofNat 32 (fD w)))
  | 85 => some (.trap (BitVec.ofNat 15 (fld w 0 15)))
  | _ => none

/-- The VEC form of an opcode, its fields read from the words (R180). -/
def rawVec (op w x y : Nat) : Option Instr :=
  match op with
  | 0 => some (.vadd (Fin.ofNat 128 (fD w)) (vsrcOf (fld x 21 2) (fA w) y) (vsrcOf (fld x 19 2) (fB w) y) (vMod x))
  | 1 => some (.vsub (Fin.ofNat 128 (fD w)) (vsrcOf (fld x 21 2) (fA w) y) (vsrcOf (fld x 19 2) (fB w) y) (vMod x))
  | 2 => some (.vmul (Fin.ofNat 128 (fD w)) (vsrcOf (fld x 21 2) (fA w) y) (vsrcOf (fld x 19 2) (fB w) y) (vMod x))
  | 3 => some (.vfma (Fin.ofNat 128 (fD w)) (vsrcOf (fld x 21 2) (fA w) y) (vsrcOf (fld x 19 2) (fB w) y) (vMod x))
  | 4 => some (.vfms (Fin.ofNat 128 (fD w)) (vsrcOf (fld x 21 2) (fA w) y) (vsrcOf (fld x 19 2) (fB w) y) (vMod x))
  | 5 => some (.vfnma (Fin.ofNat 128 (fD w)) (vsrcOf (fld x 21 2) (fA w) y) (vsrcOf (fld x 19 2) (fB w) y) (vMod x))
  | 6 => some (.vmin (Fin.ofNat 128 (fD w)) (vsrcOf (fld x 21 2) (fA w) y) (vsrcOf (fld x 19 2) (fB w) y) (vMod x))
  | 7 => some (.vmax (Fin.ofNat 128 (fD w)) (vsrcOf (fld x 21 2) (fA w) y) (vsrcOf (fld x 19 2) (fB w) y) (vMod x))
  | 8 => some (.vabs (Fin.ofNat 128 (fD w)) (vsrcOf (fld x 21 2) (fA w) y) (vMod x))
  | 9 => some (.vneg (Fin.ofNat 128 (fD w)) (vsrcOf (fld x 21 2) (fA w) y) (vMod x))
  | 10 => some (.vand (Fin.ofNat 128 (fD w)) (vsrcOf (fld x 21 2) (fA w) y) (vsrcOf (fld x 19 2) (fB w) y) (vMod x))
  | 11 => some (.vor (Fin.ofNat 128 (fD w)) (vsrcOf (fld x 21 2) (fA w) y) (vsrcOf (fld x 19 2) (fB w) y) (vMod x))
  | 12 => some (.vxor (Fin.ofNat 128 (fD w)) (vsrcOf (fld x 21 2) (fA w) y) (vsrcOf (fld x 19 2) (fB w) y) (vMod x))
  | 13 => some (.vshl (Fin.ofNat 128 (fD w)) (vsrcOf (fld x 21 2) (fA w) y) (vsrcOf (fld x 19 2) (fB w) y) (vMod x))
  | 14 => some (.vshr (Fin.ofNat 128 (fD w)) (vsrcOf (fld x 21 2) (fA w) y) (vsrcOf (fld x 19 2) (fB w) y) (vMod x))
  | 15 => some (.vsar (Fin.ofNat 128 (fD w)) (vsrcOf (fld x 21 2) (fA w) y) (vsrcOf (fld x 19 2) (fB w) y) (vMod x))
  | 16 => some (.vmov (Fin.ofNat 128 (fD w)) (vsrcOf (fld x 21 2) (fA w) y) (vMod x))
  | 17 => some (.vsel (Fin.ofNat 128 (fD w)) (vsrcOf (fld x 21 2) (fA w) y) (vsrcOf (fld x 19 2) (fB w) y) (vMod x))
  | 18 => some (.vbcast (Fin.ofNat 128 (fD w)) (vsrcOf (fld x 21 2) (fA w) y) (vsrcOf (fld x 19 2) (fB w) y) (vMod x))
  | 19 => some (.viota (Fin.ofNat 128 (fD w)) (vsrcOf (fld x 21 2) (fA w) y) (vMod x))
  | 20 => some (.vcmp (predOf (fld w 18 4)) (Fin.ofNat 8 (fld w 15 3)) (vsrcOf (fld x 21 2) (fA w) y) (vsrcOf (fld x 19 2) (fB w) y) (vMod x))
  | 21 => some (.vclass (Fin.ofNat 128 (fD w)) (vsrcOf (fld x 21 2) (fA w) y) (vMod x))
  | 22 => some (.vcvt (Fin.ofNat 128 (fD w)) (vsrcOf (fld x 21 2) (fA w) y) (fmtOf (fld w 1 4)) (Fin.ofNat 4 (fld w 5 2)) (vMod x))
  | 23 => some (.vquant (Fin.ofNat 128 (fD w)) (vsrcOf (fld x 21 2) (fA w) y) (fmtOf (fld w 1 4)) (vMod x))
  | 24 => some (.vdeq (Fin.ofNat 128 (fD w)) (vsrcOf (fld x 21 2) (fA w) y) (fmtOf (fld w 1 4)) (vMod x))
  | 25 => some (.vrcp (Fin.ofNat 128 (fD w)) (vsrcOf (fld x 21 2) (fA w) y) (vMod x))
  | 26 => some (.vrsq (Fin.ofNat 128 (fD w)) (vsrcOf (fld x 21 2) (fA w) y) (vMod x))
  | 27 => some (.vsqrt (Fin.ofNat 128 (fD w)) (vsrcOf (fld x 21 2) (fA w) y) (vMod x))
  | 28 => some (.vexp2f (Fin.ofNat 128 (fD w)) (vsrcOf (fld x 21 2) (fA w) y) (vMod x))
  | 29 => some (.vlog2f (Fin.ofNat 128 (fD w)) (vsrcOf (fld x 21 2) (fA w) y) (vMod x))
  | 30 => some (.vrint (Fin.ofNat 128 (fD w)) (vsrcOf (fld x 21 2) (fA w) y) (vMod x))
  | 31 => some (.vfint (Fin.ofNat 128 (fD w)) (vsrcOf (fld x 21 2) (fA w) y) (vMod x))
  | 32 => some (.vexpi (Fin.ofNat 128 (fD w)) (vsrcOf (fld x 21 2) (fA w) y) (vsrcOf (fld x 19 2) (fB w) y) (vMod x))
  | 33 => some (.vgetexp (Fin.ofNat 128 (fD w)) (vsrcOf (fld x 21 2) (fA w) y) (vMod x))
  | 34 => some (.vgetmant (Fin.ofNat 128 (fD w)) (vsrcOf (fld x 21 2) (fA w) y) (vMod x))
  | 35 => some (.vredadd (Fin.ofNat 128 (fD w)) (vsrcOf (fld x 21 2) (fA w) y) (vMod x))
  | 36 => some (.vredmax (Fin.ofNat 128 (fD w)) (vsrcOf (fld x 21 2) (fA w) y) (vMod x))
  | 37 => some (.vredamax (Fin.ofNat 128 (fD w)) (vsrcOf (fld x 21 2) (fA w) y) (vMod x))
  | 38 => some (.vredmin (Fin.ofNat 128 (fD w)) (vsrcOf (fld x 21 2) (fA w) y) (vMod x))
  | 39 => some (.vscan (Fin.ofNat 128 (fD w)) (vsrcOf (fld x 21 2) (fA w) y) (vMod x))
  | 40 => some (.vperm (Fin.ofNat 128 (fD w)) (vsrcOf (fld x 21 2) (fA w) y) (vsrcOf (fld x 19 2) (fB w) y) (vMod x))
  | 41 => some (.vshuf (Fin.ofNat 128 (fD w)) (vsrcOf (fld x 21 2) (fA w) y) (vsrcOf (fld x 19 2) (fB w) y) (shufOf (fld x 3 8)) (vMod x))
  | 42 => some (.vrot (Fin.ofNat 128 (fD w)) (vsrcOf (fld x 21 2) (fA w) y) (vsrcOf (fld x 19 2) (fB w) y) (vMod x))
  | 43 => some (.vslide (Fin.ofNat 128 (fD w)) (vsrcOf (fld x 21 2) (fA w) y) (vsrcOf (fld x 19 2) (fB w) y) (vMod x))
  | 44 => some (.vcomp (Fin.ofNat 128 (fD w)) (vsrcOf (fld x 21 2) (fA w) y) (BitVec.ofNat 8 (fld x 3 8)) (vMod x))
  | 45 => some (.vrng (Fin.ofNat 128 (fD w)) (vMod x))
  | 46 => some (.vld (Fin.ofNat 128 (fD w)) (Fin.ofNat 32 (fA w)) (vMod x))
  | 47 => some (.vst (Fin.ofNat 128 (fD w)) (Fin.ofNat 32 (fA w)) (vMod x))
  | 48 => some (.vlds (Fin.ofNat 128 (fD w)) (Fin.ofNat 32 (fA w)) (Fin.ofNat 32 (fB w)) (vMod x))
  | 49 => some (.vsts (Fin.ofNat 128 (fD w)) (Fin.ofNat 32 (fA w)) (Fin.ofNat 32 (fB w)) (vMod x))
  | 50 => some (.vgath (Fin.ofNat 128 (fD w)) (Fin.ofNat 32 (fA w)) (Fin.ofNat 128 (fB w)) (vMod x))
  | 51 => some (.vscat (Fin.ofNat 128 (fD w)) (Fin.ofNat 32 (fA w)) (Fin.ofNat 128 (fB w)) (vMod x))
  | 52 => some (.mand (Fin.ofNat 8 (fD w)) (Fin.ofNat 8 (fA w)) (Fin.ofNat 8 (fB w)) (vMod x))
  | 53 => some (.mor (Fin.ofNat 8 (fD w)) (Fin.ofNat 8 (fA w)) (Fin.ofNat 8 (fB w)) (vMod x))
  | 54 => some (.mxor (Fin.ofNat 8 (fD w)) (Fin.ofNat 8 (fA w)) (Fin.ofNat 8 (fB w)) (vMod x))
  | 55 => some (.mnot (Fin.ofNat 8 (fD w)) (Fin.ofNat 8 (fA w)) (vMod x))
  | 56 => some (.mpop (Fin.ofNat 8 (fA w)) (vMod x))
  | 57 => some (.mfirst (Fin.ofNat 8 (fD w)) (Fin.ofNat 8 (fA w)) (vMod x))
  | 58 => some (.vanyq (Fin.ofNat 8 (fA w)) (vMod x))
  | 59 => some (.vallq (Fin.ofNat 8 (fA w)) (vMod x))
  | 60 => some (.vxq (vsrcOf (fld x 21 2) (fA w) y) (vsrcOf (fld x 19 2) (fB w) y) (vMod x))
  | _ => none

/-- The MTX form of an opcode, its fields read from the words (R180). -/
def rawMtx (op w x : Nat) : Option Instr :=
  match op with
  | 0 => some (.mlease (fld w 0 8 == 1))
  | 1 => some .mrel
  | 2 => some (.mldt (Fin.ofNat 32 (fld w 17 5)) (Fin.ofNat 32 (fld w 12 5)) (Fin.ofNat 32 (fld w 7 5)) (Fin.ofNat 8 (fld w 0 7)))
  | 3 => some (.mstt (Fin.ofNat 32 (fld w 17 5)) (Fin.ofNat 32 (fld w 12 5)) (Fin.ofNat 32 (fld w 7 5)) (Fin.ofNat 8 (fld w 0 7)))
  | 4 => some (.mcvt (Fin.ofNat 8 (fD w)) (Fin.ofNat 8 (fA w)) (mfmtOf (fld x 28 4)) (mfmtOf (fld x 24 4)) (rmSelOf (fld x 21 3)) (fld x 20 1 == 1))
  | 5 => some (.mtrn (Fin.ofNat 8 (fD w)) (Fin.ofNat 8 (fA w)))
  | 6 => some (if fld w 0 8 = 1 then .mzeroT (Fin.ofNat 8 (fD w)) else .mzero (Fin.ofNat 128 (fD w)) (Fin.ofNat 128 (fA w)))
  | 7 => some (.mma (Fin.ofNat 128 (fD w)) (Fin.ofNat 8 (fA w)) (Fin.ofNat 8 (fB w)) (mfmtOf (fld x 28 4)) (fld x 27 1 == 1) (BitVec.ofNat 8 (fld x 19 8)))
  | 8 => some (.mmag (Fin.ofNat 8 (fA w)) (Fin.ofNat 8 (fB w)) (mfmtOf (fld x 28 4)) (fld x 27 1 == 1))
  | 9 => some (.mdrain (Fin.ofNat 128 (fD w)) (Fin.ofNat 32 (fA w)) (fmtOf (fld x 28 4))
      (if fld x 23 1 = 1 then some ⟨Fin.ofNat 32 (fB w), fmtOf (fld x 24 4)⟩ else none)
      (rmSelOf (fld x 19 3)) (fld x 18 1 == 1) (Fin.ofNat 128 (fld x 11 7)) (BitVec.ofNat 8 (fld x 3 8)))
  | 10 => some (.mfmt (Fin.ofNat 16 (fD w)) (fmtOf (fld w 0 8)))
  | 11 => some (.mchkn (Fin.ofNat 32 (fA w)))
  | 12 => some (.mkat (Fin.ofNat 32 (fA w)) (Fin.ofNat 32 (fB w)) (BitVec.ofNat 17 (fld x 15 17)) (Fin.ofNat 32 (fld x 10 5)))
  | 13 => some (.mwait (fld w 8 1 == 1) (fld w 9 1 == 1))
  | _ => none

/-- The CPY form of an opcode, its fields read from the words (R180). -/
def rawCpy (op w x : Nat) : Option Instr :=
  match op with
  | 0 => some (.copy (Fin.ofNat 32 (fld w 17 5)) (Fin.ofNat 32 (fld w 12 5)) (Fin.ofNat 32 (fld w 7 5)))
  | 1 => some (.copy2 (Fin.ofNat 32 (fld w 17 5)) (Fin.ofNat 32 (fld w 12 5)) (Fin.ofNat 32 (fld w 7 5)) (BitVec.ofNat 18 (fld x 14 18)) (BitVec.ofNat 14 (fld x 0 14)))
  | 2 => some (.gather (Fin.ofNat 32 (fld w 17 5)) (Fin.ofNat 32 (fld w 12 5)) (Fin.ofNat 32 (fld w 7 5)) (qOf (fld w 0 7))
      (Fin.ofNat 4 (fld x 30 2)) (BitVec.ofNat 24 (fld x 0 24)))
  | 3 => some (.scatter (Fin.ofNat 32 (fld w 17 5)) (Fin.ofNat 32 (fld w 12 5)) (Fin.ofNat 32 (fld w 7 5)) (Fin.ofNat 4 (fld x 30 2)) (BitVec.ofNat 24 (fld x 0 24)))
  | 4 => some (.sbind (Fin.ofNat 32 (fld w 17 5)) (Fin.ofNat 32 (fld w 12 5)) (Fin.ofNat 32 (fld w 7 5)) (streamKindOf (fld w 5 2)) (Fin.ofNat 8 (fld w 0 5)))
  | 5 => some (.sunbind (Fin.ofNat 8 (fld w 0 8)))
  | 6 => some (.sout (Fin.ofNat 32 (fld w 17 5)) (Fin.ofNat 32 (fld w 12 5)) (Fin.ofNat 32 (fld w 7 5)) (Fin.ofNat 128 (fld w 0 7)))
  | 7 => some (.pref (Fin.ofNat 32 (fld w 17 5)) (Fin.ofNat 32 (fld w 12 5)))
  | 8 => some (.opk (Fin.ofNat 32 (fld w 17 5)) (Fin.ofNat 32 (fld w 12 5)) (Fin.ofNat 32 (fld w 7 5)) (qOf (fld w 0 7)))
  | 9 => some (.cjoin (Fin.ofNat 32 (fld w 17 5)) (Fin.ofNat 32 (fld w 12 5)) (Fin.ofNat 32 (fld w 7 5)) (Fin.ofNat 8 (fld w 0 7)))
  | 10 => some (.cleave (Fin.ofNat 32 (fld w 17 5)))
  | 11 => some (.cstore (Fin.ofNat 32 (fld w 17 5)) (Fin.ofNat 32 (fld w 12 5)) (Fin.ofNat 32 (fld w 7 5)) (qOf (fld w 0 7)))
  | 12 => some (.cwait (Fin.ofNat 32 (fld w 17 5)) (Fin.ofNat 32 (fld w 12 5)))
  | 13 => some (.fred (Fin.ofNat 32 (fld w 17 5)) (Fin.ofNat 32 (fld w 12 5)) (Fin.ofNat 32 (fld w 7 5)) (redOpOf (fld w 2 3)) (fld w 5 1 == 1) (fld w 6 1 == 1))
  | 14 => some (.fredw (Fin.ofNat 32 (fld w 17 5)) (Fin.ofNat 32 (fld w 12 5)) (Fin.ofNat 32 (fld w 7 5)) (Fin.ofNat 8 (fld w 0 7)))
  | 15 => some .frel
  | _ => none

/-- The GAU form of an opcode, its fields read from the words (R180). -/
def rawGau (op w : Nat) : Option Instr :=
  match op with
  | 0 => some (.gcfg (BitVec.ofNat 7 (fD w)) (BitVec.ofNat 7 (fA w)) (BitVec.ofNat 4 (fld w 0 8)))
  | 1 => some (.gplane (Fin.ofNat 32 (fA w)) (Fin.ofNat 32 (fB w)))
  | 2 => some (.ghash (Fin.ofNat 128 (fD w)) (Fin.ofNat 8 (fA w)))
  | 3 => some (.grep (Fin.ofNat 128 (fD w)) (Fin.ofNat 128 (fA w)) (Fin.ofNat 8 (fld w 0 3)) (repRuleOf (fld w 3 2)))
  | 4 => some (.gpack (Fin.ofNat 8 (fD w)) (Fin.ofNat 8 (fA w)) (Fin.ofNat 128 (fB w)))
  | 5 => some (.gscat (Fin.ofNat 128 (fD w)) (Fin.ofNat 128 (fA w)) (Fin.ofNat 128 (fB w)))
  | 6 => some (.gmap (Fin.ofNat 32 (fld w 17 5)) (Fin.ofNat 128 (fld w 0 7)))
  | 7 => some (.glmap (Fin.ofNat 32 (fld w 17 5)) (Fin.ofNat 128 (fld w 0 7)))
  | 8 => some (.ggsum (Fin.ofNat 128 (fD w)) (Fin.ofNat 128 (fA w)) (Fin.ofNat 128 (fB w)))
  | _ => none

/-- The TSK form of an opcode, its fields read from the words (R180). -/
def rawTsk (op w : Nat) : Option Instr :=
  match op with
  | 0 => some (.tspawn (Fin.ofNat 32 (fld w 17 5)) (Fin.ofNat 32 (fld w 12 5)) (fld w 0 1 == 1))
  | 1 => some (.tspawnl (Fin.ofNat 32 (fld w 17 5)) (Fin.ofNat 32 (fld w 12 5)) (fld w 0 1 == 1))
  | 2 => some (.tsig (Fin.ofNat 32 (fld w 17 5)))
  | 3 => some (.tnewv (Fin.ofNat 32 (fld w 17 5)) (Fin.ofNat 32 (fld w 12 5)) (Fin.ofNat 32 (fld w 7 5)) (tileTgtOf (fld w 0 2)) (fld w 2 1 == 1) (Fin.ofNat 4 (fld w 3 2)))
  | 4 => some (.tdecl (Fin.ofNat 32 (fld w 17 5)))
  | 5 => some (.treadv (Fin.ofNat 32 (fld w 17 5)) (Fin.ofNat 32 (fld w 12 5)))
  | 6 => some (.tseal (Fin.ofNat 32 (fld w 17 5)))
  | 7 => some (.trepl (Fin.ofNat 32 (fld w 17 5)) (fld w 0 1 == 1))
  | 8 => some (.tpin (Fin.ofNat 32 (fld w 17 5)) (fld w 0 1 == 1))
  | 9 => some .tyield
  | 10 => some .texit
  | 11 => some (.tstat (Fin.ofNat 32 (fld w 17 5)) (Fin.ofNat 32 (fld w 12 5)) (fld w 0 1 == 1))
  | _ => none

/-- The SYS form of an opcode, its fields read from the words (R180). -/
def rawSys (op w : Nat) : Option Instr :=
  match op with
  | 0 => some .sret
  | 1 => some (.ctxsave (Fin.ofNat 32 (fld w 17 5)) (Fin.ofNat 32 (fld w 12 5)))
  | 2 => some (.ctxload (Fin.ofNat 32 (fld w 17 5)) (Fin.ofNat 32 (fld w 12 5)))
  | 3 => some (.tlbinv (Fin.ofNat 32 (fld w 17 5)) (Fin.ofNat 32 (fld w 12 5)) (Fin.ofNat 32 (fld w 7 5)) (fld w 0 1 == 1) (fld w 1 1 == 1))
  | 4 => some (.asidbind (Fin.ofNat 32 (fld w 17 5)) (Fin.ofNat 32 (fld w 12 5)))
  | 5 => some (.asidret (Fin.ofNat 32 (fld w 17 5)))
  | 6 => some (.keyld (Fin.ofNat 32 (fld w 17 5)) (Fin.ofNat 32 (fld w 12 5)))
  | 7 => some (.keyinv (Fin.ofNat 32 (fld w 17 5)))
  | 8 => some (.quar (Fin.ofNat 32 (fld w 17 5)) (fld w 0 1 == 1))
  | 9 => some (.pwrcap (Fin.ofNat 32 (fld w 17 5)) (Fin.ofNat 32 (fld w 12 5)))
  | 10 => some .idle
  | 11 => some .mcack
  | 12 => some (.smovc (Fin.ofNat 32 (fA w)) (BitVec.ofNat 8 (fld w 0 8)))
  | 13 => some (.smovcr (Fin.ofNat 32 (fD w)) (BitVec.ofNat 8 (fld w 0 8)))
  | 14 => some (.artset (Fin.ofNat 32 (fld w 17 5)) (Fin.ofNat 32 (fld w 12 5)))
  | 15 => some (.linkkey (Fin.ofNat 32 (fld w 17 5)) (Fin.ofNat 32 (fld w 12 5)))
  | _ => none

/-- The form that the engine field and the opcode name, its fields read, with `x` and `y` the two words
after the first (R168). -/
def rawInstr (w x y : Nat) : Option Instr :=
  let op := fld w 22 7
  match fld w 29 3 with
  | 0 => rawCtl op w x y
  | 1 => if fld w 0 1 = 0 then rawVec op (w + 1) plainExt x else rawVec op w x y
  | 2 => rawMtx op w x
  | 3 => rawCpy op w x
  | 4 => rawGau op w
  | 5 => rawTsk op w
  | 6 => rawSys op w
  | _ => none

/-- Why a word is no instruction: the checks 2, 3 and 5 of R169. `field` says whether the form is a SYS
form, since check 4 (PRIVILEGE) stands before check 5. -/
inductive DecodeErr where
  | engine
  | opcode
  | field (sys : Bool)
  deriving DecidableEq, Repr

/-- Whether the words `w`, `x`, `y` begin with the encoding of `i`: every bit of it, and so every reserved
one. A VEC word with X = 0 is its own first word with the plain modifier (R173). -/
def wordsAre (i : Instr) (w x y : Nat) : Bool :=
  match vecInfo i with
  | some _ =>
    if fld w 0 1 = 0 then fullWords i == [w + 1, plainExt] || fullWords i == [w + 1, plainExt, x]
    else fullWords i == [w, x] || fullWords i == [w, x, y]
  | none => fullWords i == [w] || fullWords i == [w, x] || fullWords i == [w, x, y]

/-- Decodes the instruction whose first word is `w`, with the two words after it (zero past the end of a
line): the checks of R169 but for the line's and the mode's. -/
def decode (w x y : Nat) : Except DecodeErr Instr :=
  if fld w 29 3 = 7 then .error .engine
  else match rawInstr w x y with
    | none => .error .opcode
    | some i => if wordsAre i w x y && instrWf i then .ok i else .error (.field (fld w 29 3 == 6))

/-- How many words the instruction that begins with `w` occupies, from its form, its X bit and its modifier
word (R168, R175, R180). For a word of no form it is the count that these bits give, and 1 where they give none: the model's
choice (log 79). -/
def wordCount (w x : Nat) : Nat :=
  match fld w 29 3, fld w 22 7 with
  | 0, 0x21 => 2
  | 0, 0x22 => 3
  | 0, 0x43 => 2
  | 0, 0x44 => 2
  | 1, _ =>
    if fld w 0 1 = 0 then 1 else if fld x 21 2 = 3 ∨ fld x 19 2 = 3 then 3 else 2
  | 2, op => if op = 4 ∨ op = 7 ∨ op = 8 ∨ op = 9 ∨ op = 12 then 2 else 1
  | 3, op => if op = 1 ∨ op = 2 ∨ op = 3 then 2 else 1
  | _, _ => 1

/-- The decoder on the opcode table's numbering: bit 0 is the least significant bit of the first word, and
every bit above `nbits` is zero. -/
def decodeTableWord (nbits w : Nat) : Option Instr :=
  let v := w % 2 ^ nbits
  match decode (v % 2 ^ 32) (v / 2 ^ 32 % 2 ^ 32) (v / 2 ^ 64 % 2 ^ 32) with
  | .ok i => some i
  | .error _ => none

end Sys2Proof
end

