-- ==== Sys2Proof/Machine/Num.lean ====
section
/-! DEFINITION. Numbers: the counter generator (R218), the floating-point formats (R141, R142, R146),
exact values, rounding (R151 to R155), flags (R156) and conversion (R158). An exact value is a sign and
a ratio of natural numbers, so nothing is rounded before `roundTo` says so. -/

namespace Sys2Proof.Machine

/-! ## The counter generator (R218) -/

/-- rotl of R218. -/
def rotl32 (v s : Nat) : Nat := (v * 2 ^ s + v / 2 ^ (32 - s)) % 2 ^ 32

/-- Key word j. -/
def word32 (k j : Nat) : Nat := k / 2 ^ (32 * j) % 2 ^ 32

/-- v × H, then the high bits folded down. -/
def mulFold (v h : Nat) : Nat :=
  let p := v * h % 2 ^ 32
  p ^^^ (p / 2 ^ 15)

/-- One round of F with number `n` (R218). -/
def rngRound (k n : Nat) (x : Nat × Nat × Nat × Nat) : Nat × Nat × Nat × Nat :=
  let inj (v j : Nat) := (v + word32 k ((j + n) % 4) + n * 0x5D2AC71F) % 2 ^ 32
  let x0 := mulFold (inj x.1 0) 0x8F3A52C3
  let x1 := mulFold (inj x.2.1 1) 0xB7E61C29
  let x2 := mulFold (inj x.2.2.1 2) 0xC9D40A8B
  let x3 := mulFold (inj x.2.2.2 3) 0xE35B7461
  let x1 := x1 ^^^ rotl32 x0 7
  let x2 := x2 ^^^ rotl32 x1 13
  let x3 := x3 ^^^ rotl32 x2 19
  let x0 := x0 ^^^ rotl32 x3 26
  (x2, x0, x3, x1)

/-- F(K, C) of R218: the four draws y0 to y3 as one 128-bit value, y0 in its low word. -/
def rngF (k c : Nat) : Nat :=
  let x := (List.range 10).foldl (fun x n => rngRound k n x)
    (word32 c 0, word32 c 1, word32 c 2, word32 c 3)
  (x.1 ^^^ word32 k 3) + (x.2.1 ^^^ word32 k 2) * 2 ^ 32
    + (x.2.2.1 ^^^ word32 k 1) * 2 ^ 64 + (x.2.2.2 ^^^ word32 k 0) * 2 ^ 96

/-- The draw of element number `i` of a word whose block starts at `c` (R155). -/
def drawOf (k c i : Nat) : Nat := word32 (rngF k ((c + i / 4) % 2 ^ 128)) (i % 4)

/-! ## Flags (R156) -/

/-- A set of FLAGS bits, as a number. -/
abbrev Flg := Nat
/-- Invalid. -/
def fNV : Flg := 1
/-- Division by zero. -/
def fDZ : Flg := 2
/-- Overflow. -/
def fOF : Flg := 4
/-- Underflow. -/
def fUF : Flg := 8
/-- Inexact. -/
def fNX : Flg := 16
/-- Saturated. -/
def fSAT : Flg := 32
/-- INT32 accumulation overflow. -/
def fIOV : Flg := 64

/-! ## Formats (R141, R142, R146) -/

/-- Fraction bits of a floating-point format. -/
def fracBits : Fmt → Nat
  | .fp32 => 23 | .bf16 => 7 | .fp16 => 10 | .e4m3 => 3 | .e5m2 => 2 | .sc20 => 12 | _ => 0

/-- Exponent bits of a floating-point format. -/
def expBits : Fmt → Nat
  | .fp32 | .bf16 | .sc20 => 8 | .fp16 | .e5m2 => 5 | .e4m3 => 4 | _ => 0

/-- Bias. -/
def biasOf (f : Fmt) : Int := 2 ^ (expBits f - 1) - 1

/-- Exponent of the smallest normal. -/
def eMin (f : Fmt) : Int := 1 - biasOf f

/-- Bits of a float or an integer element, without its sign for SC20 (which has none). -/
def magBits (f : Fmt) : Nat := expBits f + fracBits f

/-- The largest finite encoding without its sign (R141, R146). -/
def maxMag : Fmt → Nat
  | .e4m3 => 0x7E
  | f => (2 ^ expBits f - 1) * 2 ^ fracBits f - 1

/-- The canonical NaN (R142), or the NaN scale that the device writes (R146). -/
def canonNaN : Fmt → Nat
  | .fp32 => 0x7FC00000 | .bf16 => 0x7FC0 | .fp16 => 0x7E00 | .e4m3 => 0x7F | .e5m2 => 0x7E
  | .sc20 => 0xFF000 | _ => 0

/-- The infinity of a format; the formats without one give their NaN (R152). -/
def infMag : Fmt → Nat
  | .e4m3 => 0x7F
  | .sc20 => 0xFF000
  | f => (2 ^ expBits f - 1) * 2 ^ fracBits f

/-- An exact value: a NaN (signalling or not), an infinity, or (−1)^neg × p / q. A zero has p = 0. -/
inductive XVal where
  | nan (sig : Bool)
  | inf (neg : Bool)
  | fin (neg : Bool) (p q : Nat)
  deriving DecidableEq, Repr

/-- ±m × 2^e. -/
def xdy (neg : Bool) (m : Nat) (e : Int) : XVal :=
  match e with
  | .ofNat n => .fin neg (m * 2 ^ n) 1
  | .negSucc n => .fin neg m (2 ^ (n + 1))

/-- An integer as an exact value; zero is +0. -/
def xint (v : Int) : XVal := .fin (decide (v < 0)) v.natAbs 1

/-- The value of an encoding of a floating-point format or SC20 (R141, R142, R146). -/
def fval (f : Fmt) (b : Nat) : XVal :=
  let fb := fracBits f
  let neg := f != .sc20 && b / 2 ^ magBits f % 2 == 1
  let e := b / 2 ^ fb % 2 ^ expBits f
  let m := b % 2 ^ fb
  match f with
  | .sc20 => if e = 0 then .fin false 0 1 else if e = 255 then .nan false
             else xdy false (2 ^ fb + m) (e - 127 - fb)
  | .e4m3 => if e = 15 ∧ m = 7 then .nan false
             else if e = 0 then xdy neg m (eMin f - fb) else xdy neg (2 ^ fb + m) (e - biasOf f - fb)
  | _ => if e = 2 ^ expBits f - 1 then
           (if m = 0 then .inf neg else .nan (decide (m < 2 ^ (fb - 1))))
         else if e = 0 then xdy neg m (eMin f - fb) else xdy neg (2 ^ fb + m) (e - biasOf f - fb)

/-- The integer of an encoding (R145). -/
def ival (f : Fmt) (b : Nat) : Int :=
  let n := 8 * f.width
  let v := b % 2 ^ n
  if f.signed && 2 ^ (n - 1) ≤ v then (v : Int) - 2 ^ n else v

/-- The bounds of an integer format (R145). -/
def ibounds (f : Fmt) : Int × Int :=
  let n := 8 * f.width
  if f.signed then (-(2 ^ (n - 1)), 2 ^ (n - 1) - 1) else (0, 2 ^ n - 1)

/-- The low `n` bits of an integer. -/
def wrapInt (n : Nat) (v : Int) : Nat := (v % (2 ^ n : Int)).toNat

/-- An exact integer into an integer format: wrapped, or clamped with SAT (R145, R233). -/
def intResult (f : Fmt) (sat : Bool) (v : Int) : Nat × Flg :=
  let (lo, hi) := ibounds f
  let n := 8 * f.width
  if sat then
    if v < lo then (wrapInt n lo, fSAT) else if hi < v then (wrapInt n hi, fSAT) else (wrapInt n v, 0)
  else (wrapInt n v, 0)

/-! ## Rounding (R152 to R154) -/

/-- ⌊log2 (p/q)⌋ for p, q > 0. -/
def ratLog2 (p q : Nat) : Int :=
  let k : Int := (p.log2 : Int) - q.log2
  -- p/q lies in (2^(k-1), 2^(k+1))
  let ge := match k with
    | .ofNat n => decide (q * 2 ^ n ≤ p)
    | .negSucc n => decide (q ≤ p * 2 ^ (n + 1))
  if ge then k else k - 1

/-- p/q in units of 2^u: the integer part, what is left over, and its denominator. -/
def ratAt (p q : Nat) (u : Int) : Nat × Nat × Nat :=
  let (a, b) := match u with
    | .ofNat n => (p, q * 2 ^ n)
    | .negSucc n => (p * 2 ^ (n + 1), q)
  (a / b, a % b, b)

/-- Whether a magnitude with integer part `n` and rest r/d ≠ 0 rounds away from zero. `tieUp` sends a tie away
(SC20 below its smallest value, R158). -/
def roundsUp (mode : Rm) (neg tieUp : Bool) (draw n r d : Nat) : Bool :=
  match mode with
  | .rne => decide (d < 2 * r) || (2 * r == d && (tieUp || n % 2 == 1))
  | .rna => decide (d ≤ 2 * r)
  | .rtz => false
  | .rdn => neg
  | .rup => !neg
  | .sr => decide (draw < 2 ^ 32 * r / d)

/-- p/q > 0 rounded to a multiple of 2^u, with its inexactness. -/
def roundAt (mode : Rm) (neg tieUp : Bool) (draw p q : Nat) (u : Int) : Nat × Bool :=
  let (n, r, d) := ratAt p q u
  if r = 0 then (n, false) else (if roundsUp mode neg tieUp draw n r d then n + 1 else n, true)

/-- The encoding of sign and magnitude bits. -/
def withSign (f : Fmt) (neg : Bool) (mag : Nat) : Nat :=
  if f != .sc20 && neg then mag + 2 ^ magBits f else mag

/-- An overflowed result and its flags (R152). -/
def overflowed (f : Fmt) (mode : Rm) (sat neg : Bool) : Nat × Flg :=
  if sat then (withSign f neg (maxMag f), fSAT ||| fNX)
  else
    let toMax := match mode with
      | .rtz => true | .rdn => !neg | .rup => neg | _ => false
    let mag := if toMax then maxMag f else infMag f
    -- a NaN in place of an infinity has no sign (R152: 0x7F, the NaN scale)
    (withSign f (neg && (toMax || infMag f != canonNaN f)) mag, fOF ||| fNX)

/-- RoundTo(f, v, mode) of R152 with saturation `sat` and draw `draw`; the flags do not include NV of a
signalling operand, which the operation sets. -/
def roundTo (f : Fmt) (mode : Rm) (sat : Bool) (draw : Nat) : XVal → Nat × Flg
  | .nan _ => (canonNaN f, 0)
  | .inf neg =>
    match f with
    | .e4m3 => if sat then (withSign f neg (maxMag f), fSAT) else (canonNaN f, fNV)
    | .sc20 => if neg then (canonNaN f, fNV) else if sat then (maxMag f, fSAT) else (canonNaN f, fNV)
    | _ => (withSign f neg (infMag f), 0)
  | .fin neg p q =>
    if p = 0 then (withSign f neg 0, 0)
    else if f = .sc20 ∧ neg = true then (canonNaN f, fNV)
    else
      let e := ratLog2 p q
      let small := decide (e < eMin f)
      let fb := fracBits f
      let u : Int := if small then (if f = .sc20 then eMin f else eMin f - fb) else e - fb
      let (n, nx) := roundAt mode neg (f == .sc20 && small) draw p q u
      -- SC20 has no subnormals: its step below 2^-126 is 2^-126
      let mag := if small then (if f = .sc20 then n * 2 ^ fb else n)
                 else ((e - eMin f).toNat) * 2 ^ fb + n
      if maxMag f < mag then overflowed f mode sat neg
      else
        let tiny := small && (roundAt mode neg false draw p q (e - fb)).1 < 2 ^ (fb + 1)
        -- rounded with unbounded exponent it stays below 2^eMin unless it carries out of e = eMin - 1
        let tiny := tiny || (small && decide (e < eMin f - 1))
        (withSign f neg mag, (if nx then fNX else 0) ||| (if tiny && nx then fUF else 0))

/-- NV for a signalling NaN (R142, R156). -/
def sigNV : XVal → Flg
  | .nan true => fNV
  | _ => 0

/-- Rounds an exact value to an integer value in a mode (R154: the spacing is 1). -/
def roundInt (mode : Rm) (draw : Nat) (neg : Bool) (p q : Nat) : Int × Bool :=
  let (n, nx) := roundAt mode neg false draw p q 0
  (if neg then -(n : Int) else n, nx)

/-- Float to integer under R158. -/
def floatToInt (df : Fmt) (mode : Rm) (draw : Nat) : XVal → Nat × Flg
  | .nan _ => (0, fNV)
  | .inf neg => let (lo, hi) := ibounds df; (wrapInt (8 * df.width) (if neg then lo else hi), fNV)
  | .fin neg p q =>
    let (v, nx) := roundInt mode draw neg p q
    let (lo, hi) := ibounds df
    let n := 8 * df.width
    if v < lo then (wrapInt n lo, fNV) else if hi < v then (wrapInt n hi, fNV)
    else (wrapInt n v, if nx then fNX else 0)

/-- Conv of R158: one element from format `sf` to format `df`. That a NaN scale converted from SC20 to SC20 sets no flag is the
model's choice (log 78). -/
def convElem (sf df : Fmt) (mode : Rm) (sat : Bool) (draw b : Nat) : Nat × Flg :=
  if sf.isI then
    if df.isI then intResult df sat (ival sf b)
    else roundTo df mode sat draw (xint (ival sf b))
  else
    let x := fval sf b
    if df.isI then floatToInt df mode draw x
    else
      let (r, fl) := roundTo df mode sat draw x
      -- a NaN converted to SC20 gives the NaN scale and sets NV (R158)
      let nv := if df = .sc20 then (match x with | .nan _ => if sf = .sc20 then 0 else fNV | _ => 0) else sigNV x
      (r, fl ||| nv)

/-! ## Exact arithmetic -/

/-- The exclusive OR of signs and the product of magnitudes; `none` for 0 × inf (R233). -/
def xmul : XVal → XVal → Option XVal
  | .nan s, .nan t => some (.nan (s || t))
  | .nan s, _ => some (.nan s)
  | _, .nan s => some (.nan s)
  | .inf a, .inf b => some (.inf (a != b))
  | .inf a, .fin b p _ => if p = 0 then none else some (.inf (a != b))
  | .fin a p _, .inf b => if p = 0 then none else some (.inf (a != b))
  | .fin a p q, .fin b r t => some (.fin (a != b) (p * r) (q * t))

/-- A sum; `none` for inf − inf. The sign of an exact zero is that of R152 in mode `mode`. -/
def xadd (mode : Rm) : XVal → XVal → Option XVal
  | .nan s, .nan t => some (.nan (s || t))
  | .nan s, _ => some (.nan s)
  | _, .nan s => some (.nan s)
  | .inf a, .inf b => if a = b then some (.inf a) else none
  | .inf a, .fin .. => some (.inf a)
  | .fin .., .inf b => some (.inf b)
  | .fin a p q, .fin b r t =>
    let x : Int := (if a then -1 else 1) * (p * t : Nat)
    let y : Int := (if b then -1 else 1) * (r * q : Nat)
    let s := x + y
    if s = 0 then
      some (.fin (if p = 0 ∧ r = 0 ∧ a = b then a else mode == .rdn) 0 1)
    else some (.fin (decide (s < 0)) s.natAbs (q * t))

/-- The value with its sign changed. -/
def xneg : XVal → XVal
  | .nan s => .nan s
  | .inf a => .inf (!a)
  | .fin a p q => .fin (!a) p q

/-- Less than, for values that are no NaN, with −0 equal to +0. -/
def xlt : XVal → XVal → Bool
  | .inf a, .inf b => a && !b
  | .inf a, .fin .. => a
  | .fin .., .inf b => !b
  | .fin a p q, .fin b r t =>
    decide ((if a then -1 else 1 : Int) * (p * t : Nat) < (if b then -1 else 1 : Int) * (r * q : Nat))
  | _, _ => false

/-- Whether a value is a NaN. -/
def XVal.isNaN : XVal → Bool
  | .nan _ => true
  | _ => false

/-- Whether a value is a NaN or an infinity. -/
def XVal.special : XVal → Bool
  | .fin .. => false
  | _ => true

/-- The sign of a value. -/
def XVal.neg : XVal → Bool
  | .nan _ => false
  | .inf a => a
  | .fin a _ _ => a

/-- Whether `a` ranks above `b` under R167, position aside. -/
def rankAbove : XVal → XVal → Bool
  | .nan _, .nan _ => false
  | .nan _, _ => true
  | _, .nan _ => false
  | .inf _, .inf _ => false
  | .inf _, _ => true
  | _, .inf _ => false
  | .fin _ p q, .fin _ r t => decide (r * q < p * t)

/-- A sum of exact values, from left to right: NaN wins, inf − inf is `none`. Its zero is −0 only if every
addend is −0 (R162, R291, R293). -/
def xsum (l : List XVal) : Option XVal :=
  match l with
  | [] => some (.fin false 0 1)
  | x :: r => r.foldl (fun acc y => acc.bind (xadd .rne · y)) (some x)

/-! ## Roots and functions -/

/-- Bit by bit, the largest r with r² ≤ n, from bit `k` down. -/
def isqrtFrom (n : Nat) : Nat → Nat → Nat
  | 0, r => r
  | k + 1, r =>
    let c := r + 2 ^ k
    isqrtFrom n k (if c * c ≤ n then c else r)

/-- ⌊√n⌋. -/
def isqrt (n : Nat) : Nat := isqrtFrom n (n.log2 / 2 + 1) 0

/-- √(p/q) as a ratio that rounds as the root does: its first 240 binary places, and when they are not all,
half a place more. Ties and draws of R154 look at far fewer. -/
def xsqrt (p q : Nat) : Nat × Nat :=
  let n := p * 2 ^ 480 / q
  let r := isqrt n
  if r * r * q = p * 2 ^ 480 then (r, 2 ^ 240) else (2 * r + 1, 2 ^ 241)

/-- 2^(2^−i) in 200 binary places, i = 0 upward (each the root of the one before). -/
def rootsOf2 : Nat → Nat → List Nat
  | 0, _ => []
  | k + 1, c => c :: rootsOf2 k (isqrt (c * 2 ^ 200))

/-- 2^(p/2^149) for p < 2^149 in 200 binary places: the product over the bits of p. Log 13. -/
def exp2Fixed (p : Nat) : Nat :=
  let rs := rootsOf2 150 (2 ^ 201)
  (List.range 149).foldl (fun acc i =>
    if p / 2 ^ (148 - i) % 2 = 1 then acc * (rs.getD (i + 1) 0) / 2 ^ 200 else acc) (2 ^ 200)

/-- The bits of log2 y for y in [1, 2) given in 320 binary places: `k` of them, by squaring. Log 13. -/
def log2Bits : Nat → Nat → Nat → Nat
  | 0, _, acc => acc
  | k + 1, y, acc =>
    let z := y * y / 2 ^ 320
    if 2 ^ 321 ≤ z then log2Bits k (z / 2) (2 * acc + 1) else log2Bits k z (2 * acc)

/-- log2(p/q), p/q > 0 and no power of two, as sign, numerator and denominator. -/
def xlog2 (p q : Nat) : XVal :=
  let e := ratLog2 p q
  let (m, _, _) := ratAt p q (e - 320)
  if m = 2 ^ 320 ∧ (ratAt p q (e - 320)).2.1 = 0 then xint e
  else
    let l : Int := e * 2 ^ 100 + log2Bits 100 m 0
    let v := 2 * l + 1
    .fin (decide (v < 0)) v.natAbs (2 ^ 101)

end Sys2Proof.Machine
end

