-- ==== Sys2Proof/Machine/Lanes.lean ====
section
/-! DEFINITION. What the vector forms compute on the lanes of rows (R226 to R254), without the state they
run in. A row is read as a number; lane i of width w lies in its bits 8wi and up (R227). -/

namespace Sys2Proof.Machine

/-- Lane `i` of a row in the view of width `w` bytes. -/
def laneOf (w : Nat) (row i : Nat) : Nat := row / 2 ^ (8 * w * i) % 2 ^ (8 * w)

/-- The row whose lanes from 0 up are the list, the others zero. -/
def packLanes (w : Nat) (l : List Nat) : Nat :=
  l.foldr (fun v acc => acc * 2 ^ (8 * w) + v % 2 ^ (8 * w)) 0

/-- What a vector word works under: its format, mode, saturation, the draw of a lane (R155), and its active
lanes (R229). -/
structure LaneEnv where
  f : Fmt
  rm : Rm
  sat : Bool
  draw : Nat → Nat
  act : Nat → Bool

/-- Lanes of the view. -/
def LaneEnv.n (e : LaneEnv) : Nat := e.f.lanes

/-- A row of `n` lanes of width `w` and the flags raised (R230). -/
def collect (w n : Nat) (g : Nat → Nat × Flg) : Nat × Flg :=
  let l := (List.range n).map g
  (packLanes w (l.map Prod.fst), l.foldl (fun fl x => fl ||| x.2) 0)

/-- Every active lane by `g`, every other zero (R229). -/
def mapLanes (e : LaneEnv) (g : Nat → Nat × Flg) : Nat × Flg :=
  collect e.f.width e.n fun i => if e.act i then g i else (0, 0)

/-! ## Elementwise arithmetic (R233 to R235) -/

/-- An exact float result rounded, `none` being an invalid operation; `nv` the flag of signalling operands. -/
def fResult (f : Fmt) (rm : Rm) (draw : Nat) (nv : Flg) : Option XVal → Nat × Flg
  | none => (canonNaN f, nv ||| fNV)
  | some v => let (r, fl) := roundTo f rm false draw v; (r, fl ||| nv)

/-- Op of R233 on exact values, for the six rounding forms. -/
def opAdd (rm : Rm) (a b _ : XVal) : Option XVal := xadd rm a b
/-- a − b. -/
def opSub (rm : Rm) (a b _ : XVal) : Option XVal := xadd rm a (xneg b)
/-- a × b. -/
def opMul (_ : Rm) (a b _ : XVal) : Option XVal := xmul a b
/-- a × b + c. -/
def opFma (rm : Rm) (a b c : XVal) : Option XVal := (xmul a b).bind (xadd rm · c)
/-- a × b − c. -/
def opFms (rm : Rm) (a b c : XVal) : Option XVal := (xmul a b).bind (xadd rm · (xneg c))
/-- c − a × b. -/
def opFnma (rm : Rm) (a b c : XVal) : Option XVal := (xmul a b).bind (fun p => xadd rm c (xneg p))

/-- One lane of R233: float rounded once, integer wrapped or clamped. `third` says whether the form reads c. -/
def arithLane (e : LaneEnv) (fop : Rm → XVal → XVal → XVal → Option XVal) (iop : Int → Int → Int → Int)
    (third : Bool) (a b c i : Nat) : Nat × Flg :=
  if e.f.isF then
    let x := fval e.f a; let y := fval e.f b; let z := if third then fval e.f c else .fin false 0 1
    fResult e.f e.rm (e.draw i) (sigNV x ||| sigNV y ||| sigNV z) (fop e.rm x y z)
  else intResult e.f e.sat (iop (ival e.f a) (ival e.f b) (ival e.f c))

/-- Lesser or greater of two lanes (R234): NaN gives the canonical NaN, −0 lies below +0. -/
def minmaxLane (f : Fmt) (greater : Bool) (a b : Nat) : Nat × Flg :=
  if f.isF then
    let x := fval f a; let y := fval f b
    if x.isNaN || y.isNaN then (canonNaN f, sigNV x ||| sigNV y)
    else
      let less := xlt x y || (!xlt y x && x.neg && !y.neg)
      (if less != greater then a else b, 0)
  else
    let less := decide (ival f a < ival f b)
    (if less != greater then a else b, 0)

/-- |a| (R234). -/
def absLane (f : Fmt) (sat : Bool) (a : Nat) : Nat × Flg :=
  if f.isF then (a % 2 ^ magBits f, 0) else intResult f sat ((ival f a).natAbs : Int)

/-- −a (R234). -/
def negLane (f : Fmt) (sat : Bool) (a : Nat) : Nat × Flg :=
  if f.isF then ((a + 2 ^ magBits f) % 2 ^ (magBits f + 1), 0)
  else if f.signed then intResult f sat (-(ival f a))
  else if sat then (0, if a = 0 then 0 else fSAT) else intResult f false (-(ival f a))

/-- VSHL of one lane (R235). -/
def shlLane (f : Fmt) (sat : Bool) (a s : Nat) : Nat × Flg :=
  intResult f sat (ival f a * 2 ^ Nat.min s 64)

/-- VSHR of one lane (R235). -/
def shrLane (f : Fmt) (a s : Nat) : Nat × Flg := (a / 2 ^ Nat.min s (8 * f.width), 0)

/-- VSAR of one lane (R235): copies of the top bit, whatever the signedness. -/
def sarLane (f : Fmt) (a s : Nat) : Nat × Flg :=
  let n := 8 * f.width
  let v : Int := if 2 ^ (n - 1) ≤ a then (a : Int) - 2 ^ n else a
  (wrapInt n (v / 2 ^ Nat.min s n), 0)

/-! ## Compares and classes (R237, R238) -/

/-- A predicate of R237 on two lanes, with NV for a signalling operand. -/
def cmpLane (f : Fmt) (p : Pred) (a b : Nat) : Bool × Flg :=
  if f.isF then
    let x := fval f a; let y := fval f b
    let un := x.isNaN || y.isNaN
    let lt := xlt x y; let gt := xlt y x; let eq := !lt && !gt
    let v := match p with
      | .eq => !un && eq | .ne => un || !eq | .lt => !un && lt | .le => !un && !gt
      | .gt => !un && gt | .ge => !un && !lt | .uno => un | .ord => !un
    (v, sigNV x ||| sigNV y)
  else
    let x := ival f a; let y := ival f b
    let v := match p with
      | .eq => decide (x = y) | .ne => decide (x ≠ y) | .lt => decide (x < y) | .le => decide (x ≤ y)
      | .gt => decide (y < x) | .ge => decide (y ≤ x) | .uno => false | .ord => true
    (v, 0)

/-- The class code of R238. -/
def classLane (f : Fmt) (a : Nat) : Nat :=
  let neg := a / 2 ^ magBits f % 2 == 1
  let mag := a % 2 ^ magBits f
  match fval f a with
  | .nan true => 9
  | .nan false => 8
  | .inf _ => if neg then 0 else 7
  | .fin .. =>
    if mag = 0 then (if neg then 3 else 4)
    else if mag < 2 ^ fracBits f then (if neg then 2 else 5)
    else (if neg then 1 else 6)

/-! ## Functions (R242 to R245) -/

/-- VRCP (R242). -/
def rcpLane (a : Nat) : Nat × Flg :=
  match fval .fp32 a with
  | .nan s => (canonNaN .fp32, sigNV (.nan s))
  | .inf neg => (withSign .fp32 neg 0, 0)
  | .fin neg p q =>
    if p = 0 then (withSign .fp32 neg (infMag .fp32), fDZ)
    else if p * 2 ^ 128 ≤ q then (withSign .fp32 neg (infMag .fp32), fOF ||| fNX)
    else roundTo .fp32 .rtz false 0 (.fin neg q p)

/-- VRSQ (R242): ±0 gives the infinity of its sign. -/
def rsqLane (a : Nat) : Nat × Flg :=
  match fval .fp32 a with
  | .nan s => (canonNaN .fp32, sigNV (.nan s))
  | .inf true => (canonNaN .fp32, fNV)
  | .inf false => (0, 0)
  | .fin neg p q =>
    if p = 0 then (withSign .fp32 neg (infMag .fp32), fDZ)
    else if neg then (canonNaN .fp32, fNV)
    else let (r, d) := xsqrt q p; roundTo .fp32 .rtz false 0 (.fin false r d)

/-- VSQRT (R244). -/
def sqrtLane (f : Fmt) (rm : Rm) (draw a : Nat) : Nat × Flg :=
  match fval f a with
  | .nan s => (canonNaN f, sigNV (.nan s))
  | .inf true => (canonNaN f, fNV)
  | .inf false => (infMag f, 0)
  | .fin neg p q =>
    if p = 0 then (withSign f neg 0, 0)
    else if neg then (canonNaN f, fNV)
    else let (r, d) := xsqrt p q; roundTo f rm false draw (.fin false r d)

/-- VEXP2F (R243). -/
def exp2Lane (a : Nat) : Nat × Flg :=
  match fval .fp32 a with
  | .nan s => (canonNaN .fp32, sigNV (.nan s))
  | .inf _ => (canonNaN .fp32, fNV)
  | .fin neg p q =>
    if q < 2 * p then (canonNaN .fp32, fNV)
    else if p = 0 then (0x3F800000, 0)
    else
      let y := 2 * exp2Fixed (p * 2 ^ 149 / q) + 1
      roundTo .fp32 .rtz false 0 (if neg then .fin false (2 ^ 201) y else .fin false y (2 ^ 201))

/-- VLOG2F (R243). -/
def log2Lane (a : Nat) : Nat × Flg :=
  match fval .fp32 a with
  | .nan s => (canonNaN .fp32, sigNV (.nan s))
  | .inf true => (canonNaN .fp32, fNV)
  | .inf false => (infMag .fp32, 0)
  | .fin neg p q =>
    if p = 0 then (withSign .fp32 true (infMag .fp32), fDZ)
    else if neg then (canonNaN .fp32, fNV)
    else roundTo .fp32 .rtz false 0 (xlog2 p q)

/-- VRINT (R244): never NX. -/
def rintLane (f : Fmt) (rm : Rm) (draw a : Nat) : Nat × Flg :=
  match fval f a with
  | .nan s => (canonNaN f, sigNV (.nan s))
  | .inf neg => (withSign f neg (infMag f), 0)
  | .fin neg p q =>
    let (n, _) := roundAt rm neg false draw p q 0
    ((roundTo f .rne false 0 (.fin neg n 1)).1, 0)

/-- The signed integer format of a float's width (R244). -/
def intOfWidth (f : Fmt) : Fmt := if f.width = 4 then .int32 else .int16

/-- VFINT (R244). -/
def fintLane (f : Fmt) (rm : Rm) (draw a : Nat) : Nat × Flg :=
  floatToInt (intOfWidth f) rm draw (fval f a)

/-- VEXPI (R245). Exponents beyond ±2000 round as ±2000 does in every format and mode. -/
def expiLane (f : Fmt) (rm : Rm) (draw a e : Nat) : Nat × Flg :=
  match fval f a with
  | .nan s => (canonNaN f, sigNV (.nan s))
  | .inf neg => (withSign f neg (infMag f), 0)
  | .fin neg p q =>
    match max (-2000) (min 2000 (ival (intOfWidth f) e)) with
    | .ofNat k => roundTo f rm false draw (.fin neg (p * 2 ^ k) q)
    | .negSucc k => roundTo f rm false draw (.fin neg p (q * 2 ^ (k + 1)))

/-- VGETEXP (R245). -/
def getExpLane (f : Fmt) (a : Nat) : Nat × Flg :=
  match fval f a with
  | .nan s => (canonNaN f, sigNV (.nan s))
  | .inf _ => (infMag f, 0)
  | .fin _ p q =>
    if p = 0 then (withSign f true (infMag f), fDZ) else ((roundTo f .rne false 0 (xint (ratLog2 p q))).1, 0)

/-- VGETMANT (R245). -/
def getMantLane (f : Fmt) (a : Nat) : Nat × Flg :=
  match fval f a with
  | .nan s => (canonNaN f, sigNV (.nan s))
  | .inf _ => (canonNaN f, fNV)
  | .fin neg p q =>
    if p = 0 then (a, 0)
    else
      let (r, d) := match ratLog2 p q with
        | .ofNat k => (p, q * 2 ^ k)
        | .negSucc k => (p * 2 ^ (k + 1), q)
      ((roundTo f .rne false 0 (.fin neg r d)).1, 0)

/-! ## Block-scaled values and quantisation (R146 to R149, R159, R160) -/

/-- The value of a BS8 element under its block's scale (R147). -/
def bs8Val (scale elem : Nat) : XVal :=
  match fval .sc20 (scale % 2 ^ 20), fval .e4m3 elem with
  | .fin _ r t, .fin neg p q => .fin neg (p * r) (q * t)
  | _, _ => .nan false

/-- The BF16 encodings of the Q4N levels (R148). -/
def q4nLevels : List Nat :=
  [0xBF80, 0xBF1B, 0xBEE4, 0xBEAA, 0xBE74, 0xBE1E, 0xBD9B, 0x0000,
   0x3D88, 0x3E09, 0x3E53, 0x3E91, 0x3EBE, 0x3EF5, 0x3F21, 0x3F80]

/-- The value of a Q4N level. -/
def q4nLevel (code : Nat) : XVal := fval .bf16 (q4nLevels.getD (code % 16) 0)

/-- UE5M3: 2^(e − 31) × (1 + m/8) (R149), as a ratio. -/
def ue5m3 (b : Nat) : Nat × Nat := ((8 + b % 8) * 2 ^ (b / 8 % 32), 2 ^ 34)

/-- The value of a Q4N element under its block and superblock scales (R149). -/
def q4nVal (sc20 ue code : Nat) : XVal :=
  match fval .sc20 (sc20 % 2 ^ 20), q4nLevel code with
  | .fin _ r t, .fin neg p q => let (u, v) := ue5m3 ue; .fin neg (p * r * u) (q * t * v)
  | _, _ => .nan false

/-- The largest magnitude of finite values, as a ratio. -/
def maxAbs (l : List XVal) : Nat × Nat :=
  l.foldl (fun m x => match x with | .fin _ p q => if m.1 * q < p * m.2 then (p, q) else m | _ => m) (0, 1)

/-- Quantises the elements of one BS8 block: its scale word, its elements and the flags (R159). `draw k`
is the draw of element k of the block. -/
def quantBs8 (rm : Rm) (draw : Nat → Nat) (l : List XVal) : Nat × List Nat × Flg :=
  if l.any XVal.special then (canonNaN .sc20, l.map (fun _ => 0), fNV)
  else
    let (p, q) := maxAbs l
    if p = 0 then (0, l.map (fun x => withSign .e4m3 x.neg 0), 0)
    else
      let s := Nat.max (2 ^ 12) (roundTo .sc20 .rup false 0 (.fin false p (448 * q))).1
      match fval .sc20 s with
      | .fin _ r t =>
        let es := l.mapIdx fun k x =>
          match x with
          | .fin neg a b => roundTo .e4m3 rm false (draw k) (.fin neg (a * t) (b * r))
          | _ => (0, 0)
        (s, es.map Prod.fst, es.foldl (fun fl x => fl ||| x.2) 0)
      | _ => (s, l.map (fun _ => 0), 0)

/-- The smallest UE5M3 code of value at least p/q, 0xFF when none is (R160), and whether it was clamped. -/
def ueCeil (p q : Nat) : Nat × Flg :=
  match (List.range 256).find? (fun c => decide (p * (ue5m3 c).2 ≤ q * (ue5m3 c).1)) with
  | some c => (c, 0)
  | none => (0xFF, fSAT)

/-- The code of one Q4N element x = ±p/q among the levels scaled by r/t (R160). -/
def q4nCode (rm : Rm) (draw : Nat) (neg : Bool) (p q r t : Nat) : Nat × Flg :=
  -- everything over the common denominator 128·…: compare level × r × q with p × t
  let lev (c : Nat) : Int := match q4nLevel c with
    | .fin n a b => (if n then -1 else 1) * ((a * (2 ^ 40 / b) * r * q : Nat) : Int)
    | _ => 0
  let x : Int := (if neg then -1 else 1) * ((p * t * 2 ^ 40 : Nat) : Int)
  if x < lev 0 then (0, fSAT ||| fNX)
  else if lev 15 < x then (15, fSAT ||| fNX)
  else
    let lo := ((List.range 16).filter (fun c => decide (lev c ≤ x))).getLastD 0
    if lev lo = x then (lo, 0)
    else
      let hi := lo + 1
      let dl := x - lev lo; let dh := lev hi - x
      -- the bracketing level nearer zero is `lo` for x > 0 and `hi` for x < 0
      let near0 := if 0 < x then lo else hi
      let far0 := if 0 < x then hi else lo
      let c := match rm with
        | .rne => if dh < dl then hi else lo
        | .rna => if dl < dh then lo else if dh < dl then hi else far0
        | .rtz => near0
        | .rdn => lo
        | .rup => hi
        | .sr => if draw < (2 ^ 32 * (x - lev near0).natAbs) / (lev hi - lev lo).natAbs then far0 else near0
      (c, fNX)

/-- Quantises one Q4N superblock, in blocks of 64: its SC20 word, its block scales, its codes and the
flags (R160). -/
def quantQ4n (rm : Rm) (draw : Nat → Nat) (l : List XVal) : Nat × List Nat × List Nat × Flg :=
  let nb := (l.length + 63) / 64
  if l.any XVal.special then (canonNaN .sc20, List.replicate nb 0, l.map (fun _ => 7), fNV)
  else
    let (p, q) := maxAbs l
    if p = 0 then (0, List.replicate nb 0xF8, l.map (fun _ => 7), 0)
    else
      -- the smallest SC20 at least A, clamped to the largest
      let (s, fs) := roundTo .sc20 .rup true 0 (.fin false p q)
      let s := Nat.max (2 ^ 12) s
      match fval .sc20 s with
      | .fin _ r t =>
        let us := (List.range nb).map fun b =>
          let (a, c) := maxAbs ((l.drop (64 * b)).take 64)
          ueCeil (a * t) (c * r)
        let cs := l.mapIdx fun k x =>
          match x with
          | .fin neg a b =>
            let (u, v) := ue5m3 (us.getD (k / 64) (0, 0)).1
            q4nCode rm (draw k) neg a b (u * r) (v * t)
          | _ => (7, 0)
        (s, us.map Prod.fst, cs.map Prod.fst,
          (fs &&& fSAT) ||| us.foldl (fun fl x => fl ||| x.2) 0 ||| cs.foldl (fun fl x => fl ||| x.2) 0)
      | _ => (s, [], [], 0)

/-- VQUANT of a row of n elements to BS8 (R240): elements, then the scale words. -/
def quantRowBs8 (f : Fmt) (rm : Rm) (draw : Nat → Nat) (row : Nat) : Nat × Flg :=
  let n := f.lanes
  let bs := (List.range (n / 32)).map fun b =>
    quantBs8 rm (fun k => draw (32 * b + k)) ((List.range 32).map fun k => fval f (laneOf f.width row (32 * b + k)))
  (packLanes 1 (bs.flatMap (fun x => x.2.1)) + packLanes 4 (bs.map (fun x => x.1)) * 2 ^ (8 * n),
    bs.foldl (fun fl x => fl ||| x.2.2) 0)

/-- VQUANT of lanes 0 to 255 to Q4N (R240): codes, block scales, the SC20 word. -/
def quantRowQ4n (f : Fmt) (rm : Rm) (draw : Nat → Nat) (row : Nat) : Nat × Flg :=
  let (s, us, cs, fl) := quantQ4n rm draw ((List.range 256).map fun k => fval f (laneOf f.width row k))
  let codes := cs.foldr (fun c acc => acc * 16 + c) 0
  (codes + packLanes 1 us * 2 ^ 1024 + s * 2 ^ 1056, fl)

/-- VDEQ of a BS8 row (R241). -/
def deqRowBs8 (df : Fmt) (rm : Rm) (draw : Nat → Nat) (row : Nat) : Nat × Flg :=
  let n := df.lanes
  collect df.width n fun i =>
    roundTo df rm false (draw i) (bs8Val (laneOf 4 (row / 2 ^ (8 * n)) (i / 32)) (laneOf 1 row i))

/-- VDEQ of a Q4N row (R241): lanes 256 up are zero. -/
def deqRowQ4n (df : Fmt) (rm : Rm) (draw : Nat → Nat) (row : Nat) : Nat × Flg :=
  collect df.width 256 fun i =>
    roundTo df rm false (draw i)
      (q4nVal (row / 2 ^ 1056 % 2 ^ 32) (laneOf 1 row (128 + i / 64)) (row / 2 ^ (4 * i) % 16))

/-- VCVT (R239): the row and the flags; `act` speaks of destination lanes. -/
def cvtRow (e : LaneEnv) (df : Fmt) (part row : Nat) : Nat × Flg :=
  let ws := e.f.width; let wd := df.width
  let ns := 768 / ws; let nd := 768 / wd
  let conv (j v : Nat) := convElem e.f df e.rm e.sat (e.draw j) (v % (if e.f = .sc20 then 2 ^ 20 else 2 ^ (8 * ws)))
  collect wd nd fun j =>
    if !e.act j then (0, 0)
    else if wd < ws then
      (if part * ns ≤ j && j < (part + 1) * ns then conv j (laneOf ws row (j - part * ns)) else (0, 0))
    else if ws < wd then conv j (laneOf ws row (part * nd + j))
    else conv j (laneOf ws row j)

/-! ## Groups, reductions and scan (R231, R247, R248, R253) -/

/-- Lanes of a group of a reduction, VSCAN or VCOMP (R231). -/
def redGroup (f : Fmt) (gsz : Nat) : Nat := if gsz = 0 then f.lanes else 2 ^ gsz

/-- Lanes of a group of a cross-lane form (R231). -/
def crossGroup (f : Fmt) (gsz : Nat) : Nat :=
  if gsz = 0 then (if f.width = 1 then 256 else f.lanes) else 2 ^ gsz

/-- Leaf of R247. -/
def leafLane (f : Fmt) (v : Nat) : Nat × Flg :=
  if f.isF && (fval f v).isNaN then (canonNaN f, sigNV (fval f v)) else (v, 0)

/-- Combine of VREDADD and VSCAN, with the draw of a lane (R247, R248). -/
def combAdd (e : LaneEnv) (lane x y : Nat) : Nat × Flg :=
  if e.f.isF then fResult e.f e.rm (e.draw lane) 0 (xadd e.rm (fval e.f x) (fval e.f y))
  else intResult e.f e.sat (ival e.f x + ival e.f y)

/-- A lane's value for R167. -/
def rankVal (f : Fmt) (v : Nat) : XVal := if f.isF then fval f v else xint (ival f v)

/-- Combine of VREDAMAX: the one that ranks first, the lower lane on a tie. -/
def combAmax (f : Fmt) (x y : Nat) : Nat := if rankAbove (rankVal f y) (rankVal f x) then y else x

/-- One level of the tree of R247 at level `l` for the group at `g0`. -/
def treeLevel (comb : Nat → Nat → Nat → Nat × Flg) (g0 l : Nat) :
    Nat → List (Option Nat) → List (Option Nat) × Flg
  | _, [] => ([], 0)
  | _, [x] => ([x], 0)
  | j, x :: y :: r =>
    let (rest, fl) := treeLevel comb g0 l (j + 1) r
    match x, y with
    | none, y => (y :: rest, fl)
    | x, none => (x :: rest, fl)
    | some x, some y =>
      let (v, fv) := comb (g0 + j * 2 ^ l + 2 ^ (l - 1)) x y
      (some v :: rest, fl ||| fv)

/-- The tree of R247 from level `l` up; ten levels reduce the 768 lanes of the longest group. -/
def treeFold (comb : Nat → Nat → Nat → Nat × Flg) (g0 : Nat) : Nat → Nat → List (Option Nat) → Option Nat × Flg
  | 0, _, nodes => (nodes.head?.join, 0)
  | k + 1, l, nodes =>
    let (nx, fl) := treeLevel comb g0 l 0 nodes
    let (r, fr) := treeFold comb g0 k (l + 1) nx
    (r, fl ||| fr)

/-- A reduction over every group of `m` lanes: the result in the group's first lane, the others 0 (R247). -/
def reduceRow (e : LaneEnv) (m : Nat) (leaf : Nat → Nat × Flg) (comb : Nat → Nat → Nat → Nat × Flg) (row : Nat) :
    Nat × Flg :=
  collect e.f.width e.n fun i =>
    if i % m ≠ 0 then (0, 0)
    else
      let leaves := (List.range m).map fun j =>
        if e.act (i + j) then (some (leaf (laneOf e.f.width row (i + j)))) else none
      let (v, fl) := treeFold comb i 10 1 (leaves.map (Option.map Prod.fst))
      (v.getD 0, leaves.foldl (fun fl x => match x with | some y => fl ||| y.2 | none => fl) fl)

/-- One group of VSCAN (R248): the running sums from lane `g0` on. -/
def scanGroup (e : LaneEnv) (row : Nat) : Nat → Nat → Option Nat → List Nat × Flg
  | _, 0, _ => ([], 0)
  | i, k + 1, s =>
    if !e.act i then let (r, fl) := scanGroup e row (i + 1) k s; (0 :: r, fl)
    else
      let (v, fv) := leafLane e.f (laneOf e.f.width row i)
      let (x, fx) := match s with | none => (v, 0) | some y => combAdd e i y v
      let (r, fl) := scanGroup e row (i + 1) k (some x)
      (x :: r, fl ||| fv ||| fx)

/-- VSCAN. -/
def scanRow (e : LaneEnv) (m row : Nat) : Nat × Flg :=
  let gs := (List.range (e.n / m)).map fun g => scanGroup e row (g * m) m none
  (packLanes e.f.width (gs.flatMap Prod.fst), gs.foldl (fun fl x => fl ||| x.2) 0)

/-- VCOMP (R253): lane i is kept if fewer than k active lanes of its group rank before it. -/
def compRow (e : LaneEnv) (m k row : Nat) : Nat :=
  (collect e.f.width e.n fun i =>
    let v := rankVal e.f (laneOf e.f.width row i)
    let g0 := i / m * m
    let before := ((List.range m).filter fun j =>
      let u := rankVal e.f (laneOf e.f.width row (g0 + j))
      e.act (g0 + j) && (rankAbove u v || (!rankAbove v u && g0 + j < i))).length
    (if e.act i && before < k then laneOf e.f.width row i else 0, 0)).1

/-! ## Cross-lane forms (R249 to R252) -/

/-- A data-source lane: 0 where inactive (R249). -/
def srcLane (e : LaneEnv) (row i : Nat) : Nat := if e.act i then laneOf e.f.width row i else 0

/-- Every lane of every group of `m` lanes by `g group-start index-in-group`. -/
def crossRow (e : LaneEnv) (m : Nat) (g : Nat → Nat → Nat) : Nat :=
  (collect e.f.width e.n fun i => (g (i / m * m) (i % m), 0)).1

/-- VPERM (R250). -/
def permRow (e : LaneEnv) (m a b : Nat) : Nat :=
  crossRow e m fun g0 i =>
    let j := laneOf e.f.width b (g0 + i)
    if j < m then srcLane e a (g0 + j) else 0

/-- VBCAST (R250). -/
def bcastRow (e : LaneEnv) (m a b : Nat) : Nat :=
  let j := laneOf e.f.width b 0
  crossRow e m fun g0 _ => if j < m then srcLane e a (g0 + j) else 0

/-- VSHUF (R251). -/
def shufRow (e : LaneEnv) (m : Nat) (pat : ShufPat) (a b : Nat) : Nat :=
  let h := m / 2
  crossRow e m fun g0 i =>
    match pat with
    | .zlo => srcLane e (if i % 2 = 0 then a else b) (g0 + i / 2)
    | .zhi => srcLane e (if i % 2 = 0 then a else b) (g0 + h + i / 2)
    | .uev => if i < h then srcLane e a (g0 + 2 * i) else srcLane e b (g0 + 2 * (i - h))
    | .uod => if i < h then srcLane e a (g0 + 2 * i + 1) else srcLane e b (g0 + 2 * (i - h) + 1)

/-- VROT (R252). -/
def rotRow (e : LaneEnv) (m a b : Nat) : Nat :=
  let s := laneOf e.f.width b 0
  crossRow e m fun g0 i => srcLane e a (g0 + (i + s) % m)

/-- VSLIDE (R252). -/
def slideRow (e : LaneEnv) (m a b : Nat) : Nat :=
  let n := 8 * e.f.width
  let v := laneOf e.f.width b 0
  let t : Int := if 2 ^ (n - 1) ≤ v then (v : Int) - 2 ^ n else v
  crossRow e m fun g0 i =>
    let j := (i : Int) + t
    if 0 ≤ j ∧ j < m then srcLane e a (g0 + j.toNat) else 0

/-- VIOTA (R236). -/
def iotaRow (e : LaneEnv) (a : Nat) : Nat × Flg :=
  mapLanes e fun i =>
    ((laneOf e.f.width a i + ((List.range i).filter e.act).length) % 2 ^ (8 * e.f.width), 0)

/-- VRNG (R254). -/
def rngRow (e : LaneEnv) : Nat × Flg := mapLanes e fun i => (e.draw i % 2 ^ (8 * e.f.width), 0)

end Sys2Proof.Machine
end

