-- ==== Sys2Proof/Machine/TileOps.lean ====
section
/-! DEFINITION. What the matrix array and the gauge unit compute on tile rows and Z rows (R139, R140, R150,
R158 to R166, R260, R261, R279 to R281, R288 to R293), without the state they run in. A tile row is its
256 bytes and its 32-byte scale side store, both as numbers. -/

namespace Sys2Proof.Machine

/-! ## Shapes and formats (R139, R260, R261) -/

/-- ROWS of a TSHAPE value. -/
def shRows (s : W64) : Nat := s.toNat % 256
/-- COLS. -/
def shCols (s : W64) : Nat := s.toNat / 2 ^ 16 % 1024
/-- EW. -/
def shEw (s : W64) : Nat := s.toNat / 2 ^ 26 % 4
/-- SS. -/
def shSs (s : W64) : Nat := s.toNat / 2 ^ 28 % 4
/-- An empty shape (R260). -/
def shEmpty (s : W64) : Bool := shRows s == 0 || shCols s == 0
/-- Bytes of a row of a shape (R260). -/
def shRowBytes (s : W64) : Nat := shCols s * 2 ^ shEw s / 2

/-- Whether TSHAPE accepts a value, whose reserved bits are already zero (R260). -/
def shapeOk (s : W64) : Bool :=
  let r := shRows s; let c := shCols s; let ew := shEw s; let ss := shSs s
  if r == 0 || c == 0 then r == 0 && c == 0 && ew == 0 && ss == 0
  else r ≤ 192 && c ≤ 512 && shRowBytes s ≤ 256
    && ((ss == 0 && ew != 0) || (ss == 1 && ew == 1 && c % 32 == 0) || (ss == 2 && ew == 0 && c % 64 == 0))

/-- The matrix-operand column of R139. -/
def isMatrixFmt : Fmt → Bool
  | .fp32 | .bf16 | .fp16 | .e4m3 | .e5m2 | .int8 | .bs8 | .q4n => true
  | _ => false

/-- EW, SS, largest K and group q of a format (R261). -/
def fmtShape : Fmt → Nat × Nat × Nat × Nat
  | .fp32 => (3, 0, 32, 4)
  | .bf16 | .fp16 => (2, 0, 128, 16)
  | .bs8 => (1, 1, 256, 32)
  | .q4n => (0, 2, 512, 64)
  | _ => (1, 0, 256, 32)

/-- Whether a format fits a shape (R261). -/
def fits (f : Fmt) (s : W64) : Bool :=
  let (ew, ss, _, _) := fmtShape f
  !shEmpty s && shEw s == ew && shSs s == ss

/-- A tile row: its bytes and its side store. -/
abbrev TRow := Nat × Nat

/-- The bits of element `k` of a row of element width EW. -/
def elemBits (ew row k : Nat) : Nat := row / 2 ^ (4 * 2 ^ ew * k) % 2 ^ (4 * 2 ^ ew)

/-- The exact value of element `k` (R147, R149, R279 step 1). -/
def tileVal (f : Fmt) (r : TRow) (k : Nat) : XVal :=
  match f with
  | .bs8 => bs8Val (laneOf 4 r.2 (k / 32)) (laneOf 1 r.1 k)
  | .q4n => q4nVal (laneOf 4 (r.2 / 2 ^ 64) (k / 256)) (laneOf 1 r.2 (k / 64)) (elemBits 0 r.1 k)
  | .int8 => xint (ival .int8 (laneOf 1 r.1 k))
  | f => fval f (elemBits (fmtShape f).1 r.1 k)

/-! ## The summation of R162 to R165 -/

/-- A value whose denominator divides 2^300, in units of 2^−300. -/
def fix300 : XVal → Int
  | .fin neg p q => (if neg then -1 else 1) * ((p * (2 ^ 300 / q) : Nat) : Int)
  | _ => 0

/-- The element's own value in a group, before the scales (R162, R163). -/
def rawVal (f : Fmt) (r : TRow) (k : Nat) : XVal :=
  match f with
  | .bs8 => fval .e4m3 (laneOf 1 r.1 k)
  | .q4n => q4nLevel (elemBits 0 r.1 k)
  | f => tileVal f r k

/-- The scale of group `g` as a ratio, `none` for a NaN scale (R162, R163). -/
def groupScale (f : Fmt) (r : TRow) (g : Nat) : Option (Nat × Nat) :=
  match f with
  | .bs8 => match fval .sc20 (laneOf 4 r.2 g % 2 ^ 20) with | .fin _ p q => some (p, q) | _ => none
  | .q4n =>
    match fval .sc20 (laneOf 4 (r.2 / 2 ^ 64) (g / 4) % 2 ^ 20) with
    | .fin _ p q => let (u, v) := ue5m3 (laneOf 1 r.2 g); some (p * u, q * v)
    | _ => none
  | _ => some (1, 1)

/-- t of one group, with its flags (R162, R163). -/
def groupSum (f : Fmt) (a b : TRow) (g kmax : Nat) : XVal × Flg :=
  let w := if f = .q4n then 64 else 32
  let ks := (List.range w).map (w * g + ·) |>.filter (· < kmax)
  let xs := ks.map fun k => (rawVal f a k, rawVal f b k)
  let ps := xs.map fun (x, y) => xmul x y
  let sg := xs.foldl (fun fl (x, y) => fl ||| sigNV x ||| sigNV y) 0
  let bad := ps.any (· == none)
  let pinf := ps.any (· == some (.inf false)); let ninf := ps.any (· == some (.inf true))
  let nv := sg ||| (if bad || (pinf && ninf) then fNV else 0)
  match groupScale f a g, groupScale f b g with
  | some (p, q), some (r, t) =>
    if bad || (pinf && ninf) || ps.any (fun x => match x with | some y => y.isNaN | none => true) then
      (.nan false, nv)
    else if f = .q4n ∧ (p = 0 ∨ r = 0) then (.fin false 0 1, nv)
    else if pinf then (.inf false, nv)
    else if ninf then (.inf true, nv)
    else
      let s := ps.foldl (fun (acc : Int) x => acc + (match x with | some y => fix300 y | none => 0)) 0
      let s : Int := s * (p * r : Nat)
      if s = 0 then
        let allNeg := ks.length = w && ps.all (fun x => match x with | some (.fin true 0 _) => true | _ => false)
        (.fin allNeg 0 1, nv)
      else (.fin (decide (s < 0)) s.natAbs (2 ^ 300 * q * t), nv)
  | _, _ => (.nan false, nv)

/-- RoundF32(acc + t, RNE) on encodings. -/
def accAdd (acc t : Nat) : Nat × Flg :=
  let x := fval .fp32 acc; let y := fval .fp32 t
  fResult .fp32 .rne 0 (sigNV x ||| sigNV y) (xadd .rne x y)

/-- Dot of R273: the new Z element and the flags. `z` is the accumulator's encoding. -/
def dotElem (f : Fmt) (z : Nat) (a b : TRow) (kmax : Nat) : Nat × Flg :=
  match f with
  | .int8 =>
    let s := (List.range kmax).foldl (fun acc k =>
      acc + ival .int8 (laneOf 1 a.1 k) * ival .int8 (laneOf 1 b.1 k)) (ival .int32 z)
    (wrapInt 32 s, if s < -(2 ^ 31) ∨ 2 ^ 31 ≤ s then fIOV else 0)
  | .fp32 =>
    (List.range kmax).foldl (fun (acc, fl) k =>
      let x := tileVal .fp32 a k; let y := tileVal .fp32 b k; let c := fval .fp32 acc
      let (r, fr) := fResult .fp32 .rne 0 (sigNV x ||| sigNV y ||| sigNV c) (opFma .rne x y c)
      (r, fl ||| fr)) (z, 0)
  | f =>
    let w := if f = .q4n then 64 else 32
    (List.range ((kmax + w - 1) / w)).foldl (fun (acc, fl) g =>
      let (s, fs) := groupSum f a b g kmax
      let (t, ft) := roundTo .fp32 .rne false 0 s
      let (r, fr) := accAdd acc t
      (r, fl ||| fs ||| ft ||| fr)) (z, 0)

/-- The block of an MMA (R273): rows of Z as numbers, one result row for each A row, with columns
`zc` to `zc + N − 1` replaced; `zs` are the old rows. -/
def mmaRows (f : Fmt) (acc : Bool) (zc kmax : Nat) (as bs : List TRow) (zs : List Nat) : List Nat × Flg :=
  let rs := (as.zip zs).map fun (a, z) =>
    let es := bs.mapIdx fun j b => dotElem f (if acc then laneOf 4 z (zc + j) else 0) a b kmax
    let m := 2 ^ (32 * es.length)
    (z - z / 2 ^ (32 * zc) % m * 2 ^ (32 * zc) + packLanes 4 (es.map Prod.fst) * 2 ^ (32 * zc),
      es.foldl (fun fl x => fl ||| x.2) 0)
  (rs.map Prod.fst, rs.foldl (fun fl x => fl ||| x.2) 0)

/-! ## Writing rows of elements in a format (R158 to R160, R279, R280) -/

/-- One exact value into an element of a format that is not block-scaled (R158); `int` says that the source is
an integer. -/
def convVal (df : Fmt) (rm : Rm) (sat int : Bool) (draw : Nat) (x : XVal) : Nat × Flg :=
  if df.isI then
    if int then
      match x with | .fin neg p _ => intResult df sat (if neg then -(p : Int) else p) | _ => (0, 0)
    else floatToInt df rm draw x
  else let (r, fl) := roundTo df rm sat draw x; (r, fl ||| sigNV x)

/-- A row of values written in a format: its bytes and its scales (for BS8 the SC20 words, for Q4N the block
scales and the SC20 words), and the flags. `draw k` is the draw of element k. -/
def writeRow (df : Fmt) (rm : Rm) (sat int : Bool) (draw : Nat → Nat) (xs : List XVal) :
    Nat × List Nat × List Nat × Flg :=
  match df with
  | .bs8 =>
    let bs := (List.range (xs.length / 32)).map fun b =>
      quantBs8 rm (fun k => draw (32 * b + k)) ((xs.drop (32 * b)).take 32)
    (packLanes 1 (bs.flatMap (·.2.1)), bs.map (·.1), [], bs.foldl (fun fl x => fl ||| x.2.2) 0)
  | .q4n =>
    let cs := (List.range ((xs.length + 255) / 256)).map fun c =>
      quantQ4n rm (fun k => draw (256 * c + k)) ((xs.drop (256 * c)).take 256)
    ((cs.flatMap (·.2.2.1)).foldr (fun c acc => acc * 16 + c) 0, cs.flatMap (·.2.1), cs.map (·.1),
      cs.foldl (fun fl x => fl ||| x.2.2.2) 0)
  | df =>
    let es := xs.mapIdx fun k x => convVal df rm sat int (draw k) x
    (packLanes df.width (es.map Prod.fst), [], [], es.foldl (fun fl x => fl ||| x.2) 0)

/-- The side store that a row's scales make (R150). -/
def sideOf (df : Fmt) (s1 s2 : List Nat) : Nat :=
  match df with
  | .bs8 => packLanes 4 s1
  | .q4n => packLanes 1 s1 + packLanes 4 s2 * 2 ^ 64
  | _ => 0

/-- MCVT of the rows of a tile (R279); the draws run row-major over the destination. -/
def cvtTile (sf df : Fmt) (rm : Rm) (sat : Bool) (draw : Nat → Nat) (cols : Nat) (rows : List TRow) :
    List TRow × Flg :=
  let rs := rows.mapIdx fun r row =>
    let (d, s1, s2, fl) := writeRow df rm sat (sf == .int8) (fun k => draw (r * cols + k))
      ((List.range cols).map (tileVal sf row))
    ((d, sideOf df s1 s2), fl)
  (rs.map Prod.fst, rs.foldl (fun fl x => fl ||| x.2) 0)

/-- MTRN (R278): element (c, r) from element (r, c). -/
def transposeTile (ew cols : Nat) (rows : List TRow) : List TRow :=
  (List.range cols).map fun c =>
    (rows.foldr (fun r acc => acc * 2 ^ (4 * 2 ^ ew) + elemBits ew r.1 c) 0, 0)

/-- The rows that MTRN leaves in a Td: the elements given, every unused byte zero (R261), and the scales of a shape with
BS8 scales, four bytes for each block of 32 columns, as they were, since MTRN writes elements alone (R278; log 71). -/
def keepScales (ss cols : Nat) (old new : List TRow) : List TRow :=
  new.mapIdx fun i r => (r.1, if ss = 1 then (old[i]?.getD (0, 0)).2 % 2 ^ cols else 0)

/-- Whether MDRAIN reads Z as INT32 for this format (R280). -/
def drainInt (df : Fmt) : Bool := df == .int8 || df == .int32

/-- The formats MDRAIN writes (R280). -/
def drainFmt (df : Fmt) : Bool :=
  match df with
  | .fp32 | .bf16 | .fp16 | .e4m3 | .e5m2 | .bs8 | .q4n | .int8 | .int32 => true
  | _ => false

/-- Bits of one element in memory. -/
def elemW (f : Fmt) : Nat := if f = .q4n then 4 else 8 * f.width

/-- Byte lengths of a drained copy: elements, first scale array, second, each start aligned to 64 (R281). -/
def drainLen (f : Fmt) (rows cols : Nat) : Nat × Nat × Nat :=
  let up n := (n + 63) / 64 * 64
  let e := rows * cols * elemW f / 8
  match f with
  | .bs8 => (e, up e, up e + rows * (4 * (cols / 32)))
  | .q4n => (up e, up (up e + rows * (cols / 64)), up (up e + rows * (cols / 64)) + rows * 4 * ((cols + 255) / 256))
  | _ => (e, e, e)

/-- `n` bytes of a number, low byte first (R3). -/
def bytesOf (n v : Nat) : List Byte := (List.range n).map fun i => BitVec.ofNat 8 (v / 2 ^ (8 * i))

/-- The number that bytes make, low byte first (R3). -/
def natOf (l : List Byte) : Nat := l.foldr (fun b acc => acc * 256 + b.toNat) 0

/-- One copy of MDRAIN as pieces (offset, bytes), with its flags (R280, R281): `vals` are its rows. -/
def drainCopy (df : Fmt) (rm : Rm) (sat : Bool) (draw : Nat → Nat) (cols : Nat) (vals : List (List XVal)) :
    List (Nat × List Byte) × Flg :=
  let rs := vals.mapIdx fun r xs => writeRow df rm sat (drainInt df) (fun k => draw (r * cols + k)) xs
  let n := vals.length
  let (e, o1, _) := drainLen df n cols
  let eb := cols * elemW df / 8
  let elems := rs.flatMap fun x => bytesOf eb x.1
  let fl := rs.foldl (fun fl x => fl ||| x.2.2.2) 0
  match df with
  | .bs8 => ([(0, elems), ((e + 63) / 64 * 64, rs.flatMap fun x => x.2.1.flatMap (bytesOf 4))], fl)
  | .q4n => ([(0, elems), (e, rs.flatMap fun x => x.2.1.flatMap (bytesOf 1)),
              (o1, rs.flatMap fun x => x.2.2.1.flatMap (bytesOf 4))], fl)
  | _ => ([(0, elems)], fl)

/-- Transposes rows of values. -/
def transposeVals (cols : Nat) (vals : List (List XVal)) : List (List XVal) :=
  (List.range cols).map fun c => vals.map fun r => r.getD c (.fin false 0 1)

/-! ## The seal digest (R323) -/

/-- The constant key of R323. -/
def sealKey : Nat := 0x9E3779B97F4A7C15F39CC0605CEDC834

/-- The digest of a byte string whose length is a multiple of 64 (R323). -/
def sealDigest (bytes : List Byte) : W64 :=
  let blocks := (List.range (bytes.length / 16)).map fun i => natOf ((bytes.drop (16 * i)).take 16)
  let h := blocks.foldl (fun h m => rngF sealKey (h ^^^ m)) 0
  BitVec.ofNat 64 (rngF sealKey (h ^^^ bytes.length))

/-! ## The gauge unit (R287 to R293) -/

/-- Bit k of plane b (R287): key `key`, plane counter `p`. -/
def planeBit (key p b k : Nat) : Nat :=
  word32 (rngF key ((p + 2 * b + k / 128) % 2 ^ 128)) (k / 32 % 4) / 2 ^ (k % 32) % 2

/-- The planes of GPLANE, plane b in element b, as 256-bit numbers (R287). -/
def planesOf (key p : Nat) : List Nat :=
  (List.range 16).map fun b => (List.range 256).foldr (fun k acc => acc * 2 + planeBit key p b k) 0

/-- One lane of GHASH for a live row (R288): K planes, the row's values. -/
def hashLane (k : Nat) (planes : List Nat) (xs : List XVal) : Nat :=
  if xs.any XVal.special then 0x40000000 + (2 ^ k - 1)
  else
    (List.range k).foldl (fun code b =>
      let pl := planes.getD b 0
      let s := (xs.mapIdx fun i x => if pl / 2 ^ i % 2 = 1 then -(fix300 x) else fix300 x).foldl (· + ·) 0
      if 0 < s then code + 2 ^ b else code) 0

/-- The members of each bucket, buckets in ascending order of their lowest live row: (key, rows) (R289). -/
def bucketsOf (k bw : Nat) (codes : List Nat) : List (Nat × List Nat) :=
  (codes.zipIdx).foldl (fun bs (lane, r) =>
    if lane / 2 ^ 31 % 2 = 1 then bs
    else
      let key := lane % 2 ^ k / 2 ^ bw
      if bs.any (·.1 == key) then bs.map (fun x => if x.1 = key then (x.1, x.2 ++ [r]) else x)
      else bs ++ [(key, [r])]) []

/-- Σ x² of a row for R167: a NaN above an infinity above every finite sum. -/
def normOf (xs : List XVal) : XVal :=
  if xs.any XVal.isNaN then .nan false
  else if xs.any XVal.special then .inf false
  else .fin false ((xs.map fun x => (fix300 x) * (fix300 x)).foldl (· + ·) 0).natAbs (2 ^ 600)

/-- n² Σ (x − μ)², scaled, for the members' exact mean μ (R289 NEAR): n = number of members. -/
def nearDist (rows : List (List Int)) (r : List Int) : Int :=
  let n : Int := rows.length
  (r.mapIdx fun c x =>
    let s := rows.foldl (fun acc m => acc + m.getD c 0) 0
    (n * x - s) * (n * x - s)).foldl (· + ·) 0

/-- The first of the rows for which `better` holds against every earlier choice. -/
def pickRow {α : Type} (better : α → α → Bool) (val : Nat → α) : List Nat → Nat
  | [] => 0
  | r :: rs => rs.foldl (fun best x => if better (val x) (val best) then x else best) r

/-- The representative that a rule chooses for a bucket (R289); `row r` gives a row's values. A row with a NaN or an
infinity counts as SPECIAL whether its lane says so or not (log 22). -/
def chooseRep (rule : RepRule) (codes : List Nat) (row : Nat → List XVal) (ms : List Nat) : Nat :=
  match rule with
  | .first | .mean => ms.headD 0
  | .maxnorm => pickRow rankAbove (fun r => normOf (row r)) ms
  | .near =>
    if ms.any fun r => codes.getD r 0 / 2 ^ 30 % 2 == 1 || (row r).any XVal.special then ms.headD 0
    else
      let ints := ms.map fun r => (row r).map fix300
      pickRow (fun a b => decide (a < b)) (fun r => nearDist ints ((row r).map fix300)) ms

/-- Map and bucket-table lanes of GREP (R290). -/
def grepRows (k bw : Nat) (rule : RepRule) (codes : List Nat) (row : Nat → List XVal) : List Nat × List Nat :=
  let bs := bucketsOf k bw codes
  let reps := bs.map fun b => chooseRep rule codes row b.2
  let mapL := codes.mapIdx fun r lane =>
    if lane / 2 ^ 31 % 2 = 1 then 0x80000000
    else
      let j := bs.findIdx fun b => b.2.contains r
      (if lane / 2 ^ 30 % 2 = 1 then 2 ^ 30 else 0)
        + (if rule != .mean && reps.getD j 0 == r then 2 ^ 29 else 0) + j
  let tab := (bs.zip reps).map fun (b, r) => b.2.length * 2 ^ 16 + rule.code * 2 ^ 8 + r
  (mapL, tab ++ List.replicate (192 - tab.length) 0)

/-- The exact sum of R291 and R293 with its special cases: canonical NaN for a NaN or for both infinities, with
NV for a signalling NaN; a zero is −0 only if every addend is −0. -/
def meanSum (xs : List XVal) : XVal × Flg :=
  let nv := xs.foldl (fun fl x => fl ||| sigNV x) 0
  if xs.any XVal.isNaN || (xs.contains (.inf false) && xs.contains (.inf true)) then (.nan false, nv)
  else if xs.contains (.inf false) then (.inf false, nv)
  else if xs.contains (.inf true) then (.inf true, nv)
  else
    let s := (xs.map fix300).foldl (· + ·) 0
    if s = 0 then (.fin (!xs.isEmpty && xs.all fun x => x.neg) 0 1, nv)
    else (.fin (decide (s < 0)) s.natAbs (2 ^ 300), nv)

/-- One element of a MEAN representative (R291). -/
def meanElem (f : Fmt) (rm : Rm) (count : Nat) (xs : List XVal) : Nat × Flg :=
  let (s, nv) := meanSum xs
  let v := match s with | .fin n p q => .fin n p (q * Nat.max count 1) | x => x
  if f = .int8 then let (r, fl) := floatToInt .int8 rm 0 v; (r, fl ||| nv)
  else let (r, fl) := roundTo f rm false 0 v; (r, fl ||| nv)

/-- The live lanes of a map row: (row, bucket) (R290, R292). -/
def liveLanes (mapRow : Nat) : List (Nat × Nat) :=
  (List.range 192).filterMap fun r =>
    let l := laneOf 4 mapRow r
    if l / 2 ^ 31 % 2 = 1 then none else some (r, l % 2 ^ 16)

end Sys2Proof.Machine
end

