-- ==== Sys2Proof/Machine/Crypto.lean ====
section
/-! DEFINITION. The published algorithms that the spec names: AES-256 in XTS mode (R412; FIPS 197, IEEE 1619), SHA-384 and ECDSA over
P-384 (R427; FIPS 180-4, FIPS 186). What their byte orders leave to the published texts is in log 10 and log 11. -/

namespace Sys2Proof.Machine

/-! ## AES-256 -/

/-- A byte of a table of 256, kept as eight words of 32 bytes. -/
def tableByte (t : List Nat) (x : Byte) : Byte :=
  BitVec.ofNat 8 (t.getD (x.toNat / 32) 0 / 2 ^ (8 * (x.toNat % 32)))

/-- The S-box. -/
def sbox (x : Byte) : Byte := tableByte
  [0xC072A49CAFA2D4ADF04759FA7DC982CA76ABD7FE2B670130C56F6BF27B777C63,
   0x75B227EBE28012079A059618C323C7041531D871F1E5A534CCF73F362693FDB7,
   0xCF584C4A39BECB6A5BB1FC20ED00D153842FE329B3D63B52A05A6E1B1A2C8309,
   0xD2F3FF1021DAB6BCF5389D928F40A351A89F3C507F02F94585334D43FBAAEFD0,
   0xDB0B5EDE14B8EE4688902A22DC4F816073195D643D7EA7C41744975FEC130CCD,
   0x08AE7A65EAF4566CA94ED58D6D37C8E779E4959162ACD3C25C2406490A3A32E0,
   0x9E1DC186B95735610EF6034866B53E708A8BBD4B1F74DDE8C6B4A61C2E2578BA,
   0x16BB54B00F2D99416842E6BF0D89A18CDF2855CEE9871E9B948ED9691198F8E1] x

/-- The inverse of the S-box. -/
def sboxInv (x : Byte) : Byte := tableByte
  [0xCBE9DEC444438E3487FF2F9B8239E37CFBD7F3819EA340BF38A53630D56A0952,
   0x25D18B6D49A25B76B224D92866A12E084EC3FA420B954CEE3D23C2A632947B54,
   0x849D8DA75746155EDAB9EDFD5048706C92B6655DCC5CA4D41698688664F6F872,
   0x6B8A130103BDAFC1020F3FCA8F1E2CD00645B3B80558E4F70AD3BC8C00ABD890,
   0x6EDF751CE837F9E28535ADE72274AC9673E6B4F0CECFF297EADC674F4111913A,
   0xF45ACD78FEC0DB9A2079D2C64B3E56FC1BBE18AA0E62B76F89C5291D711AF147,
   0xEF9CC9939F7AE52D0D4AB519A97F51605FEC8027591012B131C7078833A8DD1F,
   0x7D0C2155631469E126D677BA7E042B17619953833CBBEBC8B0F52AAE4D3BE0A0] x

/-- Multiplication by x in the field of the cipher. -/
def xtime (b : Byte) : Byte := (b <<< 1) ^^^ (if b.msb then 0x1B else 0)

/-- Multiplication by a constant of four bits. -/
def fieldMul (k : Nat) (b : Byte) : Byte :=
  let t (i : Nat) (v : Byte) : Byte := if k / 2 ^ i % 2 = 1 then v else 0
  t 0 b ^^^ t 1 (xtime b) ^^^ t 2 (xtime (xtime b)) ^^^ t 3 (xtime (xtime (xtime b)))

/-- Bytes of two lists added. -/
def xorBytes (a b : List Byte) : List Byte := (a.zip b).map fun (x, y) => x ^^^ y

/-- The four bytes of a column times a circulant matrix with the first row `k`. -/
def mixColumn (k : List Nat) (c : List Byte) : List Byte :=
  (List.range 4).map fun r => (List.range 4).foldl (fun a i => a ^^^ fieldMul (k.getD ((i + 4 - r) % 4) 0) (c.getD i 0)) 0

/-- Every column of a state of 16 bytes, in the order of the bytes. -/
def mixColumns (k : List Nat) (b : List Byte) : List Byte :=
  (List.range 4).flatMap fun c => mixColumn k ((b.drop (4 * c)).take 4)

/-- Rows moved by `d` columns for each row (1 left, 3 right). -/
def shiftRows (d : Nat) (b : List Byte) : List Byte := (List.range 16).map fun i => b.getD ((i + 4 * d * (i % 4)) % 16) 0

/-- The next word of the key schedule of a 256-bit key, from those so far, newest first; `i` is its number. -/
def keyWord (i : Nat) (ws : List (List Byte)) : List Byte :=
  let t := ws.headD []
  let t := if i % 8 = 0 then xorBytes ((t.drop 1 ++ t.take 1).map sbox) [BitVec.ofNat 8 (2 ^ (i / 8 - 1)), 0, 0, 0]
    else if i % 8 = 4 then t.map sbox else t
  xorBytes (ws.getD 7 []) t

/-- The fifteen round keys of a 256-bit key, byte 0 in the low bits. -/
def roundKeys (key : BitVec 256) : List (List Byte) :=
  let k := bytesOf 32 key.toNat
  let first := (List.range 8).map fun i => (k.drop (4 * i)).take 4
  let ws := ((List.range 52).foldl (fun ws i => keyWord (i + 8) ws :: ws) first.reverse).reverse
  (List.range 15).map fun r => ((ws.drop (4 * r)).take 4).flatten

/-- Encrypts a block of 16 bytes. -/
def aesEnc (key : BitVec 256) (b : List Byte) : List Byte :=
  let ks := roundKeys key
  let mid := ((ks.drop 1).take 13).foldl (fun b k => xorBytes (mixColumns [2, 3, 1, 1] (shiftRows 1 (b.map sbox))) k)
    (xorBytes b (ks.getD 0 []))
  xorBytes (shiftRows 1 (mid.map sbox)) (ks.getD 14 [])

/-- Decrypts a block of 16 bytes. -/
def aesDec (key : BitVec 256) (b : List Byte) : List Byte :=
  let ks := roundKeys key
  let mid := ((ks.drop 1).take 13).reverse.foldl
    (fun b k => mixColumns [14, 11, 13, 9] (xorBytes ((shiftRows 3 b).map sboxInv) k)) (xorBytes b (ks.getD 14 []))
  xorBytes ((shiftRows 3 mid).map sboxInv) (ks.getD 0 [])

/-! ## XTS (R412) -/

/-- The next tweak of a data unit: multiplication by the primitive element. -/
def xtsNext (t : BitVec 128) : BitVec 128 := (t <<< 1) ^^^ (if t.msb then 0x87 else 0)

/-- The 64 bytes of a block at a device physical address through the cipher `f`, under a pair of keys: the data key in the low
half, the tweak key in the high one. -/
def xts (f : BitVec 256 → List Byte → List Byte) (key : BitVec 512) (pa : Nat) (v : BitVec 512) : BitVec 512 :=
  let b := bytesOf 64 v.toNat
  let t := BitVec.ofNat 128 (natOf (aesEnc (key.extractLsb' 256 256) (bytesOf 16 pa)))
  let (out, _) := (List.range 4).foldl (fun (out, t) i =>
    let w := bytesOf 16 t.toNat
    (out ++ xorBytes (f (key.extractLsb' 0 256) (xorBytes ((b.drop (16 * i)).take 16) w)) w, xtsNext t)) (([] : List Byte), t)
  BitVec.ofNat 512 (natOf out)

/-- What the memory stores of 64 bytes written under a key (none: as they are). -/
def encrypted (key : Option (BitVec 512)) (pa : Nat) (v : BitVec 512) : BitVec 512 :=
  match key with | none => v | some k => xts aesEnc k pa v

/-- What a read under a key returns of 64 stored bytes. -/
def decrypted (key : Option (BitVec 512)) (pa : Nat) (v : BitVec 512) : BitVec 512 :=
  match key with | none => v | some k => xts aesDec k pa v

/-! ## SHA-384 (R427) -/

/-- The constants of the eighty rounds. -/
def shaK : List W64 :=
  [0x428A2F98D728AE22, 0x7137449123EF65CD, 0xB5C0FBCFEC4D3B2F, 0xE9B5DBA58189DBBC, 0x3956C25BF348B538]
  ++ [0x59F111F1B605D019, 0x923F82A4AF194F9B, 0xAB1C5ED5DA6D8118, 0xD807AA98A3030242, 0x12835B0145706FBE]
  ++ [0x243185BE4EE4B28C, 0x550C7DC3D5FFB4E2, 0x72BE5D74F27B896F, 0x80DEB1FE3B1696B1, 0x9BDC06A725C71235]
  ++ [0xC19BF174CF692694, 0xE49B69C19EF14AD2, 0xEFBE4786384F25E3, 0x0FC19DC68B8CD5B5, 0x240CA1CC77AC9C65]
  ++ [0x2DE92C6F592B0275, 0x4A7484AA6EA6E483, 0x5CB0A9DCBD41FBD4, 0x76F988DA831153B5, 0x983E5152EE66DFAB]
  ++ [0xA831C66D2DB43210, 0xB00327C898FB213F, 0xBF597FC7BEEF0EE4, 0xC6E00BF33DA88FC2, 0xD5A79147930AA725]
  ++ [0x06CA6351E003826F, 0x142929670A0E6E70, 0x27B70A8546D22FFC, 0x2E1B21385C26C926, 0x4D2C6DFC5AC42AED]
  ++ [0x53380D139D95B3DF, 0x650A73548BAF63DE, 0x766A0ABB3C77B2A8, 0x81C2C92E47EDAEE6, 0x92722C851482353B]
  ++ [0xA2BFE8A14CF10364, 0xA81A664BBC423001, 0xC24B8B70D0F89791, 0xC76C51A30654BE30, 0xD192E819D6EF5218]
  ++ [0xD69906245565A910, 0xF40E35855771202A, 0x106AA07032BBD1B8, 0x19A4C116B8D2D0C8, 0x1E376C085141AB53]
  ++ [0x2748774CDF8EEB99, 0x34B0BCB5E19B48A8, 0x391C0CB3C5C95A63, 0x4ED8AA4AE3418ACB, 0x5B9CCA4F7763E373]
  ++ [0x682E6FF3D6B2B8A3, 0x748F82EE5DEFB2FC, 0x78A5636F43172F60, 0x84C87814A1F0AB72, 0x8CC702081A6439EC]
  ++ [0x90BEFFFA23631E28, 0xA4506CEBDE82BDE9, 0xBEF9A3F7B2C67915, 0xC67178F2E372532B, 0xCA273ECEEA26619C]
  ++ [0xD186B8C721C0C207, 0xEADA7DD6CDE0EB1E, 0xF57D4F7FEE6ED178, 0x06F067AA72176FBA, 0x0A637DC5A2C898A6]
  ++ [0x113F9804BEF90DAE, 0x1B710B35131C471B, 0x28DB77F523047D84, 0x32CAAB7B40C72493, 0x3C9EBE0A15C9BEBC]
  ++ [0x431D67C49C100D4C, 0x4CC5D4BECB3E42B6, 0x597F299CFC657E2A, 0x5FCB6FAB3AD6FAEC, 0x6C44198C4A475817]

/-- The initial hash value. -/
def shaInit : List W64 :=
  [0xCBBB9D5DC1059ED8, 0x629A292A367CD507, 0x9159015A3070DD17, 0x152FECD8F70E5939]
  ++ [0x67332667FFC00B31, 0x8EB44A8768581511, 0xDB0C2E0D64F98FA7, 0x47B5481DBEFA4FA4]

/-- A big-endian number of a list of bytes. -/
def bigNat (l : List Byte) : Nat := l.foldl (fun n b => 256 * n + b.toNat) 0

/-- A word with its bits rotated right. -/
def ror (v : W64) (n : Nat) : W64 := v.rotateRight n

/-- The eighty words of a block of 128 bytes. -/
def shaSchedule (b : List Byte) : List W64 :=
  let first := (List.range 16).map fun i => (BitVec.ofNat 64 (bigNat ((b.drop (8 * i)).take 8)) : W64)
  ((List.range 64).foldl (fun (ws : List W64) _ =>
    let w2 := ws.getD 1 0; let w7 := ws.getD 6 0; let w15 := ws.getD 14 0; let w16 := ws.getD 15 0
    let s0 := ror w15 1 ^^^ ror w15 8 ^^^ (w15 >>> 7)
    let s1 := ror w2 19 ^^^ ror w2 61 ^^^ (w2 >>> 6)
    (s1 + w7 + s0 + w16) :: ws) first.reverse).reverse

/-- One round on the eight working words, with its constant and its word. -/
def shaRound (h : List W64) (kw : W64 × W64) : List W64 :=
  let a := h.getD 0 0; let b := h.getD 1 0; let c := h.getD 2 0; let d := h.getD 3 0
  let e := h.getD 4 0; let f := h.getD 5 0; let g := h.getD 6 0; let hh := h.getD 7 0
  let t1 := hh + (ror e 14 ^^^ ror e 18 ^^^ ror e 41) + ((e &&& f) ^^^ (~~~e &&& g)) + kw.1 + kw.2
  let t2 := (ror a 28 ^^^ ror a 34 ^^^ ror a 39) + ((a &&& b) ^^^ (a &&& c) ^^^ (b &&& c))
  [t1 + t2, a, b, c, d + t1, e, f, g]

/-- The hash value after one more block. -/
def shaBlock (h : List W64) (b : List Byte) : List W64 :=
  ((shaK.zip (shaSchedule b)).foldl shaRound h).zipWith (· + ·) h

/-- The hash value after the next `n` blocks. -/
def shaBlocks : Nat → List Byte → List W64 → List W64
  | 0, _, h => h
  | n + 1, m, h => shaBlocks n (m.drop 128) (shaBlock h (m.take 128))

/-- The message with its padding: a one bit, zeros, the length in bits in 16 bytes, big-endian. -/
def shaPad (m : List Byte) : List Byte :=
  m ++ [0x80] ++ List.replicate ((239 - m.length % 128) % 128) 0 ++ (bytesOf 16 (8 * m.length)).reverse

/-- SHA-384 of a byte string, as a number. -/
def sha384 (m : List Byte) : Nat :=
  let p := shaPad m
  ((shaBlocks (p.length / 128) p shaInit).take 6).foldl (fun n w => 2 ^ 64 * n + w.toNat) 0

/-! ## ECDSA over P-384 (R427) -/

/-- The field prime. -/
def p384 : Nat := 2 ^ 384 - 2 ^ 128 - 2 ^ 96 + 2 ^ 32 - 1

/-- The order of the base point. -/
def n384 : Nat := 0xFFFFFFFFFFFFFFFFFFFFFFFFFFFFFFFFFFFFFFFFFFFFFFFFC7634D81F4372DDF581A0DB248B0A77AECEC196ACCC52973

/-- The coefficient b of the curve; a is −3. -/
def b384 : Nat := 0xB3312FA7E23EE7E4988E056BE3F82D19181D9C6EFE8141120314088F5013875AC656398D8A2ED19D2A85C8EDD3EC2AEF

/-- The base point. -/
def g384 : Nat × Nat :=
  (0xAA87CA22BE8B05378EB1C71EF320AD746E1D3B628BA79B9859F741E082542A385502F25DBF55296C3A545E3872760AB7,
   0x3617DE4A96262C6F5D9E98BF9292DC29F8F41DBD289A147CE9DA3113B5F0B8C00A60B1CE1D7E819D7A431D7C90EA0E5F)

/-- a to the power of `e` modulo `m`, over the low `k` bits of `e`. -/
def powMod (m a e : Nat) : Nat → Nat
  | 0 => 1
  | k + 1 =>
    let r := powMod m a (e / 2) k
    let r := r * r % m
    if e % 2 = 1 then r * a % m else r

/-- The inverse modulo a prime of 384 bits. -/
def invMod (m a : Nat) : Nat := powMod m (a % m) (m - 2) 384

/-- The sum of two points; none is the point at infinity. -/
def pointAdd : Option (Nat × Nat) → Option (Nat × Nat) → Option (Nat × Nat)
  | none, q => q
  | p, none => p
  | some (x1, y1), some (x2, y2) =>
    if x1 = x2 ∧ (y1 + y2) % p384 = 0 then none
    else
      let l := if x1 = x2 then (3 * x1 * x1 + (p384 - 3)) * invMod p384 (2 * y1) % p384
        else (y2 + (p384 - y1)) * invMod p384 (x2 + (p384 - x1)) % p384
      let x := (l * l + (p384 - x1) + (p384 - x2)) % p384
      some (x, (l * (x1 + (p384 - x)) + (p384 - y1)) % p384)

/-- A multiple of a point, over the low `k` bits of the factor. -/
def pointMul (p : Option (Nat × Nat)) (e : Nat) : Nat → Option (Nat × Nat)
  | 0 => none
  | k + 1 =>
    let r := pointMul p (e / 2) k
    let r := pointAdd r r
    if e % 2 = 1 then pointAdd r p else r

/-- Whether a public key is a point of the curve. -/
def onCurve (x y : Nat) : Bool :=
  x < p384 && y < p384 && (y * y + 3 * x) % p384 == (x * x * x + b384) % p384

/-- Whether a signature (r, s) over a digest verifies under the public key (x, y). -/
def ecdsaP384 (x y z r s : Nat) : Bool :=
  onCurve x y && 0 < r && r < n384 && 0 < s && s < n384 &&
    (let w := invMod n384 s
     match pointAdd (pointMul (some g384) (z * w % n384) 384) (pointMul (some (x, y)) (r * w % n384) 384) with
     | none => false
     | some (v, _) => v % n384 == r)

end Sys2Proof.Machine
end

