-- ==== Sys2Proof/Machine/State.lean ====
section
/-! DEFINITION. The state of the machine as plain data: everything the spec gives a Z96 device, its core
banks, its memories, its distributor, its lineage shard, its fabric ports, its host port and Bobbin, with
what it sends outward; and the state after a cold reset. Log entries are those of notes/assumptions. -/

namespace Sys2Proof.Machine

/-! ## The context bank (R25) -/

/-- The engine queues; their numbers in the QFENCE mask are 1 to 6 (R12, R97). -/
inductive Queue where
  | vload | varith | vstore | matrix | copy | gauge
  deriving DecidableEq, Repr

/-- A tile register: 192 rows of 256 bytes and their side stores (R150, R261). -/
structure Tile where
  rows : Vector (BitVec 2048) 192 := Vector.replicate 192 0
  side : Vector (BitVec 256) 192 := Vector.replicate 192 0
  deriving DecidableEq, Repr

/-- The control registers, loop counters and generator state that a word captures at routing (R213). -/
structure Cfg where
  vtype : W64 := 0
  rmode : W64 := 0
  fmtsel : W64 := 0
  fmt : Vector W64 16 := Vector.replicate 16 0
  tshape : Vector W64 8 := Vector.replicate 8 0
  gcfg : Vector W64 4 := Vector.replicate 4 0
  l : Vector W64 4 := Vector.replicate 4 0
  key : BitVec 128 := 0
  ctr : BitVec 128 := 0
  deriving DecidableEq, Repr

/-- A word in an engine queue (R13, R14): its address, the scalars and registers captured at routing, the
beats or rows completed (R83, R277), whether it has issued and goes on in the background, whether it has begun and its queue waits for it
(R334), whether it has been retained at
a trap (R334), the serial of the stream binding that it feeds (R296), whether it has been counted as retired (R222), and of
a frozen MMA the issue clocks that are left (R275), of a multiply that runs the clocks that R266's table gives it, and a result that its
stream cannot take yet (R313). -/
structure QEntry where
  uid : Nat
  queue : Queue
  ins : Instr
  pc : W64
  s : Vector W64 32
  cfg : Cfg
  done : Nat := 0
  issued : Bool := false
  begun : Bool := false
  retained : Bool := false
  note : Option Nat := none
  counted : Bool := true
  ends : Nat := 0
  time : Nat := 0
  got : Option W64 := none
  deriving DecidableEq, Repr

/-- A bound stream register (R23, R296, R301): the serial of its binding, what it has fetched ahead, and the beats of the next element that
are complete. A scalar element stands in the low 64 bits of a row. -/
structure Stream where
  id : Nat
  kind : StreamKind
  addr : W64
  count : Nat
  stride : W64
  fetched : Nat := 0
  buf : List Row := []
  asm : Row := 0
  part : List (List Byte) := []
  deriving DecidableEq, Repr

/-- A load or atomic whose register has not been written (R191, R192, R95): its destinations, the request's tag,
its location's name in the snapshot, what came back, the key ID that travels with it (R412), the bytes that the phase had fixed
when it was issued (R88), the registers whose read takes its error (R192), and how often the snapshot has been refreshed since (R90, R92). -/
structure OutLoad where
  uid : Nat
  ins : Instr
  pc : W64
  dests : List (Fin 32)
  addr : W64
  tag : Nat
  loc : Nat := 0
  got : Option (AccStatus × List Byte) := none
  rkey : Option (BitVec 10) := none
  fixed : List (Option Byte) := []
  regs : List (Fin 32) := dests
  stale : Nat := 0
  deriving DecidableEq, Repr

/-- A plain read of another device or of a host that a word waits for (R90, R393): its location and length,
the error that came back, and the queue of its word (0: the control engine). -/
structure RemRead where
  tag : Nat
  loc : Nat
  len : Nat
  err : Option AccStatus := none
  q : Nat := 0
  deriving DecidableEq, Repr

/-- An error of a load or atomic that is not yet taken (R192, R393): its cause, its word, the fault address, and the
registers whose read takes it. -/
structure LateEcc where
  cause : BitVec 8
  pc : W64
  addr : W64
  dests : List (Fin 32)
  deriving DecidableEq, Repr

/-- A REMOTE or HOST store that its target has not acknowledged (R86): its tag, its word, its address, and the queue and the serial of
that word (R97). -/
structure Sent where
  tag : Nat
  pc : W64
  va : W64
  q : Nat := 0
  uid : Nat := 0
  deriving DecidableEq, Repr

/-- A byte whose value is fixed for the phase (R88, R89), for the queues of the mask. -/
structure Pin where
  loc : Nat
  byte : Byte
  queues : BitVec 7
  deriving DecidableEq, Repr

/-- A latency shadow (R20): a V register, or a mask when `isMask`, not to be read before a clock. -/
structure Shadow where
  isMask : Bool
  reg : Nat
  ready : Nat
  deriving DecidableEq, Repr

/-- What the control engine waits for. A waiting word is attempted again when its core moves. -/
inductive Wait where
  | none
  | idle
  | barrier (k : Nat)
  | treadv (tile : W64)
  | trepl (tile : W64)
  | cwait (g : Nat) (n : Nat)
  | pool
  | record
  | storage
  | slot
  | early (h : W64)
  | shard (uid : Nat)
  | other
  deriving DecidableEq, Repr

/-- A trap taken but not entered, while the context drains (R334, R335). -/
structure TrapInfo where
  cause : BitVec 8
  taddr : W64
  tinfo : W64 := 0
  tepc : W64
  tnpc : W64
  queue : Nat := 0
  ucode : BitVec 15 := 0
  quid : Option Nat := none
  tile : W64 := 0
  deriving DecidableEq, Repr

/-- A page fault sent to its home (R27, R333): the faulting queue word, or none for the control engine; its
answer with the clock at which that came. -/
structure PFault where
  uid : Nat
  asid : BitVec 16
  page : BitVec 36
  kind : AccKind
  addr : W64
  quid : Option Nat
  answer : Option FaultAns := none
  since : Nat := 0
  deriving DecidableEq, Repr

/-- The lease state of a context (R123 to R125, R267). `ends` is the clock at which the lease runs out. -/
structure Lease where
  session : Option Bool := none
  held : Bool := false
  gang : Bool := false
  holder : Bool := false
  waiting : Bool := false
  passed : Bool := false
  mmas : Nat := 0
  ends : Nat := 0
  fresh : Bool := false
  age : Nat := 0
  shapes : Vector W64 8 := Vector.replicate 8 0
  deriving DecidableEq, Repr

/-- The task that a context runs: packet, launch and key (R31), loop indices, how the run came about, its
declarations (R321), what it did, its discard and shadow buffers (R49, R347), its pair (R346), the quads on whose array it issued an
MMA since that array last passed a check (R62), a version whose TSEAL has recorded the seal and still waits for the replica
(R48), whether it waits in a standby bank with its restored image (R26), the digest that a member of a pair has computed at its TSEAL (R324), what earlier instances did (R345), what
a member of the pair that has exited did (R347), and of a TEXIT that has acted but for its signals the successors that are left (R329). -/
structure TaskRun where
  handle : W64
  packet : List W64
  info : SpawnInfo
  idx : List W64 := []
  kind : RunKind := .first
  decl : List W64 := []
  acts : Actions := {}
  buffers : List (W64 × Place × Nat) := []
  pair : Option (Nat × Bool) := none
  recov : Option Nat := none
  started : Option Nat := none
  mmaOn : List Nat := []
  since : Nat := 0
  sealing : Option W64 := none
  digest : Option (W64 × W64) := none
  prior : Actions := {}
  gone : Actions := {}
  exiting : Option (List W64) := none
  preload : Bool := false
  deriving DecidableEq, Repr

/-- The privileged registers and the mode (R330, R331). INTPEND and INTMASK have three bits each; `expired` says that
TIMER has reached 0 and INTPEND does not show it yet. -/
structure Priv where
  priv : Bool := false
  intrap : Bool := false
  tvec : W64 := 0
  tepc : W64 := 0
  tnpc : W64 := 0
  tcause : W64 := 0
  taddr : W64 := 0
  tinfo : W64 := 0
  tret : W64 := 0
  tscr0 : W64 := 0
  tscr1 : W64 := 0
  asid : BitVec 16 := 0
  intpend : BitVec 3 := 0
  intmask : BitVec 3 := 0
  timer : W64 := 0
  expired : Bool := false
  deriving DecidableEq, Repr

/-- What a context has in flight: routed words (R14), QFENCE groups (R97), loads and atomics (R95, R192), reads
of other devices, unacknowledged stores (R86), the snapshot (R88) and the length that the write history had at the last
boundary, the ranges refreshed since by TREADV with that length then (R92), the shadows (R20), the trap being drained (R334), the page fault (R27), the retained word that a handler was
entered for (R337), the FAILED version that a word met (R75), an SRET that waits for a pair's other one (R350), the stations that
have carried its REMOTE stores (R98), the answers of other devices that the waiting control word has got so far, the request of a control
word that a trap has withdrawn after it was sent (0: none), with the word's address and its answers (R335), the clock at which the arithmetic queue last issued a word (R20), the clock at which the tag groups of its traffic on stations in skid mode have
passed their check (R45), and the tags of the copy-engine reads whose data came in such groups (R406). -/
structure Flight where
  pend : List QEntry := []
  fences : List (BitVec 7 × Nat) := []
  loads : List OutLoad := []
  reqs : List RemRead := []
  late : List LateEcc := []
  unacked : List Sent := []
  snap : List Pin := []
  since : Nat := 0
  fresh : List (Nat × Nat × Nat) := []
  shadow : List Shadow := []
  wait : Wait := .none
  waitSince : Nat := 0
  drain : Option TrapInfo := none
  pf : Option PFault := none
  tq : Option Nat := none
  tile : W64 := 0
  sret : Bool := false
  carried : BitVec 24 := 0
  notes : List ShardAns := []
  asked : Option (W64 × Nat × List ShardAns) := none
  arith : Option Nat := none
  skid : Nat := 0
  skidTags : List Nat := []
  deriving DecidableEq, Repr

/-- A context bank (R25). -/
structure Ctx where
  s : Vector W64 32 := Vector.replicate 32 0
  v : Vector Row 128 := Vector.replicate 128 0
  m : Vector MaskBits 8 := Vector.replicate 8 0
  t : Vector Tile 8 := Vector.replicate 8 {}
  cfg : Cfg := {}
  flags : W64 := 0
  qdepth : W64 := 0x40
  cq : List Bool := []
  xq : List W64 := []
  streams : Vector (Option Stream) 8 := Vector.replicate 8 none
  ramphold : Bool := false
  energy : W64 := 0
  mchkPeriod : BitVec 16 := 0
  mchkCount : BitVec 16 := 0
  plane : Vector (BitVec 256) 16 := Vector.replicate 16 0
  pc : W64 := 0
  npc : W64 := 0
  retired : W64 := 0
  pr : Priv := {}
  fl : Flight := {}
  lease : Lease := {}
  task : Option TaskRun := none
  deriving DecidableEq, Repr

/-! ## A core (R25, R113, R115) -/

/-- Custody of a deque entry (R115). -/
inductive Custody where
  | inDeque
  | offered (sid : Nat)
  | acking (sid : Nat)
  deriving DecidableEq, Repr

/-- A deque entry, owner end first, with the clock of its OFFER (R115). -/
structure DqEntry where
  w : Waiting
  cust : Custody := .inDeque
  at_ : Nat := 0
  deriving DecidableEq, Repr

/-- A copy that a thief holds between OFFER and ACK (R115, R116). -/
structure Stolen where
  sid : Nat
  from_ : Thief
  w : Waiting
  deriving DecidableEq, Repr

/-- A core apart from its active bank. `bank` is the physical number of the active bank (R38). `preempt` is a requested
pre-emption (R340), with `toPool` one of TYIELD or QUAR, which puts the task into the die pool. -/
structure CoreSt where
  standby : Option Ctx := none
  bank : Bool := false
  deque : List DqEntry := []
  stolen : List Stolen := []
  lastAsid : Option (BitVec 16) := none
  gated : Bool := false
  suspect : Bool := false
  preempt : Bool := false
  toPool : Bool := false
  deriving DecidableEq, Repr

/-! ## Device memory (R77, R78, R444, R412) -/

/-- Memory by device physical address, in canonical form (`Memory.wf`); the history of writes (address and
the bytes replaced, one entry for each piece that is written at once, R84), newest first (R88, log 6); poisoned blocks (R444); the key under which each block was
last written (R412); the size of the parity partition in units of 4 GiB (R77); the ranges whose bytes are lost with their die or
stack (R61, R71). -/
structure Memory where
  cells : List Host.Cell := []
  wlog : List (Nat × List Byte) := []
  poison : List Nat := []
  ckey : List (Nat × BitVec 512) := []
  partU : Nat := 0
  gone : List (Nat × Nat) := []
  deriving DecidableEq, Repr

/-- What an unlisted address reads as: HBM is scrubbed to zero at boot (R428); zero in the commons and the
scratchpads too (log 2). -/
def memDefault : Byte := 0

/-- The canonical form: addresses strictly rising, no entry equal to what an unlisted address reads as. -/
def Memory.wf (m : Memory) : Bool :=
  (m.cells.zip (m.cells.drop 1)).all (fun p => p.1.1 < p.2.1) && m.cells.all (fun c => c.2 != memDefault)

/-! ## MMIO registers (R443) -/

/-- The writable MMIO registers and the RC counters; LINSTAT, FSTAT and STCFG are put together from the
state they report. -/
structure Mmio where
  lincfg : W64 := 0x0000040000000000
  failedn : BitVec 16 := 0
  pwrcfg : W64 := 0x000007080014000A
  ecwt : W64 := 0x100E0C0A08060402
  thermcfg : W64 := 0x0500
  coreMap : Vector (BitVec 9) 384 := Vector.ofFn fun i => BitVec.ofNat 9 i.val
  fqcfg : W64 := 0
  fqsig : W64 := 0
  orphan : BitVec 16 := 0
  hbmhlth : Vector W64 8 := Vector.replicate 8 0
  thrtime : Vector W64 4 := Vector.replicate 4 0
  idleen : W64 := 0
  recen : W64 := 0
  quarUnits : List (BitVec 16) := []
  deriving DecidableEq, Repr

/-! ## The distributor (R34 to R36, R112 to R121, R317, R318, R342, R343, R387 to R389) -/

/-- State of a task slot (R327). -/
inductive SlotSt where
  | reserved | waiting | ready | running | exited
  deriving DecidableEq, Repr

/-- A task slot in use (R36, R118, R119, R345): `owner` is the launch that reserved it (none: the host by
RESERVE), `die` the die in whose pool it is placed when it becomes ready (R317). -/
structure Slot where
  num : Nat
  gen : Nat
  st : SlotSt
  counter : Int := 0
  owner : Option W64 := none
  packet : List W64 := []
  info : SpawnInfo := ⟨0, 0, 0, 0⟩
  die : Option (Fin 4) := none
  since : Nat := 0
  deriving DecidableEq, Repr

/-- A loop-nest record being walked (R34, R35, R121); `succs` are the successors left to signal once its last iteration exits. -/
structure Nest where
  slot : Nat
  next : Nat
  total : Nat
  live : Nat
  failed : Bool := false
  succs : Option (List W64) := none
  deriving DecidableEq, Repr

/-- A launch with its completion record so far (R387 to R389), its session (0 once that has failed or closed) and that session's host address. `key` tells launches
of the pod apart: its top ten bits are the device (R36). -/
structure Launch where
  key : W64
  id : W64
  sess : Nat
  host : Nat
  asid : BitVec 16
  nrej : Nat := 0
  rejoff : Nat := 0
  rejrule : Nat := 0
  nfail : Nat := 0
  nexit : Nat := 0
  energy : W64 := 0
  live : Nat := 0
  first : Option FailRec := none
  deriving DecidableEq, Repr

/-- A save image in its slot (R342, R343): the bank, its scratchpad bytes, the HBM-P address of the slot, and whether software
holds it (R357). The layout is opaque but for the format version, which stands in the slot's bytes (log 16). -/
structure Image where
  id : Nat
  addr : Nat
  ctx : Ctx
  spad : List Host.Cell
  core : Nat
  held : Bool := false
  deriving DecidableEq, Repr

/-- A barrier that has been reached and has not completed (R11, R87); `sent` says that the other devices of a .pod scope have been
told that every participant here has arrived, `others` are those devices, `id` is the LAUNCHID, `since` the clock of the first arrival, or of
the last timeout. -/
structure Barrier where
  k : Nat
  scope : Scope
  home : Nat
  members : List (W64 × List W64 × Option Bool)
  arrived : List (W64 × List W64 × Option Bool)
  sent : Bool := false
  others : List Nat := []
  id : W64 := 0
  since : Nat := 0
  deriving DecidableEq, Repr

/-- A code line of another device that a packet's check reads (R30): its location, the request's tag, what came back. -/
structure LineRead where
  loc : Nat
  tag : Nat
  got : Option (AccStatus × List Byte) := none
  deriving DecidableEq, Repr

/-- The distributor and the die dispatchers; `lines` are the code lines of other devices that packet checks have asked for, `steals`
gives the thief of each steal whose victim is here (R115), `asked` the device that was asked last for a task, and when (R114), `parked` the
re-enqueued instances that wait for storage of their PENDING versions, with the quads kept away and the time (R72, R345),
`barrierMicros` the barrier timeout in microseconds (R11; the spec gives no command that sets it, log 103). -/
structure Dist where
  slots : List Slot := []
  gens : List (Nat × Nat) := []
  early : List (W64 × Nat) := []
  pools : Vector (List DqEntry) 4 := Vector.replicate 4 []
  reports : Vector (Nat × Nat) 4 := Vector.replicate 4 (4096, 0)
  queue : List Waiting := []
  nests : List Nest := []
  launches : List Launch := []
  images : List Image := []
  saveSlots : Nat := 0
  barriers : List Barrier := []
  stale : Nat := 0
  avoid : List (W64 × List Nat) := []
  steals : List (Nat × Thief) := []
  asked : Option (Nat × Nat) := none
  parked : List (Waiting × List Nat × Nat) := []
  lines : List LineRead := []
  barrierMicros : Nat := 1000
  deriving DecidableEq, Repr

/-! ## Matrix arrays and power (R62, R123 to R135) -/

/-- A quadrant of the MMAG that runs (R274): its core, the task that the gang's member on that core runs, the A half and the B half with
their shapes. -/
structure GangQuad where
  core : Nat
  task : Option (W64 × List W64)
  a : W64 × List (Nat × Nat)
  b : W64 × List (Nat × Nat)
  deriving DecidableEq, Repr

/-- The array of a quad: the core of the quad that holds the lease, whether a gang does, its issue density,
the last core granted (for round robin), its suspect ring, the clock at which its
running operation ends at the present density, the governor's turn in which it last gained an increment (R132), what its last failed
self-check found: the element, the cell row and column of the first pass, the cell row of the second (R283); of the operation that runs the
issue clocks that were left at a clock, and the issue step that it took at its start (R123, R132), and the quadrants of an MMAG. -/
structure ArrayQ where
  holder : Option Nat := none
  gang : Bool := false
  density : Nat := 0
  last : Nat := 0
  ring : List W64 := []
  busy : Nat := 0
  turn : Nat := 0
  failed : Option (Nat × Nat × Nat × Nat) := none
  slots : Nat := 0
  from_ : Nat := 0
  step : Nat := 0
  run : List GangQuad := []
  deriving DecidableEq, Repr

/-- The requests and the allocation of a die (R128 to R131); the ramp request is computed (R133). The samples since one was not
below TLIM − HYST (R431), the clock at which the budget step was last lowered, and the tasks that are held by budget, each since when, or
since the last rise for it (R129). -/
structure DiePow where
  budget : Nat := 0
  thermal : Nat := 0
  ext : Nat := 0
  dbud : Nat := 0
  cool : Nat := 0
  lowered : Nat := 0
  heldAt : List (W64 × List W64 × Nat) := []
  deriving DecidableEq, Repr

/-- The ramp governor (R132): the clocks of the increments granted and removed within the last 1 µs, the clock up to which THRTIME
has been summed (R439), and the limit that still holds until a clock after a write to PWRCFG (R135). -/
structure Governor where
  up : List Nat := []
  down : List Nat := []
  summed : Nat := 0
  limit : Option (Nat × Nat) := none
  deriving DecidableEq, Repr

/-! ## The lineage shard (R42 to R75) -/

/-- Version states (R43). -/
inductive VState where
  | free | pending | sealed | replicating | replica | lost | recovering | failed
  deriving DecidableEq, Repr

/-- A version record (R51, R52) with its hold count (R60) and a kept replica request (R325). REFCNT and MIRR are
computed from the state. `size` is in bytes; `links` says that the input links are still held; `chain` gives the
indices of the continuation records (R52), `pkdev` the device of the retained packet. `far` are the other devices that refer to
the version: their counts and the highest PRIO there (R60, R66); `owner` is the device whose task allocated it. `since` is the
clock of the last change of state; `asked` is one more than the PRIO with which another shard has been asked to recover it, 0 where
none has (R64); `toldPrio` is the PRIO that the shard that keeps its packet has been told of (R66). -/
structure VRec where
  index : Nat
  tile : W64
  st : VState
  depth : Nat := 0
  rplay : Bool := false
  outix : Nat := 0
  producer : W64 := 0
  pkdev : Fin 1024 := 0
  pool : Nat := 0
  size : Nat
  place : Place
  rep : Option Place := none
  digest : W64 := 0
  inputs : List W64 := []
  links : Bool := false
  hold : Nat := 1
  wantRep : Bool := false
  chain : List Nat := []
  far : List (Fin 1024 × Nat × Nat) := []
  owner : Fin 1024 := 0
  since : Nat := 0
  asked : Nat := 0
  toldPrio : Nat := 0
  deriving DecidableEq, Repr

/-- A run made of one divergence (R74): its quad, its core and the digests it produced; for a pair (R346) the quad and the core of the
other member. -/
structure DivRun where
  quad : Nat
  core : Nat
  digests : List (W64 × W64)
  other : Option (Nat × Nat) := none
  deriving DecidableEq, Repr

/-- The runs that a re-enqueued instance's task, or iteration, has made of a divergence (R74, R345). -/
structure Diverge where
  handle : W64
  idx : List W64
  runs : List DivRun
  deriving DecidableEq, Repr

/-- An output of a recovery task that another shard homes (R64), with the storage that this shard has chosen for it, its inputs and
the highest PRIO that waits for it there. -/
structure FarOut where
  src : Fin 1024
  tile : W64
  outix : Nat
  size : Nat
  place : Place
  inputs : List W64
  prio : Nat
  deriving DecidableEq, Repr

/-- A packet-pool entry (R53, R446), with the outputs that refer to it from other shards, by OUTIX, those of them that are to be
recovered (R64), the PRIO that each of them lends to its recovery (R66), and whether its memory has been lost. -/
structure PoolEnt where
  ix : Nat
  producer : W64
  packet : List W64
  info : SpawnInfo
  idx : List W64
  outs : List (Nat × W64) := []
  wants : List FarOut := []
  prios : List (W64 × Nat) := []
  lost : Bool := false
  deriving DecidableEq, Repr

/-- A recovery task (R64 to R74): its producer, the inputs it waits for, those whose state has been asked for and not answered,
its outputs here and elsewhere, the runs made of one divergence, the storage of outputs trimmed while it runs (R73), and the other
device that runs it, where one has asked for an output of it (R70). -/
structure RecTask where
  id : Nat
  pool : Nat
  producer : W64
  waits : List W64
  outs : List W64
  queued : Bool := false
  running : Bool := false
  prio : Nat := 0
  runs : List DivRun := []
  asking : List W64 := []
  far : List FarOut := []
  kept : List (W64 × Place × Nat) := []
  since : Nat := 0
  runner : Option (Fin 1024) := none
  deriving DecidableEq, Repr

/-- A version homed on another device that a run here allocated (R54, R320): its place and its rounded size, and whether a run
here has sealed it. -/
structure FarVer where
  tile : W64
  place : Place
  size : Nat
  done : Bool := false
  deriving DecidableEq, Repr

/-- Storage of this device that another device's shard uses beside a version's own: a shadow buffer or a replica. -/
structure Lent where
  dev : Fin 1024
  tile : W64
  replica : Bool
  place : Place
  size : Nat
  deriving DecidableEq, Repr

/-- What another device waits to be told: its tag, its question, since when. -/
structure Asker where
  src : Fin 1024
  tag : Nat
  q : HomeAsk
  since : Nat
  deriving DecidableEq, Repr

/-- The words of a version's records as they were sent to the buddy (R55): by index; whether the buddy has acknowledged them, and
when they were sent. -/
structure MirSend where
  tile : W64
  image : List (Nat × List W64)
  acked : Bool := false
  since : Nat
  deriving DecidableEq, Repr

/-- The shard: records, the last version of each tile ID (R42), the packet pool, recovery tasks, divergences of
re-enqueued instances by task (R74), the buddy mirror kept for others (R55), what has been sent to the buddy and what the buddy
is known to hold (R51, R55); the devices whose shards this one serves, and the lost devices with the buddy that each of them had (R63); answers from other
shards, the versions homed elsewhere that runs here allocated, what this device has told other shards of its references (R60), the requests
of words that another device has not answered, with that device (R63), the devices that wait for an answer or for a state (R65), storage lent to other devices. -/
structure Lineage where
  recs : List VRec := []
  versions : List (W64 × Nat) := []
  pool : List PoolEnt := []
  poolSize : Nat := 0
  rtasks : List RecTask := []
  diverged : List Diverge := []
  walks : Nat := 0
  unmirr : Bool := false
  acting : List (Fin 1024) := []
  mirror : List (Nat × Nat × BitVec 512) := []
  sent : List MirSend := []
  mirrored : List (W64 × List (Nat × List W64)) := []
  copying : Bool := false
  lostDevs : List (Fin 1024 × Option (Fin 1024)) := []
  remote : List (Nat × ShardAns) := []
  far : List FarVer := []
  told : List (W64 × Nat × Nat) := []
  reqs : List (Nat × Nat) := []
  asks : List Asker := []
  watch : List (Fin 1024 × W64) := []
  lent : List Lent := []
  deriving DecidableEq, Repr

/-! ## Translation (R408 to R421) -/

/-- A bound or retiring ASID (R420, R421); `since` is the clock of its ASIDRET, or of the last event that names its holders. -/
structure AsidEnt where
  asid : BitVec 16
  retiring : Bool := false
  root : Nat
  mask : BitVec 1024
  tvec : W64
  twen : Bool
  acks : List Nat := []
  since : Nat := 0
  deriving DecidableEq, Repr

/-- An ownership-table entry (R417). -/
structure ArtEnt where
  ix : Nat
  base : Nat
  last : Nat
  asid : BitVec 16
  home : Fin 1024
  deriving DecidableEq, Repr

/-- A translation cache (R414): the TLB of an engine of a core (0 is the control engine), or the second-level TLB of a quad. -/
inductive Cache where
  | tlb (core engine : Nat)
  | quad (q : Nat)
  deriving DecidableEq, Repr

/-- A cached leaf (R414): the first 64 KiB page it covers, how many, the entry, and the cache that holds it. -/
structure TlbEnt where
  asid : BitVec 16
  page : Nat
  pages : Nat
  pte : W64
  at_ : Cache := .tlb 0 0
  deriving DecidableEq, Repr

/-- A pointer entry in the walk cache of a die (R414): the level whose table it stands in, the address bits above that level's index
and with it, and the table that it names. -/
structure PtrEnt where
  die : Nat
  asid : BitVec 16
  lvl : Nat
  ix : Nat
  table : Nat
  deriving DecidableEq, Repr

/-- A waiter list of the fault processor (R418). -/
structure Waiters where
  asid : BitVec 16
  page : BitVec 36
  kind : AccKind
  queued : Bool
  who : List (Nat × Nat)
  deriving DecidableEq, Repr

/-- ASIDs, ownership, translation caches, memory keys, fault service; `orphans` are the accesses to other devices and hosts, by ASID and
tag, of tasks that ended before they were acknowledged (R416, R421). -/
structure Xlat where
  asids : List AsidEnt := []
  art : List ArtEnt := []
  tlb : List TlbEnt := []
  ptrs : List PtrEnt := []
  keys : List (Nat × BitVec 512) := []
  waiters : List Waiters := []
  orphans : List (BitVec 16 × Nat) := []
  deriving DecidableEq, Repr

/-! ## Messages -/

/-- A message of the device to the outside, as the outside sees it: a request to a peer (R396), a host access
(R393), words of another virtual channel (R399), an item with its Caten header (R401), a Farpor packet (type, response bit, PSN, payload words),
an in-band interrupt of Bobbin and what a private read returns (R434); what the shards of the pod say to each other on the recovery channel (R54 to R66), and the
distributors on the request channel (R114, R319, R345). -/
inductive Msg where
  | remote (dev tag : Nat) (op : RemoteOp)
  | response (dev tag : Nat) (status : AccStatus) (data : List Byte)
  | words (vc dev : Nat) (ws : List W64)
  | caten (dev : Nat) (w0 w1 : W64) (data : List Byte)
  | farpor (sess : Nat) (packet : List Byte)
  | inband
  | i3c (v : BitVec 32)
  | shard (dev tag : Nat) (q : HomeAsk)
  | answer (dev tag : Nat) (a : ShardAns)
  | seal (dev tag : Nat) (tile digest : W64) (replayable compare : Bool) (inputs : List (W64 × Nat))
  | recover (dev : Nat) (tile : W64) (pool outix size prio : Nat) (place : Place) (inputs : List W64)
  | query (dev tag : Nat) (tile : W64)
  | loss (dev : Nat) (tile : W64) (primary replica : Bool)
  | mirrorRec (dev : Nat) (index : Nat) (ws : List W64)
  | offer (dev sid : Nat) (w : Waiting)
  | ended (dev : Nat) (h : W64) (idx : List W64) (fail : Option FailRec)
  | back (dev : Nat) (w : Waiting) (avoid : List Nat)
  | signal (dev tag : Nat) (h : W64)
  | count (dev : Nat) (key : W64) (spawned ended exited : Bool) (fail : Option FailRec) (energy : W64)
  | closed (dev : Nat) (key : W64)
  | group (dev : Nat) (g : Fin 4096) (join : Bool)
  deriving DecidableEq, Repr

/-! ## The fabric (R98 to R111, R396 to R407, R445) -/

/-- A station (R396 to R407); `sent` counts the tag groups under its send key, `heldKey` is since when a group of toggled phase is held for
a receive key (R404), `tagFails` the tag groups that have failed one after the other (R406). -/
structure Station where
  width : Fin 4 := 0
  dorvia : Bool := false
  parked : BitVec 8 := 0
  phase : Bool := false
  exh : Bool := false
  mode : Bool := false
  tx : Option (BitVec 256) := none
  rx : Option (BitVec 256) := none
  nextTx : Option (BitVec 256) := none
  nextRx : Option (BitVec 256) := none
  sent : Nat := 0
  heldKey : Option Nat := none
  tagFails : Nat := 0
  deriving DecidableEq, Repr

/-- A cast store kept until it is stamped (R105, R309); `wants` where a CSTORE.r waits for its number, which then stands
in `seq`; whether the switch has stamped it, which the sender has not seen yet. -/
structure CastSend where
  item : CastItem
  wants : Bool
  seq : Option (BitVec 32) := none
  stamped : Bool := false
  deriving DecidableEq, Repr

/-- Membership of a cast group (R100 to R107): window by physical address and memory key, the highest number applied, the
joining number, stores recorded before the first CWAIT or held behind a gap, each since when (R104), the ring of the last 256 applied,
the sources and serials of the stores applied (R105), the last recorded store that the first CWAIT has to apply yet (R107), and when the
group froze (R311). -/
structure Member where
  g : Fin 4096
  base : Nat
  key : Option (BitVec 512)
  size : Nat
  applied : BitVec 32
  joining : Bool
  first : BitVec 32
  kept : List (BitVec 32 × CastItem × Nat) := []
  gap : Bool := false
  frozen : Bool := false
  starved : Bool := false
  ring : List (BitVec 32 × CastItem) := []
  serials : List (Fin 1024 × BitVec 32) := []
  upto : Option (BitVec 32) := none
  frozenAt : Nat := 0
  deriving DecidableEq, Repr

/-- A FRED of this device and its outcome (R312, R313): its serial, whether the switch has accepted it, whether it asked
for it again (R108), since when it is contributed (R111), whether a FREDW collects it. -/
structure FredRec where
  id : Nat
  item : RedItem
  claimed : Bool := false
  counted : Bool := false
  resend : Bool := false
  since : Nat := 0
  out : Option RedOutcome := none
  deriving DecidableEq, Repr

/-- An FREL in flight (R98): its word's serial, its marker, the planes that have not returned release-done, and the tags of the
stores that it counts. -/
structure FrelRec where
  uid : Nat
  marker : BitVec 32
  handle : W64
  planes : List Nat
  tags : List Nat := []
  deriving DecidableEq, Repr

/-- A cast group at its sequencing switch (R101, R105, R307, R445), with its reduction timeout in microseconds (R110; the spec gives no
command that sets it, log 89), and the planes that can carry it at the members that are other devices (R105, R397). -/
structure SwGroup where
  g : Fin 4096
  members : List (Fin 1024)
  next : BitVec 32
  plane : Nat
  size : Nat
  frozen : Bool := false
  timeout : Nat := 20
  planes : List (Fin 1024 × BitVec 24) := []
  deriving DecidableEq, Repr

/-- A reduction slot at the switch of a plane (R108, R109), with the clock of its allocation (R110). -/
structure RSlot where
  g : Fin 4096
  tag : BitVec 16
  op : RedOp
  int : Bool
  nanskip : Bool
  expected : List (Fin 1024)
  got : List (Fin 1024 × BitVec 32)
  plane : Nat := 0
  since : Nat := 0
  deriving DecidableEq, Repr

/-- A pair fenced against members absent at an INCOMPLETE release (R110), with the clock of that release. -/
structure RedFence where
  g : Fin 4096
  tag : BitVec 16
  who : List (Fin 1024)
  since : Nat
  deriving DecidableEq, Repr

/-- A request to a peer that its target has not answered (R98, R398): its tag, the station that carried it, the peer, the request,
and the bytes that it covers. -/
structure FarOp where
  tag : Nat
  station : Nat
  dev : Nat
  op : RemoteOp
  len : Nat
  deriving DecidableEq, Repr

/-- Stations, the device's memberships and outstanding fabric words, and the Dorvia switches; what is withheld while no station carries its
channel (R400), and the count of items with a reserved KIND (R401). -/
structure Fabric where
  st : Vector Station 24 := Vector.replicate 24 {}
  members : List Member := []
  sends : List CastSend := []
  serial : BitVec 32 := 1
  freds : List FredRec := []
  frels : List FrelRec := []
  marker : BitVec 32 := 1
  groups : List SwGroup := []
  rslots : List RSlot := []
  fences : List RedFence := []
  rels : List (Nat × Fin 1024 × BitVec 32) := []
  farOps : List FarOp := []
  withheld : List Msg := []
  badItems : Nat := 0
  deriving DecidableEq, Repr

/-! ## The host port (R381 to R395) -/

/-- A sequenced packet that a session keeps until it is acknowledged (R384): its PSN, its number of sendings and the clock of
the last, and the tag of the device's request that it makes. -/
structure Kept where
  psn : BitVec 32
  msg : Msg
  sent : Nat
  last : Nat
  tag : Nat := 0
  deriving DecidableEq, Repr

/-- A session (R383 to R385): the next PSN expected and to send, the peer's credit, what is kept, the packets received out of order,
the tags of the device's requests that the host has not answered, each with its host address and whether it is a WRITE. -/
structure Session where
  num : Nat
  host : Nat
  mgmt : Bool
  rx : BitVec 32
  tx : BitVec 32
  credit : Nat := 0
  ackd : BitVec 32
  kept : List Kept := []
  early : List (BitVec 32 × Event) := []
  asked : List (Nat × W64 × Bool) := []
  rto : Nat := 20
  closing : Bool := false
  deriving DecidableEq, Repr

/-- The host port: sessions, host windows, dropped packets and frames, discarded host stores, the UDP port and the
addresses (R381, R429). -/
structure Port where
  sessions : List Session := []
  windows : List (Nat × Nat × W64) := []
  drops : Nat := 0
  hostDrops : Nat := 0
  udp : Nat := 47120
  mac : BitVec 48 := 0
  ipv6 : BitVec 128 := 0
  deriving DecidableEq, Repr

/-! ## Bobbin (R423 to R440) -/

/-- Bobbin: boot phase and error, registers, rails up (as a count in R424's order), PLL locks and ports up, the log, the
flash (canonical over 0xFF, log 15), the slots in use, fuses, the quarantine list, the management map, the host table,
POOLKEY (R429), the SVN of the Bobbin image that runs, the offset that a read starts at (R434), and the clocks since the cold
reset that ended before the last warm one (R437), and whether Bobbin runs, from the image that it chose (R427). -/
structure Bobbin where
  phase : Nat := 0
  error : BitVec 16 := 0
  capstep : BitVec 32 := 0
  loghead : BitVec 32 := 0
  logidx : BitVec 32 := 0
  updst : Nat := 0
  updaddr : BitVec 32 := 0
  updopen : Bool := false
  updlast : BitVec 32 := 0
  log : List (List W64) := []
  flash : List Host.Cell := []
  bobbinSlot : Bool := false
  deviceSlot : Bool := false
  svn : Nat := 0
  fuses : Nat := 0
  quarList : List (BitVec 16) := []
  dyn : Option (BitVec 7) := none
  rails : Nat := 0
  tripped : Bool := false
  pll : Bool := false
  ports : Bool := false
  power : Bool := true
  mgmtmap : W64 := 0
  hosts : List (Nat × Bool) := []
  poolKey : BitVec 16 := 0
  running : Nat := 0
  reg : BitVec 8 := 0
  before : Nat := 0
  booted : Bool := false
  deriving DecidableEq, Repr

/-- The machine-check queue of a die (R354): the records and the count since reset. -/
structure McQueue where
  recs : List W64 := []
  count : Nat := 0
  deriving DecidableEq, Repr

/-! ## The machine -/

/-- Who moves at a step, where more than one agent could (log 3); or what becomes of the hardware itself at that moment, which no
instruction does: the next read of a block finds an uncorrectable error in it, which is handled like one that a scrub finds
(R439, R444), a unit begins to compute wrongly, which
a self-check or a swatch set then shows (R283, R351). -/
inductive Turn where
  | core (n : Nat)
  | input (e : Event)
  | due (k : Nat)
  | found (stack : Fin 8) (pa : Nat)
  | breaks (u : BitVec 16)
  deriving DecidableEq, Repr

/-- The state. `cx` and `co` are the core `me`, the one that moves; `others` holds every other core that is
not at its start values. `clock` is RDCYC; `held` are the occurrences that a full table keeps from being
accepted (R119, R418); `broken` are units that compute wrongly; `free`, `uid`, `script`, `due`, `now` (the occurrence that an
operation or event of the table acts on) and `outbox` are the model's own
(log 3, log 4). -/
structure State where
  me : Nat := 0
  cx : Ctx := {}
  co : CoreSt := {}
  others : List (Nat × Ctx × CoreSt) := []
  dev : Fin 1024 := 0
  mem : Memory := {}
  mmio : Mmio := {}
  dist : Dist := {}
  arrays : Vector ArrayQ 96 := Vector.replicate 96 {}
  pow : Vector DiePow 4 := Vector.replicate 4 {}
  gov : Governor := {}
  lin : Lineage := {}
  xl : Xlat := {}
  fab : Fabric := {}
  port : Port := {}
  bob : Bobbin := {}
  mcq : Vector McQueue 4 := Vector.replicate 4 {}
  quar : List (BitVec 16) := []
  broken : List (BitVec 16) := []
  imgver : BitVec 16 := 1
  clock : Nat := 0
  free : Nat := 0
  uid : Nat := 1
  script : List Turn := []
  due : List Event := []
  held : List Event := []
  now : Option Event := none
  outbox : List Msg := []
  deriving DecidableEq, Repr

/-- The machine right after a cold reset, before Bobbin raises the first rail (R426): every register at the
value that the spec states, and where it states none at the value of log 1. -/
def State.reset : State := {}

/-- Why the machine stops. -/
inductive Fault where
  /-- A turn of the script names a core that the device does not have (R77 numbers 384). Safe: no such
  core can move. -/
  | noSuchCore (n : Nat)
  deriving DecidableEq, Repr

/-- Why an instruction has no meaning. -/
inductive Refusal where
  /-- Raised by `exec` for an instruction that the model does not give a meaning yet. Safe. -/
  | notModelled (mnemonic : String)
  deriving DecidableEq, Repr

end Sys2Proof.Machine
end

