-- ==== Sys2Proof/Machine/Mem.lean ====
section
/-! DEFINITION. Device memory by physical address: its ranges (R77, R78), bytes in canonical form, reads and
writes under a memory key (R412), poison (R444), and the history that R88 looks back into (log 6). -/

namespace Sys2Proof.Machine

/-! ## Ranges (R77) -/

/-- 4 GiB. -/
def gib4 : Nat := 2 ^ 32

/-- HBM with inline ECC: 480 GiB less the partition. -/
def inHbm (partU p : Nat) : Bool := p < (120 - partU) * gib4

/-- The HBM-P view: 7/8 of the partition. -/
def inHbmP (partU p : Nat) : Bool := 2 ^ 40 ≤ p && p < 2 ^ 40 + partU * gib4 / 8 * 7

/-- The commons. -/
def inCommons (p : Nat) : Bool := 0x20000000000 ≤ p && p < 0x20010000000

/-- Byte 0 of the scratchpad of physical core `n`. -/
def spadBase (n : Nat) : Nat := 0x30000000000 + n * 0x200000

/-- Bytes of a scratchpad. -/
def spadSize : Nat := 0x180000

/-- The scratchpads, without their gaps. -/
def inSpad (p : Nat) : Bool :=
  0x30000000000 ≤ p && p < spadBase 384 && (p - 0x30000000000) % 0x200000 < spadSize

/-- The MMIO range. -/
def inMmio (p : Nat) : Bool := 0xF0000000000 ≤ p && p < 0xF1000000000

/-- Whether a physical address lies where its target type requires (R77), by the type's code (R76). -/
def inRange (partU ty p : Nat) : Bool :=
  match ty with
  | 0 => inHbm partU p
  | 1 => inHbmP partU p
  | 2 => inCommons p
  | 3 => inSpad p
  | 6 => inMmio p
  | _ => true

/-! ## Bytes in canonical form -/

/-- The byte at an address; what no entry lists reads as `d`. -/
def cellsGet (d : Byte) : List Host.Cell → Nat → Byte
  | [], _ => d
  | (x, v) :: r, a => if x = a then v else cellsGet d r a

/-- An entry put before the first one of a higher address. -/
def cellsPut : List Host.Cell → Nat → Byte → List Host.Cell
  | [], a, b => [(a, b)]
  | (x, v) :: r, a, b => if a < x then (a, b) :: (x, v) :: r else (x, v) :: cellsPut r a b

/-- The cells with one byte replaced; an entry equal to `d` is dropped. -/
def cellsSet (d : Byte) (l : List Host.Cell) (a : Nat) (b : Byte) : List Host.Cell :=
  let l := l.filter (·.1 != a)
  if b = d then l else cellsPut l a b

/-- The byte stored at a physical address. -/
def Memory.get (m : Memory) (a : Nat) : Byte := cellsGet memDefault m.cells a

/-- One byte stored. -/
def Memory.set (m : Memory) (a : Nat) (b : Byte) : Memory :=
  { m with cells := cellsSet memDefault m.cells a b }

/-- `n` bytes stored from address `a` up, as they are stored. -/
def Memory.raw (m : Memory) (a n : Nat) : List Byte := (List.range n).map fun i => m.get (a + i)

/-- A list of bytes stored from `a` up. -/
def Memory.setAll (m : Memory) : Nat → List Byte → Memory
  | _, [] => m
  | a, b :: r => Memory.setAll (m.set a b) (a + 1) r

/-! ## Keys (R412) -/

/-- The value of an association list at a key. -/
def assoc {α : Type} (l : List (Nat × α)) (k : Nat) : Option α := (l.find? (·.1 == k)).map Prod.snd

/-- The key under which a 64-byte block was last written. -/
def Memory.keyOf (m : Memory) (a : Nat) : Option (BitVec 512) := assoc m.ckey (a / 64)

/-- The ciphertext that the memory stores of the block of `a`: `cells` hold what was written, `ckey` the key of it (R412). -/
def Memory.stored (m : Memory) (a : Nat) : BitVec 512 :=
  encrypted (m.keyOf a) (a / 64 * 64) (BitVec.ofNat 512 (natOf (m.raw (a / 64 * 64) 64)))

/-- The 64 bytes of the block of `a` as an access under `key` reads them: the decryption of the stored ciphertext. -/
def Memory.block (m : Memory) (key : Option (BitVec 512)) (a : Nat) : BitVec 512 :=
  decrypted key (a / 64 * 64) (m.stored a)

/-- The byte at `a` that an access under `key` reads. -/
def Memory.read1 (m : Memory) (key : Option (BitVec 512)) (a : Nat) : Byte :=
  if m.keyOf a = key then m.get a else BitVec.ofNat 8 ((m.block key a).toNat / 2 ^ (8 * (a % 64)))

/-- `n` bytes from `a` up under `key`. -/
def Memory.read (m : Memory) (key : Option (BitVec 512)) (a n : Nat) : List Byte :=
  (List.range n).map fun i => m.read1 key (a + i)

/-- The block of `a` brought under `key`: what a partial write of it leaves in the other bytes is what a read
under the new key gave. -/
def Memory.rekey (m : Memory) (key : Option (BitVec 512)) (a : Nat) : Memory :=
  if m.keyOf a = key then m
  else
    let old := bytesOf 64 (m.block key a).toNat
    let m := m.setAll (a / 64 * 64) old
    { m with ckey := (match key with | none => [] | some k => [(a / 64, k)])
                       ++ m.ckey.filter (·.1 != a / 64) }

/-! ## Poison (R444) -/

/-- Whether a block has lost its bytes with its die or its stack (R71). -/
def Memory.lost (m : Memory) (block : Nat) : Bool := m.gone.any fun r => r.1 < 64 * block + 64 && 64 * block < r.1 + r.2

/-- Whether some block of `n` bytes from `a` cannot be read, poisoned or lost; the first such block's address. -/
def Memory.poisoned (m : Memory) (a n : Nat) : Option Nat :=
  if (m.poison.isEmpty && m.gone.isEmpty) || n = 0 then none
  else ((List.range ((a + n - 1) / 64 - a / 64 + 1)).map (a / 64 + ·)).find? (fun b => m.poison.contains b || m.lost b)
    |>.map (64 * ·)

/-- Writes bytes under a key, and puts what they replace on the history. A write of all 64 bytes of a block makes it readable again. -/
def Memory.write (m : Memory) (key : Option (BitVec 512)) (a : Nat) (bs : List Byte) : Memory :=
  if bs.isEmpty then m
  else
    let first := a / 64; let last := (a + bs.length - 1) / 64
    let m := (List.range (last - first + 1)).foldl (fun m i => m.rekey key (64 * (first + i))) m
    -- each 64-byte block is written at once (R84), so each is one entry of the history
    let m := { m with wlog := (List.range (last - first + 1)).foldl (fun h i =>
      let lo := Nat.max a (64 * (first + i)); let hi := Nat.min (a + bs.length) (64 * (first + i) + 64)
      (lo, m.raw lo (hi - lo)) :: h) m.wlog }
    let m := m.setAll a bs
    { m with poison := m.poison.filter fun b => !(a ≤ 64 * b && 64 * b + 64 ≤ a + bs.length) }

/-- Writes the listed bytes of a range at once (R84, R255): the others stand, and a block that no read can give stays so. -/
def Memory.writeSome (m : Memory) (key : Option (BitVec 512)) (a : Nat) (bs : List (Option Byte)) : Memory :=
  if bs.all Option.isSome then m.write key a (bs.map (·.getD 0))
  else if bs.all Option.isNone then m
  else { m.write key a ((bs.zip (m.read key a bs.length)).map fun (b, o) => b.getD o) with poison := m.poison }

/-- Drops every byte from `a` up to `a + n` to zero, without the history (R32: the scratchpad cleared). -/
def Memory.clear (m : Memory) (a n : Nat) : Memory :=
  { m with cells := m.cells.filter fun c => !(a ≤ c.1 && c.1 < a + n) }

end Sys2Proof.Machine
end

