-- ==== Sys2Proof/Machine/Xlat.lean ====
section
/-! DEFINITION. Address translation: the walk (R408 to R410), the ownership table and holes (R417, R81), the
caches (R414), what a target type admits (R79), the permissions (R411), and the checks of an access in the
order of R82. -/

namespace Sys2Proof.Machine

/-! ## Leaves and the walk -/

/-- Bits [hi:lo] of a word. -/
def bits (v : W64) (hi lo : Nat) : Nat := v.toNat / 2 ^ lo % 2 ^ (hi - lo + 1)

/-- What a page of 64 KiB is to an access of an ASID. -/
inductive Page where
  /-- No entry of the ownership table covers it (R417). -/
  | hole
  /-- Owned by a home, and no valid leaf maps it (R410). -/
  | absent (home : Fin 1024)
  /-- An entry of the walk could not be read (R411): its physical address. -/
  | unreadable (pa : Nat)
  /-- Mapped: the leaf and the 54-bit address of the 64 KiB page. -/
  | leaf (pte : W64) (base : Nat)
  deriving DecidableEq, Repr

/-- Index bits of a level: the shift of its lowest bit, its entries, its table size, pages of 64 KiB per entry. -/
def levelOf : Nat → Nat × Nat × Nat × Nat
  | 3 => (42, 1024, 8192, 2 ^ 26)
  | 2 => (29, 8192, 65536, 8192)
  | 1 => (21, 256, 2048, 32)
  | _ => (16, 32, 256, 1)

/-- Whether a valid leaf's fields are what R410 allows at a level, on device `dev`. -/
def leafOk (dev : Nat) (lvl : Nat) (e : W64) : Bool :=
  let ty := bits e 63 61; let pa := bits e 47 10 * 2 ^ 16
  let enc := bits e 49 49 == 1
  lvl ≤ 2 && bits e 48 48 == 0 && bits e 9 6 == 0 && ty != 7
  && pa % ((levelOf lvl).2.2.2 * 2 ^ 16) == 0
  && (if ty = 4 then pa / 2 ^ 44 != dev else pa / 2 ^ 44 == 0)
  && (if enc then ty == 0 || ty == 1 || ty == 4 else bits e 60 51 == 0)

/-- Whether a valid pointer's fields are what R409 and R410 allow. -/
def ptrOk (partU lvl : Nat) (e : W64) : Bool :=
  let t := bits e 43 8 * 256
  0 < lvl && bits e 63 44 == 0 && bits e 7 2 == 0 && t % (levelOf (lvl - 1)).2.2.1 == 0
  && (inHbm partU t || inHbmP partU t)

/-- What a walk finds: the leaf with the level it stands at, `none` for an invalid entry, or an unreadable entry's address; and the
pointers that it read, by level. -/
abbrev Walked := Sum (Option (W64 × Nat)) Nat × List (Nat × Nat)

/-- The entry of a level's table at `t` (R409, R410): what ends the walk there, or the table that it points to. -/
def entryAt (m : Memory) (dev va lvl t : Nat) : Sum (Sum (Option (W64 × Nat)) Nat) Nat :=
  let (sh, n, _, _) := levelOf lvl
  let ea := t + va / 2 ^ sh % n * 8
  match m.poisoned ea 8 with
  | some _ => .inl (.inr ea)
  | none =>
    let e : W64 := BitVec.ofNat 64 (natOf (m.read none ea 8))
    if bits e 0 0 = 0 then .inl (.inl none)
    else if bits e 1 1 = 1 then .inl (.inl (if leafOk dev lvl e then some (e, lvl) else none))
    else if ptrOk m.partU lvl e then .inr (bits e 43 8 * 256)
    else .inl (.inl none)

/-- The walk from the table at `t` of a level. A pointer that `ptr` gives is taken from a cache and not read (R414). -/
def walk (m : Memory) (dev va : Nat) (ptr : Nat → Option Nat) : Nat → Nat → Walked
  | 0, t => match entryAt m dev va 0 t with | .inl r => (r, []) | .inr _ => (.inl none, [])
  | l + 1, t =>
    match ptr (l + 1) with
    | some u => walk m dev va ptr l u
    | none =>
      match entryAt m dev va (l + 1) t with
      | .inl r => (r, [])
      | .inr u =>
        let r := walk m dev va ptr l u
        (r.1, (l + 1, u) :: r.2)

/-- The home of a page (R417), `none` for a hole. -/
def homeOf (x : Xlat) (asid : BitVec 16) (va : Nat) : Option (Fin 1024) :=
  (x.art.find? fun e => e.asid == asid && e.base ≤ va / 2 ^ 16 && va / 2 ^ 16 ≤ e.last).map (·.home)

/-- The binding of an ASID that is BOUND or RETIRING. -/
def bindOf (x : Xlat) (asid : BitVec 16) : Option AsidEnt := x.asids.find? (·.asid == asid)

/-- The 64 KiB page's own address within a leaf. -/
def leafBase (pte : W64) (va : Nat) (pages : Nat) : Nat :=
  bits pte 47 10 * 2 ^ 16 + va / 2 ^ 16 % pages * 2 ^ 16

/-- The page of `va` by a walk that may take pointers from a cache, with the leaf's entry and the pointers read. -/
def walkPageBy (ptr : Nat → Option Nat) (s : State) (asid : BitVec 16) (va : Nat) : Page × Option TlbEnt × List (Nat × Nat) :=
  match homeOf s.xl asid va, bindOf s.xl asid with
  | none, _ => (.hole, none, [])
  | some h, none => (.absent h, none, [])
  | some h, some b =>
    match walk s.mem s.dev.val va ptr 3 b.root with
    | (.inr ea, p) => (.unreadable ea, none, p)
    | (.inl none, p) => (.absent h, none, p)
    | (.inl (some (e, lvl)), p) =>
      let n := (levelOf lvl).2.2.2
      (.leaf e (leafBase e va n), some { asid := asid, page := va / 2 ^ 16 / n * n, pages := n, pte := e }, p)

/-- The page of `va` as the tables in memory stand. -/
def walkPage (s : State) (asid : BitVec 16) (va : Nat) : Page × Option TlbEnt :=
  let r := walkPageBy (fun _ => none) s asid va
  (r.1, r.2.1)

/-! ## The caches (R414) -/

/-- The engine of a queue by its number (R97): 0 the control engine, 1 the vector engine, then matrix, copy and gauge. -/
def engineOf (q : Nat) : Nat := if q = 0 then 0 else if q ≤ 3 then 1 else q - 2

/-- The caches through which a queue of a core translates: its engine's TLB, then that of its quad. -/
def cachesOf (core q : Nat) : List Cache := [.tlb core (engineOf q), .quad (core / 4)]

/-- Whether a cached leaf translates an address. -/
def TlbEnt.covers (e : TlbEnt) (asid : BitVec 16) (va : Nat) : Bool :=
  e.asid == asid && e.page ≤ va / 2 ^ 16 && va / 2 ^ 16 < e.page + e.pages

/-- Puts a leaf into a cache in the place of what it held of those pages. -/
def cachePut (l : List TlbEnt) (e : TlbEnt) : List TlbEnt :=
  if l.contains e then l
  else e :: l.filter fun x => !(x.at_ == e.at_ && x.asid == e.asid && x.page < e.page + e.pages && e.page < x.page + x.pages)

/-- The bits of an address that a pointer entry of a level translates: its own index and those above. -/
def ptrIx (lvl va : Nat) : Nat := va / 2 ^ (levelOf lvl).1

/-- Puts a pointer into the walk cache of a die. -/
def ptrPut (l : List PtrEnt) (e : PtrEnt) : List PtrEnt :=
  if l.contains e then l
  else e :: l.filter fun x => !(x.die == e.die && x.asid == e.asid && x.lvl == e.lvl && x.ix == e.ix)

/-- What a walk has read is cached: the leaf in every cache of the list, the pointers in the walk cache of the die. -/
def fillCaches (cs : List Cache) (die : Nat) (asid : BitVec 16) (va : Nat) (leaf : Option TlbEnt) (ps : List (Nat × Nat)) (x : Xlat) : Xlat :=
  { x with
    tlb := match leaf with
      | some t => cs.foldl (fun l c => cachePut l { t with at_ := c }) x.tlb
      | none => x.tlb
    ptrs := ps.foldl (fun l p => ptrPut l ⟨die, asid, p.1, ptrIx p.1 va, p.2⟩) x.ptrs }

/-- The leaf that the first cache of the list which still holds one gives. An entry may have been evicted at any time: whether it has is
free (log 7). -/
def cachedLeaf (cs : List Cache) (s : State) (asid : BitVec 16) (va : Nat) : Option TlbEnt :=
  cs.zipIdx.findSome? fun (c, i) =>
    match s.xl.tlb.find? fun e => e.at_ == c && e.covers asid va with
    | some e => if Config.tlbEvicted (s.free + i) then none else some e
    | none => none

/-- The table that the walk cache of a die gives at a level. -/
def cachedPtr (die : Nat) (s : State) (asid : BitVec 16) (va lvl : Nat) : Option Nat :=
  match s.xl.ptrs.find? fun p => p.die == die && p.asid == asid && p.lvl == lvl && p.ix == ptrIx lvl va with
  | some p => if Config.tlbEvicted (s.free + 1 + lvl) then none else some p.table
  | none => none

/-- The free values that a translation may use: two caches of leaves, three levels of pointers. -/
def pageFree : Nat := 5

/-- The page of `va`: a hole where no entry owns it (R417); else from a cache that still holds it, or by a walk, which caches what it
read (R414). Without caches the tables are read as they stand. -/
def page (cs : List Cache) (die : Nat) (s : State) (asid : BitVec 16) (va : Nat) : Page × State :=
  if cs.isEmpty then ((walkPage s asid va).1, s)
  else if (homeOf s.xl asid va).isNone then (.hole, s)
  else
    let t := { s with free := s.free + pageFree }
    match cachedLeaf cs s asid va with
    | some e => (.leaf e.pte (leafBase e.pte va e.pages), { t with xl := fillCaches cs die asid va (some e) [] s.xl })
    | none =>
      let (p, c, ps) := walkPageBy (cachedPtr die s asid va) s asid va
      (p, { t with xl := fillCaches cs die asid va c ps s.xl })

/-! ## What an access needs (R79, R411) -/

/-- The columns of R79, with the width for MMIO; a sign-extending load is a class of its own, which MMIO does not admit. A host request is
another (R392), which may admit MMIO. -/
inductive AccCls where
  | ctl (n : Nat)
  | ctlSigned
  | vec
  | copy
  | atomic
  | cast
  | fetch
  | host (mmio : Bool)
  deriving DecidableEq, Repr

/-- The rows of R411. -/
inductive Perm where
  | rd
  | wr
  | rw
  | ex
  deriving DecidableEq, Repr

/-- R79 and R392, by target-type code. A REMOTE page's memory is checked at its device. -/
def admits (ty : Nat) : AccCls → Bool
  | .ctl n => ty ≤ 5 || (ty == 6 && (n == 4 || n == 8))
  | .ctlSigned => ty ≤ 5
  | .vec => ty ≤ 4
  | .copy => ty ≤ 5
  | .atomic => ty == 0 || ty == 1 || ty == 2 || ty == 4
  | .cast => ty ≤ 2
  | .fetch => ty == 0 || ty == 1 || ty == 2 || ty == 4
  | .host mmio => ty ≤ 2 || (ty == 6 && mmio)

/-- The bits of R411; MMIO pages are privileged whatever U holds (R443). -/
def permOk (pte : W64) (priv : Bool) : Perm → Bool
  | .rd => bits pte 2 2 == 1 && uOk
  | .wr => bits pte 3 3 == 1 && uOk
  | .rw => bits pte 2 2 == 1 && bits pte 3 3 == 1 && uOk
  | .ex => bits pte 4 4 == 1 && uOk
where
  uOk : Bool := priv || (bits pte 5 5 == 1 && bits pte 63 61 != 6)

/-- Where the bytes of an access lie: a run of bytes of one page. -/
structure Seg where
  /-- Target type (R76); 3 with `own` is the local window. -/
  ty : Nat
  own : Bool
  /-- The device of a REMOTE page. -/
  rdev : Nat
  /-- Device physical address; for HOST the window and offset of R393. -/
  pa : Nat
  len : Nat
  key : Option (BitVec 512)
  /-- The key ID that travels with a REMOTE access (R412). -/
  rkey : Option (BitVec 10)
  /-- Virtual address of the first byte. -/
  va : Nat
  /-- Whether it is a code line's fetch, which a REMOTE page's device checks as one (R79). -/
  code : Bool := false
  deriving DecidableEq, Repr

/-- What the checks of R82 find. -/
inductive Chk where
  | ok (segs : List Seg)
  | trap (cause : BitVec 8) (addr : W64)
  | absent (home : Fin 1024) (addr : W64)
  deriving DecidableEq, Repr

/-- Cause codes (R332). -/
def cILLEGAL : BitVec 8 := 0x01
/-- PRIVILEGE. -/
def cPRIVILEGE : BitVec 8 := 0x02
/-- TARGET. -/
def cTARGET : BitVec 8 := 0x03
/-- SCHEDULE. -/
def cSCHEDULE : BitVec 8 := 0x04
/-- ALIGN. -/
def cALIGN : BitVec 8 := 0x05
/-- STRADDLE. -/
def cSTRADDLE : BitVec 8 := 0x06
/-- PAGE_ABSENT. -/
def cABSENT : BitVec 8 := 0x07
/-- PAGE_PERM. -/
def cPERM : BitVec 8 := 0x08
/-- ASID. -/
def cASID : BitVec 8 := 0x09
/-- ECC. -/
def cECC : BitVec 8 := 0x0A
/-- SEAL. -/
def cSEAL : BitVec 8 := 0x0B
/-- LEASE. -/
def cLEASE : BitVec 8 := 0x0C
/-- QUEUE. -/
def cQUEUE : BitVec 8 := 0x0D
/-- USER. -/
def cUSER : BitVec 8 := 0x0E
/-- PAIR. -/
def cPAIR : BitVec 8 := 0x0F
/-- SELFCHECK. -/
def cSELFCHECK : BitVec 8 := 0x10
/-- LINK_STARVED. -/
def cSTARVED : BitVec 8 := 0x11
/-- CAST_GAP. -/
def cCASTGAP : BitVec 8 := 0x12
/-- IMAGE_LOST. -/
def cIMAGELOST : BitVec 8 := 0x13
/-- KILLED. -/
def cKILLED : BitVec 8 := 0x14

/-- The part of the local window that a SPAD field gives (R32): first byte and the byte after the last. -/
def spadPart (spad : Nat) : Nat × Nat :=
  match spad with
  | 0 => (0, 0xC0000)
  | 1 => (0xC0000, 0x180000)
  | _ => (0, 0x180000)

/-- SPAD of a packet's header word 0 (R29). -/
def packetSpad (p : List W64) : Nat := bits (p.headD 0) 43 42

/-- SPAD of a context's task; an empty bank has no part of its own. -/
def ctxSpad (c : Ctx) : Nat :=
  match c.task with
  | some t => packetSpad t.packet
  | none => 2

/-- The region of a page for STRADDLE (R81): type and, for SPAD the core, for REMOTE the device. -/
def regionOf (pte : W64) (base : Nat) : Nat × Nat :=
  let ty := bits pte 63 61
  (ty, if ty = 3 then (base - 0x30000000000) / 0x200000 else if ty = 4 then base / 2 ^ 44 else 0)

/-- The slices of `n` bytes from `va` by 64 KiB pages: (address, length). -/
def slices (va n : Nat) : List (Nat × Nat) :=
  (List.range ((va + n - 1) / 2 ^ 16 - va / 2 ^ 16 + 1)).map fun i =>
    let lo := Nat.max va ((va / 2 ^ 16 + i) * 2 ^ 16)
    (lo, Nat.min (va + n) ((va / 2 ^ 16 + i + 1) * 2 ^ 16) - lo)

/-- The page of an address outside the window: the permanent hole of R80 first, then `page`. -/
def pageAt (cs : List Cache) (s : State) (asid : BitVec 16) (va : Nat) : Page × State :=
  if va < 0x200000 || 2 ^ 52 ≤ va then (.hole, s) else page cs (s.me / 96) s asid va

/-- Step 3 of R82 for one page: its segment. -/
def checkPage (s : State) (priv : Bool) (cls : AccCls) (perm : Perm) (va len : Nat) (p : Page) : Chk :=
  match p with
  | .hole => .trap cPERM (BitVec.ofNat 64 va)
  | .absent h => .absent h (BitVec.ofNat 64 va)
  | .unreadable _ => .trap cECC (BitVec.ofNat 64 va)
  | .leaf pte base =>
    let ty := bits pte 63 61
    let pa := base + va % 2 ^ 16
    let enc := bits pte 49 49 == 1
    let key := if enc then assoc s.xl.keys (bits pte 60 51) else none
    if permOk pte priv perm && admits ty cls && inRange s.mem.partU ty pa
      && (!enc || ty == 4 || key.isSome)
      && (ty != 5 || (s.port.windows.any (·.1 == pa / 2 ^ 38 % 64))) then
      .ok [{ ty := ty, own := false, rdev := if ty = 4 then pa / 2 ^ 44 else 0,
             pa := if ty = 5 then pa else pa % 2 ^ 44, len := len, key := if ty = 4 then none else key,
             rkey := if ty = 4 && enc then some (BitVec.ofNat 10 (bits pte 60 51)) else none, va := va, code := cls == .fetch }]
    else .trap cPERM (BitVec.ofNat 64 va)

/-- The first failing check of a list of pages, else all their segments. -/
def joinChk : List Chk → Chk
  | [] => .ok []
  | .ok a :: r => match joinChk r with | .ok b => .ok (a ++ b) | x => x
  | x :: _ => x

/-- Whether two pages stand in one target region of R81: every page between them, the ends included, is present and of the same type and
core or device. The walk goes from the page of `va`, as the tables stand (log 86), by leaves and entries of the ownership table;
`k` bounds its steps. -/
def sameRun (s : State) (asid : BitVec 16) (rg : Nat × Nat) (hi : Nat) : Nat → Nat → Bool
  | 0, _ => false
  | k + 1, va =>
    if va < 0x200000 ∨ 2 ^ 52 ≤ va then false
    else match walkPage s asid va, s.xl.art.find? (fun e => e.asid == asid && e.base ≤ va / 2 ^ 16 && va / 2 ^ 16 ≤ e.last) with
      | (.leaf p b, some t), some o =>
        if regionOf p b != rg then false
        else
          let next := Nat.min (t.page + t.pages) (o.last + 1) * 2 ^ 16
          if hi < next then true else sameRun s asid rg hi k next
      | _, _ => false

/-- STRADDLE of step 2 (R82): a present page followed by a hole or by a page of another region. -/
def straddles : List Page → Bool
  | .leaf p b :: q :: r =>
    (match q with
     | .hole => true
     | .leaf p' b' => regionOf p b != regionOf p' b'
     | _ => false) || straddles (q :: r)
  | _ :: r => straddles r
  | [] => false

/-- An access to the local window (R32, R80): `n` bytes from `va`, of which the first lies in the window. -/
def checkWindow (s : State) (spad : Nat) (cls : AccCls) (va n : Nat) : Chk :=
  let (lo, hi) := spadPart spad
  if 0x180000 < va + n then .trap cSTRADDLE (BitVec.ofNat 64 va)
  else if va < lo then .trap cPERM (BitVec.ofNat 64 va)
  else if hi < va + n then .trap cPERM (BitVec.ofNat 64 (Nat.max va hi))
  else if !admits 3 cls then .trap cPERM (BitVec.ofNat 64 va)
  else .ok [{ ty := 3, own := true, rdev := 0, pa := spadBase s.me + va, len := n, key := none, rkey := none,
              va := va }]

/-- The checks 2 and 3 of R82 on `n > 0` bytes from `va` under an ASID and a mode; ALIGN is checked before by
the caller, ECC after. The translations go through the caches of `cs`. -/
def check (cs : List Cache) (s : State) (asid : BitVec 16) (priv : Bool) (spad : Nat) (cls : AccCls) (perm : Perm) (va n : Nat) :
    Chk × State :=
  if 2 ^ 52 ≤ va then (.trap cPERM (BitVec.ofNat 64 va), s)
  else if va < 0x180000 then (checkWindow s spad cls va n, s)
  else
    let sl := slices va n
    let (ps, s) := sl.foldl (fun (acc, s) (a, _) => let (p, s) := pageAt cs s asid a; (acc ++ [p], s)) ([], s)
    let chk :=
      match ps with
      | .hole :: _ => .trap cPERM (BitVec.ofNat 64 va)
      | _ =>
        if straddles ps then .trap cSTRADDLE (BitVec.ofNat 64 va)
        else joinChk ((sl.zip ps).map fun ((a, l), p) => checkPage s priv cls perm a l p)
    (chk, s)

/-- Whether some page that an access walks is unreadable: the event of R411 gives its entry. -/
def unreadableAt (s : State) (asid : BitVec 16) (va n : Nat) : Option Nat :=
  (slices va n).findSome? fun (a, _) =>
    if a < 0x200000 || 2 ^ 52 ≤ a then none
    else match (walkPage s asid a).1 with | .unreadable ea => some ea | _ => none

end Sys2Proof.Machine
end

