-- ==== Sys2Proof/Machine/Base.lean ====
section
/-! DEFINITION. The smallest operations on the state: cores and banks, scalar registers (R193), free values and
serial numbers, messages, events (R437, R438), what an attempt at a word can come to, and memory as a context
sees it (R85 to R92). -/

namespace Sys2Proof.Machine

/-! ## Counters and messages -/

/-- The index of the next free value, used up. -/
def takeFree (s : State) : Nat × State := (s.free, { s with free := s.free + 1 })

/-- A serial number of the model's own. -/
def takeUid (s : State) : Nat × State := (s.uid, { s with uid := s.uid + 1 })

/-- Clocks of a number of microseconds (R2). -/
def micros (n : Nat) : Nat := 4000 * n

/-- A step whose cause has happened; one that already waits is not put twice. -/
def raiseDue (i : Event) (s : State) : State :=
  if s.due.contains i then s else { s with due := s.due ++ [i] }

/-! ## Stations (R398 to R405) -/

/-- Whether the next tag group of a station would need the last counter value, and no next send key is installed (R405). -/
def spent (t : Station) : Bool := t.tx.isSome && t.nextTx.isNone && 2 ^ 64 ≤ t.sent + 1

/-- Whether a station carries a channel: it is up, not exhausted (R405), does not park the channel (R400), and has a key
for each direction, which the management channel does not need (R403). -/
def carries (t : Station) (ch : Nat) : Bool :=
  t.width != 0 && !t.exh && !spent t && !t.parked.getLsbD ch
    && (ch == 7 || ((t.tx.isSome || t.nextTx.isSome) && (t.rx.isSome || t.nextRx.isSome)))

/-- Whether a channel has a station here that carries it (R400). -/
def chanUp (s : State) (ch : Nat) : Bool := s.fab.st.toList.any fun t => carries t ch

/-- The plane of a REMOTE block: the hash of R398, then the next station that is up and does not park the request
channel. -/
def stationOf (s : State) (fabricBlock : Nat) : Nat :=
  let h := Config.stationHash fabricBlock % 24
  (((List.range 24).map fun i => (h + i) % 24).find? fun k =>
    match s.fab.st[k]? with | some t => carries t 0 | none => false).getD h

/-- The device physical address of a request to a peer. -/
def opAddress : RemoteOp → Nat
  | .load pa _ _ | .fetch pa _ _ | .store pa _ _ | .storeSome pa _ _ | .amo _ _ pa _ _ _ | .cas2 pa _ _ _ | .lenq pa _ _ _ | .ldeq pa _ _ | .chase pa _ _ _ _ _ _
  | .opk pa _ _ _ => pa

/-- A station that carries a channel. -/
def carrier (s : State) (ch : Nat) : Option Nat :=
  (List.range 24).find? fun k => match s.fab.st[k]? with | some t => carries t ch | none => false

/-- The virtual channel of an item with a Caten header, by its KIND (R402). -/
def catenChannel (w0 : W64) : Nat := match bits w0 63 60 with | 8 => 0 | 9 => 1 | 5 | 6 | 7 => 3 | _ => 2

/-- The virtual channel of a message to the fabric (R399); none for what leaves by the host port or by Bobbin's bus. -/
def channelOf : Msg → Option Nat
  | .remote _ _ _ | .ended _ _ _ _ | .back _ _ _ | .signal _ _ _ | .count _ _ _ _ _ _ _ | .closed _ _ => some 0
  | .response _ _ _ _ => some 1
  | .words vc _ _ => some vc
  | .caten _ w0 _ _ => some (catenChannel w0)
  | .shard _ _ _ | .answer _ _ _ | .seal _ _ _ _ _ _ _ | .recover _ _ _ _ _ _ _ _ | .query _ _ _ | .loss _ _ _ _ | .mirrorRec _ _ _ => some 4
  | .offer _ _ _ => some 5
  | .group _ _ _ => some 7
  | .farpor _ _ | .inband | .i3c _ => none

/-- The plane of a cast group (R101). -/
def planeAt (g : Fin 4096) (s : State) : Option Nat := (s.fab.groups.find? (·.g == g)).map (·.plane)

/-- The station that a message of a channel leaves on: a request's by R398, a cast store's, contribution's or outcome's by its group's
plane (R101, R108), any other on a station that carries the channel; none while no station carries it (R400). -/
def stationFor (s : State) (m : Msg) (ch : Nat) : Option Nat :=
  if !chanUp s ch then none
  else match m with
    | .remote dev _ op => some (stationOf s ((dev * 2 ^ 44 + opAddress op) / 64))
    | .caten _ w0 _ _ => (planeAt (Fin.ofNat 4096 (bits w0 59 48)) s).or (carrier s ch)
    | _ => carrier s ch

/-- The bytes that follow the header of a message. -/
def payloadOf : Msg → Nat
  | .remote _ _ (.store _ bs _) => bs.length
  | .remote _ _ (.storeSome _ bs _) => bs.length
  | .response _ _ _ bs => bs.length
  | .words _ _ ws => 8 * ws.length
  | .caten _ _ _ bs => bs.length
  | .mirrorRec _ _ ws => 8 * ws.length
  | _ => 0

/-- The tag groups of a message (R403): five flits of 64 bytes each, of which the first of all holds the header (log 60). -/
def groupsOf (m : Msg) : Nat := (1 + (payloadOf m + 63) / 64 + 4) / 5

/-- The nonce of a tag group (R403): sender, station, 17 zero bits, counter. -/
def groupNonce (dev station counter : Nat) : BitVec 96 := BitVec.ofNat 96 (dev * 2 ^ 86 + station * 2 ^ 81 + counter % 2 ^ 64)

/-- A station seals `n` groups (R403, R404): the first one after a next send key was installed changes over to it, with
the key phase toggled and the counter at 0; each uses the next value of the counter. -/
def sealGroups (n : Nat) (t : Station) : Station :=
  if t.nextTx.isSome && (t.rx.isSome || t.nextRx.isSome) then
    { t with tx := t.nextTx, nextTx := none, phase := !t.phase, sent := n, exh := false }
  else if t.tx.isSome then { t with sent := Nat.min (2 ^ 64 - 1) (t.sent + n) }
  else t

/-- A station sends `n` groups. Where the next one would need the last counter value, its key is exhausted (R405). -/
def sealOn (n k : Nat) (s : State) : State :=
  match s.fab.st[k]? with
  | none => s
  | some t =>
    let t := sealGroups n t
    let s := { s with fab := { s.fab with st := s.fab.st.set! k t } }
    if spent t then raiseDue (.keyExhausted (Fin.ofNat 24 k)) s else s

/-- A message leaves the device; one to the fabric that no station carries now is withheld (R400). -/
def send (m : Msg) (s : State) : State :=
  match channelOf m with
  | none => { s with outbox := s.outbox ++ [m] }
  | some ch =>
    match stationFor s m ch with
    | some k => let s := sealOn (groupsOf m) k s; { s with outbox := s.outbox ++ [m] }
    | none => { s with fab := { s.fab with withheld := s.fab.withheld ++ [m] } }

/-- A message leaves on a station that is given. -/
def sendOn (k : Nat) (m : Msg) (s : State) : State :=
  let s := sealOn (groupsOf m) k s
  { s with outbox := s.outbox ++ [m] }

/-- What a switch sends: no station of this device seals it. -/
def switchSend (m : Msg) (s : State) : State := { s with outbox := s.outbox ++ [m] }

/-- What was withheld leaves where a station carries it now. -/
def sendWithheld (s : State) : State :=
  s.fab.withheld.foldl (fun s m => send m s) { s with fab := { s.fab with withheld := [] } }

/-- Whether a request stores plainly, as a release counts it (R98). -/
def plainStore (op : RemoteOp) : Bool := match op with | .store _ _ _ | .storeSome _ _ _ => true | _ => false

/-- Whether an open request is such a store. -/
def farStore (o : FarOp) : Bool := plainStore o.op

/-- Whether an access to a peer must wait: an earlier one to a 64-byte block that it touches went on another station and is not
acknowledged (R398). -/
def farMoved (dev pa len : Nat) (s : State) : Bool :=
  (List.range ((pa + len - 1) / 64 - pa / 64 + 1)).any fun i =>
    let b := pa / 64 + i
    s.fab.farOps.any fun o => o.dev == dev && opAddress o.op / 64 ≤ b && b ≤ (opAddress o.op + o.len - 1) / 64
      && o.station != stationOf s (dev * 2 ^ 38 + b)

/-- Traffic of a context goes over a station: in skid mode the check of its tag group is awaited (R45), whose time is free (log 83). -/
def awaitTag (k : Nat) (c : Ctx) (s : State) : Ctx × State :=
  match s.fab.st[k]? with
  | some t =>
    if t.mode then ({ c with fl := { c.fl with skid := Nat.max c.fl.skid (s.clock + Config.skidClocks s.free) } }, { s with free := s.free + 1 })
    else (c, s)
  | none => (c, s)

/-- What a request of the moving context leaves with it: a plain store marks its station as one that carried its stores (R98). -/
def usesStation (k : Nat) (op : RemoteOp) (s : State) : State :=
  let c := if plainStore op then { s.cx with fl := { s.cx.fl with carried := s.cx.fl.carried ||| BitVec.ofNat 24 (2 ^ k) } } else s.cx
  let (c, s) := awaitTag k c s
  { s with cx := c }

/-- A request for `len` bytes of a peer leaves, and stays open until its answer. -/
def sendFar (dev tag len : Nat) (op : RemoteOp) (s : State) : State :=
  let k := stationOf s ((dev * 2 ^ 44 + opAddress op) / 64)
  send (.remote dev tag op) (usesStation k op { s with fab := { s.fab with farOps := s.fab.farOps ++ [⟨tag, k, dev, op, len⟩] } })

/-! ## Cores and banks -/

/-- Core `n` with its active bank. -/
def coreOf (s : State) (n : Nat) : Ctx × CoreSt :=
  if n = s.me then (s.cx, s.co) else (assoc s.others n).getD ({}, {})

/-- Replaces a value in an association list, or adds it. -/
def assocSet {α : Type} (l : List (Nat × α)) (k : Nat) (v : α) : List (Nat × α) :=
  (k, v) :: l.filter (·.1 != k)

/-- Writes core `n`. -/
def setCore (s : State) (n : Nat) (c : Ctx × CoreSt) : State :=
  if n = s.me then { s with cx := c.1, co := c.2 } else { s with others := assocSet s.others n c }

/-- Core `n` becomes the one that `cx` and `co` hold. -/
def focus (n : Nat) (s : State) : State :=
  if n = s.me then s
  else
    let (c, k) := coreOf s n
    { s with me := n, cx := c, co := k, others := assocSet (s.others.filter (·.1 != n)) s.me (s.cx, s.co) }

/-- Runs an operation of core `n` and returns to the core that moves. -/
def onCore (n : Nat) (f : State → State) (s : State) : State := focus s.me (f (focus n s))

/-- The cores that are not at their start values: the moving one first. -/
def liveCores (s : State) : List Nat := s.me :: s.others.map Prod.fst

/-- Every bank that holds a task: core, whether it is the active one, the bank. -/
def banks (s : State) : List (Nat × Bool × Ctx) :=
  ((s.me, s.cx, s.co) :: s.others).flatMap fun (n, c, k) =>
    (if c.task.isSome then [(n, true, c)] else [])
      ++ (match k.standby with | some d => [(n, false, d)] | none => [])

/-- Applies an operation to every bank, the empty ones too. -/
def mapBanks (f : Ctx → Ctx) (s : State) : State :=
  let g (p : Ctx × CoreSt) : Ctx × CoreSt := (f p.1, { p.2 with standby := p.2.standby.map f })
  let me := g (s.cx, s.co)
  { s with cx := me.1, co := me.2, others := s.others.map fun (n, p) => (n, g p) }

/-- Die, quad and core in its quad of a physical core (R77). -/
def dieOf (n : Nat) : Nat := n / 96
/-- The quad, numbered through the device, 0 to 95. -/
def quadOf (n : Nat) : Nat := n / 4

/-! ## Scalar registers (R193) -/

/-- The value of an S register; S0 reads zero. -/
def sget (c : Ctx) (r : Fin 32) : W64 := if r = 0 then 0 else c.s[r]

/-- Writes an S register: a write to S0 is discarded; a load or atomic that has not delivered to the register
delivers no longer (R191: program order), and an error of it is still taken where the register is read (R192). -/
def sset (c : Ctx) (r : Fin 32) (v : W64) : Ctx :=
  if r = 0 then c
  else { c with s := c.s.set r v
                fl := { c.fl with loads := c.fl.loads.map fun l => { l with dests := l.dests.map fun d => if d = r then 0 else d } } }

/-- Writes an S register of the moving context. -/
def wr (s : State) (r : Fin 32) (v : W64) : State := { s with cx := sset s.cx r v }

/-! ## Events (R437, R438) -/

/-- The MGMTMAP core of a die (R429). -/
def mgmtCore (s : State) (die : Nat) : Nat := bits s.bob.mgmtmap (16 * die + 8) (16 * die)

/-- Whether a unit is quarantined. -/
def quarantined (s : State) (u : BitVec 16) : Bool := s.quar.contains u

/-- A unit ID (R38). -/
def unitId (die quad core kind : Nat) : BitVec 16 :=
  BitVec.ofNat 16 (die * 2 ^ 14 + quad * 2 ^ 9 + core * 2 ^ 7 + kind * 2 ^ 3)

/-- Whether quarantine takes a physical core out of service (R359). A quarantined bank does not (kind 9), both banks of
a core do (log 109). -/
def coreOut (s : State) (n : Nat) : Bool :=
  let bank := unitId (dieOf n) (n % 96 / 4) (n % 4) 9
  (s.quar.contains bank && s.quar.contains (bank + 4)) || s.quar.any fun u =>
    let d := u.toNat / 2 ^ 14; let q := u.toNat / 2 ^ 9 % 32; let c := u.toNat / 2 ^ 7 % 4
    let k := u.toNat / 8 % 16
    d == dieOf n && (k == 10 || (q == n % 96 / 4 && (k == 2 || (k != 9 && k != 11 && c == n % 4))))

/-- The cores whose ASID-0 contexts get INTPEND bits (R331, R429): for each die its MGMTMAP core, or when that core is
out, the MGMTMAP core of the lowest die in service. -/
def mgmtTargets (s : State) (dies : List Nat) : List Nat :=
  dies.map fun d =>
    if coreOut s (mgmtCore s d) then
      mgmtCore s (((List.range 4).find? fun e => !quarantined s (unitId e 31 0 10)
        && !coreOut s (mgmtCore s e)).getD d)
    else mgmtCore s d

/-- Sets bits of INTPEND in the contexts of ASID 0 on some cores. -/
def raiseInt (cores : List Nat) (mask : BitVec 3) (s : State) : State :=
  cores.foldl (fun s n =>
    let g (c : Ctx) : Ctx :=
      if c.task.isSome && c.pr.asid == 0 then { c with pr := { c.pr with intpend := c.pr.intpend ||| mask } } else c
    let (c, k) := coreOf s n
    setCore s n (g c, { k with standby := k.standby.map g })) s

/-- Whether a session's packet may be sent now: below ACKPSN + CREDIT (R384). -/
def inCredit (x : Session) (psn : BitVec 32) : Bool := (psn - x.ackd).toNat < x.credit

/-- Bit fields joined: (value, lowest bit). -/
def fields (l : List (Nat × Nat)) : W64 := BitVec.ofNat 64 (l.foldl (fun a x => a + x.1 * 2 ^ x.2) 0)

/-- 8-byte words as the bytes of a payload (R3). -/
def wordBytes (ws : List W64) : List Byte := ws.flatMap fun w => bytesOf 8 w.toNat

/-- Word 0 of a Farpor header (R382): VER 1, TYPE, RESP, AV, SESSION, PSN. -/
def farporHead (sess ty : Nat) (resp av : Bool) (psn : Nat) : W64 :=
  fields [(1, 60), (ty, 56), (resp.toNat, 55), (av.toNat, 54), (sess, 32), (psn, 0)]

/-- A Farpor packet that acknowledges nothing (R382): AV, ACKPSN, CREDIT and SACK are zero, LEN is its payload's length. -/
def farporPacket (sess ty : Nat) (resp : Bool) (psn : Nat) (body : List Byte) : Msg :=
  .farpor sess (wordBytes [farporHead sess ty resp false psn, fields [(body.length, 0)], 0] ++ body)

/-- A sequenced packet of a session (R384): it takes the next PSN, is kept until it is acknowledged, with the number of
its sendings, and leaves as soon as the peer's credit admits it. `asks` gives the tag and the host address of a request of the device, and
whether it is a WRITE. -/
def sessSend (sess ty : Nat) (resp : Bool) (asks : Option (Nat × W64 × Bool)) (body : List Byte) (s : State) : State :=
  match s.port.sessions.find? (·.num == sess) with
  | none => { s with port := { s.port with drops := s.port.drops + 1 } }
  | some x =>
    let now := inCredit x x.tx
    let m := farporPacket sess ty resp x.tx.toNat body
    let k : Kept := { psn := x.tx, msg := m, sent := if now then 1 else 0, last := s.clock, tag := (asks.map (·.1)).getD 0 }
    let y : Session := { x with tx := x.tx + 1, kept := x.kept ++ [k], asked := x.asked ++ asks.toList }
    let s := { s with port := { s.port with sessions := s.port.sessions.map fun z => if z.num = sess then y else z } }
    if now then send m s else s

/-- The access header (R391). -/
def accessHead (addr : W64) (asid status len : Nat) : List W64 := [addr, fields [(asid, 48), (status, 32), (len, 0)]]

/-- A device event (R437): appended to Bobbin's log, an in-band interrupt, an EVENT on every management
session while the device is READY (R395, R435), INTPEND.EVENT (R331). -/
def event (cls code : Nat) (unit : BitVec 16) (arg0 arg1 : W64) (s : State) : State :=
  let seq := s.bob.loghead
  let w0 : W64 := BitVec.ofNat 64 (cls * 2 ^ 56 + code * 2 ^ 48 + unit.toNat * 2 ^ 32 + seq.toNat)
  let time : W64 := if s.bob.phase = 6 then BitVec.ofNat 64 s.clock
    else BitVec.ofNat 64 (2 ^ 63 + (s.bob.before + s.clock) / 4000000 % 2 ^ 63)
  let rec_ := [w0, time, arg0, arg1]
  -- Bobbin's list of quarantined units (R440)
  let ql := s.bob.quarList
  let ql := if cls = 1 ∧ (code = 1 ∨ code = 2 ∨ (code = 3 ∧ arg0 = 0)) then
      (if ql.contains unit || 64 ≤ ql.length then ql else ql ++ [unit])
    else if cls = 1 ∧ code = 3 then ql.filter (· != unit) else ql
  let s := { s with bob := { s.bob with log := (s.bob.log ++ [rec_]).drop (s.bob.log.length + 1 - 4096)
                                        loghead := seq + 1
                                        quarList := ql }
                    outbox := s.outbox ++ [.inband] }
  if s.bob.phase = 6 then
    let s := s.port.sessions.foldl (fun s x =>
      if x.mgmt then sessSend x.num 6 false none (wordBytes rec_) s else s) s
    raiseInt (mgmtTargets s [0, 1, 2, 3]) 2 s
  else s

/-- The unit of the base die or the device as a whole (R437). -/
def wholeDevice : BitVec 16 := 0xFFFF

/-! ## Attempts -/

/-- What an attempt at a word comes to: it is done; it faults (cause, fault address, TINFO); a page is absent and
owned (home, address, kind, R333); it must wait; an earlier load's or atomic's error is taken at it (R192: its cause, that
word's address, the fault address); or the context has left the bank. The state carries what stands whatever follows. -/
inductive Act where
  | done (s : State)
  | trap (cause : BitVec 8) (addr : W64) (info : Nat) (s : State)
  | absent (home : Fin 1024) (addr : W64) (kind : AccKind) (s : State)
  | wait (w : Wait) (s : State)
  | late (cause : BitVec 8) (pc addr : W64) (s : State)
  | left (s : State)

/-- A value that a word needs, or why it cannot go on. -/
inductive Res (α : Type) where
  | ok (a : α) (s : State)
  | stop (x : Act)

/-- Goes on with the value. -/
def Res.bind {α : Type} (r : Res α) (f : α → State → Act) : Act :=
  match r with
  | .ok a s => f a s
  | .stop x => x

/-- Goes on to another value. -/
def Res.andThen {α β : Type} (r : Res α) (f : α → State → Res β) : Res β :=
  match r with
  | .ok a s => f a s
  | .stop x => .stop x

/-- Values of a list of steps, in order. -/
def Res.mapM {α β : Type} (f : α → State → Res β) : List α → State → Res (List β)
  | [], s => .ok [] s
  | x :: r, s => (f x s).andThen fun y s => (Res.mapM f r s).andThen fun ys s => .ok (y :: ys) s

/-- ILLEGAL at the word's own address (R332). -/
def illegal (pc : W64) (s : State) : Act := .trap cILLEGAL pc 0 s

/-! ## Memory as a context sees it (R85 to R92) -/

/-- Bit of a queue in the QFENCE mask (R97); none is the control engine. -/
def qbit : Option Queue → Nat
  | none => 0
  | some .vload => 1 | some .varith => 2 | some .vstore => 3 | some .matrix => 4 | some .copy => 5
  | some .gauge => 6

/-- A byte's name in the snapshot: local memory by physical address, a REMOTE byte by fabric address, a HOST
byte by window and offset. -/
def Seg.loc (g : Seg) : Nat :=
  if g.ty = 4 then 2 ^ 60 + g.rdev * 2 ^ 44 + g.pa else if g.ty = 5 then 2 ^ 61 + g.pa else g.pa

/-- The byte that the phase has fixed for a queue (R88, R89). -/
def pinned (c : Ctx) (q : Nat) (loc : Nat) : Option Byte :=
  (c.fl.snap.find? fun p => p.loc == loc && p.queues.getLsbD q).map (·.byte)

/-- Fixes bytes from `loc` up for the queues of a mask. -/
def pin (mask : BitVec 7) (loc : Nat) (bs : List Byte) (c : Ctx) : Ctx :=
  { c with fl := { c.fl with snap := (bs.mapIdx fun i b => ⟨loc + i, b, mask⟩) ++ c.fl.snap } }

/-- Bytes from `loc` up that a read has returned: every later read of the phase returns them, save where the context's own store is
ordered before it (R88, R89), whose pin stands further in front. -/
def pinRead (loc : Nat) (bs : List Byte) (c : Ctx) : Ctx :=
  let all : BitVec 7 := BitVec.allOnes 7
  let new : List Pin := bs.mapIdx fun i b => ⟨loc + i, b, all⟩
  let has (p : Pin) : Bool := c.fl.snap.any fun q => q.loc == p.loc && q.queues == all
  { c with fl := { c.fl with snap := c.fl.snap ++ new.filter (!has ·) } }

/-- Undoes one write of the history on a block of bytes from `a` up. -/
def undo (a : Nat) (bs : List Byte) (e : Nat × List Byte) : List Byte :=
  bs.mapIdx fun i b => if e.1 ≤ a + i ∧ a + i < e.1 + e.2.length then e.2.getD (a + i - e.1) b else b

/-- The length that the write history had when the context's snapshot of some bytes was last refreshed (R90, R92). -/
def freshFrom (c : Ctx) (a n : Nat) : Nat :=
  (c.fl.fresh.filter fun r => r.1 < a + n && a < r.1 + r.2.1).foldl (fun m r => Nat.max m r.2.2) c.fl.since

/-- The bytes of one 64-byte block that a plain read finds: those of a moment since the context's last boundary
(R88). The moment is free (log 6) where something has been written to the block since, among those that agree with the bytes `fixed` that
an earlier read of the phase has returned: the access sees one moment of the block (R84). That it may be one after an atomic of the
same phase, the context's own included, is the model's choice (log 77). -/
def readMomentOf (s : State) (key : Option (BitVec 512)) (a n : Nat) (fixed : List (Option Byte)) : List Byte × State :=
  let since := s.mem.wlog.take (s.mem.wlog.length - freshFrom s.cx a n)
  let hits := since.filter fun e => e.1 < a + n && a < e.1 + e.2.length
  let now := s.mem.read key a n
  if hits.isEmpty then (now, s)
  else
    let (k, s) := takeFree s
    let moments := (List.range (hits.length + 1)).map fun b => (hits.take b).foldl (undo a) now
    let agree := moments.filter fun bs => (bs.zip fixed).all fun (b, f) => f.all (· == b)
    let from_ := if agree.isEmpty then moments else agree
    (from_.getD (Config.readMoment k % from_.length) now, s)

/-- The byte of a location that a read of the phase has returned. -/
def readBefore (c : Ctx) (loc : Nat) : Option Byte :=
  (c.fl.snap.find? fun p => p.loc == loc && p.queues == BitVec.allOnes 7).map (·.byte)

/-- One block piece of local memory as a plain read in queue `q` sees it, and it stays so for the phase. -/
def snapRead (q : Nat) (key : Option (BitVec 512)) (a n : Nat) (s : State) : List Byte × State :=
  let fixed := (List.range n).map fun i => pinned s.cx q (a + i)
  let (bs, s) := if fixed.all Option.isSome then (fixed.map (·.getD 0), s)
    else
      let (bs, s) := readMomentOf s key a n ((List.range n).map fun i => readBefore s.cx (a + i))
      ((bs.zip fixed).map fun (b, f) => f.getD b, s)
  (bs, { s with cx := pinRead a bs s.cx })

/-- `n` bytes from `a` up, block by block. -/
def snapReadAll (q : Nat) (key : Option (BitVec 512)) (a n : Nat) (s : State) : List Byte × State :=
  if n = 0 then ([], s)
  else
    (List.range ((a + n - 1) / 64 - a / 64 + 1)).foldl (fun (acc, s) i =>
      let lo := Nat.max a (64 * (a / 64 + i)); let hi := Nat.min (a + n) (64 * (a / 64 + i) + 64)
      let (bs, s) := snapRead q key lo (hi - lo) s
      (acc ++ bs, s)) ([], s)

/-- LINK_STARVED at the word that makes a send (R400); its address stands in for TADDR where the word settles. -/
def starved (s : State) : Act := .trap cSTARVED s.cx.pc 0 s

/-- A segment cut at 64-byte blocks of its physical addresses, each part with its place in the segment. -/
def blocksOf (g : Seg) : List (Nat × Seg) :=
  if g.len = 0 then [] else
  (List.range ((g.pa + g.len - 1) / 64 - g.pa / 64 + 1)).map fun i =>
    let lo := Nat.max g.pa (64 * (g.pa / 64 + i)); let hi := Nat.min (g.pa + g.len) (64 * (g.pa / 64 + i) + 64)
    (lo - g.pa, { g with pa := lo, len := hi - lo, va := g.va + (lo - g.pa) })

/-- The requests that the bytes of a segment outside the device take: one for each 64-byte block of a peer (R398). -/
def requests (g : Seg) : List (Nat × Seg) := if g.ty = 4 then blocksOf g else [(0, g)]

/-- Whether an access to a segment must wait for a change of station (R398). -/
def segMoved (g : Seg) (s : State) : Bool := g.ty == 4 && farMoved g.rdev g.pa g.len s

/-- A request to a peer or a host for the bytes of a segment. -/
def askRemote (g : Seg) (s : State) : Nat × State :=
  let (u, s) := takeUid s
  let s := if g.ty = 4 then sendFar g.rdev u g.len (if g.code then .fetch g.pa g.len g.rkey else .load g.pa g.len g.rkey) s
    else match s.port.windows.find? (·.1 == g.pa / 2 ^ 38 % 64) with
      | some (_, sess, base) =>
        let a := base + BitVec.ofNat 64 (g.pa % 2 ^ 38)
        sessSend sess 2 false (some (u, a, false)) (wordBytes (accessHead a 0 0 g.len)) s
      | none => s
  (u, s)

/-! ## Outstanding loads and atomics (R95, R192, R341) -/

/-- Bytes of a load or store, and whether it is a sign-extending load. -/
def accessWidth : Instr → Nat × Bool
  | .ld8 _ _ _ | .st8 _ _ _ => (1, false)
  | .ld16 _ _ _ | .st16 _ _ _ => (2, false)
  | .ld32 _ _ _ | .st32 _ _ _ => (4, false)
  | .lds8 _ _ _ => (1, true)
  | .lds16 _ _ _ => (2, true)
  | .lds32 _ _ _ => (4, true)
  | _ => (8, false)

/-- Whether an outstanding word is a plain load. -/
def plainLoad : Instr → Bool
  | .ld8 _ _ _ | .ld16 _ _ _ | .ld32 _ _ _ | .ld64 _ _ _ | .lds8 _ _ _ | .lds16 _ _ _ | .lds32 _ _ _ => true
  | _ => false

/-- Whether an outstanding word is an operation packet, whose answer goes to a stream (R305). -/
def isOpk : Instr → Bool
  | .opk _ _ _ _ => true
  | _ => false

/-- The segment that an abandoned load names by its location. -/
def segAt (loc n : Nat) (rkey : Option (BitVec 10)) (va : Nat) : Seg :=
  if 2 ^ 61 ≤ loc then ⟨5, false, 0, loc - 2 ^ 61, n, none, none, va, false⟩
  else ⟨4, false, (loc - 2 ^ 60) / 2 ^ 44, (loc - 2 ^ 60) % 2 ^ 44, n, none, rkey, va, false⟩

/-- Whether a restored context may go on: every REMOTE and HOST store of it has been acknowledged (R90), its atomics have answered
(R341), and no load to issue again waits for a change of station (R398). -/
def restorable (c : Ctx) (s : State) : Bool :=
  c.fl.unacked.isEmpty && c.fl.loads.all fun l =>
    if plainLoad l.ins then !segMoved (segAt l.loc (accessWidth l.ins).1 l.rkey l.addr.toNat) s else l.got.isSome

/-- A plain load that a pre-emption abandoned is issued again, in the phase that begins now (R341, R90); one through a window that is set no longer is
refused (R393). -/
def reissue (c : Ctx) (s : State) : Ctx × State :=
  let (ls, s) := c.fl.loads.foldl (fun (ls, s) l =>
    if plainLoad l.ins then
      let g := segAt l.loc (accessWidth l.ins).1 l.rkey l.addr.toNat
      if g.ty = 5 && !s.port.windows.any (·.1 == g.pa / 2 ^ 38 % 64) then (ls ++ [{ l with got := some (.pagePerm, []) }], s)
      else
        let (u, s) := askRemote g s
        (ls ++ [{ l with tag := u, got := none, fixed := [], stale := 0 }], s)
    else (ls ++ [l], s)) ([], s)
  ({ c with fl := { c.fl with loads := ls } }, s)

/-! ## Sequence numbers (R101) -/

/-- The number after one: from 0xFFFF_FFFF to 1. -/
def seqSucc (x : BitVec 32) : BitVec 32 := if x = 0xFFFFFFFF then 1 else x + 1

/-- The number before one. -/
def seqPred (x : BitVec 32) : BitVec 32 := if x ≤ 1 then 0xFFFFFFFF else x - 1

/-- Whether `a` is at or before `b` in serial order. -/
def seqLe (a b : BitVec 32) : Bool := (b.toNat + (2 ^ 32 - 1) - a.toNat) % (2 ^ 32 - 1) < 2 ^ 31

/-! ## Reads and stores -/

/-- The cause that an access status reported from outside gives (R79, R393). -/
def statusCause : AccStatus → BitVec 8
  | .ecc => cECC
  | _ => cPERM

/-- Reads a segment outside the device, whose bytes the snapshot names by `loc`: what is not there is asked for, each part once, and
the word waits for it (R90). A refusal ends it with `bad`. -/
def readFar (q : Nat) (loc : Seg → Nat) (bad : AccStatus → Seg → State → Act) (g : Seg) (s : State) : Res (List Byte) :=
  let fixed (p : Seg) := (List.range p.len).map fun i => pinned s.cx q (loc p + i)
  if (fixed g).all Option.isSome then .ok ((fixed g).map (·.getD 0)) s
  else
    let lacking := (requests g).filterMap fun (_, p) =>
      if (fixed p).all Option.isSome then none else some (p, s.cx.fl.reqs.find? fun r => r.loc == loc p && r.len == p.len)
    match lacking.findSome? fun (p, r) => r.bind fun r => r.err.map fun e => (p, r, e) with
    | some (p, r, e) => .stop (bad e p { s with cx := { s.cx with fl := { s.cx.fl with reqs := s.cx.fl.reqs.filter (· != r) } } })
    | none =>
      let new := (lacking.filter (·.2.isNone)).map (·.1)
      if !new.isEmpty && g.ty = 4 && !chanUp s 0 then .stop (starved s)
      else .stop (.wait .other (new.foldl (fun s p =>
        if segMoved p s then s
        else
          let (u, s) := askRemote p s
          { s with cx := { s.cx with fl := { s.cx.fl with reqs := ⟨u, loc p, p.len, none, q⟩ :: s.cx.fl.reqs } } }) s))

/-- A plain read of one segment in queue `q`, not MMIO. A read of another device or a host waits for its data
(R90), which then stand in the snapshot. -/
def readSeg (q : Nat) (g : Seg) (s : State) : Res (List Byte) :=
  if g.own then .ok (s.mem.raw g.pa g.len) s
  else if g.ty = 4 ∨ g.ty = 5 then readFar q Seg.loc (fun e p s => .trap (statusCause e) (BitVec.ofNat 64 p.va) 0 s) g s
  else
    match s.mem.poisoned g.pa g.len with
    | some b => .stop (.trap cECC (BitVec.ofNat 64 (g.va / 64 * 64 + (b - g.pa / 64 * 64))) 0 s)
    | none => let (bs, s) := snapReadAll q g.key g.pa g.len s; .ok bs s

/-- Segments of one beat or access that follow each other in one host window are one request (R393). -/
def mergeHost : List Seg → List Seg
  | [] => []
  | g :: r =>
    match mergeHost r with
    | [] => [g]
    | h :: t => if g.ty = 5 ∧ h.ty = 5 ∧ h.pa = g.pa + g.len ∧ g.pa / 2 ^ 38 = h.pa / 2 ^ 38 then { g with len := g.len + h.len } :: t else g :: h :: t

/-- A plain read of checked segments, in order. -/
def readSegs (q : Nat) (gs : List Seg) (s : State) : Res (List Byte) :=
  (Res.mapM (readSeg q) (mergeHost gs) s).andThen fun l s => .ok l.flatten s

/-- Whether an FREL of the moving context holds the REMOTE traffic of a word routed after it (R98): `u` is that word's
serial, or the next one for a control word. -/
def frelHolds (u : Nat) (s : State) : Bool :=
  match s.cx.task with
  | some t => s.fab.frels.any (fun f => f.handle == t.handle && f.uid < u)
      || s.cx.fl.pend.any fun e => e.ins == .frel && e.uid < u
  | none => false

/-- The queues whose later reads see a store that is made now in queue `q` by a word of serial `u` (R89; none is a control word): its own,
and those that a QFENCE routed after that word joins with it. -/
def seenBy (q : Nat) (u : Option Nat) (c : Ctx) : BitVec 7 :=
  let own : BitVec 7 := BitVec.ofNat 7 (2 ^ q)
  match u with
  | some u => c.fl.fences.foldl (fun m f => if f.1.getLsbD q && u < f.2 then m ||| f.1 else m) own
  | none => own

/-- The word that stores in queue `q`: none for the control engine, else the queue's oldest one that has not issued. -/
def wordAt (q : Nat) (s : State) : Option QEntry :=
  if q = 0 then none else s.cx.fl.pend.find? fun e => qbit (some e.queue) == q && !e.issued

/-- A store of the listed bytes by a word of queue `q` leaves the device, and is unacknowledged until its target answers (R97). -/
def sendStore (q : Nat) (e : Option QEntry) (g : Seg) (some_ : List (Option Byte)) (s : State) : State :=
  let bs := some_.map (·.getD 0)
  let (u, s) := takeUid s
  let sent : Sent := ⟨u, (e.map (·.pc)).getD s.cx.pc, BitVec.ofNat 64 g.va, q, (e.map (·.uid)).getD u⟩
  let s := { s with cx := { s.cx with fl := { s.cx.fl with unacked := sent :: s.cx.fl.unacked } } }
  if g.ty = 4 then
    sendFar g.rdev u g.len (if some_.all Option.isSome then .store g.pa bs g.rkey else .storeSome g.pa some_ g.rkey) s
  else match s.port.windows.find? (·.1 == g.pa / 2 ^ 38 % 64) with
    | some (_, sess, base) =>
      let a := base + BitVec.ofNat 64 (g.pa % 2 ^ 38)
      sessSend sess 3 false (some (u, a, true)) (wordBytes (accessHead a 0 0 bs.length) ++ bs) s
    | none => s

/-- A plain store of one segment by a word of queue `q`, not MMIO: performed at once on this device; elsewhere sent, a request for
each 64-byte block of a peer (R86, R398). -/
def writeSegBy (q : Nat) (e : Option QEntry) (g : Seg) (bs : List Byte) (s : State) : State :=
  if g.own then { s with mem := s.mem.write none g.pa bs }
  else
    let c := pin (seenBy q (e.map (·.uid)) s.cx) g.loc bs s.cx
    if g.ty = 4 ∨ g.ty = 5 then
      (requests g).foldl (fun s (k, p) => sendStore q e p (((bs.drop k).take p.len).map some) s) { s with cx := c }
    else { s with cx := c, mem := s.mem.write g.key g.pa bs }

/-- A plain store of one segment by the word that queue `q` runs. -/
def writeSeg (q : Nat) (g : Seg) (bs : List Byte) (s : State) : State := writeSegBy q (wordAt q s) g bs s

/-- Whether a store to a host still waits in its session for credit, so that it has not left the device (R97, R341, R384). -/
def unsent (s : State) (tag : Nat) : Bool :=
  s.port.sessions.any fun x => x.kept.any fun k => k.sent == 0 && k.tag == tag

/-- Whether every store of a context has left the device. -/
def storesLeft (s : State) (c : Ctx) : Bool := c.fl.unacked.all fun x => !unsent s x.tag

/-- A plain store of checked segments, in order, by a word. -/
def writeSegsBy (q : Nat) (e : Option QEntry) : List Seg → List Byte → State → State
  | [], _, s => s
  | g :: r, bs, s => writeSegsBy q e r (bs.drop g.len) (writeSegBy q e g (bs.take g.len) s)

/-- A plain store of checked segments by the word that queue `q` runs. -/
def writeSegs (q : Nat) (gs : List Seg) (bs : List Byte) (s : State) : State := writeSegsBy q (wordAt q s) (mergeHost gs) bs s

/-- Whether a store or an atomic must wait: behind an FREL (R98), or for a change of station (R398). -/
def storeHeld (u : Nat) (gs : List Seg) (s : State) : Bool :=
  gs.any fun g => g.ty == 4 && (frelHolds u s || segMoved g s)

/-- A boundary's completion, or an event that R90 treats as one: the snapshot is dropped, and what loads in flight bring is no read of the
new phase. -/
def refresh (c : Ctx) (m : Memory) : Ctx :=
  { c with fl := { c.fl with snap := [], reqs := [], fresh := [], since := m.wlog.length
                             loads := c.fl.loads.map fun l => { l with stale := l.stale + 1 } } }

/-- The snapshot of a range of locations is refreshed (R92). -/
def refreshRange (loc n : Nat) (c : Ctx) (m : Memory) : Ctx :=
  { c with fl := { c.fl with
      snap := c.fl.snap.filter fun p => !(loc ≤ p.loc && p.loc < loc + n)
      reqs := c.fl.reqs.filter fun r => !(r.loc < loc + n && loc < r.loc + r.len)
      loads := c.fl.loads.map fun l => if l.loc < loc + n && loc < l.loc + (accessWidth l.ins).1 then { l with stale := l.stale + 1 } else l
      fresh := (loc, n, m.wlog.length) :: c.fl.fresh } }

/-- The checks of an access by the moving context in queue `q`. -/
def checkAcc (q : Nat) (s : State) (cls : AccCls) (perm : Perm) (va n : Nat) : Chk × State :=
  check (cachesOf s.me q) s s.cx.pr.asid s.cx.pr.priv (ctxSpad s.cx) cls perm va n

/-- KIND of R418 for a permission. -/
def permKind : Perm → AccKind
  | .rd => .read | .wr => .write | .rw => .readWrite | .ex => .fetch

/-- A page is translated for queue `q` and cached where its entry is valid and `ok` of the leaf; nothing faults (R304, R415). -/
def prefetchBy (ok : W64 → Nat → Bool) (q va : Nat) (s : State) : State :=
  if va < 0x200000 ∨ 2 ^ 52 ≤ va then s
  else
    let (p, t) := page (cachesOf s.me q) (s.me / 96) s s.cx.pr.asid va
    match p with
    | .leaf pte base => if ok pte base then t else s
    | _ => s

/-- The stream TLB of an engine translates the page that follows in the command's direction of travel (R415). -/
def prefetchPage (q va : Nat) (s : State) : State := prefetchBy (fun _ _ => true) q va s

/-- The address in the page after the one that an access touches, or before it for a command that travels downwards (log 67). -/
def nextPage (va n : Nat) (down : Bool) : Nat :=
  if down then va / 2 ^ 16 * 2 ^ 16 - 2 ^ 16 else (va + n - 1) / 2 ^ 16 * 2 ^ 16 + 2 ^ 16

/-- The checks as a step of a word: an unreadable table entry is also a device event (R411). -/
def access (q : Nat) (cls : AccCls) (perm : Perm) (va n : Nat) (s : State) (down : Bool := false) : Res (List Seg) :=
  match checkAcc q s cls perm va n with
  | (.ok gs, s) =>
    let s := if cls = .vec ∨ cls = .copy then prefetchPage q (nextPage va n down) s else s
    if (perm == .wr || perm == .rw) && gs.any (·.ty == 4) && !chanUp s 0 then .stop (starved s) else .ok gs s
  | (.trap c a, s) =>
    let s := if c = cECC then
        match unreadableAt s s.cx.pr.asid va n with
        | some ea => event 2 4 wholeDevice (BitVec.ofNat 64 ea) (s.cx.pr.asid.setWidth 64) s
        | none => s
      else s
    .stop (.trap c a 0 s)
  | (.absent h a, s) => .stop (.absent h a (permKind perm) s)

/-! ## Beats (R83) -/

/-- What R83 knows of the region of an address: a hole, an absent page, or the region. -/
inductive RegionAt where
  | hole
  | absent
  | region (r : Nat × Nat)
  deriving DecidableEq, Repr

/-- The region of the page at an address, as queue `q` translates it; the local window is one of its own. -/
def regionAt (q : Nat) (s : State) (va : Nat) : RegionAt × State :=
  if va < 0x180000 then (.region (100, 0), s)
  else match pageAt (cachesOf s.me q) s s.cx.pr.asid va with
    | (.hole, s) => (.hole, s)
    | (.leaf p b, s) => (.region (regionOf p b), s)
    | (_, s) => (.absent, s)

/-- Whether two pages of one type and core or device belong to one target region, a maximal run of such pages (R81). -/
def oneRun (s : State) (r : RegionAt) (a b : Nat) : Bool :=
  match r with
  | .region (100, _) => true
  | .region rg =>
    let lo := Nat.min a b / 2 ^ 16; let hi := Nat.max a b / 2 ^ 16
    hi ≤ lo + 1 || sameRun s s.cx.pr.asid rg (hi * 2 ^ 16) (hi - lo + 1) (lo * 2 ^ 16)
  | _ => true

/-- Whether some bytes lie in a hole or in a present page of another region than the command's, whose first byte lies at `at_`. -/
def leavesRegion (q at_ : Nat) (cmd : RegionAt) : List (Nat × Nat) → State → Bool × State
  | [], s => (false, s)
  | (va, _) :: r, s =>
    match regionAt q s va with
    | (.hole, s) => (true, s)
    | (.absent, s) => leavesRegion q at_ cmd r s
    | (x, s) => if cmd != .absent && (cmd != x || !oneRun s x at_ va) then (true, s) else leavesRegion q at_ cmd r s

/-- The checks of one beat, in queue `q`, on one side of a command whose first byte there is `cmd` (R83). -/
def beatAccess (q : Nat) (cmd : W64) (perm : Perm) (va : W64) (n : Nat) (s : State) : Res (List Seg) :=
  match regionAt q s cmd.toNat with
  | (.hole, s) => .stop (.trap cPERM cmd 0 s)
  | (r, s) =>
    match leavesRegion q cmd.toNat r (slices va.toNat n) s with
    | (true, s) => .stop (.trap cSTRADDLE va 0 s)
    | (false, s) => access q .copy perm va.toNat n s (va.toNat < cmd.toNat)

/-- `n` bytes from `a` cut at 64-byte boundaries: (address, length). -/
def beatParts (a : W64) (n : Nat) : List (W64 × Nat) :=
  if n = 0 then []
  else
    let x := a.toNat
    (List.range ((x + n - 1) / 64 - x / 64 + 1)).map fun j =>
      let lo := Nat.max x (64 * (x / 64 + j)); let hi := Nat.min (x + n) (64 * (x / 64 + j) + 64)
      (BitVec.ofNat 64 lo, hi - lo)

end Sys2Proof.Machine
end

