-- ==== Sys2Proof/Machine/Lin.lean ====
section
/-! DEFINITION. The lineage shard: versions and their records (R42 to R53), reference counts and trimming (R60),
storage (R72, R320), replicas (R59, R325), losses (R44, R61), the recovery walk (R64 to R70) and failure (R75).
Waiting words are attempted again when their core moves, so a change of state wakes nothing by itself. -/

namespace Sys2Proof.Machine

/-! ## Handles (R37) and packets (R29) -/

/-- The home device of a tile handle. -/
def homeDev (t : W64) : Nat := bits t 63 54
/-- The home die. -/
def homeDie (t : W64) : Nat := bits t 53 52
/-- PRIO of a packet. -/
def prioOf (p : List W64) : Nat := bits (p.headD 0) 19 16
/-- ECLASS. -/
def eclassOf (p : List W64) : Nat := bits (p.headD 0) 22 20
/-- A flag of header word 0. -/
def pflag (p : List W64) (i : Nat) : Bool := (p.headD 0).getLsbD i
/-- PINNED. -/
def pinnedPkt (p : List W64) : Bool := pflag p 14
/-- PAIR. -/
def pairPkt (p : List W64) : Bool := pflag p 13
/-- REPLAYABLE. -/
def replayPkt (p : List W64) : Bool := pflag p 12
/-- Whether this device serves the shard of a handle (R54, R63). -/
def servesShard (s : State) (t : W64) : Bool :=
  homeDev t == s.dev.val || s.lin.acting.any (·.val == homeDev t)

/-- Whether a device is lost. -/
def devLost (s : State) (d : Nat) : Bool := s.lin.lostDevs.any (·.1.val == d)

/-- The device that serves the shard of a handle, where one does (R63): its home, or the device that acts for a lost one. -/
def shardDev (s : State) (t : W64) : Option Nat :=
  if servesShard s t then some s.dev.val
  else match s.lin.lostDevs.find? (·.1.val == homeDev t) with
    | none => some (homeDev t)
    | some (_, a) => (a.filter fun b => !devLost s b.val).map (·.val)

/-- Whether the shard of a handle was served by a device that acted for a lost one and is lost itself: all of its versions are FAILED
(R63). -/
def shardFailed (s : State) (t : W64) : Bool :=
  !servesShard s t && (match s.lin.lostDevs.find? (·.1.val == homeDev t) with | some (_, some a) => devLost s a.val | _ => false)

/-- The shard of a handle on another device is told something that needs no answer. -/
def tell (t : W64) (q : HomeAsk) (s : State) : State :=
  match shardDev s t with | some d => send (.shard d 0 q) s | none => s

/-! ## Records -/

/-- State codes (R43). -/
def VState.code : VState → Nat
  | .free => 0 | .pending => 1 | .sealed => 2 | .replicating => 3 | .replica => 4 | .lost => 5
  | .recovering => 6 | .failed => 7

/-- SEALED, REPLICATING, REPLICA. -/
def VState.avail : VState → Bool
  | .sealed | .replicating | .replica => true
  | _ => false

/-- The record of a version. -/
def recOf (s : State) (t : W64) : Option VRec := s.lin.recs.find? (·.tile == t)

/-- Changes the record of a version. -/
def updRec (t : W64) (f : VRec → VRec) (s : State) : State :=
  { s with lin := { s.lin with recs := s.lin.recs.map fun r => if r.tile = t then f r else r } }

/-- The tasks that run and have not exited: in banks, or saved in an image. -/
def liveRuns (s : State) : List TaskRun :=
  (banks s).filterMap (fun b => b.2.2.task) ++ s.dist.images.filterMap (fun i => i.ctx.task)

/-- Whether a record lists its inputs in REFCNT's third term (R60). -/
def VRec.linked (r : VRec) : Bool :=
  r.links && (match r.st with | .pending | .sealed | .lost | .recovering | .replicating => true | _ => false)

/-- The references that this device's runs and records make to a version (R60); the members of a pair count once (R347). -/
def refsHere (s : State) (u : W64) : Nat :=
  (((liveRuns s).filter (·.decl.contains u)).map fun t => (t.handle, t.idx)).eraseDups.length
  + (s.lin.recs.filter fun q => q.linked && q.inputs.contains u).length

/-- REFCNT (R60): the hold count, this device's references, and those that other devices have told of. -/
def refcnt (s : State) (r : VRec) : Nat := r.hold + refsHere s r.tile + (r.far.map fun x => x.2.1).foldl (· + ·) 0

/-- The fabric address of a place (R51). -/
def placeFabric (p : Place) : Nat := p.dev.val * 2 ^ 44 + p.addr.toNat

/-- CTRL (R51) with the MIRR bit given. -/
def ctrlWith (s : State) (r : VRec) (mirr : Bool) : W64 :=
  fields [(r.st.code, 60), (r.depth, 56), (r.rplay.toNat, 55), (mirr.toNat, 54), (r.inputs.length, 40),
          (r.outix, 32), (Nat.min (refcnt s r) (2 ^ 32 - 1), 0)]

/-- The eight words of a version record (R51) with its MIRR bit given. -/
def recordWith (s : State) (r : VRec) (mirr : Bool) : List W64 :=
  [ctrlWith s r mirr, r.tile, r.producer, fields [(r.pkdev.val, 54), (r.size / 64, 28), (r.pool, 0)],
   fields [(r.place.ty.code, 61), (placeFabric r.place, 0)],
   (match r.rep with | some p => fields [(1, 63), (placeFabric p, 0)] | none => 0),
   r.digest,
   (match r.inputs with | [] => 0 | [u] => u | _ => BitVec.ofNat 64 (r.chain.headD 0))]

/-- The eight words of the `k`-th continuation record of a version (R52). -/
def contWords (r : VRec) (k : Nat) : List W64 :=
  fields [(15, 60), (r.chain.getD (k + 1) 0, 0)]
    :: (List.range 7).map fun i => r.inputs.getD (7 * k + i) 0

/-- A version's records as its buddy holds them (R55): the words by index. -/
def recordImage (s : State) (r : VRec) : List (Nat × List W64) :=
  (r.index, recordWith s r true) :: r.chain.mapIdx fun k i => (i, contWords r k)

/-- MIRR (R51): the buddy holds the record as it stands. -/
def mirrOf (s : State) (r : VRec) : Bool := s.lin.mirrored.any fun x => x.1 == r.tile && x.2 == recordImage s r

/-- CTRL (R51). -/
def ctrlWord (s : State) (r : VRec) : W64 := ctrlWith s r (mirrOf s r)

/-- The eight words of a version record (R51). -/
def recordWords (s : State) (r : VRec) : List W64 := recordWith s r (mirrOf s r)

/-- Word `w` of record `i` of the lineage window (R50). -/
def lineageWord (s : State) (i w : Nat) : W64 :=
  match s.lin.recs.find? fun r => r.index == i || r.chain.contains i with
  | some r => (if r.index = i then recordWords s r else contWords r (r.chain.findIdx (· == i))).getD w 0
  | none => 0

/-- Records in use. -/
def recordsUsed (s : State) : Nat := s.lin.recs.foldl (fun n r => n + 1 + r.chain.length) 0

/-- `n` record indices that are not in use, none where the shard is full (R50, R58). -/
def freeIndices (s : State) (n : Nat) : Option (List Nat) :=
  if 2 ^ 28 - 1 < recordsUsed s + n then none
  else
    let used := s.lin.recs.flatMap fun r => r.index :: r.chain
    some ((((List.range (used.length + n)).map (· + 1)).filter (!used.contains ·)).take n)

/-- Continuation records that a number of inputs needs (R52). -/
def chainLen (nin : Nat) : Nat := (nin + 6) / 7

/-- LINSTAT (R57). A device that acts for several lost ones shows the one it has acted for longest (log 108). -/
def linstat (s : State) : W64 :=
  fields [(s.lin.unmirr.toNat, 63), ((!s.lin.acting.isEmpty).toNat, 62), ((s.lin.acting.head?.map (·.val)).getD 0, 52),
          (recordsUsed s / 65536, 39), (Nat.min s.lin.walks 0xFFF, 16), (s.mmio.failedn.toNat, 0)]

/-! ## Storage (R72, R320, R430) -/

/-- Rounds up to 2 MiB. -/
def up2M (n : Nat) : Nat := (n + 0x1FFFFF) / 0x200000 * 0x200000

/-- First byte of the save pool in the HBM-P view (R430). -/
def savePoolBase (s : State) : Nat := 2 ^ 40 + up2M (2 ^ 35 + 2 ^ 28 + s.lin.poolSize * 256)

/-- The range of a target type that tile storage may take (log 8). -/
def storeRange (s : State) : TileTgt → Nat × Nat
  | .hbm => (0, (120 - s.mem.partU) * gib4)
  | .hbmp => (savePoolBase s + s.dist.saveSlots * 2 ^ 22, 2 ^ 40 + s.mem.partU * gib4 / 8 * 7)
  | .commons => (0x20000000000, 0x20010000000)

/-- Storage in use on this device: (first byte, size). -/
def usedStore (s : State) : List (Nat × Nat) :=
  (s.lin.recs.flatMap fun r =>
    (if r.place.dev = s.dev then [(r.place.addr.toNat, r.size)] else [])
      ++ (match r.rep with | some p => if p.dev = s.dev then [(p.addr.toNat, r.size)] else [] | none => []))
  ++ (liveRuns s).flatMap (fun t => (t.buffers.filter (·.2.1.dev == s.dev)).map fun b => (b.2.1.addr.toNat, b.2.2))
  ++ s.lin.rtasks.flatMap (fun q => (q.kept.filter (·.2.1.dev == s.dev)).map fun x => (x.2.1.addr.toNat, x.2.2))
  ++ s.lin.lent.map (fun x => (x.place.addr.toNat, x.size))

/-- Whether a die is in service: its dispatcher is not quarantined. -/
def dieInService (s : State) (die : Nat) : Bool := !quarantined s (unitId die 31 0 10)

/-- Whether an HBM address lies in a stack of a die that is in service (R359). -/
def stackInService (s : State) (ty : TileTgt) (die a : Nat) : Bool :=
  ty != .hbm || !quarantined s (unitId die 31 (Config.stackOfDie a).val 11)

/-- Whether `n` bytes at `a` are free: in the range, overlapping nothing, not poisoned (R444). -/
def storeFree (s : State) (lo hi a n : Nat) : Bool :=
  lo ≤ a && a + n ≤ hi && (usedStore s).all (fun u => u.1 + u.2 ≤ a || a + n ≤ u.1)
    && (s.mem.poisoned a n).isNone

/-- What the free choice of a place is applied to: the storage in use, and the versions made so far. -/
def storeState (s : State) : Nat :=
  (s.lin.versions.map fun v => v.1.toNat + v.2).foldl (· + ·) (((usedStore s).map fun u => u.1 + u.2).foldl (· + ·) 0)

/-- The place that a pool entry has (R430), on the die that holds it (log 107). -/
def poolPlace (s : State) (ix : Nat) : Place :=
  let a := 2 ^ 40 + 2 ^ 35 + 2 ^ 28 + 256 * (ix - 1)
  ⟨.hbmp, s.dev, BitVec.ofNat 44 a, Config.dieOfAddr a⟩

/-- The key of the regions that the boot places in HBM-P (R430). -/
def poolKey (s : State) (addr : Nat) : Option (BitVec 512) :=
  if 2 ^ 40 ≤ addr && addr < savePoolBase s + s.dist.saveSlots * 2 ^ 22 && s.bob.poolKey.getLsbD 15 then
    assoc s.xl.keys (s.bob.poolKey.toNat % 1024)
  else none

/-- Words are written into one of those regions. -/
def poolWrite (addr : Nat) (ws : List W64) (s : State) : State :=
  { s with mem := s.mem.write (poolKey s addr) addr (ws.flatMap fun w => bytesOf 8 w.toNat) }

/-- Storage of a type on a die: any free place of the size; the search starts anywhere (log 8). Which addresses of HBM and HBM-P lie on
a die is the model's choice too: any of them may, since PLACE keeps the die beside the address (log 107). -/
def allocStore (s : State) (ty : TileTgt) (die n : Nat) : Option Place × State :=
  if ty != .commons && !dieInService s die then (none, s)
  else
    let (lo, hi) := storeRange s ty
    let first := lo + Config.placeStart (storeState s + n) % (Nat.max 1 (hi - lo)) / 64 * 64
    let cands := first :: lo :: ((usedStore s).map fun u => u.1 + u.2)
      ++ s.mem.poison.map (fun b => 64 * b + 64) ++ s.mem.gone.map fun r => (r.1 + r.2 + 63) / 64 * 64
    match cands.find? fun a => storeFree s lo hi a n && stackInService s ty die a with
    | some a => (some ⟨ty, s.dev, BitVec.ofNat 44 a, Fin.ofNat 4 die⟩, s)
    | none => (none, s)

/-- Storage on the first of some dies that has it. -/
def allocOnDies (s : State) (ty : TileTgt) (n : Nat) : List Nat → Option Place × State
  | [] => (none, s)
  | d :: r =>
    match allocStore s ty d n with
    | (some p, s) => (some p, s)
    | (none, s) => allocOnDies s ty n r

/-- New storage of a RECOVERING version (R72). -/
def recoverPlace (s : State) (r : VRec) : Option Place × State :=
  if r.place.dev = s.dev ∧ (r.place.ty = .commons ∨ dieInService s r.place.die.val = true) ∧ stackInService s r.place.ty r.place.die.val r.place.addr.toNat = true
      ∧ (s.mem.poisoned r.place.addr.toNat r.size).isNone
  then (some r.place, s)
  else
    let h := homeDie r.tile
    allocOnDies s r.place.ty r.size (h :: (List.range 4).filter (· != h))

/-- The virtual address of a place in the tile window (R413). -/
def tileVa (p : Place) : W64 :=
  let a := p.addr.toNat
  BitVec.ofNat 64 (2 ^ 51 + p.dev.val * 2 ^ 41
    + (match p.ty with | .hbm => a | .hbmp => 2 ^ 39 + (a - 2 ^ 40) | .commons => 2 ^ 40 + (a - 0x20000000000)))

/-! ## Changes of state, and failure (R44, R75) -/

/-- Whether record changes wait for the buddy (R55, R56). -/
def mirroring (s : State) : Bool := s.mmio.lincfg.getLsbD 53 && !s.lin.unmirr

/-- An output whose retained packet another shard holds needs it no longer (R53). -/
def outGone (r : VRec) (s : State) : State :=
  if r.pool ≠ 0 ∧ r.pkdev ≠ s.dev ∧ devLost s r.pkdev.val = false then send (.shard r.pkdev.val 0 (.out r.pool r.outix r.tile true)) s else s

/-- The buddy's device ID. -/
def buddyId (s : State) : Nat := bits s.mmio.lincfg 63 54

/-- Whether the buddy can hold a replica: LINCFG names one, it is not lost, and the recovery channel has a station. -/
def buddyUp (s : State) : Bool := s.mmio.lincfg.getLsbD 53 && buddyId s != s.dev.val && !devLost s (buddyId s) && chanUp s 4

/-- LINCFG.PLACE, which counts as 1 while UNMIRR is 1 and it is 0 (R56). -/
def replicaPlace (s : State) : Nat :=
  let p := bits s.mmio.lincfg 52 51
  if p = 0 ∧ s.lin.unmirr then 1 else p

/-- A version that begins to be replicated at the buddy is given storage there (R59). -/
def askReplica (t : W64) (s : State) : State :=
  match recOf s t with
  | some r => if replicaPlace s ≠ 1 ∧ buddyUp s = true then send (.shard (buddyId s) 0 (.lend t true .hbmp 0 r.size)) s else s
  | none => s

/-- A version enters a state; FAILED counts in FAILEDN (R57). -/
def setVState (t : W64) (st : VState) (s : State) : State :=
  let s := if st = .replica ∨ st = .failed then (match recOf s t with | some r => outGone r s | none => s) else s
  let s := if st = .replicating then askReplica t s else s
  let s := updRec t (fun r => { r with st := st, since := s.clock, asked := 0 }) s
  if st = .failed then
    event 3 4 wholeDevice t 0 { s with mmio := { s.mmio with failedn := if s.mmio.failedn = 0xFFFF then 0xFFFF else s.mmio.failedn + 1 } }
  else s

/-- What a recovery run kept for trimmed outputs of other shards goes back (R73). -/
def freeKept (q : RecTask) (s : State) : State :=
  q.kept.foldl (fun s x => if x.2.1.dev = s.dev then s else send (.shard x.2.1.dev.val 0 (.giveBack x.1)) s) s

/-- A recovery task is over. -/
def dropTask (q : RecTask) (s : State) : State :=
  freeKept q { s with lin := { s.lin with rtasks := s.lin.rtasks.filter (·.id != q.id) } }

/-- The LOST versions whose packet a pool entry of this shard keeps. -/
def lostOf (s : State) (ix : Nat) : List VRec := s.lin.recs.filter fun r => r.pool == ix && r.pkdev == s.dev && r.st == .lost

/-- The versions of a pool entry that wait for a walk cannot be rebuilt: they are FAILED, here and elsewhere (R53, R64). -/
def denyWalk (ix : Nat) (s : State) : State :=
  let s := (lostOf s ix).foldl (fun s r => setVState r.tile .failed s) s
  let wants := ((s.lin.pool.find? (·.ix == ix)).map (·.wants)).getD []
  let s := wants.foldl (fun s x => send (.answer x.src.val 0 (.state x.tile 7)) s) s
  { s with lin := { s.lin with pool := s.lin.pool.map fun p => if p.ix = ix then { p with wants := [] } else p } }

/-- A recovery task is cancelled because an input of it is FAILED: its RECOVERING outputs become FAILED, here and elsewhere (R75); the
versions of a walk that has not got all its answers too (R64). -/
def cancelFailed (q : RecTask) (s : State) : State :=
  let s := dropTask q s
  let s := if q.asking.isEmpty then s else denyWalk q.pool s
  let s := q.outs.foldl (fun s t => match recOf s t with | some r => if r.st = .recovering then setVState t .failed s else s | none => s) s
  q.far.foldl (fun s x => send (.answer x.src.val 0 (.state x.tile 7)) s) s

/-- FAILED spreads to the recovery tasks that wait for it (R75). -/
def spreadFailed : Nat → State → State
  | 0, s => s
  | k + 1, s =>
    let bad (q : RecTask) := q.waits.any fun u => match recOf s u with | some r => r.st == .failed | none => false
    match s.lin.rtasks.find? bad with
    | none => s
    | some q => spreadFailed k (cancelFailed q s)

/-- The version homed elsewhere of a handle that a run here allocated. -/
def farOf (s : State) (t : W64) : Option FarVer := s.lin.far.find? (·.tile == t)

/-- A run here has sealed a version homed elsewhere, or it has failed: it is PENDING for this device no longer. -/
def dropFar (t : W64) (s : State) : State :=
  { s with lin := { s.lin with far := s.lin.far.map fun x => if x.tile = t then { x with done := true } else x } }

/-- A version becomes FAILED; of one homed elsewhere the home shard is told (R44, R54). -/
def failVersion (t : W64) (s : State) : State :=
  match recOf s t with
  | some r => if r.st = .failed then s else spreadFailed (s.lin.rtasks.length + 1) (setVState t .failed s)
  | none => match farOf s t with
    | some x => if x.done then s else tell t (.fail t) (dropFar t s)
    | none => s

/-! ## Depth and replicas (R59, R325) -/

/-- A SEALED version enters REPLICATING with recorded depth 0. -/
def startReplica (t : W64) (s : State) : State :=
  setVState t .replicating (updRec t (fun r => { r with depth := 0 }) s)

/-- TREPL's effect (R325). -/
def requestReplica (t : W64) (s : State) : State :=
  match recOf s t with
  | some r =>
    (match r.st with
     | .sealed => startReplica t s
     | .lost | .recovering => updRec t (fun r => { r with wantRep := true }) s
     | _ => s)
  | none => s

/-- A RECOVERING version re-seals (R73). -/
def reseal (t : W64) (s : State) : State :=
  match recOf s t with
  | some r =>
    let s := if r.rplay && r.depth == 0 then setVState t .replicating s else setVState t .sealed s
    let s := updRec t (fun r => { r with wantRep := false }) s
    let s := if r.asked ≠ 0 then send (.shard r.pkdev.val 0 (.unrecover t)) s else s
    if r.wantRep then requestReplica t s else s
  | none => s

/-! ## Losses (R44, R61) -/

/-- The bytes or the replica of a version are lost. The flag says that the instance that writes it is to be killed and
re-enqueued: its running producer (R44, PENDING of a replayable producer), or the recovery task whose new storage it was (R70).
A REPLICATING version that came back from REPLICA holds no links, and counts as without lineage (log 73). -/
def loseVersion (t : W64) (prim rep : Bool) (s : State) : State × Bool :=
  match recOf s t with
  | none => (s, false)
  | some r =>
    let lineage := r.rplay && r.links
    match r.st with
    | .pending => if !prim then (s, false) else if r.rplay then (s, true) else (failVersion t s, false)
    | .sealed => (if prim then setVState t .lost s else s, false)
    | .replicating =>
      (if !prim then s else if lineage then setVState t .lost s else failVersion t s, false)
    | .replica =>
      (if prim && rep then failVersion t s
       else if prim then setVState t .recovering s
       else if rep then setVState t .replicating (updRec t (fun r => { r with rep := none }) s)
       else s, false)
    | .recovering =>
      if r.rep.isSome then (if rep then failVersion t s else s, false) else (s, prim)
    | _ => (s, false)

/-- The versions with a byte or a replica byte in some bytes of this device (R61): the tiles and what is lost. -/
def versionsAt (s : State) (a n : Nat) : List (W64 × Bool × Bool) :=
  s.lin.recs.filterMap fun r =>
    let hit (p : Place) := p.dev == s.dev && p.addr.toNat < a + n && a < p.addr.toNat + r.size
    let x := hit r.place; let y := match r.rep with | some p => hit p | none => false
    if x || y then some (r.tile, x, y) else none

/-- Several losses; the tiles whose writing instances are to be killed. -/
def loseAll (l : List (W64 × Bool × Bool)) (s : State) : State × List W64 :=
  l.foldl (fun (s, ks) (t, p, r) => let (s, k) := loseVersion t p r s; (s, if k then ks ++ [t] else ks)) (s, [])

/-- Storage that another device's shard uses here is lost: that shard is told (R61). -/
def loseLent (p : Lent → Bool) (s : State) : State :=
  let gone := s.lin.lent.filter p
  gone.foldl (fun s x =>
      if servesShard s x.tile then raiseDue (.lossReport x.tile (!x.replica) x.replica) s
      else match shardDev s x.tile with
        | some d => send (.loss d x.tile (!x.replica) x.replica) s
        | none => s)
    { s with lin := { s.lin with lent := s.lin.lent.filter fun x => !p x } }

/-! ## Trimming, the walk, and recovery tasks (R60, R64 to R72) -/

/-- A trimmed version's storage stays until the recovery run that writes it exits (R73). -/
def keepStorage (r : VRec) (s : State) : State :=
  if r.st = .recovering then
    { s with lin := { s.lin with rtasks := s.lin.rtasks.map fun q =>
        if q.running && q.outs.contains r.tile then { q with kept := (r.tile, r.place, r.size) :: q.kept } else q } }
  else s

/-- What a version's end says to the shards that have to do with it: the one that was asked to recover it, whose run may write its
storage until it exits (R73), the one that keeps its packet, the device that holds its replica. -/
def trimmed (r : VRec) (s : State) : State :=
  let s := outGone r (keepStorage r s)
  let s := if r.asked ≠ 0 then
      let lent : List Lent := if r.st = .recovering then [⟨r.pkdev, r.tile, false, r.place, r.size⟩] else []
      send (.shard r.pkdev.val 0 (.unrecover r.tile)) { s with lin := { s.lin with lent := lent ++ s.lin.lent } }
    else s
  match r.rep with
  | some p => if p.dev ≠ s.dev ∧ devLost s p.dev.val = false then send (.shard p.dev.val 0 (.giveBack r.tile)) s else s
  | none => s

/-- Records with REFCNT 0 are freed, their links with them, until none is left. -/
def trimAll : Nat → State → State
  | 0, s => s
  | k + 1, s =>
    let dead := s.lin.recs.filter fun r => r.st != .pending && refcnt s r == 0
    if dead.isEmpty then s
    else
      let s := dead.foldl (fun s r => trimmed r s) s
      trimAll k { s with lin := { s.lin with recs := s.lin.recs.filter fun r => !dead.any (·.tile == r.tile) } }

/-- Whether an output keeps its packet-pool entry (R53); a PENDING one does too. -/
def keepsPacket (r : VRec) : Bool := match r.st with
  | .pending | .sealed | .lost | .recovering => true | .replicating => r.links | _ => false

/-- Pool entries that some output still needs, here or on another shard (R53). -/
def freePool (s : State) : State :=
  let needs (e : PoolEnt) (r : VRec) : Bool := r.pool == e.ix && r.pkdev == s.dev && keepsPacket r
  let keep (e : PoolEnt) : Bool :=
    s.lin.recs.any (needs e) || !e.outs.isEmpty || !e.wants.isEmpty || s.lin.rtasks.any (·.pool == e.ix)
  { s with lin := { s.lin with pool := s.lin.pool.filter keep } }

/-- Applies an operation to every deque, die pool and shadow entry of this device. -/
def mapEntries (f : List DqEntry → List DqEntry) (s : State) : State :=
  { s with co := { s.co with deque := f s.co.deque }
           others := s.others.map fun (n, c, k) => (n, c, { k with deque := f k.deque })
           dist := { s.dist with pools := s.dist.pools.map f } }

/-- Every deque and pool entry of this device, each with its custody. -/
def allEntries (s : State) : List DqEntry :=
  s.co.deque ++ s.others.flatMap (fun (_, _, k) => k.deque) ++ s.dist.pools.toList.flatten

/-- Drops ready tasks that a test rejects from every deque, pool and queue. -/
def purgeWaiting (keep : Waiting → Bool) (s : State) : State :=
  let s := mapEntries (fun l => l.filter fun e => keep e.w) s
  { s with dist := { s.dist with queue := s.dist.queue.filter keep } }

/-- The entry of this shard's packet pool that a recovery run re-runs. -/
def ownPool (s : State) (a : Actions) : Option Nat :=
  match a.pool with | some (d, i) => if d = s.dev then some i else none | none => none

/-- The recovery task of a waiting or running recovery run, where this shard owns it. -/
def recTaskOf (s : State) (a : Actions) : Option RecTask := (ownPool s a).bind fun i => s.lin.rtasks.find? (·.pool == i)

/-- Changes a recovery task. -/
def updRec? (id : Nat) (f : RecTask → RecTask) (s : State) : State :=
  { s with lin := { s.lin with rtasks := s.lin.rtasks.map fun q => if q.id = id then f q else q } }

/-- Whether a waiting task is the run of a recovery task of this shard. -/
def isRunOf (s : State) (q : RecTask) (w : Waiting) : Bool := w.kind == .recovery && ownPool s w.prior == some q.pool

/-- Recovery tasks with no output to rebuild are cancelled unless they run (R60). -/
def cancelIdle (s : State) : State :=
  let need (q : RecTask) := q.running || !q.far.isEmpty || !(lostOf s q.pool).isEmpty
    || (match s.lin.pool.find? (·.ix == q.pool) with | some e => !e.wants.isEmpty | none => false)
    || q.outs.any fun t => match recOf s t with | some r => r.st == .recovering | none => false
  let s := { s with lin := { s.lin with rtasks := s.lin.rtasks.filter need } }
  purgeWaiting (fun w => w.kind != .recovery || (ownPool s w.prior).isNone || (recTaskOf s w.prior).isSome) s

/-- The highest PRIO of the tasks that have declared a version, here or elsewhere (R66). -/
def declPrio (s : State) (u : W64) : Nat :=
  let far := match recOf s u with | some r => r.far.map (·.2.2) | none => []
  (((liveRuns s).filter (·.decl.contains u)).map (fun t => prioOf t.packet) ++ far).foldl Nat.max 0

/-- The outputs of a recovery task's producer, here and in other shards. -/
def outputsOf (s : State) (q : RecTask) : List W64 :=
  (s.lin.recs.filter fun r => r.pool == q.pool && r.pkdev == s.dev).map (·.tile) ++ q.far.map (·.tile)
    ++ (match s.lin.pool.find? (·.ix == q.pool) with | some e => e.outs.map (·.2) | none => [])

/-- The inputs of a recovery task's producer. -/
def inputsOf (s : State) (q : RecTask) : List W64 :=
  (s.lin.recs.filter fun r => r.pool == q.pool && r.pkdev == s.dev).flatMap (·.inputs) ++ q.far.flatMap (·.inputs)

/-- Inherited(p) of R66, `k` levels of recovery tasks deep. -/
def inherited (s : State) : Nat → RecTask → Nat
  | 0, q => q.prio
  | k + 1, q =>
    let own := match s.lin.pool.find? (·.ix == q.pool) with | some e => (e.prios.map (·.2)).foldl Nat.max (prioOf e.packet) | none => 0
    let outs := outputsOf s q
    let deps := s.lin.rtasks.filter fun p => p.id != q.id && (inputsOf s p).any outs.contains
    (outs.map (declPrio s) ++ q.far.map (·.prio) ++ deps.map (inherited s k)).foldl Nat.max (Nat.max own q.prio)

/-- The highest PRIO that this device gives a version: of the tasks that have declared it, and of the recovery tasks that have it among
their inputs (R66). -/
def farPrio (s : State) (u : W64) : Nat :=
  ((s.lin.rtasks.filter fun q => (inputsOf s q).contains u).map (inherited s (s.lin.rtasks.length + 1))).foldl Nat.max (declPrio s u)

/-- A packet with another PRIO. -/
def withPrio (p : List W64) (n : Nat) : List W64 :=
  match p with
  | [] => []
  | h :: r => BitVec.ofNat 64 (h.toNat - bits h 19 16 * 2 ^ 16 + n * 2 ^ 16) :: r

/-- Whether an instance of a producer other than a recovery run still runs, or waits to run again (R64, R345). -/
def producerRuns (s : State) (producer : W64) (idx : List W64) : Bool :=
  let mine (w : Waiting) : Bool := w.handle == producer && w.idx == idx && w.kind != .recovery
  (liveRuns s).any (fun t => t.handle == producer && t.idx == idx && t.kind != .recovery)
    || (allEntries s).any (fun e => mine e.w) || s.dist.queue.any mine || s.dist.parked.any (fun x => mine x.1)

/-- Whether the queued run of a recovery task stands where it can be taken back: in no steal, and not preloaded. -/
def stillQueued (s : State) (q : RecTask) : Bool :=
  (allEntries s).any (fun e => isRunOf s q e.w && e.cust == .inDeque) || s.dist.queue.any (isRunOf s q)

/-- Whether an input of a walk is not there yet: LOST or RECOVERING here, or of another shard that has not answered (R64). -/
def notThere (s : State) (u : W64) : Bool :=
  match recOf s u with | some v => !v.st.avail | none => !servesShard s u

/-- Another shard is asked for the state of an input (R64). -/
def queryState (u : W64) (s : State) : State :=
  match shardDev s u with | some d => send (.query d 0 u) s | none => s

/-- Whether an input can never be had: it is FAILED here, or its shard is gone with nobody acting for it (R63, R75). -/
def badInput (s : State) (u : W64) : Bool :=
  match recOf s u with | some v => v.st == .failed | none => (shardDev s u).isNone

/-- The inputs of a recovery task, in the order of its TDECLs. -/
def recInputs (s : State) (q : RecTask) : List W64 :=
  (((q.outs.filterMap (recOf s)).map (·.inputs) ++ q.far.map (·.inputs)).head?).getD []

/-- A recovery task is taken back, to be enqueued afresh once its inputs and its storage are there: its DEPS are counted afresh, and
other shards asked again (R69, R70). -/
def requeueRec (id : Nat) (s : State) : State :=
  match s.lin.rtasks.find? (·.id == id) with
  | none => s
  | some q =>
    let s := freeKept q (purgeWaiting (fun w => !isRunOf s q w) s)
    let inputs := recInputs s q
    if inputs.any (badInput s) then cancelFailed q s
    else
      let far := inputs.filter fun u => !servesShard s u
      let s := far.foldl (fun s u => queryState u s) s
      let waits := inputs.filter (notThere s)
      updRec? id (fun p => { p with queued := false, running := false, waits := waits, asking := far, kept := [], runner := none
                                    since := s.clock }) s

/-- The walk of R64 from the LOST outputs of one packet-pool entry, and from those that other shards ask for. A walk that meets a
recovery task, or an instance that still runs, joins it (R69). The versions become RECOVERING once every shard that was asked for an
input's state has answered. -/
def walkEntry (e : PoolEnt) (s : State) : State :=
  let lost := lostOf s e.ix
  if lost.isEmpty && e.wants.isEmpty then s
  else if e.lost then denyWalk e.ix s
  else
    let take (s : State) : State :=
      let s := lost.foldl (fun s r => setVState r.tile .recovering s) s
      let s := e.wants.foldl (fun s x => send (.answer x.src.val 0 (.state x.tile 6)) s) s
      { s with lin := { s.lin with pool := s.lin.pool.map fun p => if p.ix = e.ix then { p with wants := [] } else p } }
    match s.lin.rtasks.find? (·.pool == e.ix) with
    | some q =>
      if q.running || !q.asking.isEmpty || (q.queued && !stillQueued s q) then s
      else
        let s := if q.queued then requeueRec q.id s else s
        updRec? q.id (fun p => { p with outs := p.outs ++ lost.map (·.tile), far := p.far ++ e.wants }) (take s)
    | none =>
      if producerRuns s e.producer e.idx then s
      else
        let inputs := ((lost.map (·.inputs) ++ e.wants.map (·.inputs)).head?).getD []
        if inputs.any (badInput s) then denyWalk e.ix s
        else
          let far := inputs.filter fun u => !servesShard s u
          let waits := inputs.filter (notThere s)
          let (id, s) := takeUid s
          let q : RecTask := { id := id, pool := e.ix, producer := e.producer, waits := waits, outs := [], asking := far, since := s.clock }
          if far.isEmpty then
            let s := take s
            { s with lin := { s.lin with rtasks := { q with outs := lost.map (·.tile), far := e.wants } :: s.lin.rtasks } }
          else
            let s := far.foldl (fun s u => queryState u s) s
            { s with lin := { s.lin with rtasks := q :: s.lin.rtasks } }

/-- Storage for the RECOVERING outputs of a recovery task (R72): whether each of them has some now. -/
def placeOuts : List W64 → State → Bool × State
  | [], s => (true, s)
  | t :: r, s =>
    match recOf s t with
    | none => placeOuts r s
    | some v =>
      if v.st != .recovering then placeOuts r s
      else match recoverPlace s v with
        | (some p, s) => placeOuts r (updRec t (fun v => { v with place := p }) s)
        | (none, s) => (false, (placeOuts r s).2)

/-- A LOST version whose retained packet this device does not hold (R64, R53): the shard that holds it is asked to recover it, in
storage chosen here (R72), and asked again as the priority rises; where that packet is lost too, the version is FAILED. -/
def askRecovery (r : VRec) (s : State) : State :=
  if devLost s r.pkdev.val then failVersion r.tile s
  else
    let prio := farPrio s r.tile
    if prio < r.asked then s
    else match (if r.asked = 0 then recoverPlace s r else (some r.place, s)) with
      | (none, s) => s
      | (some p, s) =>
        send (.recover r.pkdev.val r.tile r.pool r.outix r.size prio p r.inputs)
          (updRec r.tile (fun v => { v with place := p, asked := prio + 1 }) s)

/-- Whether a version is LOST, or another shard recovers it and hears of a priority that rises (R64, R66). -/
def walksFrom (r : VRec) : Bool := r.st == .lost || (r.st == .recovering && r.asked != 0)

/-- The walk of R64 from one LOST version, where its packet is not in this shard's pool. -/
def walkVersion (r : VRec) (s : State) : State :=
  if r.pkdev ≠ s.dev then askRecovery r s
  else if s.lin.pool.any (·.ix == r.pool) then s
  else failVersion r.tile s

/-- A recovery task whose inputs are there and whose outputs have storage is enqueued (R64, R67, R72); one that is queued or preloaded
takes a priority that has risen (R66). -/
def enqueueRec (s : State) (q : RecTask) : State :=
  let waits := q.waits.filter (notThere s)
  let prio := inherited s (s.lin.rtasks.length + 1) q
  let s := updRec? q.id (fun p => { p with waits := waits, prio := prio, since := if waits.isEmpty && !q.waits.isEmpty then s.clock else p.since }) s
  if q.running then s
  else if q.queued then
    let g (w : Waiting) : Waiting := if isRunOf s q w then { w with packet := withPrio w.packet prio } else w
    let up (c : Ctx) : Ctx := { c with task := c.task.map fun t =>
      if t.kind = .recovery ∧ t.started = none ∧ ownPool s t.prior = some q.pool then { t with packet := withPrio t.packet prio } else t }
    let s := mapBanks up (mapEntries (fun l => l.map fun e => { e with w := g e.w }) s)
    { s with dist := { s.dist with queue := s.dist.queue.map g } }
  else if !waits.isEmpty then s
  else
    match s.lin.pool.find? (·.ix == q.pool), placeOuts q.outs s with
    | some e, (ready, s) =>
      if e.lost then cancelFailed q s
      else if !ready then s
      else
      let s := updRec? q.id (fun p => { p with queued := true }) s
      let w : Waiting := { handle := e.producer, packet := withPrio e.packet prio, info := e.info, idx := e.idx, kind := .recovery
                           since := s.clock, image := none, prior := { pool := some (s.dev, e.ix) } }
      { s with dist := { s.dist with queue := s.dist.queue ++ [w] } }
    | none, _ => s

/-! ## New versions (R42, R50 to R53, R58, R320, R446) -/

/-- The last version of a tile ID. -/
def lastVersion (s : State) (b : W64) : Nat := ((s.lin.versions.find? (·.1 == b)).map Prod.snd).getD 0

/-- The pool entry of a replayable producer's first TNEWV: one that another member or instance has filled, or a free one. None where
the pool is full (R53, R446). -/
def poolFor (s : State) (producer : W64) (idx : List W64) : Option (Nat × Bool) :=
  match s.lin.pool.find? fun e => e.producer == producer && e.idx == idx with
  | some e => some (e.ix, false)
  | none => (((List.range s.lin.poolSize).map (· + 1)).find? fun i => !s.lin.pool.any (·.ix == i)).map (·, true)

/-- What TNEWV comes to at the shard of its tile ID. -/
inductive NewAns where
  | made (h : W64) (pl : Place) (pool : Option (Fin 1024 × Nat)) (s : State)
  | wait (w : Wait) (s : State)
  | refused

/-- TNEWV at the shard of its tile ID (R320), for a task of device `src`: the record is created PENDING, with its packet retained
where it is the first of a replayable task (`packet` is not empty), and with the entry that holds it where another shard does. -/
def newVersion (src : Fin 1024) (b : W64) (n : Nat) (ty : TileTgt) (die : Nat) (producer : W64) (outix : Nat) (packet : List W64)
    (info : SpawnInfo) (idx : List W64) (at_ : Option (Fin 1024 × Nat)) (inputs : List W64) (s : State) : NewAns :=
  let replay := at_.isSome || !packet.isEmpty
  if 0xFFFFFF ≤ lastVersion s b then .refused
  else
    let h := b + BitVec.ofNat 64 (lastVersion s b + 1)
    match (match at_ with
      | some (d, i) => some (d, i, false)
      | none => if replay then (poolFor s producer idx).map fun (i, fresh) => (s.dev, i, fresh) else some (s.dev, 0, false)) with
    | none => .wait .pool s
    | some (pd, pool, fresh) =>
      match freeIndices s (1 + (if replay then chainLen inputs.length else 0)) with
      | none => .wait .record s
      | some ixs =>
        match allocStore s ty die n with
        | (none, s) => .wait .storage s
        | (some pl, s) =>
          let r : VRec := {
            index := ixs.headD 0, tile := h, st := .pending, rplay := replay, outix := outix, producer := producer
            pkdev := pd, pool := pool, size := n, place := pl, inputs := if replay then inputs else [], links := replay
            chain := ixs.drop 1, owner := src, since := s.clock }
          let ent : List PoolEnt := if fresh then [{ ix := pool, producer := producer, packet := packet, info := info, idx := idx }] else []
          let s := { s with lin := { s.lin with
            recs := s.lin.recs ++ [r]
            versions := (b, h.toNat % 2 ^ 24) :: s.lin.versions.filter (·.1 != b)
            pool := s.lin.pool ++ ent } }
          let s := if fresh then poolWrite (poolPlace s pool).addr.toNat packet s else s
          let s := if replay && pd != s.dev then send (.shard pd.val 0 (.out pool outix h false)) s else s
          .made h pl (if replay then some (pd, pool) else none) s

/-! ## Questions of other devices (R54, R60, R63, R65, R320 to R327) -/

/-- TPIN at the version's shard (R326): none where it faults. -/
def pinVersion (h : W64) (rel : Bool) (s : State) : Option State :=
  match recOf s h with
  | none => none
  | some r =>
    if (if rel then r.hold == 0 else 65535 ≤ r.hold) then none
    else some (updRec h (fun r => { r with hold := if rel then r.hold - 1 else r.hold + 1 }) s)

/-- What a recovery run that another device runs writes at its allocation with some OUTIX (R49): the version recorded, and whether it is
rebuilt. -/
def knownOut (pool outix : Nat) (s : State) : ShardAns :=
  let q := s.lin.rtasks.find? (·.pool == pool)
  match s.lin.recs.find? fun r => r.pool == pool && r.pkdev == s.dev && r.outix == outix with
  | some r => .known r.tile r.place r.size (r.st == .recovering && (q.map (·.outs.contains r.tile)).getD false)
  | none =>
    match (q.map (·.far)).bind fun l => l.find? (·.outix == outix) with
    | some x => .known x.tile x.place x.size true
    | none =>
      match (s.lin.pool.find? (·.ix == pool)).bind fun e => e.outs.find? (·.1 == outix) with
      | some x => .known x.2 ⟨.hbm, s.dev, 0, 0⟩ 0 false
      | none => .refused

/-- The references of another device to a version of this shard. -/
def setFar (tile : W64) (src : Fin 1024) (count prio : Nat) (s : State) : State :=
  updRec tile (fun r => { r with far := (if count = 0 then [] else [(src, count, prio)]) ++ r.far.filter (·.1 != src) }) s

/-- One question: its answer, if any, and the state after it; nothing where it must wait. On which die a replica of another device lies
is free: R59 and R378 leave it to the buddy (log 116). -/
def serve (x : Asker) (s : State) : Option (Option ShardAns × State) :=
  match x.q with
  | .newv id size tt die producer outix packet info idx pool inputs =>
    (match newVersion x.src id size tt die.val producer outix packet info idx pool inputs s with
     | .made h pl pool s => some (some (.newv h pl pool), s)
     | .refused => some (some .refused, s)
     | .wait w s =>
       if x.since + micros 100 ≤ s.clock then
         some (some .refused, match w with | .storage => event 6 2 wholeDevice 1 0 s | _ => event 3 1 wholeDevice (linstat s) 0 s)
       else none)
  | .decl tile count prio =>
    (match recOf s tile with
     | some r => if r.st = .failed then some (some (.state tile 7), s) else some (some (.declared r.depth), setFar tile x.src count prio s)
     | none => some (some .refused, s))
  | .link tile input =>
    (match recOf s tile with
     | some r =>
       let k := chainLen (r.inputs.length + 1) - r.chain.length
       if r.st ≠ .pending ∨ r.inputs.contains input then some (some .held, s)
       else match freeIndices s k with
         | some ixs => some (some .held, updRec tile (fun r => { r with inputs := r.inputs ++ [input], chain := r.chain ++ ixs }) s)
         | none => if x.since + micros 100 ≤ s.clock then some (some .refused, event 3 1 wholeDevice (linstat s) 0 s) else none
     | none => some (some .held, s))
  | .read tile =>
    (match recOf s tile with
     | some r => if r.st = .failed then some (some (.state tile 7), s)
       else if r.st.avail then some (some (.address r.place r.size), s) else none
     | none => some (some .refused, s))
  | .repl tile wait =>
    (match recOf s tile with
     | some r =>
       if r.st = .failed then some (some (.state tile 7), s)
       else if r.st = .pending then some (some .refused, s)
       else if r.st = .replica ∨ wait = false then some (some .held, requestReplica tile s)
       else none
     | none => some (some .refused, s))
  | .pin tile rel => (match pinVersion tile rel s with | some s => some (some .held, s) | none => some (some .refused, s))
  | .stat tile => some (some (.stat (match recOf s tile with | some r => ctrlWord s r | none => 0)), s)
  | .refs tile count prio => some (none, setFar tile x.src count prio s)
  | .retell tile count prio =>
    some (none, updRec tile (fun r => { r with hold := r.hold - count }) (setFar tile x.src count prio s))
  | .outPrio pool tile prio =>
    some (none, { s with lin := { s.lin with pool := s.lin.pool.map fun e =>
      if e.ix = pool then { e with prios := (tile, prio) :: e.prios.filter (·.1 != tile) } else e } })
  | .fail tile => some (none, failVersion tile s)
  | .lend tile replica tt die size =>
    let (k, s) := takeFree s
    (match allocOnDies s tt size (if replica then (List.range 4).map fun i => (Config.pick k + i) % 4 else [die.val]) with
     | (some p, s) => some (some (.address p size), { s with lin := { s.lin with lent := ⟨x.src, tile, replica, p, size⟩ :: s.lin.lent } })
     | (none, s) => if x.since + micros 100 ≤ s.clock then some (some .refused, event 6 2 wholeDevice 1 0 s) else none)
  | .giveBack tile => some (none, { s with lin := { s.lin with lent := s.lin.lent.filter fun y => !(y.tile == tile && y.dev == x.src) } })
  | .out pool outix tile gone =>
    some (none, { s with lin := { s.lin with pool := s.lin.pool.map fun e =>
      if e.ix = pool then { e with outs := (if gone then [] else [(outix, tile)]) ++ e.outs.filter (·.2 != tile)
                                   prios := e.prios.filter (·.1 != tile) } else e } })
  | .unrecover tile =>
    let kept (q : RecTask) : List (W64 × Place × Nat) := (q.far.filter (·.tile == tile)).map fun y => (tile, y.place, y.size)
    let s := if s.lin.rtasks.any fun q => q.running && !(kept q).isEmpty then s else send (.shard x.src.val 0 (.giveBack tile)) s
    some (none, { s with lin := { s.lin with
      rtasks := s.lin.rtasks.map fun q =>
        { q with far := q.far.filter (·.tile != tile), kept := (if q.running then kept q else []) ++ q.kept }
      pool := s.lin.pool.map fun e => { e with wants := e.wants.filter (·.tile != tile) } } })
  | .known pool outix =>
    some (some (knownOut pool outix s), { s with lin := { s.lin with rtasks := s.lin.rtasks.map fun q =>
      if q.pool = pool then { q with runner := some x.src, running := true } else q } })
  | .adopt tile =>
    (match recOf s tile with
     | some r =>
       if r.st = .pending then
         match recoverPlace s r with
         | (some p, s) => some (some (.address p r.size), updRec tile (fun r => { r with owner := x.src, place := p }) s)
         | (none, s) =>
           if x.since + micros 100 ≤ s.clock then some (some (.state tile 7), failVersion tile (event 6 2 wholeDevice 1 0 s)) else none
       else some (some (.state tile (Fin.ofNat 16 r.st.code)), s)
     | none => some (some .refused, s))
  | .ranRec _ _ _ => some (none, s)

/-- A question that waits to be answered, with what it does at once: TREPL asks for the replica while it waits (R325). -/
def beginAsk (x : Asker) (s : State) : State :=
  match x.q with | .repl tile true => requestReplica tile s | _ => s

/-- The answer to a question leaves. -/
def answerTo (x : Asker) (a : Option ShardAns) (s : State) : State :=
  match a with | some a => send (.answer x.src.val x.tag a) s | none => s

/-- The questions that wait are tried again, in order. -/
def serveAsks (s : State) : State :=
  s.lin.asks.foldl (fun s x =>
    match serve x s with
    | some (a, s) => answerTo x a { s with lin := { s.lin with asks := s.lin.asks.erase x } }
    | none => s) s

/-- The devices that wait for a version's state are told of it (R65, R75). -/
def tellWatchers (s : State) : State :=
  let news (t : W64) : Option (Fin 16) := match recOf s t with
    | some r => if r.st.avail || r.st == .failed then some (Fin.ofNat 16 r.st.code) else none
    | none => some 0
  s.lin.watch.foldl (fun s (d, t) =>
    match news t with
    | some c => send (.answer d.val 0 (.state t c)) { s with lin := { s.lin with watch := s.lin.watch.erase (d, t) } }
    | none => s) s

/-- The shards that keep the packets of versions here are told of the priority that these lend to a recovery run, as it changes (R66). -/
def tellPrios (s : State) : State :=
  s.lin.recs.foldl (fun s r =>
    let p := farPrio s r.tile
    if r.pkdev = s.dev ∨ r.asked ≠ 0 ∨ keepsPacket r = false ∨ devLost s r.pkdev.val = true ∨ p = r.toldPrio then s
    else send (.shard r.pkdev.val 0 (.outPrio r.pool r.tile p)) (updRec r.tile (fun r => { r with toldPrio := p }) s)) s

/-- Other shards are told of this device's references to their versions, as these change (R60, R66). -/
def tellRefs (s : State) : State :=
  let us := ((liveRuns s).flatMap (·.decl) ++ (s.lin.recs.filter (·.linked)).flatMap (·.inputs) ++ s.lin.told.map (·.1)).eraseDups.filter
    fun u => !servesShard s u
  us.foldl (fun s u =>
    let n := refsHere s u; let p := if n = 0 then 0 else farPrio s u
    let old := ((s.lin.told.find? (·.1 == u)).map Prod.snd).getD (0, 0)
    if old = (n, p) then s
    else tell u (.refs u n p) { s with lin := { s.lin with
      told := (if n = 0 then [] else [(u, n, p)]) ++ s.lin.told.filter (·.1 != u) } }) s

/-- A re-enqueued instance whose PENDING versions have storage again waits to run (R72, R345). -/
def unpark (s : State) : State :=
  s.dist.parked.foldl (fun s x =>
    let lacking := (x.1.prior.allocs.filterMap (recOf s)).filter fun r => r.st == .pending
    match lacking.foldl (fun (o : Option State) r => o.bind fun s => match recoverPlace s r with
        | (some p, s) => some (updRec r.tile (fun r => { r with place := p }) s)
        | (none, _) => none) (some s) with
    | none => s
    | some s => { s with dist := { s.dist with
        parked := s.dist.parked.erase x
        queue := x.1 :: s.dist.queue
        avoid := (x.1.handle, x.2.1) :: s.dist.avoid.filter (·.1 != x.1.handle) } }) s

/-- What follows from any change of the shard: trimming, cancelling, walks from LOST versions, recovery tasks, storage, and
what other devices wait to be told. -/
def settle (s : State) : State :=
  let s := trimAll (s.lin.recs.length + 1) s
  let s := cancelIdle s
  let s := (s.lin.recs.filter walksFrom).foldl (fun s r =>
    match recOf s r.tile with | some v => if walksFrom v then walkVersion v s else s | none => s) s
  let s := s.lin.pool.foldl (fun s e => match s.lin.pool.find? (·.ix == e.ix) with | some e => walkEntry e s | none => s) s
  let s := spreadFailed (s.lin.rtasks.length + 1) s
  let s := s.lin.rtasks.foldl enqueueRec s
  let s := unpark (freePool s)
  let s := tellPrios (tellRefs (tellWatchers (serveAsks s)))
  { s with lin := { s.lin with walks := (s.lin.rtasks.filter fun q => !q.asking.isEmpty).length } }

end Sys2Proof.Machine
end

