-- ==== Sys2Proof/Machine/Dist.lean ====
section
/-! DEFINITION. The distributor: task slots and handles (R36, R318), signals and readiness (R118, R119), placing of
ready tasks (R112, R113, R317), packets and their checks (R29, R30, R34, R390), loop nests (R34, R35, R121), and
launches with their completion records (R387 to R389). -/

namespace Sys2Proof.Machine

/-! ## Packets (R29 to R34) -/

/-- LEN in 8-byte words. -/
def pktWords (p : List W64) : Nat := 4 * bits (p.headD 0) 3 0
/-- KIND. -/
def pktKind (p : List W64) : Nat := bits (p.headD 0) 11 8
/-- NPAY. -/
def pktNpay (p : List W64) : Nat := bits (p.headD 0) 31 27
/-- SUCC. -/
def pktSucc (p : List W64) : Nat := bits (p.headD 0) 26 23
/-- DEPS. -/
def pktDeps (p : List W64) : Nat := bits (p.headD 0) 63 48
/-- PIN. -/
def pktPin (p : List W64) : Nat := bits (p.headD 0) 40 32
/-- The entry address. -/
def pktEntry (p : List W64) : W64 := p.getD 2 0
/-- The task handle word. -/
def pktHandle (p : List W64) : W64 := p.getD 3 0
/-- Where the payload starts, in words. -/
def payStart (p : List W64) : Nat := if pktKind p = 2 then 9 else 4
/-- The payload. -/
def pktPayload (p : List W64) : List W64 := (p.drop (payStart p)).take (pktNpay p)
/-- The successor handles. -/
def pktSuccs (p : List W64) : List W64 := p.drop (p.length - pktSucc p)
/-- A packet published under a handle. -/
def withHandle (p : List W64) (h : W64) : List W64 := p.set 3 h

/-- NLOOP of a loop block. -/
def nloop (p : List W64) : Nat := bits (p.getD 4 0) 10 8
/-- ORDER of a nesting position. -/
def loopOrder (p : List W64) (i : Nat) : Nat := bits (p.getD 4 0) (2 * i + 1) (2 * i)
/-- COUNT of a loop. -/
def loopCount (p : List W64) (j : Nat) : Nat := bits (p.getD (5 + j) 0) 31 0
/-- The iterations of a record. -/
def nestTotal (p : List W64) : Nat := (List.range (nloop p)).foldl (fun n j => n * loopCount p j) 1

/-- The indices of iteration `n`, loop j's in place j (R34: the last nesting position varies fastest). -/
def nestIndices (p : List W64) (n : Nat) : List W64 :=
  let k := nloop p
  let (idx, _) := (List.range k).foldr (fun pos (acc, m) =>
    let j := loopOrder p pos; let c := Nat.max 1 (loopCount p j)
    (acc.set j (BitVec.ofNat 64 (m % c)), m / c)) (List.replicate 4 (0 : W64), n)
  idx

/-- The loop block rules (R34). -/
def loopOk (p : List W64) : Bool :=
  let k := nloop p
  let ord := (List.range k).map (loopOrder p)
  1 ≤ k && k ≤ 4 && ord.all (· < k) && ord.Nodup
  && ((List.range 4).drop k).all (fun i => loopOrder p i == 0 && loopCount p i == 0) && nestTotal p ≤ 2 ^ 32

/-- Whether a reserved field of a packet is set: of header word 0 and, of a loop-nest record, of its loop block (R4, R29). -/
def reservedSet (p : List W64) : Bool :=
  let h := p.headD 0
  bits h 47 44 != 0 || bits h 41 41 != 0 || bits h 7 4 != 0
  || (pktKind p == 2 && (bits (p.getD 4 0) 63 11 != 0 || (List.range 4).any fun j => bits (p.getD (5 + j) 0) 63 32 != 0))

/-- The retained copy of an iteration's packet, with its indices (R446). -/
def retainPacket (p : List W64) (idx : List W64) : List W64 :=
  if idx.isEmpty then p
  else (List.range 4).foldl (fun p j =>
    p.set (5 + j) (BitVec.ofNat 64 (bits (p.getD (5 + j) 0) 31 0 + (idx.getD j 0).toNat * 2 ^ 32))) p

/-- Whether the first eight bytes of a line make its word 2 a marked one of a code line: KIND 0, START bit 0, TARGET bit 0 (R177). -/
def entryLine (bs : List Byte) : Bool :=
  let w := natOf (bs.take 8)
  w / 2 ^ 60 % 16 == 0 && w / 2 ^ 30 % 2 == 1 && w % 2 == 1

/-- Whether an address is word 2 of a code line whose TARGET bit for it is set, as the ASID reads it (R30 rule 8); none while the
line is on its way from another device. An entry whose page is absent or cannot be read breaks the rule: no page fault is taken for
it, which is the model's choice (log 72). -/
def entryMarked (s : State) (asid : BitVec 16) (priv : Bool) (va : W64) : Option Bool × State :=
  if va.toNat % 128 ≠ 8 then (some false, s)
  else
    match check [] s asid priv 2 .fetch .ex (va.toNat - 8) 128 with
    | (.ok gs, s) =>
      (match gs with
       | g :: _ =>
         if g.ty = 4 then
           (match s.dist.lines.find? (·.loc == g.loc) with
            | some l => (l.got.map fun x => x.1 == .done && entryLine x.2, s)
            | none =>
              if !chanUp s 0 then (some false, s)
              else if segMoved g s then (none, s)
              else
                let (u, s) := takeUid s
                (none, sendFar g.rdev u 128 (.fetch g.pa 128 g.rkey)
                  { s with dist := { s.dist with lines := ⟨g.loc, u, none⟩ :: s.dist.lines } }))
         else (some ((s.mem.poisoned g.pa 128).isNone && entryLine (s.mem.read g.key g.pa 8)), s)
       | [] => (some false, s))
    | (_, s) => (some false, s)

/-- The lines that a check has read are kept no longer. -/
def dropLines (s : State) : State :=
  { s with dist := { s.dist with lines := s.dist.lines.filter (·.got.isNone) } }

/-- The first rule of R30 that a packet breaks, by its code (R390), the handle rule left out; none in place of an answer while the
entry's line is on its way. -/
def packetRule (s : State) (asid : BitVec 16) (p : List W64) : Option (Option Nat) × State :=
  let h := p.headD 0
  let n := pktWords p; let used := payStart p + pktNpay p + pktSucc p
  let (mark, s) := entryMarked s asid (asid == 0) (pktEntry p)
  let rules (marked : Bool) : List (Nat × Bool) := [
    (1, bits h 3 0 == 0 || 8 < bits h 3 0 || p.length != n),
    (2, pktKind p != 1 && pktKind p != 2),
    (3, bits h 43 42 == 3),
    (4, 384 ≤ pktPin p || (!pinnedPkt p && pktPin p != 0)),
    (5, 27 < pktNpay p),
    (6, 8 < pktSucc p),
    (7, reservedSet p),
    (8, !marked),
    (9, n < used),
    (10, ((p.drop (payStart p + pktNpay p)).take (n - used)).any (· != 0)),
    (11, (pktSuccs p).any (· == 0)),
    (12, pairPkt p && pinnedPkt p),
    (13, pktKind p == 2 && !loopOk p)]
  (mark.map fun m => ((rules m).find? (·.2)).map Prod.fst, s)

/-! ## Slots and handles (R36, R318) -/

/-- Task slots of a device. -/
def slotCount : Nat := 4194304

/-- The handle of a slot. -/
def handleOf (s : State) (num gen : Nat) : W64 := fields [(s.dev.val, 54), (num, 24), (gen, 0)]

/-- The slot that a handle of this device names, whatever its generation. -/
def slotAt (s : State) (h : W64) : Option Slot := s.dist.slots.find? (·.num == bits h 53 24)

/-- The slot of a handle, if the handle's generation is the slot's own. -/
def slotOf (s : State) (h : W64) : Option Slot :=
  if bits h 63 54 = s.dev.val then (slotAt s h).filter (·.gen == bits h 23 0) else none

/-- Changes a slot. -/
def updSlot (num : Nat) (f : Slot → Slot) (s : State) : State :=
  { s with dist := { s.dist with slots := s.dist.slots.map fun x => if x.num = num then f x else x } }

/-- Reserves a slot and issues its handle: any slot that is unused or whose task has exited (log 9). -/
def reserveSlot (owner : Option W64) (s : State) : Option W64 × State :=
  let busy := s.dist.slots.filter (·.st != .exited)
  if slotCount ≤ busy.length then (none, s)
  else
    let (k, s) := takeFree s
    let first := Config.slotStart k % slotCount
    let num := (((List.range (busy.length + 1)).map fun i => (first + i) % slotCount).find? fun n =>
      !busy.any (·.num == n)).getD 0
    let old := (assoc s.dist.gens num).getD 0
    let gen := if old = 0xFFFFFF then 1 else old + 1
    (some (handleOf s num gen),
     { s with dist := { s.dist with
         slots := { num := num, gen := gen, st := .reserved, owner := owner }
                    :: s.dist.slots.filter (·.num != num)
         gens := assocSet s.dist.gens num gen } })

/-- Frees a reserved slot that was never published, with its early entry (R318). -/
def freeReserved (h : W64) (s : State) : State :=
  { s with dist := { s.dist with slots := s.dist.slots.filter fun x => x.num != bits h 53 24
                                 early := s.dist.early.filter (·.1 != h) } }

/-! ## Launches (R389) -/

/-- Changes a launch. -/
def updLaunch (key : W64) (f : Launch → Launch) (s : State) : State :=
  { s with dist := { s.dist with launches := s.dist.launches.map fun l => if l.key = key then f l else l } }

/-- The device of a launch, by its key. -/
def launchDev (key : W64) : Nat := bits key 63 54

/-- A launch is changed, where it is this device's; a launch of another device is told. -/
def onLaunch (key : W64) (f : Launch → Launch) (msg : Nat → Msg) (s : State) : State :=
  if launchDev key = s.dev.val then updLaunch key f s else send (msg (launchDev key)) s

/-- A launch has one task more (R317). -/
def countSpawn (key : W64) (s : State) : State :=
  onLaunch key (fun l => { l with live := l.live + 1 }) (fun d => .count d key true false false none 0) s

/-- Energy that a launch's total gains, which saturates (R136). -/
def addLaunchEnergy (e : W64) (l : Launch) : Launch :=
  { l with energy := if l.energy.toNat + e.toNat < 2 ^ 64 then l.energy + e else BitVec.allOnes 64 }

/-- Energy of a run that has not ended its task (R353). -/
def countEnergy (key : W64) (e : W64) (s : State) : State :=
  onLaunch key (addLaunchEnergy e) (fun d => .count d key false false false none e) s

/-- The completion record (R389). -/
def completion (status : Nat) (l : Launch) : List W64 :=
  let f := l.first.getD ⟨0, 0, 0, 0, 0, 0, 0⟩
  [l.id, fields [(status, 56), (l.asid.toNat, 32), (l.nrej, 16), (l.rejoff, 0)],
   fields [(l.rejrule, 56), (Nat.min l.nfail 0xFFFFFF, 32), (Nat.min l.nexit (2 ^ 32 - 1), 0)], l.energy, f.ftask,
   fields [(f.cause.toNat, 56), (f.cause2.toNat, 48), (f.unit.toNat, 32), (f.fcode.toNat, 16)], f.taddr, f.tile]

/-- A Farpor packet of a session (R384). -/
def farporSend (sess ty : Nat) (resp : Bool) (ws : List W64) (s : State) : State := sessSend sess ty resp none (wordBytes ws) s

/-- The session that carries a COMPLETE (R385): the launch's own, or once that is gone the lowest-numbered open one of the same host
address; session 0, on which the record is dropped, where there is none. -/
def completeOn (s : State) (l : Launch) : Nat :=
  if l.sess ≠ 0 then l.sess
  else ((s.port.sessions.filter (·.host == l.host)).map (·.num)).foldl (fun m n => if m = 0 then n else Nat.min m n) 0

/-- The slots that a launch reserved here and never published are freed, with their early entries (R318). -/
def freeLaunchSlots (key : W64) (s : State) : State :=
  let mine := s.dist.slots.filter fun x => x.st == .reserved && x.owner == some key
  { s with dist := { s.dist with
      slots := s.dist.slots.filter (!mine.contains ·)
      early := s.dist.early.filter fun e => !mine.any fun x => handleOf s x.num x.gen == e.1 } }

/-- The other devices that hold an ASID. -/
def holdersOf (s : State) (asid : BitVec 16) : List Nat :=
  match bindOf s.xl asid with
  | some b => if b.mask = 0 then [] else (List.range 1024).filter fun d => b.mask.getLsbD d && d != s.dev.val && !devLost s d
  | none => []

/-- A launch whose tasks have all ended: COMPLETE, and its reserved slots never published are freed, on the other devices that hold its
ASID too (R318). -/
def closeLaunch (key : W64) (s : State) : State :=
  match s.dist.launches.find? (·.key == key) with
  | none => s
  | some l =>
    if l.live ≠ 0 then s
    else
      let s := farporSend (completeOn s l) 4 false (completion (if l.nfail = 0 ∧ l.nrej = 0 then 0 else 1) l) s
      let s := (holdersOf s l.asid).foldl (fun s d => send (.closed d key) s) s
      freeLaunchSlots key { s with dist := { s.dist with launches := s.dist.launches.filter (·.key != key) } }

/-! ## Deques, pools and the queue (R112, R113) -/

/-- The physical core of a logical number (R122). -/
def physCore (s : State) (n : Nat) : Option Nat :=
  match s.mmio.coreMap[n]? with
  | some p => if p.toNat < 384 ∧ !coreOut s p.toNat then some p.toNat else none
  | none => none

/-- Where a task that no die can take waits (R112). -/
def pushQueue (w : Waiting) (s : State) : State := { s with dist := { s.dist with queue := s.dist.queue ++ [w] } }

/-- Into a die's pool, or the master distributor's queue when the pool is full (R113) or the die out of service (R359). A shadow entry
stays with the die, whose dispatcher carries on its custody (R117). -/
def pushPool (die : Nat) (e : DqEntry) (s : State) : State :=
  match s.dist.pools[die]? with
  | none => pushQueue e.w s
  | some p =>
    if (4096 ≤ p.length || !dieInService s die) && e.cust == .inDeque then pushQueue e.w s
    else { s with dist := { s.dist with pools := s.dist.pools.set! die (p ++ [e]) } }

/-- At the owner end of a core's deque; a full one gives its thief end to the die pool (R113). -/
def pushDeque (core : Nat) (w : Waiting) (s : State) : State :=
  let (c, k) := coreOf s core
  let dq : List DqEntry := { w := w } :: k.deque
  let s := setCore s core (c, { k with deque := dq.take 64 })
  (dq.drop 64).foldl (fun s e => pushPool (dieOf core) e s) s

/-- Whether a core holds no task, and is eligible (R39). -/
def coreFree (s : State) (n : Nat) : Bool :=
  let (c, k) := coreOf s n
  c.task.isNone && k.standby.isNone && !k.gated && !coreOut s n

/-- Free eligible cores of a die. -/
def freeCores (s : State) (die : Nat) : Nat := ((List.range 96).filter fun i => coreFree s (96 * die + i)).length

/-- The die of a PINNED task's core. -/
def pinDie (s : State) (p : List W64) : Option Nat := (physCore s (pktPin p)).map dieOf

/-- The die to which the master distributor sends a ready task: the pinned one, else the one with the most free
eligible cores among those whose last report leaves room, the lower number among equals (R112). -/
def chooseDie (s : State) (w : Waiting) : Option Nat :=
  let room (d : Nat) : Bool := match s.dist.reports[d]? with | some r => 0 < r.1 | none => false
  if pinnedPkt w.packet && w.kind != .recovery then (pinDie s w.packet).filter room
  else
    let ds := (List.range 4).filter fun d => room d && dieInService s d
    match ds with
    | [] => none
    | d :: r => some (r.foldl (fun b x => if freeCores s b < freeCores s x then x else b) d)

/-- The master distributor sends what the dies can take (R112). -/
def feed (s : State) : State :=
  s.dist.queue.foldl (fun s w =>
    match chooseDie s w with
    | none => s
    | some d =>
      let s := { s with dist := { s.dist with
        queue := s.dist.queue.erase w
        reports := s.dist.reports.set! d (match s.dist.reports[d]? with | some r => (r.1 - 1, r.2) | none => (0, 0)) } }
      pushPool d { w := w } s) s

/-- A ready task, as it waits. -/
def readyTask (s : State) (x : Slot) : Waiting :=
  { handle := handleOf s x.num x.gen, packet := x.packet, info := x.info, idx := [], kind := .first, since := s.clock, image := none }

/-- Ends a record of which nothing is left to run. -/
def nestDone (n : Nest) : Bool := n.live == 0 && (n.next == n.total || n.failed)

/-- Places a task that has become ready (R317): a record goes to the walker; a PINNED task to its core's die pool; a
task of this device's own publication to the pool of the publishing core's die; others through the master
distributor. -/
def placeReady (x : Slot) (s : State) : State :=
  let w := readyTask s x
  if pktKind x.packet = 2 then
    let n : Nest := { slot := x.num, next := 0, total := nestTotal x.packet, live := 0 }
    let s := { s with dist := { s.dist with nests := s.dist.nests ++ [n] } }
    -- a record without iterations completes when it becomes ready (R35); the walker's step does the rest
    raiseDue (.loopNestWalk x.num) s
  else
    match (if pinnedPkt x.packet then pinDie s x.packet else x.die.map (·.val)) with
    | some d => pushPool d { w := w } s
    | none => feed (pushQueue w s)

/-- A slot becomes ready. -/
def makeReady (x : Slot) (s : State) : State :=
  placeReady x (updSlot x.num (fun y => { y with st := .ready, since := s.clock }) s)

/-! ## Signals (R118, R119) -/

/-- One signal to a handle of this device: none where the early table is full and the signal must wait. -/
def signalHere (h : W64) (s : State) : Option State :=
  match slotOf s h with
  | none => some { s with dist := { s.dist with stale := s.dist.stale + 1 } }
  | some x =>
    match x.st with
    | .reserved =>
      (match s.dist.early.find? (·.1 == h) with
       | some e => some { s with dist := { s.dist with early := s.dist.early.map fun y =>
           if y.1 = h then (h, e.2 + 1) else y } }
       | none =>
         if 16384 ≤ s.dist.early.length then none
         else some { s with dist := { s.dist with early := (h, 1) :: s.dist.early } })
    | .waiting =>
      let s := updSlot x.num (fun y => { y with counter := y.counter - 1 }) s
      some (if x.counter - 1 ≤ 0 then makeReady { x with counter := x.counter - 1 } s else s)
    | _ => some (updSlot x.num (fun y => { y with counter := y.counter - 1 }) s)

/-- One signal of the distributor's own: one to another device goes on the request channel, and waits there if it must. -/
def signal (h : W64) (s : State) : Option State :=
  if bits h 63 54 ≠ s.dev.val then some (send (.signal (bits h 63 54) 0 h) s) else signalHere h s

/-- Several signals in order, as far as they are accepted: what is left of them. -/
def signalSome : List W64 → State → List W64 × State
  | [], s => ([], s)
  | h :: r, s => match signal h s with | some s => signalSome r s | none => (h :: r, s)

/-! ## Publication (R119, R317) -/

/-- Publishes a packet under a reserved handle of this device: from a core, or from outside (none). The launch counts it apart
(`countSpawn`). -/
def publish (h : W64) (p : List W64) (info : SpawnInfo) (fromCore : Option Nat) (s : State) : State :=
  match slotOf s h with
  | none => s
  | some x =>
    let early := (assocW s.dist.early h).getD 0
    let x := { x with st := .waiting, counter := (pktDeps p : Int) - early, packet := withHandle p h, info := info,
                      die := fromCore.map fun n => Fin.ofNat 4 (dieOf n), since := s.clock }
    let s := { s with dist := { s.dist with early := s.dist.early.filter (·.1 != h) } }
    let s := updSlot x.num (fun _ => x) s
    if 0 < x.counter then s
    else
      match fromCore with
      | some n =>
        if pktKind p = 1 ∧ !pinnedPkt p then
          pushDeque n (readyTask s x) (updSlot x.num (fun y => { y with st := .ready }) s)
        else makeReady x s
      | none => makeReady x s
where
  assocW (l : List (W64 × Nat)) (h : W64) : Option Nat := (l.find? (·.1 == h)).map Prod.snd

/-! ## The end of a task for its slot, record and launch (R35, R329, R332) -/

/-- A launch counts an exit or a failure, with the run's energy. -/
def countEnd (key : W64) (fail : Option FailRec) (energy : W64) (s : State) : State :=
  onLaunch key (fun l =>
    let l := addLaunchEnergy energy l
    match fail with
    | none => { l with nexit := l.nexit + 1 }
    | some f => { l with nfail := l.nfail + 1, first := some (l.first.getD f) })
    (fun d => .count d key false false fail.isNone fail energy) s

/-- A launch has one task less, and may be complete. -/
def launchEnded (key : W64) (s : State) : State :=
  closeLaunch key (onLaunch key (fun l => { l with live := l.live - 1 }) (fun d => .count d key false true false none 0) s)

/-- What another device tells of a task of a launch of this device (R389). -/
def launchCounted (key : W64) (spawned ended exited : Bool) (fail : Option FailRec) (energy : W64) (s : State) : State :=
  let s := updLaunch key (addLaunchEnergy energy) s
  let s := if spawned then countSpawn key s else s
  let s := if exited || fail.isSome then countEnd key fail 0 s else s
  if ended then launchEnded key s else s

/-- The slot of an ended task or record is exited; its launch may be complete. -/
def slotEnded (num : Nat) (key : W64) (s : State) : State :=
  launchEnded key (updSlot num (fun x => { x with st := .exited }) s)

/-- Changes a record. -/
def updNest (num : Nat) (f : Nest → Nest) (s : State) : State :=
  { s with dist := { s.dist with nests := s.dist.nests.map fun n => if n.slot = num then f n else n } }

/-- Ends a record of which nothing is left: the successors that its last iteration has not signalled are, unless it failed (R35). Whether
it is over, or a signal must wait. -/
def closeNest (num : Nat) (s : State) : Bool × State :=
  match s.dist.nests.find? (·.slot == num), s.dist.slots.find? (·.num == num) with
  | some n, some x =>
    if !nestDone n then (true, s)
    else match signalSome (n.succs.getD (if n.failed then [] else pktSuccs x.packet)) s with
      | ([], s) => (true, slotEnded num x.info.launch { s with dist := { s.dist with nests := s.dist.nests.filter (·.slot != num) } })
      | (r, s) => (false, updNest num (fun n => { n with succs := some r }) s)
  | _, _ => (true, s)

/-- The record whose last iteration a run is: every other one has ended. -/
def lastIteration (s : State) (t : TaskRun) : Option Nest :=
  if t.idx.isEmpty then none
  else (slotOf s t.handle).bind fun x => (s.dist.nests.find? (·.slot == x.num)).filter fun n =>
    n.live == 1 && n.next == n.total && !n.failed && n.succs.isNone

/-- The successors that a TEXIT signals: the task's own, or of the last iteration those of its record (R35, R119). -/
def exitSuccs (s : State) (t : TaskRun) : List W64 :=
  if t.idx.isEmpty || (lastIteration s t).isSome then pktSuccs t.packet else []

/-- The last iteration of a record takes its signals over. -/
def takeSuccs (t : TaskRun) (s : State) : State :=
  match lastIteration s t with | some n => updNest n.slot (fun n => { n with succs := some [] }) s | none => s

/-- A task, or an iteration of a record, of a slot has ended: the slot is exited, or the walker goes on (R35). The distributor of
another device's slot is told (R114). -/
def slotDone (h : W64) (idx : List W64) (fail : Option FailRec) (s : State) : State :=
  match slotOf s h with
  | none => if bits h 63 54 = s.dev.val then s else send (.ended (bits h 63 54) h idx fail) s
  | some x =>
    if pktKind x.packet = 2 then
      raiseDue (.loopNestWalk x.num) (updNest x.num (fun n => { n with live := n.live - 1, failed := n.failed || fail.isSome }) s)
    else slotEnded x.num x.info.launch s

/-- A run of a task or iteration has ended: exited (none) or failed. -/
def taskEnded (t : TaskRun) (fail : Option FailRec) (energy : W64) (s : State) : State :=
  slotDone t.handle t.idx fail (countEnd t.info.launch fail energy s)

end Sys2Proof.Machine
end

