-- ==== Sys2Proof/Machine/Runs.lean ====
section
/-! DEFINITION. The runs of tasks: the context a task starts with (R31 to R33), the two banks of a core (R25 to R28),
save images (R340 to R343), and every way a run ends: exit, failure (R332), kill and re-enqueueing (R345, R352,
R353), divergence (R74); with quarantine (R359) and power-gating (R117). -/

namespace Sys2Proof.Machine

/-! ## Where a context is -/

/-- A bank of a core, or a save image. -/
inductive Loc where
  | bank (core : Nat) (active : Bool)
  | image (id : Nat)
  deriving DecidableEq, Repr

/-- The context at a place. -/
def ctxAt (s : State) : Loc → Option Ctx
  | .bank n true => some (coreOf s n).1
  | .bank n false => (coreOf s n).2.standby
  | .image i => (s.dist.images.find? (·.id == i)).map (·.ctx)

/-- Every place that holds a task. -/
def locsOf (s : State) : List Loc :=
  (banks s).map (fun b => .bank b.1 b.2.1) ++ s.dist.images.map (fun i => .image i.id)

/-- Every place whose task a test accepts. -/
def locsWhere (s : State) (p : TaskRun → Bool) : List Loc :=
  (locsOf s).filter fun l => match ctxAt s l with | some c => (match c.task with | some t => p t | none => false) | none => false

/-- Changes the context at a place. -/
def updLoc (l : Loc) (f : Ctx → Ctx) (s : State) : State :=
  match l with
  | .bank n true => let (c, k) := coreOf s n; setCore s n (f c, k)
  | .bank n false => let (c, k) := coreOf s n; setCore s n (c, { k with standby := k.standby.map f })
  | .image i => { s with dist := { s.dist with images := s.dist.images.map fun x =>
      if x.id = i then { x with ctx := f x.ctx } else x } }

/-! ## Leases (R123, R125): release only; requests and grants are the matrix family's -/

/-- The density at which the operation that runs on an array issues (R132). -/
def ArrayQ.rate (a : ArrayQ) : Nat := Nat.min a.density (8 - a.step)

/-- Issue clocks that pass before a clock, `e` of every aligned 8 being usable (R132). -/
def slotsUntil (e t : Nat) : Nat := t / 8 * e + Nat.min (t % 8) e

/-- Clocks in which `n` issue clocks pass from clock `t` on, `e` of every aligned 8 being usable (R130, R132). -/
def slotClocks (t n e : Nat) : Nat :=
  let first := e - t % 8
  if n ≤ first then n
  else
    let k := n - first - 1
    (8 - t % 8) + k / e * 8 + k % e + 1

/-- The issue clocks that the running operation of an array still needs. -/
def ArrayQ.left (a : ArrayQ) (now : Nat) : Nat := a.slots - (slotsUntil a.rate now - slotsUntil a.rate a.from_)

/-- An array takes a density: the operation that runs goes on with it from now (R132). -/
def ArrayQ.setDensity (now d : Nat) (a : ArrayQ) : ArrayQ :=
  if a.busy ≤ now then { a with density := d }
  else
    let n := a.left now
    let b := { a with density := d, slots := n, from_ := now }
    { b with busy := now + slotClocks now n b.rate }

/-- Ends the lease that a bank of a core holds; a gang's lease ends for its four cores. Where it is asked for again at once, its holder
stays the one that asks last (R125, R267). -/
def endLease (core : Nat) (s : State) : State :=
  let q := quadOf core
  let gang := match s.arrays[q]? with | some a => a.gang | none => false
  let f (c : Ctx) : Ctx :=
    if c.lease.held then { c with lease := { c.lease with held := false, holder := c.lease.holder && c.lease.waiting, mmas := 0, fresh := false } } else c
  let cores := if gang then (List.range 4).map (4 * q + ·) else [core]
  let s := cores.foldl (fun s n => let (c, k) := coreOf s n; setCore s n (f c, { k with standby := k.standby.map f })) s
  let s := { s with arrays := match s.arrays[q]? with
    | some a => s.arrays.set! q { a with holder := none, gang := false } | none => s.arrays }
  raiseDue (.leaseGrant q) s

/-- A context leaves its core: its lease ends unless it keeps it (R28). -/
def leaveLease (core : Nat) (c : Ctx) (keep : Bool) (s : State) : State :=
  if c.lease.held ∧ !keep then endLease core s else s

/-! ## Barriers (R11, R87) -/

/-- Who takes part in a barrier: handle, loop indices, member of a pair. -/
abbrev TaskId := W64 × List W64 × Option Bool

/-- The identity of a run. -/
def taskId (t : TaskRun) : TaskId := (t.handle, t.idx, t.pair.map (·.2))

/-- The other devices of a .pod barrier hear that every participant here has arrived, or that this holds no longer (R10, R87). -/
def tellPod (b : Barrier) (all : Bool) (s : State) : State :=
  let s := b.others.foldl (fun s d => send (.words 7 d [b.id, if all then 1 else 0]) s) s
  { s with dist := { s.dist with barriers := s.dist.barriers.map fun x => if x.k = b.k then { x with sent := all } else x } }

/-- A barrier whose participants have all arrived is due to complete; one of a .pod scope with other devices completes when the
switches say so (R10). -/
def barrierCheck (s : State) : State :=
  s.dist.barriers.foldl (fun s b =>
    if b.members.all b.arrived.contains then
      (if b.others.isEmpty then raiseDue (.barrierComplete b.k) s else if b.sent then s else tellPod b true s)
    else if b.sent then tellPod b false s else s) s

/-- A task that ends leaves every participant set. -/
def leaveBarriers (t : TaskRun) (s : State) : State :=
  let out (l : List TaskId) := l.filter (· != taskId t)
  let bs := s.dist.barriers.map fun b => { b with members := out b.members, arrived := out b.arrived }
  barrierCheck { s with dist := { s.dist with barriers := bs.filter fun b => !b.members.isEmpty || !b.others.isEmpty } }

/-- A waiting arrival is withdrawn (R215). -/
def withdrawArrival (t : TaskRun) (s : State) : State :=
  barrierCheck { s with dist := { s.dist with barriers := s.dist.barriers.map fun b =>
    { b with arrived := b.arrived.filter (· != taskId t) } } }

/-! ## Starting a task (R31, R33, R330, R331) -/

/-- S registers at a task's start. -/
def startRegs (w : Waiting) : Vector W64 32 :=
  Vector.ofFn fun i =>
    let k := i.val
    if 28 ≤ k ∧ !w.idx.isEmpty then w.idx.getD (k - 28) 0
    else if 1 ≤ k ∧ k ≤ pktNpay w.packet then (pktPayload w.packet).getD (k - 1) 0 else 0

/-- The context at a task's first instruction. -/
def startCtx (s : State) (w : Waiting) : Ctx :=
  { s := startRegs w
    cfg := { key := w.info.key, ctr := (w.packet.getD 1 0).setWidth 128 }
    pc := pktEntry w.packet
    npc := pktEntry w.packet
    pr := { priv := w.info.asid == 0, asid := w.info.asid
            tvec := match bindOf s.xl w.info.asid with | some b => b.tvec | none => 0 }
    fl := { since := s.mem.wlog.length }
    task := some { handle := w.handle, packet := w.packet, info := w.info, idx := w.idx, kind := w.kind
                   recov := if w.kind = .recovery then (recTaskOf s w.prior).map (·.id) else none
                   since := w.since, prior := w.prior } }

/-- The waiting entry of a task, with its age (R127). -/
def waitingOf (t : TaskRun) (img : Option Nat) : Waiting :=
  { handle := t.handle, packet := t.packet, info := t.info, idx := t.idx, kind := t.kind, since := t.since, image := img, prior := t.prior }

/-! ## Banks (R25 to R27) -/

/-- The other member of a pair, if it still runs. -/
def partnerLoc (s : State) (t : TaskRun) : Option Loc :=
  match t.pair with
  | none => none
  | some (_, low) => (locsWhere s fun u => u.handle == t.handle && u.pair.map (·.2) == some (!low)).head?

/-- Whether what a switched-out control engine waits for has come (R119, R311, R315). -/
def waitOver (s : State) (c : Ctx) : Bool :=
  match c.fl.wait with
  | .treadv h => match recOf s h with | some r => r.st.avail || r.st == .failed | none => true
  | .trepl h => match recOf s h with | some r => r.st == .replica || r.st == .failed | none => true
  | .shard u => s.lin.remote.any (·.1 == u)
  | .early h => (signalHere h s).isSome
  | .cwait g n => match s.fab.members.find? (·.g.val == g) with
    | some m => m.gap || m.starved || (if m.joining then !m.frozen else m.upto.isNone && seqLe (BitVec.ofNat 32 n) m.applied)
    | none => true
  | _ => true

/-- Whether a context can run if it becomes active: its page fault, if any, has been answered, or else what it waits for
has come, and so has the answer to the fault of the other member of its pair (R27, R315, R349). -/
def resumable (s : State) (c : Ctx) : Bool :=
  let open_ (c : Ctx) : Bool := match c.fl.pf with | some p => p.answer.isNone | none => false
  let other : Option Ctx := (c.task.bind (partnerLoc s)).bind (ctxAt s)
  !open_ c && (c.fl.pf.isSome || waitOver s c) && !other.any open_

/-- Whether a bank holds a task that waits there to be selected (R26). -/
def preloaded (c : Ctx) : Bool := match c.task with | some t => t.started.isNone || t.preload | none => false

/-- A context returns to the active bank: its snapshot is refreshed (R90), what it drained is in architectural state (R27), an answer
RETRY releases its word. -/
def resumeCtx (s : State) (c : Ctx) : Ctx :=
  let c := refresh c s.mem
  let c := { c with fl := { c.fl with shadow := [] } }
  match c.fl.pf with
  | some p => if p.answer == some .retry then { c with fl := { c.fl with pf := none } } else c
  | none => c

/-- Exchanges the banks of a core; a core has one empty standby bank or none. -/
def switchBanks (core : Nat) (s : State) : State :=
  let (c, k) := coreOf s core
  let old := if c.task.isSome then some c else none
  match k.standby with
  | some d => setCore s core (resumeCtx s d, { k with standby := old, bank := !k.bank })
  | none => setCore s core ({}, { k with standby := old, bank := if old.isSome then !k.bank else k.bank })

/-- After the active bank has emptied: a faulted context whose fault is answered comes back (R27). -/
def promote (core : Nat) (s : State) : State :=
  let (c, k) := coreOf s core
  match k.standby with
  | some d => if c.task.isNone && resumable s d && !preloaded d then switchBanks core s else s
  | none => s

/-- Whether a bank of a core is out of service (R359). -/
def bankOut (s : State) (core : Nat) (b : Bool) : Bool :=
  quarantined s (unitId (dieOf core) (core % 96 / 4) (core % 4) 9 + (if b then 4 else 0))

/-- A core whose active bank is empty and out of service goes on in its other bank, with what that holds (R359). -/
def leaveBank (core : Nat) (s : State) : State :=
  let (c, k) := coreOf s core
  if c.task.isNone && bankOut s core k.bank && !bankOut s core (!k.bank) then
    setCore s core (k.standby.getD {}, { k with standby := none, bank := !k.bank })
  else s

/-- Takes the context out of a place. A pre-emption that was requested of it is satisfied (R339). -/
def emptyLoc (l : Loc) (s : State) : State :=
  match l with
  | .bank n true =>
    let (c, k) := coreOf s n
    leaveBank n (promote n (setCore s n ({}, { k with lastAsid := if c.task.isSome then some c.pr.asid else k.lastAsid, preempt := false, toPool := false })))
  | .bank n false => let (c, k) := coreOf s n; setCore s n (c, { k with standby := none })
  | .image i => { s with dist := { s.dist with images := s.dist.images.filter (·.id != i) } }

/-! ## Ends (R329, R332, R345, R352, R353) -/

/-- Storage that a run used on other devices beside its versions' own goes back. -/
def freeBuffers (t : TaskRun) (s : State) : State :=
  t.buffers.foldl (fun s b => if b.2.1.dev = s.dev then s else send (.shard b.2.1.dev.val 0 (.giveBack b.1)) s) s

/-- A page fault is waited for no longer: its waiter leaves the fault processor's lists here (R418). -/
def forgetFault (p : PFault) (s : State) : State :=
  { s with xl := { s.xl with waiters := s.xl.waiters.map fun w => { w with who := w.who.filter (· != (s.dev.val, p.uid)) } } }

/-- The accesses to other devices and hosts that a context leaves behind unanswered: what they were translated by is not given up before
they have been performed (R416, R421). -/
def orphanAccesses (c : Ctx) (s : State) : State :=
  let tags := c.fl.unacked.map (·.tag) ++ (c.fl.loads.filter fun l => l.got.isNone && l.tag != 0).map (·.tag)
    ++ (c.fl.reqs.filter (·.err.isNone)).map (·.tag)
  { s with xl := { s.xl with orphans := tags.map (c.pr.asid, ·) ++ s.xl.orphans } }

/-- What every end does for the run at a place: lease, barrier, fault waiters, storage, accesses in flight; the bank is emptied. -/
def dropRun (l : Loc) (s : State) : State :=
  match ctxAt s l with
  | none => s
  | some c =>
    let s := match l with | .bank n _ => leaveLease n c false s | .image _ => s
    let s := match c.task with | some t => freeBuffers t (leaveBarriers t s) | none => s
    let s := match c.fl.pf with | some p => forgetFault p s | none => s
    emptyLoc l (orphanAccesses c s)

/-- What a run and the instances before it did, the longer of two where both did something; of the signals to one handle the greater
number (R345). -/
def joinActs (old new : Actions) : Actions :=
  { allocs := new.allocs ++ old.allocs.drop new.allocs.length, spawns := new.spawns ++ old.spawns.drop new.spawns.length
    ress := new.ress ++ old.ress.drop new.ress.length
    seals := new.seals ++ old.seals.filter (!new.seals.contains ·)
    sigs := new.sigs ++ old.sigs.diff new.sigs
    pool := new.pool.or old.pool }

/-- The other member's task of a pair. -/
def partnerTask (s : State) (t : TaskRun) : Option TaskRun := ((partnerLoc s t).bind (ctxAt s)).bind (·.task)

/-- What a task has done so far: this run, the instances before it, the other member of its pair (R345, R347). -/
def actsOf (s : State) (t : TaskRun) : Actions :=
  let own := joinActs t.prior t.acts
  match partnerTask s t with | some u => joinActs u.acts own | none => joinActs t.gone own

/-- PENDING versions that a run, or the other member of its pair, allocated or inherited. -/
def pendingOf (s : State) (t : TaskRun) : List W64 :=
  (actsOf s t).allocs.filter fun v => match recOf s v with
    | some r => r.st == .pending
    | none => match farOf s v with | some x => !x.done | none => false

/-- ENERGY of a recovery run goes to the device's counter (R49, RECEN). -/
def creditRecovery (e : W64) (s : State) : State := { s with mmio := { s.mmio with recen := s.mmio.recen + e } }

/-- The places of a run and of the other member of its pair. -/
def memberLocs (s : State) (l : Loc) (t : TaskRun) : List Loc := l :: (partnerLoc s t).toList

/-- Both members of a pair, or the one run, leave their banks; their energy is credited (R49, R353). -/
def dropMembers (l : Loc) (t : TaskRun) (s : State) : State :=
  (memberLocs s l t).foldl (fun s m =>
    let e := match ctxAt s m with | some c => c.energy | none => 0
    dropRun m (if t.kind = .recovery then creditRecovery e s else countEnergy t.info.launch e s)) s

/-- A task of this device that is to run again waits until the versions that it inherits have storage (R72); it is kept off the quads
in `avoid` (R74, R351). -/
def takeBack (w : Waiting) (avoid : List Nat) (s : State) : State :=
  let s := match slotOf s w.handle with
    | some x => updSlot x.num (fun y => { y with st := if pktKind y.packet = 2 then y.st else .ready }) s
    | none => s
  { s with dist := { s.dist with parked := (w, avoid, s.clock) :: s.dist.parked } }

/-- A fresh run of the packet, with its age, goes to the owner end of its owner distributor's queue (R345). -/
def reenqueue (t : TaskRun) (acts : Actions) (avoid : List Nat) (s : State) : State :=
  let w : Waiting := { waitingOf t none with kind := .requeued, prior := acts }
  if bits t.handle 63 54 ≠ s.dev.val then send (.back (bits t.handle 63 54) w avoid) s else takeBack w avoid s

/-- The quads of a run of a divergence, of both members of a pair. -/
def runQuads (r : DivRun) : List Nat := r.quad :: (r.other.map (·.1)).toList

/-- The quad numbers that a waiting task must not run on (R74, R351). -/
def avoidOf (s : State) (w : Waiting) : List Nat :=
  if w.kind = .recovery then
    match recTaskOf s w.prior with | some q => q.runs.flatMap runQuads | none => []
  else ((s.dist.avoid.find? (·.1 == w.handle)).map Prod.snd).getD []

/-- The shard that owns a recovery run of this device hears how it ended: 0 exited, 1 diverged, 2 killed. -/
def tellOwner (t : TaskRun) (kind : Nat) (ds : List (W64 × W64)) (s : State) : State :=
  match t.prior.pool with
  | some (d, i) => if d = s.dev then s else send (.shard d.val 0 (.ranRec i kind ds)) s
  | none => s

/-- The failure record of a kill. -/
def killRec (t : TaskRun) (cause : BitVec 8) (unit : BitVec 16) : FailRec := { ftask := t.handle, cause := cause, unit := unit }

/-- What becomes of a task whose run has been killed (R352 step 3): a recovery task is enqueued again (R70), a replayable task is
re-enqueued, one that had exited but for its signals ends, any other fails with its PENDING versions. -/
def redo (t : TaskRun) (acts : Actions) (pend : List W64) (avoid : List Nat) (f : FailRec) (s : State) : State :=
  if t.kind = .recovery then
    tellOwner t 2 [] (match t.recov with | some id => requeueRec id s | none => s)
  else match t.exiting with
  | some hs => taskEnded t none 0 (hs.foldl (fun s h => if bits h 63 54 = s.dev.val then raiseDue (.signalArrival s.dev 0 h) s
      else send (.signal (bits h 63 54) 0 h) s) s)
  | none =>
    if replayPkt t.packet then reenqueue t acts avoid s
    else taskEnded t (some f) 0 (pend.foldl (fun s v => failVersion v s) s)

/-- A kill (R352, R353): the members leave; `mid` is what the kill's cause does before the task is placed again or fails. -/
def killWith (l : Loc) (avoid : List Nat) (f : FailRec) (mid : State → State) (s : State) : State :=
  match (ctxAt s l).bind (·.task) with
  | none => mid s
  | some t =>
    let acts := actsOf s t
    let pend := pendingOf s t
    feed (settle (redo t acts pend avoid f (mid (dropMembers l t s))))

/-- A kill with nothing between. -/
def killRun (l : Loc) (avoid : List Nat) (f : FailRec) (s : State) : State := killWith l avoid f id s

/-- Lost storage of versions that a queued instance inherits is chosen again (R72, R345): the instance waits for it. -/
def repark (v : W64) (s : State) : State :=
  let hit (w : Waiting) : Bool := w.kind == .requeued && w.prior.allocs.contains v
  let ws := ((allEntries s).filter fun e => e.cust == .inDeque && hit e.w).map (·.w) ++ s.dist.queue.filter hit
  match ws with
  | [] => s
  | w :: _ =>
    let s := purgeWaiting (fun x => x != w) s
    { s with dist := { s.dist with parked := (w, avoidOf s w, s.clock) :: s.dist.parked } }

/-- A run is killed because the storage that it writes was lost. -/
def killStarved (l : Loc) (s : State) : State :=
  match (ctxAt s l).bind (·.task) with
  | some t => killRun l [] (killRec t cKILLED 0) s
  | none => s

/-- New storage of a recovery task was lost (R70): its run is killed, here or on the device that runs it; a task that waits is enqueued
afresh; one that is on its way between cores finds new storage at its TNEWV. -/
def killRecovery (q : RecTask) (v : W64) (s : State) : State :=
  match (locsWhere s fun t => t.recov == some q.id).head?, q.runner with
  | some l, _ => killStarved l s
  | none, some d => send (.loss d.val v true false) s
  | none, none => if q.queued && !stillQueued s q then (placeOuts [v] s).2 else requeueRec q.id s

/-- The instance that writes a version whose bytes were lost is killed (R44, R70): a run here, one that has not come to its TNEWV of it
again too; a recovery task's; the device of another producer is told; an instance that is queued again gets new storage. -/
def killWriter (v : W64) (s : State) : State :=
  let writer := (locsWhere s fun t => t.acts.allocs.contains v || t.prior.allocs.contains v).head?
  match recOf s v, writer with
  | some r, _ =>
    if r.st = .recovering then
      if r.pkdev ≠ s.dev then setVState v .lost s
      else match s.lin.rtasks.find? (·.outs.contains v) with
        | some q => killRecovery q v s
        | none => s
    else match writer with
      | some l => killStarved l s
      | none =>
        if r.owner = s.dev then repark v s
        else if devLost s r.owner.val then s
        else send (.loss r.owner.val v true false) s
  | none, some l => killStarved l s
  | none, none => s

/-- The writers of versions whose bytes were lost are killed. -/
def killProducers (ts : List W64) (s : State) : State := feed (settle (ts.foldl (fun s v => killWriter v s) s))

/-- A task fails (R332): its PENDING versions become FAILED, no successor is signalled, the launch records it; both members of a pair
fail together. A recovery run that fails has diverged (R73, `endRecovery`). -/
def failTask (l : Loc) (t : TaskRun) (f : FailRec) (s : State) : State :=
  let pend := pendingOf s t
  let s := dropMembers l t s
  feed (settle (taskEnded t (some f) 0 (pend.foldl (fun s v => failVersion v s) s)))

/-! ## Losses (R44, R61, R444) -/

/-- Packet-pool entries are lost with the memory that held them (R53). -/
def losePool (on : Place → Bool) (s : State) : State :=
  { s with lin := { s.lin with pool := s.lin.pool.map fun e => if on (poolPlace s e.ix) then { e with lost := true } else e } }

/-- Bytes of this device are lost: the versions there are marked and recovery starts (R61, R64); other shards hear of theirs. -/
def loseBytes (a n : Nat) (s : State) : State :=
  let s := losePool (fun p => p.addr.toNat < a + n && a < p.addr.toNat + 256) s
  let (s, ks) := loseAll (versionsAt s a n) s
  killProducers ks (loseLent (fun x => x.place.addr.toNat < a + n && a < x.place.addr.toNat + x.size) s)

/-- A 64-byte block turns out to be unreadable (R444): poisoned, an event of the unit that holds it, the versions there marked. -/
def poisonBlock (unit : BitVec 16) (pa : Nat) (s : State) : State :=
  if s.mem.poison.contains (pa / 64) then s
  else
    let hit := !(versionsAt s (pa / 64 * 64) 64).isEmpty
    let s := { s with mem := { s.mem with poison := pa / 64 :: s.mem.poison } }
    let s := event 2 2 unit (BitVec.ofNat 64 (pa / 64 * 64)) (if hit then 2 else 0) s
    loseBytes (pa / 64 * 64) 64 s

/-- The ranges of the storage of versions, replicas and lent storage on this device that a test of its place accepts. -/
def storedOn (on : Place → Bool) (s : State) : List (Nat × Nat) :=
  let at_ (p : Place) (n : Nat) : List (Nat × Nat) := if p.dev == s.dev && on p then [(p.addr.toNat, n)] else []
  s.lin.recs.flatMap (fun r => at_ r.place r.size ++ (match r.rep with | some p => at_ p r.size | none => []))
    ++ (liveRuns s).flatMap (fun t => t.buffers.flatMap fun b => at_ b.2.1 b.2.2) ++ s.lin.lent.flatMap fun x => at_ x.place x.size

/-- Storage that a test of its place accepts is lost: its bytes can be read no more (R71), the versions are marked (R61). -/
def loseStorage (on : Place → Bool) (s : State) : State :=
  let here (p : Place) : Bool := p.dev == s.dev && on p
  let lost := s.lin.recs.filterMap fun r =>
    let x := here r.place; let y := match r.rep with | some p => here p | none => false
    if x || y then some (r.tile, x, y) else none
  let s := losePool on { s with mem := { s.mem with gone := storedOn on s ++ s.mem.gone } }
  let (s, ks) := loseAll lost s
  killProducers ks (loseLent (fun x => here x.place) s)

/-! ## Save images (R342, R343) -/

/-- Save slots that are free: one for each core is kept in reserve, and a slot that returns refills an emptied reserve first
(R343), so an image in a reserve slot counts as any other. -/
def freeSaveSlots (s : State) : Nat :=
  s.dist.saveSlots - 384 - (s.dist.images.filter fun i => !i.held).length

/-- The address of a save slot that no image uses. -/
def saveAddr (s : State) : Nat :=
  let used := s.dist.images.map (·.addr)
  (((List.range (used.length + 1)).map fun i => savePoolBase s + i * 2 ^ 22).find? (!used.contains ·)).getD 0

/-- The bytes of a task's scratchpad part on a core. -/
def spadBytes (s : State) (core spad : Nat) : List Host.Cell :=
  let (lo, hi) := spadPart spad
  (s.mem.cells.filter fun c => spadBase core + lo ≤ c.1 && c.1 < spadBase core + hi).map fun c =>
    (c.1 - spadBase core, c.2)

/-- A single MMA (R275). -/
def singleMma : Instr → Bool
  | .mma _ _ _ _ _ _ => true
  | _ => false

/-- The issue clocks that a context's running MMA still needs (R275). -/
def slotsLeft (s : State) (core : Nat) : Nat := match s.arrays[quadOf core]? with | some a => a.left s.clock | none => 0

/-- The array of a context whose MMA is frozen runs nothing more (R275). -/
def freeArray (core : Nat) (c : Ctx) (s : State) : State :=
  if c.fl.pend.any fun e => singleMma e.ins && e.issued then
    match s.arrays[quadOf core]? with
    | some a => { s with arrays := s.arrays.set! (quadOf core) { a with busy := Nat.min a.busy s.clock, slots := 0 } }
    | none => s
  else s

/-- What stays of a withdrawn wait: a request that has been sent to another device is not sent again. -/
def sentWait (w : Wait) : Wait := match w with | .shard u => .shard u | _ => .none

/-- What a pre-emption makes of a bank (R341): waiting words and reads in flight are withdrawn, to be issued again; an FREL is
issued again, save a request to another device that has been sent, whose answer is awaited again; a single MMA is frozen with the
issue clocks that it still needs (R275). -/
def haltCtx (left : Nat) (c : Ctx) : Ctx :=
  { c with fl := { c.fl with wait := sentWait c.fl.wait, reqs := [], shadow := [], pf := none
                             loads := c.fl.loads.map fun l => if plainLoad l.ins then { l with got := none, tag := 0 } else l
                             pend := c.fl.pend.map fun e =>
                               if e.ins = .frel then { e with done := 0, issued := false }
                               else if singleMma e.ins && e.issued then { e with issued := false, ends := Nat.max 1 left }
                               else e },
           lease := { c.lease with waiting := false, holder := false } }

/-- Writes the image of a context to a slot, under the key of the pools; its first 16 bits carry the format version (log 16). -/
def writeImage (s : State) (c : Ctx) (core addr : Nat) (held : Bool) : Nat × State :=
  let left := slotsLeft s core
  let s := freeArray core c s
  let (id, s) := takeUid s
  let s := { s with mem := s.mem.write (poolKey s addr) addr (bytesOf 2 s.imgver.toNat) }
  (id, { s with dist := { s.dist with images :=
    ⟨id, addr, haltCtx left c, spadBytes s core (ctxSpad c), core, held⟩ :: s.dist.images } })

/-- Whether a slot's bytes carry the format version that this device knows (R344). -/
def versionKnown (s : State) (addr : Nat) : Bool := natOf (s.mem.read (poolKey s addr) addr 2) == s.imgver.toNat

/-- Takes a running context off its core into an image (R340 steps 1 to 5): its waiting entry, and the state with
the bank empty. -/
def saveOff (l : Loc) (s : State) : Option (Waiting × State) :=
  match ctxAt s l, l with
  | some c, .bank n _ =>
    (match c.task with
     | some t =>
       let s := withdrawArrival t s
       let s := leaveLease n c false s
       let c := (ctxAt s l).getD c
       let (id, s) := writeImage s c n (saveAddr s) false
       some (waitingOf t (some id), emptyLoc l s)
     | none => none)
  | _, _ => none

/-- A preloaded task goes back to where it came from (R357), one with a restored image into an image again. -/
def unloadStandby (core : Nat) (s : State) : State :=
  let (_, k) := coreOf s core
  match k.standby with
  | some d =>
    if preloaded d then
      match d.task with
      | some t =>
        if t.started.isNone then pushDeque core (waitingOf t none) (emptyLoc (.bank core false) s)
        else
          let c := { d with task := some { t with preload := false } }
          let (id, s) := writeImage s c core (saveAddr s) false
          pushDeque core (waitingOf t (some id)) (emptyLoc (.bank core false) s)
      | none => s
    else s
  | none => s

/-- Pre-emption of the active context of a core (R340): to an image, and back to the owner end of the deque, or into the die pool for
TYIELD and QUAR (R328, R359). Both members of a pair go together (R348). -/
def preemptCore (core : Nat) (s : State) : State :=
  let pool := (coreOf s core).2.toPool
  let t := (coreOf s core).1.task
  match saveOff (.bank core true) s with
  | none => s
  | some (w, s) =>
    let s := match t.bind fun t => partnerLoc s t with
      | some (.bank m a) => (match saveOff (.bank m a) s with | some (_, s) => s | none => s)
      | _ => s
    if pool || coreOut s core then pushPool (dieOf core) { w := w } s else pushDeque core w s

/-! ## Quarantine and power-gating (R117, R359) -/

/-- Moves a core's deque, shadow entries included, into its die pool (R117). -/
def dequeToPool (core : Nat) (s : State) : State :=
  let (c, k) := coreOf s core
  k.deque.foldl (fun s e => pushPool (dieOf core) e s) (setCore s core (c, { k with deque := [] }))

/-- A pre-emption into the die pool is requested of a core's active context (R328, R340, R359). -/
def requestLeave (core : Nat) (s : State) : State :=
  let (c, k) := coreOf s core
  if c.task.isNone then s else setCore s core (c, { k with preempt := true, toPool := true })

/-- The count of instructions at which a context of a pair stands: those retired, with the routed word whose page fault it has taken
(R222, R348, R349). -/
def standsAt (c : Ctx) : Nat :=
  c.retired.toNat + (match c.fl.pf with | some p => (if p.quid.isSome then 1 else 0) | none => 0)

/-- The context in a core's standby bank leaves for the die pool (R359); a member of a pair leaves with the other one, once both stand at
one count (R348). -/
def vacateStandby (core : Nat) (s : State) : State :=
  match (coreOf s core).2.standby with
  | none => s
  | some c =>
    match c.task.bind (partnerLoc s) with
    | some (.bank m true) => requestLeave m s
    | some (.bank m false) =>
      if (ctxAt s (.bank m false)).map standsAt = some (standsAt c) then
        match saveOff (.bank core false) s with
        | some (w, s) => pushPool (dieOf core) { w := w } (match saveOff (.bank m false) s with | some (_, s) => s | none => s)
        | none => s
      else s
    | _ => match saveOff (.bank core false) s with
      | some (w, s) => pushPool (dieOf core) { w := w } s
      | none => s

/-- A core leaves service: its contexts are pre-empted into the die pool, the active one when it halts (R340), its deque moves
there, and a thief's copies are discarded (R116, R359). -/
def vacate (core : Nat) (s : State) : State :=
  let s := requestLeave core (vacateStandby core (dequeToPool core (unloadStandby core s)))
  let (c, k) := coreOf s core
  setCore s core (c, { k with stolen := [] })

/-- The physical cores that a unit's quarantine takes out of service (R359). -/
def coresOfUnit (u : BitVec 16) : List Nat :=
  let v := u.toNat
  let d := v / 2 ^ 14; let q := v / 2 ^ 9 % 32; let c := v / 2 ^ 7 % 4; let k := v / 8 % 16
  if k = 2 then (List.range 4).map (96 * d + 4 * q + ·)
  else if k = 10 then (List.range 96).map (96 * d + ·)
  else if k = 9 ∨ k = 11 then [] else [96 * d + 4 * q + c]

/-- The cores of a list that are not at their start values. -/
def liveOf (s : State) (l : List Nat) : List Nat := l.filter (liveCores s).contains

/-- R38: whether a unit ID names something. -/
def unitOk (u : BitVec 16) : Bool :=
  let v := u.toNat
  let q := v / 2 ^ 9 % 32; let c := v / 2 ^ 7 % 4; let k := v / 8 % 16; let r := v % 8
  if k = 9 then q ≤ 23 && (r == 0 || r == 4)
  else r == 0 && (if k = 10 then q == 31 && c == 0 else if k = 11 then q == 31 && c ≤ 1
    else if k = 2 then q ≤ 23 && c == 0 else k ≤ 8 && q ≤ 23)

/-- A unit is out of service: nothing chooses it from now on. QUARN counts the units quarantined since the cold reset, each once (R439). -/
def outOfService (u : BitVec 16) (s : State) : State :=
  let us := s.mmio.quarUnits
  { s with quar := u :: s.quar, mmio := { s.mmio with quarUnits := if us.contains u then us else u :: us } }

/-- Ready tasks in the pool of a die out of service move to the master distributor's queue (R359); shadow entries stay in custody. -/
def flushPool (die : Nat) (s : State) : State :=
  let p := (s.dist.pools[die]?).getD []
  (p.filter (·.cust == .inDeque)).foldl (fun s e => pushQueue e.w s)
    { s with dist := { s.dist with pools := s.dist.pools.set! die (p.filter (·.cust != .inDeque)) } }

/-- What a unit's leaving service does (R359). -/
def clearUnit (u : BitVec 16) (s : State) : State :=
  let v := u.toNat
  let k := v / 8 % 16
  let out := coresOfUnit u
  let s := (liveOf s out).foldl (fun s n => vacate n s) s
  if k = 9 then
    let n := 96 * (v / 2 ^ 14) + 4 * (v / 2 ^ 9 % 32) + v / 2 ^ 7 % 4
    if coreOut s n then vacate n s
    else
      let s := unloadStandby n s
      if (coreOf s n).2.bank == (v / 4 % 2 == 1) then leaveBank n (requestLeave n s) else vacateStandby n s
  else if k = 10 then flushPool (v / 2 ^ 14) s
  else if k = 11 then
    loseStorage (fun p => p.ty == .hbm && p.die.val == v / 2 ^ 14
      && (Config.stackOfDie p.addr.toNat).val == v / 2 ^ 7 % 4) s
  else s

/-- A pinned logical core that loses its core to some units raises a placement event (R122). -/
def placementEvents (us : List (BitVec 16)) (s : State) : State :=
  let out := us.flatMap coresOfUnit
  if out.isEmpty then s
  else (List.range 384).foldl (fun s n =>
    match s.mmio.coreMap[n]? with
    | some p => if out.contains p.toNat then event 6 1 wholeDevice (BitVec.ofNat 64 n) 0 s else s
    | none => s) s

/-- Takes a unit out of service; its placement events are the caller's, who has an event of its own to put before them (R438). -/
def quarantineQuiet (u : BitVec 16) (s : State) : State := if quarantined s u then s else clearUnit u (outOfService u s)

/-- The units of a list that are in service. -/
def inService (s : State) (us : List (BitVec 16)) : List (BitVec 16) := us.filter (!quarantined s ·)

/-- Takes a unit out of service (R359), with the events of the table: `note` makes those of the unit itself, which come before those of the
whole device (R438). -/
def quarantineWith (u : BitVec 16) (note : State → State) (s : State) : State :=
  placementEvents (inService s [u]) (note (quarantineQuiet u s))

/-- Takes a unit out of service, with no event of its own. -/
def quarantine (u : BitVec 16) (s : State) : State := quarantineWith u id s

/-- Returns a unit to service. -/
def unquarantine (u : BitVec 16) (s : State) : State :=
  if quarantined s u then
    { s with quar := s.quar.filter (· != u) }
  else s

/-! ## The silent-error path (R74, R351, R352) -/

/-- The bytes of some versions are lost: they are marked under R44, those of other shards by their shards (R61). -/
def loseTiles (ts : List W64) (s : State) : State :=
  let s := (ts.filter (!servesShard s ·)).foldl (fun s t => match shardDev s t with
    | some d => send (.loss d t true false) s | none => s) s
  let (s, ks) := loseAll (ts.map fun t => (t, true, false)) s
  killProducers ks s

/-- The versions of a quad's suspect ring are lost, and the ring is empty (R62). -/
def markRing (q : Nat) (s : State) : State :=
  match s.arrays[q]? with
  | none => s
  | some a => loseTiles a.ring { s with arrays := s.arrays.set! q { a with ring := [] } }

/-- A check passes on a quad's array (R62): its ring is emptied, and no task counts as having used it since. -/
def passCheck (q : Nat) (s : State) : State :=
  let f (c : Ctx) : Ctx := { c with task := c.task.map fun t => { t with mmaOn := t.mmaOn.filter (· != q) } }
  let s := mapBanks f { s with arrays := match s.arrays[q]? with
    | some a => s.arrays.set! q { a with ring := [] } | none => s.arrays }
  { s with dist := { s.dist with images := s.dist.images.map fun i => { i with ctx := f i.ctx } } }

/-- A core's unit of a kind. -/
def coreUnit (n kind : Nat) : BitVec 16 := unitId (dieOf n) (n % 96 / 4) (if kind = 2 then 0 else n % 4) kind

/-- The swatch set on a core's control and vector engines and its quad's array (R351). An array that passes empties its ring, one that
fails has it marked (R61, R62). -/
def swatch (n : Nat) (s : State) : State :=
  if s.broken.contains (coreUnit n 2) then markRing (quadOf n) s else passCheck (quadOf n) s

/-- Puts a unit before those of higher number. -/
def insertUnit (u : BitVec 16) : List (BitVec 16) → List (BitVec 16)
  | [] => [u]
  | v :: l => if u = v then v :: l else if u.toNat < v.toNat then u :: v :: l else v :: insertUnit u l

/-- The units of the swatch set on some cores that fail it, lowest first. -/
def failingUnits (s : State) (cores : List Nat) : List (BitVec 16) :=
  (cores.flatMap fun n => ([0, 1, 2].map (coreUnit n)).filter s.broken.contains).foldr insertUnit []

/-- The device event that marks two cores suspect (R351), or one (R74: both fields then name it). -/
def suspectEvent (a b : Nat) (s : State) : State :=
  event 1 4 wholeDevice (BitVec.ofNat 64 ((coreUnit a 0).toNat * 2 ^ 16 + (coreUnit b 0).toNat)) 0 s

/-- A core is marked suspect. -/
def markSuspect (s : State) (n : Nat) : State := let (c, k) := coreOf s n; setCore s n (c, { k with suspect := true })

/-- Units that a test found failing, each with its event, lowest first; then the placement events of those that were in service before
(R352 step 4, R438). -/
def reportUnits (us : List (BitVec 16)) (cause id : W64) (before s : State) : State :=
  placementEvents (inService before us) (us.foldl (fun s u => event 1 1 u cause id s) s)

/-- The cores of this device that made some runs of a divergence. A run of another device is not this device's to test. -/
def coresOfRuns (runs : List DivRun) : List Nat :=
  ((runs.flatMap fun r => r.core :: (r.other.map (·.2)).toList).filter (· < 384)).eraseDups

/-- The cores of a list none of whose units fails, and that are not marked suspect yet. -/
def newSuspects (s : State) (cores : List Nat) : List Nat :=
  cores.filter fun n => (failingUnits s [n]).isEmpty && !(coreOf s n).2.suspect

/-- The units of some cores are tested (R74, R352 step 2): what fails is quarantined, a core none of whose units fails is marked
suspect. -/
def testCores (cores : List Nat) (s : State) : State :=
  let t := (newSuspects s cores).foldl markSuspect (cores.foldl (fun s n => swatch n s) s)
  (failingUnits s cores).foldl (fun s u => quarantineQuiet u s) t

/-- The events of that test (R352 step 4). -/
def reportTest (cores : List Nat) (id : W64) (before s : State) : State :=
  let s := (failingUnits before cores).foldl (fun s u => event 1 1 u 0x10 id s) s
  let s := (newSuspects before cores).foldl (fun s n => suspectEvent n n s) s
  placementEvents (inService before (failingUnits before cores)) s

/-- LAUNCHID of the launch whose task a recovery task runs again. -/
def recLaunch (s : State) (q : RecTask) : W64 := ((s.lin.pool.find? (·.ix == q.pool)).map (·.info.id)).getD 0

/-- A task that a divergence has shown to be non-deterministic (R74): the recovery task's RECOVERING outputs become FAILED. -/
def nonDeterministic (q : RecTask) (s : State) : State :=
  let s := dropTask q (event 3 3 wholeDevice q.producer (match q.outs with | o :: _ => o | [] => 0) s)
  let s := q.outs.foldl (fun s v => match recOf s v with
    | some r => if r.st = .recovering then failVersion v s else s | none => s) s
  settle (q.far.foldl (fun s x => send (.answer x.src.val 0 (.state x.tile 7)) s) s)

/-- A run of a recovery task of this shard has diverged (R74): it is made again on another quad, or it was the last. -/
def divergeTask (q : RecTask) (r : DivRun) (s : State) : State :=
  let same := match q.runs with | [p] => p.digests == r.digests | _ => false
  if q.runs.length ≤ 1 ∧ !same then
    let cores := if q.runs.isEmpty then [] else coresOfRuns (q.runs ++ [r])
    reportTest cores (recLaunch s q) s
      (settle (requeueRec q.id (updRec? q.id (fun p => { p with runs := p.runs ++ [r] }) (testCores cores s))))
  else nonDeterministic q s

/-- A run on a core, with the core of the other member of a pair, and the digests that it produced. -/
def divRun (t : TaskRun) (core : Nat) (ds : List (W64 × W64)) : DivRun :=
  ⟨quadOf core, core, ds, t.pair.map fun p => (quadOf p.1, p.1)⟩

/-- A divergence of a recovery run (R74): `l` is the run's place, `ds` the digests that it produced. -/
def divergeRecovery (l : Loc) (t : TaskRun) (core : Nat) (ds : List (W64 × W64)) (s : State) : State :=
  let s := dropMembers l t s
  match t.recov.bind fun id => s.lin.rtasks.find? (·.id == id) with
  | none => settle (tellOwner t 1 ds s)
  | some q => divergeTask q (divRun t core ds) s

/-- The recovery task's run has exited: with an output still RECOVERING, here or elsewhere, it has diverged (R73); storage kept for
trimmed outputs goes. `r.digests` names the versions that the run has sealed. A first run that failed, or left an output out, is tested
now that the second one has not (R74). -/
def recoveryExited (q : RecTask) (r : DivRun) (s : State) : State :=
  if (q.outs.any fun v => match recOf s v with | some r => r.st == .recovering | none => false)
      || q.far.any (fun x => !r.digests.any (·.1 == x.tile)) then divergeTask q { r with digests := [] } s
  else
    let cores := if q.runs.length = 1 then coresOfRuns (q.runs.filter (·.digests.isEmpty)) else []
    reportTest cores (recLaunch s q) s (settle (dropTask q (testCores cores s)))

/-- A recovery run ends without a kill: exit or failure (R73). -/
def endRecovery (l : Loc) (t : TaskRun) (core : Nat) (failed : Bool) (s : State) : State :=
  if failed then divergeRecovery l t core [] s
  else
    let s := dropMembers l t s
    match t.recov.bind fun id => s.lin.rtasks.find? (·.id == id) with
    | none => settle (tellOwner t 0 (t.acts.seals.map (·, 0)) s)
    | some q => recoveryExited q (divRun t core (t.acts.seals.map (·, 0))) s

/-- A recovery run that another device ran has ended there. -/
def ranElsewhere (src : Fin 1024) (pool kind : Nat) (ds : List (W64 × W64)) (s : State) : State :=
  match s.lin.rtasks.find? (·.pool == pool) with
  | none => settle s
  | some q =>
    let r : DivRun := ⟨96 + src.val, 384, ds, none⟩
    if kind = 0 then recoveryExited q r s else if kind = 1 then divergeTask q r s else settle (requeueRec q.id s)

/-- A task fails (R332). -/
def failRun (l : Loc) (f : FailRec) (s : State) : State :=
  match (ctxAt s l).bind (·.task) with
  | none => s
  | some t =>
    let core := match l with | .bank n _ => n | .image _ => 0
    if t.kind = .recovery then endRecovery l t core true s else failTask l t f s

/-- A pair mismatch (R351, R352): both members are killed; the swatch set runs on both cores; units that fail are quarantined, and a core
that was marked suspect before too; where no unit fails, both cores are marked suspect and the pair is kept off both quads. -/
def pairMismatch (l : Loc) (t : TaskRun) (core : Nat) (s : State) : State :=
  let other := match partnerLoc s t with | some (.bank m _) => m | _ => core
  let cores := [core, other].eraseDups
  let bad := failingUnits s cores
  let us := ((cores.filter fun n => (coreOf s n).2.suspect).map (coreUnit · 0)).foldr insertUnit bad
  let mid (x : State) : State :=
    let x := cores.foldl (fun x n => swatch n x) x
    us.foldl (fun x u => quarantineQuiet u x) (if bad.isEmpty then cores.foldl markSuspect x else x)
  let away := if bad.isEmpty then [quadOf core, quadOf other] else us.flatMap fun x => (coresOfUnit x).map quadOf
  let x := us.foldl (fun x u => event 1 1 u 0x0F t.info.id x) (killWith l away (killRec t cPAIR (us.headD 0)) mid s)
  placementEvents (inService s us) (if bad.isEmpty then suspectEvent core other x else x)

/-- The silent-error path of a SELFCHECK (R352): the instance is killed, the versions of the ring are marked, the array's unit is
quarantined, the task is placed again or fails, and the event reports the unit. -/
def selfcheckFail (l : Loc) (t : TaskRun) (core : Nat) (s : State) : State :=
  let u := coreUnit core 2
  reportUnits [u] 0x10 t.info.id s
    (killWith l [quadOf core] (killRec t cSELFCHECK u) (fun s => quarantineQuiet u (markRing (quadOf core) s)) s)

/-- The runs of a re-enqueued instance's divergence (R74, second case). -/
def divRuns (s : State) (t : TaskRun) : List DivRun :=
  ((s.lin.diverged.find? fun d => d.handle == t.handle && d.idx == t.idx).map (·.runs)).getD []

/-- A divergence of a re-enqueued instance (R74, second case). Gives the state after the kill, or nothing where the
task is judged non-deterministic and must fail with SEAL. -/
def divergeRequeued (l : Loc) (t : TaskRun) (core : Nat) (ds : List (W64 × W64)) (s : State) : Option State :=
  let old := divRuns s t
  let same := match old with | [r] => r.digests == ds | _ => false
  if old.length ≤ 1 ∧ !same then
    let runs := old ++ [divRun t core ds]
    let cores := if old.isEmpty then [] else coresOfRuns runs
    let s := { s with lin := { s.lin with diverged :=
      ⟨t.handle, t.idx, runs⟩ :: s.lin.diverged.filter fun d => !(d.handle == t.handle && d.idx == t.idx) } }
    some (reportTest cores t.info.id s (killWith l (runs.flatMap runQuads) (killRec t cSEAL 0) (testCores cores) s))
  else none

end Sys2Proof.Machine
end

