-- ==== Sys2Proof/Machine/Ops.lean ====
section
/-! DEFINITION. The shared operations of words: code lines (R176 to R179), what an attempt at a control word comes to,
taking an exception and the return from it (R331 to R339), page faults (R27, R333). -/

namespace Sys2Proof.Machine

/-! ## Code lines (R176 to R178) -/

/-- Word `j` of a line. -/
def lineWord (l j : Nat) : Nat := l / 2 ^ (32 * j) % 2 ^ 32

/-- KIND of a line. -/
def lineKind (l : Nat) : Nat := l / 2 ^ 60 % 16
/-- TARGET bit of word `j`. -/
def lineTarget (l j : Nat) : Bool := l / 2 ^ (30 + (j - 2)) % 2 == 1
/-- START bit of word `j`. -/
def lineStart (l j : Nat) : Bool := l / 2 ^ (j - 2) % 2 == 1

/-- The words of a code line from word `j` on, `own` of which still belong to an instruction (R177). -/
def codeWordsOk (l : Nat) : Nat → Nat → Nat → Bool
  | 0, _, own => own == 0
  | n + 1, j, own =>
    if 0 < own then !lineStart l j && !lineTarget l j && codeWordsOk l n (j + 1) (own - 1)
    else if lineStart l j then codeWordsOk l n (j + 1) (wordCount (lineWord l j) (lineWord l (j + 1)) - 1)
    else !lineTarget l j && lineWord l j == 0 && codeWordsOk l n (j + 1) 0

/-- Whether a line is not malformed (R177). -/
def lineOk (l : Nat) : Bool :=
  match lineKind l with
  | 0 => lineStart l 2 && codeWordsOk l 30 2 0
  | 1 => l % 2 ^ 60 == 0
  | 2 => l % 2 ^ 60 == 0 && l / 2 ^ 64 == 0
  | _ => false

/-- The address after the instruction at word `j`: the next START word, or word 2 of the next line (R178). -/
def nextPc (line : Nat) (l j : Nat) : W64 :=
  match ((List.range 32).drop (j + 1)).find? (lineStart l ·) with
  | some k => BitVec.ofNat 64 (line + 4 * k)
  | none => BitVec.ofNat 64 (line + 128 + 8)

/-- The 128 bytes of the line at `va`, as memory holds them now. A line of another device is asked for. -/
def fetchLine (va : Nat) (s : State) : Res Nat :=
  if va < 0x200000 then .stop (.trap cPERM (BitVec.ofNat 64 va) 0 s)
  else (access 0 .fetch .ex va 128 s).andThen fun gs s =>
    match gs with
    | g :: _ =>
      if g.ty = 4 then
        -- a name of its own: what data reads and stores have fixed of these bytes is no fetch (R79)
        (readFar 0 (fun g => 2 ^ 62 + g.loc) (fun e p s => .trap (statusCause e) (BitVec.ofNat 64 p.va) 0 s) g s).andThen
          fun bs s => .ok (natOf bs) s
      else match s.mem.poisoned g.pa 128 with
        | some b => .stop (.trap cECC (BitVec.ofNat 64 (va + (b - g.pa))) 0 s)
        | none => .ok (natOf (s.mem.read g.key g.pa 128)) s
    | [] => .stop (.trap cPERM (BitVec.ofNat 64 va) 0 s)

/-- The checks of a branch target (R179). A line of a reserved KIND passes: it is malformed, which its first word meets (R177).
That the line is fetched before the place of its word is looked at is the model's choice (log 80). -/
def checkTarget (t : W64) (s : State) : Res Unit :=
  (fetchLine (t.toNat / 128 * 128) s).andThen fun l s =>
    let j := t.toNat % 128 / 4
    if t.toNat % 4 = 0 ∧ 2 ≤ j ∧ lineKind l ≠ 1 ∧ lineKind l ≠ 2 ∧ lineTarget l j = true then .ok () s
    else .stop (.trap cTARGET t 0 s)

/-! ## Draining and traps (R332 to R336, R339) -/

/-- Place in program order of a word by its serial, the control engine's after every routed word. -/
def wordRank (quid : Option Nat) : Nat × Nat := match quid with | some u => (0, u) | none => (1, 0)

/-- Place in program order of the word that faults; an asynchronous interrupt stands behind every fault (R338). -/
def trapRank (t : TrapInfo) : Nat × Nat := if t.cause = 0 then (2, 0) else wordRank t.quid

/-- Whether one place stands before another. -/
def rankBefore (a b : Nat × Nat) : Bool := a.1 < b.1 || (a.1 == b.1 && a.2 < b.2)

/-- CWAIT holds the control engine until it completes (R311). -/
def holdsControl : Instr → Bool
  | .cwait _ _ => true
  | _ => false

/-- A waiting word of the control engine is withdrawn when a drain begins (R335): a barrier's arrival goes, and a CWAIT other
than the word `keep` leaves its queue, to be issued again. -/
def withdrawWait (keep : Option Nat) (s : State) : State :=
  let s := match s.cx.fl.wait, s.cx.task with | .barrier _, some t => withdrawArrival t s | _, _ => s
  let s := { s with cx := { s.cx with fl := { s.cx.fl with wait := sentWait s.cx.fl.wait } } }
  match s.cx.fl.pend.find? fun e => holdsControl e.ins && !e.retained && some e.uid != keep with
  | some e => { s with cx := { s.cx with
      pc := e.pc, npc := e.pc, retired := if e.counted then s.cx.retired - 1 else s.cx.retired
      fl := { s.cx.fl with pend := s.cx.fl.pend.filter (·.uid != e.uid) } } }
  | none => s

/-- Whether what is being drained for already stands before a word in program order (R335). -/
def earlierFault (r : Nat × Nat) (s : State) : Bool :=
  (match s.cx.fl.drain with | some o => !rankBefore r (trapRank o) | none => false)
    || (match s.cx.fl.pf with | some p => !rankBefore r (wordRank p.quid) | none => false)

/-- What was being drained for until an earlier word faulted is given up: its own word faults again when it is reissued (R335). -/
def giveUpFault (s : State) : State :=
  let s := match s.cx.fl.pf with | some p => forgetFault p s | none => s
  { s with cx := { s.cx with fl := { s.cx.fl with drain := none, pf := none } } }

/-- A trap is taken: the drain begins, or goes on for the earliest of several faults (R334, R335). -/
def startTrap (t : TrapInfo) (s : State) : State :=
  let pc := s.cx.pc
  let s := withdrawWait t.quid s
  let t := { t with tile := s.cx.fl.tile, tnpc := if s.cx.pc = pc then t.tnpc else s.cx.pc }
  let s := { s with cx := { s.cx with fl := { s.cx.fl with tile := 0 } } }
  if earlierFault (trapRank t) s then s
  else
    let s := giveUpFault s
    { s with cx := { s.cx with fl := { s.cx.fl with drain := some t } } }

/-- The failure record of a trap: its cause, address and codes (R389). -/
def trapRec (h : W64) (t : TrapInfo) (fcode : BitVec 16) : FailRec :=
  ⟨h, t.cause, 0, 0, if t.cause = cUSER then t.ucode.setWidth 16 else fcode, t.taddr, t.tile⟩

/-- The handle of the moving context's task. -/
def curHandle (s : State) : W64 := match s.cx.task with | some t => t.handle | none => 0

/-- The "No handler" outcome of a cause (R332): an ECC of a replayable task re-enqueues it, all else fails it. -/
def noHandler (f : FailRec) (s : State) : State :=
  match s.cx.task with
  | some t =>
    if f.cause = cECC ∧ replayPkt t.packet then killRun (.bank s.me true) [] f s else failRun (.bank s.me true) f s
  | none => s

/-- TCAUSE (R331). -/
def tcauseWord (cause : BitVec 8) (priv : Bool) (queue : Nat) (ucode : BitVec 15) : W64 :=
  fields [(ucode.toNat, 32), (priv.toNat, 30), (queue, 24), (cause.toNat, 0)]

/-- Writes the trap registers and continues at TVEC in privileged mode: the one entry of traps and interrupts
(R336, R338). -/
def enterHandler (tepc tnpc tcause taddr tinfo : W64) (s : State) : State :=
  let p := s.cx.pr
  { s with cx := { s.cx with
      pr := { p with tepc := tepc, tnpc := tnpc, tcause := tcause, taddr := taddr, tinfo := tinfo,
                     tret := 0, intrap := true, priv := true }
      pc := p.tvec, npc := p.tvec } }

/-! ## Page faults (R27, R333) -/

/-- A page fault is sent to the page's home, which answers the context (R418). -/
def askHomeFault (home : Fin 1024) (addr : W64) (kind : AccKind) (quid : Option Nat) (s : State) : State :=
  let (u, s) := takeUid s
  let asid := s.cx.pr.asid
  let page : BitVec 36 := BitVec.ofNat 36 (addr.toNat / 2 ^ 16)
  let s := { s with cx := { s.cx with fl := { s.cx.fl with pf := some ⟨u, asid, page, kind, addr, quid, none, 0⟩ } } }
  if home = s.dev then raiseDue (.pageFaultMessage s.dev asid page kind u) s
  else send (.words 6 home.val [fields [(asid.toNat, 48), (page.toNat, 12),
    (match kind with | .read => 0 | .write => 1 | .readWrite => 2 | .fetch => 3, 0)], BitVec.ofNat 64 u]) s

/-- A word takes a page fault (R27, R333), unless an earlier word of the context faults too (R335). -/
def startFault (home : Fin 1024) (addr : W64) (kind : AccKind) (quid : Option Nat) (s : State) : State :=
  let s := withdrawWait quid s
  if earlierFault (wordRank quid) s then s else askHomeFault home addr kind quid (giveUpFault s)

/-- Whether a page fault can reach its home (R400). -/
def faultRoute (home : Fin 1024) (s : State) : Bool := home == s.dev || chanUp s 6

/-! ## Trap entry (R336, R338) -/

/-- The checks of R179 on the handler's entry, which is fetched in privileged mode (R336). -/
def checkHandler (s : State) : Res Unit :=
  let mode (p : Bool) (s : State) : State := { s with cx := { s.cx with pr := { s.cx.pr with priv := p } } }
  match checkTarget s.cx.pr.tvec (mode true s) with
  | .ok _ t => .ok () (mode s.cx.pr.priv t)
  | .stop (.wait w t) => .stop (.wait w (mode s.cx.pr.priv t))
  | .stop (.absent h a k t) => .stop (.absent h a k (mode s.cx.pr.priv t))
  | .stop (.trap c a i t) => .stop (.trap c a i (mode s.cx.pr.priv t))
  | .stop x => .stop x

/-- Whether an uncorrectable read kills the run of a recovery task whatever its handler: an input of it has been lost again (R70). -/
def inputLost (s : State) : Bool :=
  match s.cx.task with
  | some t => t.kind == .recovery && (match t.recov.bind fun id => s.lin.rtasks.find? (·.id == id) with
    | some q => (inputsOf s q).any (notThere s)
    | none => true)
  | none => false

/-- The trap is over, or has become something else. -/
def clearDrain (s : State) : State := { s with cx := { s.cx with fl := { s.cx.fl with drain := none } } }

/-- The trap registers are written and the handler is entered: what the drain left in the queues is retained (R334, R336). A request
that a withdrawn word has sent waits for the word (R335). -/
def enterAt (t : TrapInfo) (s : State) : State :=
  let u := match s.cx.fl.wait with | .shard u => u | _ => 0
  let asked := if u = 0 ∧ s.cx.fl.notes = [] then s.cx.fl.asked else some (t.tnpc, u, s.cx.fl.notes)
  let s := enterHandler t.tepc t.tnpc (tcauseWord t.cause s.cx.pr.priv t.queue t.ucode) t.taddr t.tinfo (clearDrain s)
  { s with cx := { s.cx with fl := { s.cx.fl with
      pend := s.cx.fl.pend.map fun e => { e with retained := true }, tq := t.quid, shadow := [], wait := .none, notes := [], asked := asked } } }

/-- The entry of a drained trap or interrupt (R336, R338): the double trap fails the task with both causes; without a handler whose
word is a branch target the outcome is that of R332. The handler's page may have to be brought first (R333), or its line fetched
from another device. -/
def enterTrap (s : State) : State :=
  match s.cx.fl.drain with
  | none => s
  | some t =>
    let p := s.cx.pr
    if t.cause = cECC ∧ inputLost s = true then killRun (.bank s.me true) [] (trapRec (curHandle s) t 0) (clearDrain s)
    else if p.intrap then
      let f : FailRec := ⟨curHandle s, p.tcause.setWidth 8, t.cause, 0,
        if p.tcause.setWidth 8 = cUSER then BitVec.ofNat 16 (bits p.tcause 46 32) else 0, p.taddr, t.tile⟩
      failRun (.bank s.me true) f (clearDrain s)
    else if p.tvec = 0 then noHandler (trapRec (curHandle s) t 0) (clearDrain s)
    else
      match checkHandler s with
      | .ok _ s => enterAt t s
      | .stop (.wait _ s) => s
      | .stop (.absent h a k u) => if faultRoute h u then askHomeFault h a k none u else noHandler (trapRec (curHandle s) t 0) (clearDrain u)
      | .stop (.trap _ _ _ u) => noHandler (trapRec (curHandle s) t 0) (clearDrain u)
      | .stop _ => noHandler (trapRec (curHandle s) t 0) (clearDrain s)

/-- An asynchronous interrupt is taken: as at a trap nothing more is routed, and what was routed completes (R334, R338). -/
def startInterrupt (s : State) : State :=
  let s := withdrawWait none s
  { s with cx := { s.cx with fl := { s.cx.fl with drain := some { cause := 0, taddr := 0, tepc := s.cx.pc, tnpc := s.cx.pc } } } }

/-! ## Control words (R191, R192) -/

/-- A control word has completed: the next instruction, and one more retired (R222). -/
def complete (s : State) : State :=
  { s with cx := { s.cx with pc := s.cx.npc, retired := s.cx.retired + 1, fl := { s.cx.fl with wait := .none, notes := [] } } }

/-- A stream as it stood, with the beats of its next element that have been fetched since (R301). -/
def keepBeats (old new : Option Stream) : Option Stream :=
  old.map fun b => match new with
    | some d => if d.id = b.id ∧ d.fetched = b.fetched then { b with part := d.part } else b
    | none => b

/-- What a word that does not complete has taken from streams is put back: it has no effect (R192). The beats of an element that is not
complete yet stay, and so does what a TEXIT that has but to signal has unbound (R329). -/
def unread (s0 s : State) : State :=
  if (s.cx.task.bind (·.exiting)).isSome then s
  else { s with cx := { s.cx with streams := Vector.ofFn fun i => keepBeats s0.cx.streams[i] s.cx.streams[i] } }

/-- A word that faults asks other devices afresh when it is issued again. -/
def forgetNotes (s : State) : State := { s with cx := { s.cx with fl := { s.cx.fl with notes := [] } } }

/-- What an attempt at a control word leaves. -/
def finish (s0 : State) (a : Act) : State :=
  match a with
  | .done s => complete s
  | .left s => s
  | .trap c addr i s =>
    startTrap { cause := c, taddr := if c = cSTARVED then s0.cx.pc else addr, tinfo := BitVec.ofNat 64 i
                tepc := s0.cx.pc, tnpc := s0.cx.pc } (forgetNotes (unread s0 s))
  | .late cause pc addr s =>
    -- the word that faults late was counted when it completed (R222)
    startTrap { cause := cause, taddr := addr, tepc := pc, tnpc := s0.cx.pc }
      (unread s0 { s with cx := { s.cx with retired := s.cx.retired - 1 } })
  | .absent h addr k s =>
    if faultRoute h s then startFault h addr k none (unread s0 s)
    else startTrap { cause := cSTARVED, taddr := s0.cx.pc, tepc := s0.cx.pc, tnpc := s0.cx.pc } (unread s0 s)
  | .wait w s =>
    let s := unread s0 s
    { s with cx := { s.cx with fl := { s.cx.fl with wait := w, waitSince := if s0.cx.fl.wait = w then s.cx.fl.waitSince else s.clock } } }

/-- A late error that stands for some destinations, or for any where the list is none (R192); it is taken once. -/
def lateOf (rs : Option (List (Fin 32))) (s : State) : Option Act :=
  let hit (l : LateEcc) : Bool := match rs with | some r => l.dests.any (r.contains ·) | none => true
  match s.cx.fl.late.find? hit with
  | some l => some (.late l.cause l.pc l.addr { s with cx := { s.cx with fl := { s.cx.fl with late := s.cx.fl.late.filter (· != l) } } })
  | none => none

/-- Whether a register waits for a load or an atomic (R191). -/
def regBusy (s : State) (r : Fin 32) : Bool := r != 0 && s.cx.fl.loads.any (·.dests.contains r)

/-- Runs a body whose S sources must have been delivered. An error of a load to S0 is taken by no word that reads S0, only at the next
boundary or FENCE: whether S0 counts as read is the model's choice (log 110). -/
def interlock (rs : List (Fin 32)) (body : State → Act) (s : State) : Act :=
  match lateOf (some (rs.filter (· != 0))) s with
  | some a => a
  | none => if rs.any (regBusy s) then .wait .other s else body s

/-- A control word: its interlocks, its body, and what follows. -/
def ctl (rs : List (Fin 32)) (body : State → Act) (s : State) : Host.Outcome State Fault Refusal :=
  .next (finish s (interlock rs body s))

/-! ## SRET (R337) -/

/-- Where the instruction after the one at `pc` starts. Where its line cannot be read, which is why it faulted, the length of the word
is not known, and it counts as one (log 87). -/
def afterPc (pc : W64) (s : State) : Res W64 :=
  match fetchLine (pc.toNat / 128 * 128) s with
  | .ok l s => .ok (nextPc (pc.toNat / 128 * 128) l (pc.toNat % 128 / 4)) s
  | .stop (.trap _ _ _ s) => .ok (pc + 4) s
  | .stop x => .stop x

/-- The handler is left for `tnpc`: retained entries are released, without the faulting word where it is skipped; the mode is restored;
a word withdrawn after it had sent a request waits for its answer again. -/
def leaveTo (skip : Bool) (tnpc : W64) (s : State) : State :=
  let p := s.cx.pr
  let fl := s.cx.fl
  let pend := if skip then fl.pend.filter fun e => !(fl.tq == some e.uid) else fl.pend
  let (u, notes) := match fl.asked with | some (pc, u, l) => if pc = tnpc then (u, l) else (0, []) | none => (0, [])
  { s with cx := { s.cx with
      pc := tnpc, npc := tnpc, retired := s.cx.retired + 1
      pr := { p with intrap := false, priv := bits p.tcause 30 30 == 1, tnpc := tnpc }
      fl := { fl with pend := pend.map fun e => { e with retained := false }, tq := none, wait := (if u = 0 then .none else .shard u),
                        notes := notes, asked := none, sret := false } } }

/-- The return from an exception, `skip` for ACTION 1 and otherwise RETRY: the control engine continues at TNPC, which SKIP advances
past the word of a precise fault. -/
def leaveHandler (skip : Bool) (s : State) : Act :=
  let p := s.cx.pr
  if skip && bits p.tcause 26 24 == 0 && p.tcause.setWidth 8 != (0 : BitVec 8) && p.tnpc == p.tepc then
    (afterPc p.tepc s).bind fun tnpc s => .left (leaveTo skip tnpc s)
  else .left (leaveTo skip p.tnpc s)

/-- ACTION 2: the task fails with FCODE (R332, R337), which is TRET.FCODE after cause USER too (log 111). -/
def failHandler (s : State) : State :=
  let p := s.cx.pr
  let cause : BitVec 8 := p.tcause.setWidth 8
  noHandler ⟨curHandle s, cause, 0, 0, BitVec.ofNat 16 (bits p.tret 47 32), p.taddr, 0⟩ s

/-- The other member of a pair, where it stands. -/
def otherMember (s : State) : Option Ctx := (s.cx.task.bind (partnerLoc s)).bind (ctxAt s)

/-- Whether the other member of a pair has issued its own SRET, or there is none (R350). -/
def pairReturned (s : State) : Bool := match otherMember s with | some c => c.fl.sret || !c.pr.intrap | none => true

/-- The action that an SRET takes: where the other member of a pair waits in its own, that one's (R350; which of two that differ is
the model's choice, log 88). -/
def sretAction (s : State) : Nat :=
  bits (match otherMember s with | some c => if c.fl.sret && c.pr.intrap then c.pr.tret else s.cx.pr.tret | none => s.cx.pr.tret) 1 0

/-- SRET (R337). -/
def sretBody (s : State) : Act :=
  if !s.cx.pr.intrap then illegal s.cx.pc s
  else if !pairReturned s then
    .wait .other { s with cx := { s.cx with fl := { s.cx.fl with sret := true } } }
  else match sretAction s with
    | 0 => leaveHandler false s
    | 1 => leaveHandler true s
    | _ => .left (failHandler s)

end Sys2Proof.Machine
end

