-- ==== Sys2Proof/Machine/Flags.lean ====
section
/-! DEFINITION. The status registers that the machine puts together: FLAGS (R156, R157), PWRSTAT (R130, R131), LEASE
(R125), LINSTAT (R57), FSTAT (R419), TSTATUS and MCREC (R331, R354). -/

namespace Sys2Proof.Machine

/-- Adds flags to FLAGS (R157). -/
def addFlags (f : Flg) (c : Ctx) : Ctx := { c with flags := c.flags ||| BitVec.ofNat 64 f }

/-- A die's external-cap request (R130). -/
def extStep (s : State) (d : DiePow) : Nat := Nat.max d.ext (s.bob.capstep.toNat % 8)

/-- A die's issue step, which leaves out the ramp request (R130). -/
def issueStep (s : State) (d : DiePow) : Nat := Nat.max (Nat.max d.budget d.thermal) (extStep s d)

/-! ## Arrays and densities (R132, R133) -/

/-- The array of a quad. -/
def arrOf (s : State) (q : Nat) : ArrayQ := (s.arrays[q]?).getD {}

/-- Changes an array. -/
def updArr (q : Nat) (f : ArrayQ → ArrayQ) (s : State) : State := { s with arrays := s.arrays.set! q (f (arrOf s q)) }

/-- The power state of a die. -/
def powOf (s : State) (die : Nat) : DiePow := (s.pow[die]?).getD {}

/-- The density at which an array of a die issues at most (R132). -/
def maxDensity (s : State) (die : Nat) : Nat := 8 - issueStep s (powOf s die)

/-- Whether the matrix queue of a context stands at a multiply that has its lease. -/
def mmaHead (c : Ctx) : Bool :=
  c.lease.held && (match c.fl.pend.find? (·.queue == .matrix) with
    | some e => !e.retained && (match e.ins with | .mma .. | .mmag .. => true | _ => false)
    | none => false)

/-- Whether an array waits for increments (R133): work runs or waits below the density it could have. -/
def heldArray (s : State) (q : Nat) : Bool :=
  let a := arrOf s q
  a.density < maxDensity s (q / 24)
    && ((a.busy != 0 && s.clock < a.busy) || (banks s).any fun b => quadOf b.1 == q && mmaHead b.2.2)

/-- The ramp request of a die (R133). -/
def rampReq (s : State) (die : Nat) : Nat :=
  let low := (((List.range 24).map (24 * die + ·)).filter (heldArray s)).map fun q => 8 - (arrOf s q).density
  Nat.min 7 (low.foldl Nat.max 0)

/-- Increments of one direction in an interval (R132), by the limit that is in force (R135). -/
def increments (s : State) : Nat :=
  let new := 40 * bits s.mmio.pwrcfg 21 16 / Nat.max 1 (bits s.mmio.pwrcfg 7 0)
  match s.gov.limit with
  | some (n, t) => if s.clock < t then n else new
  | none => new

/-- A die's throttle step (R130). -/
def throttle (s : State) (die : Nat) : Nat := Nat.max (issueStep s (powOf s die)) (rampReq s die)

/-- CAUSE of a die (R131). -/
def causeBits (s : State) (die : Nat) : Nat :=
  let d := powOf s die
  let t := throttle s die
  let b (r i : Nat) : Nat := if r ≠ 0 ∧ r = t then 2 ^ i else 0
  b d.budget 0 + b d.thermal 1 + b (rampReq s die) 2 + b (extStep s d) 3

/-- PWRSTAT as the moving core reads it (R131). -/
def pwrstat (s : State) : W64 :=
  let die (i : Nat) : List (Nat × Nat) := [(throttle s i, 14 * i + 11), (causeBits s i, 14 * i + 7)]
  fields ([(dieOf s.me, 62), (s.cx.ramphold.toNat, 61)] ++ (List.range 4).flatMap die)

/-- A read of PWRSTAT clears RAMPHOLD (R131). -/
def readPwrstat (s : State) : W64 × State := (pwrstat s, { s with cx := { s.cx with ramphold := false } })

/-- LEASE (R125). -/
def leaseWord (s : State) : W64 :=
  let l := s.cx.lease
  let clks := if l.held then Nat.min 4096 (l.ends - s.clock) else 0
  fields [(l.held.toNat, 23), ((l.gang && (l.held || l.waiting)).toNat, 22), (l.holder.toNat, 21),
          (l.waiting.toNat, 20), (l.passed.toNat, 18), (if l.held then l.mmas else 0, 13), (clks, 0)]

/-- MCHKN (R282): PERIOD and COUNT. -/
def mchknWord (c : Ctx) : W64 := fields [(c.mchkCount.toNat, 16), (c.mchkPeriod.toNat, 0)]

/-- The machine-check queue of the moving core's die. -/
def myMcq (s : State) : List W64 := match s.mcq[dieOf s.me]? with | some q => q.recs | none => []

/-- TSTATUS (R331). -/
def tstatus (s : State) : W64 :=
  fields [((!(myMcq s).isEmpty).toNat, 2), (s.cx.pr.intrap.toNat, 1), (s.cx.pr.priv.toNat, 0)]

/-- FSTAT (R419). -/
def fstat (s : State) : W64 := fields [(s.mmio.orphan.toNat, 32), (s.xl.waiters.length, 0)]

/-- STCFG of a station (R407). -/
def stcfgWord (t : Station) : W64 :=
  fields [(t.dorvia.toNat, 24), (t.parked.toNat, 16), (t.width.val, 8), (t.phase.toNat, 4), (t.exh.toNat, 3),
          (t.nextRx.isSome.toNat, 2), (t.nextTx.isSome.toNat, 1), (t.mode.toNat, 0)]

end Sys2Proof.Machine
end

