-- ==== Sys2Proof/Machine/Claims.lean ====
section
/-! DEFINITION. The range checker's resources (R17) and what a routed word claims (R18, R266, R301). -/

namespace Sys2Proof.Machine

/-- A resource of the range checker. -/
inductive Claimed where
  | spad (lo hi : Nat)
  | tile (t : Nat)
  | z (lo hi : Nat)
  | mask (m : Nat)
  deriving DecidableEq, Repr

/-- Whether two claims overlap. -/
def Claimed.meets : Claimed → Claimed → Bool
  | .spad a b, .spad c d => a < d && c < b
  | .tile a, .tile b => a == b
  | .z a b, .z c d => a < d && c < b
  | .mask a, .mask b => a == b
  | _, _ => false

/-- The bytes of the local window in a range of addresses. -/
def spadSpan (lo hi : Nat) (w : Bool) : List (Claimed × Bool) :=
  if lo < Nat.min hi 0x180000 then [(.spad lo (Nat.min hi 0x180000), w)] else []

/-- Scratchpad bytes of a command with a base and a length. -/
def spadClaim (base n : Nat) (w : Bool) : List (Claimed × Bool) := spadSpan base (base + n) w

/-- The whole scratchpad. -/
def spadAll (w : Bool) : List (Claimed × Bool) := [(.spad 0 0x180000, w)]

/-- The span from the lowest to the highest byte of rows of `n` bytes. -/
def spadRows (starts : List W64) (n : Nat) (w : Bool) : List (Claimed × Bool) :=
  match starts.map (·.toNat) with
  | [] => []
  | x :: r => spadSpan (r.foldl Nat.min x) (r.foldl Nat.max x + n) w

/-- Exactly the bytes of rows of `n` bytes. -/
def spadEach (starts : List W64) (n : Nat) (w : Bool) : List (Claimed × Bool) := starts.flatMap fun a => spadClaim a.toNat n w

/-- Row starts: a, a + b, … (R256, R276, R299, R303). -/
def rowStarts (a b : W64) (n : Nat) : List W64 := (List.range n).map fun r => a + BitVec.ofNat 64 r * b

/-- The strides of COPY2: destination and source, both signed (R299). -/
def copy2Strides (c : W64) : W64 × W64 := ((c >>> 32).setWidth 32 |>.signExtend 64, (c.setWidth 32).signExtend 64)

/-- A Z row. -/
def zClaim (r : Nat) (w : Bool) : List (Claimed × Bool) := [(.z r (r + 1), w)]

/-- Rows of Z. -/
def zRange (r n : Nat) (w : Bool) : List (Claimed × Bool) := [(.z r (r + n), w)]

/-- The rows of vector sources. -/
def srcClaims (l : List VSrc) : List (Claimed × Bool) :=
  l.flatMap fun x => match x with | .v r => zClaim r.val false | _ => []

/-- The mask that a modifier names, unless it is M0 (R18). -/
def maskClaim (m : Fin 8) (w : Bool) : List (Claimed × Bool) := if m = 0 then [] else [(.mask m.val, w)]

/-- Destination rows of a VEC form and whether it also reads them (R233). -/
def vecDest : Instr → List (Claimed × Bool)
  | .vfma d _ _ _ | .vfms d _ _ _ | .vfnma d _ _ _ => zClaim d.val true
  | .vadd d _ _ _ | .vsub d _ _ _ | .vmul d _ _ _ | .vmin d _ _ _ | .vmax d _ _ _ | .vand d _ _ _ | .vor d _ _ _
  | .vxor d _ _ _ | .vsel d _ _ _ | .vshl d _ _ _ | .vshr d _ _ _ | .vsar d _ _ _ | .vbcast d _ _ _
  | .vperm d _ _ _ | .vshuf d _ _ _ _ | .vrot d _ _ _ | .vslide d _ _ _ | .vexpi d _ _ _ => zClaim d.val true
  | .vabs d _ _ | .vneg d _ _ | .vmov d _ _ | .viota d _ _ | .vclass d _ _ | .vcvt d _ _ _ _ | .vquant d _ _ _
  | .vdeq d _ _ _ | .vrcp d _ _ | .vrsq d _ _ | .vexp2f d _ _ | .vlog2f d _ _ | .vsqrt d _ _ | .vrint d _ _
  | .vfint d _ _ | .vgetexp d _ _ | .vgetmant d _ _ | .vredadd d _ _ | .vscan d _ _ | .vredmax d _ _
  | .vredamax d _ _ | .vredmin d _ _ | .vcomp d _ _ _ | .vrng d _ => zClaim d.val true
  | .vcmp _ d _ _ _ => maskClaim d true
  | .mand d a b _ | .mor d a b _ | .mxor d a b _ => maskClaim d true ++ maskClaim a false ++ maskClaim b false
  | .mnot d a _ | .mfirst d a _ => maskClaim d true ++ maskClaim a false
  | .mpop a _ | .vanyq a _ | .vallq a _ => maskClaim a false
  | _ => []

/-- The format of a word (R227). -/
def vecFmt (m : VMod) (g : Cfg) : Fmt := m.ty.getD (fmtOf g.vtype.toNat)

/-- The offset registers of VGATH and VSCAT (R257). -/
def offsetRows (e : QEntry) (m : VMod) : Nat := (vecFmt m e.cfg).lanes / 192

/-- What a queued word claims on a core (`core` is its number in the quad, R270), with the values captured at its routing. -/
def claims (core : Nat) (e : QEntry) : List (Claimed × Bool) :=
  let x (r : Fin 32) : W64 := if r = 0 then 0 else e.s[r]
  let v (r : Fin 32) : Nat := (x r).toNat
  let sh (t : Fin 8) : W64 := e.cfg.tshape[t]
  let side (t : Fin 8) (c : Fin 32) (w : Bool) : List (Claimed × Bool) :=
    match shSs (sh t) with
    | 1 => spadClaim (v c) (shRows (sh t) * (4 * (shCols (sh t) / 32))) w
    | 2 => spadClaim (v c) (shRows (sh t) * (shCols (sh t) / 64)) w
        ++ spadClaim (v (Fin.ofNat 32 (c.val + 1))) (shRows (sh t) * (4 * ((shCols (sh t) + 255) / 256))) w
    | _ => []
  match e.ins with
  | .vld d a m => zClaim d.val true ++ maskClaim m.mask false ++ spadClaim (v a) 768 false
  | .vst d a m => zClaim d.val false ++ maskClaim m.mask false ++ spadClaim (v a) 768 true
  | .vlds d a b m => zClaim d.val true ++ maskClaim m.mask false ++ spadEach (rowStarts (x a) (x b) 12) 64 false
  | .vsts d a b m => zClaim d.val false ++ maskClaim m.mask false ++ spadEach (rowStarts (x a) (x b) 12) 64 true
  | .vgath d _ b m => zClaim d.val true ++ zRange b.val (offsetRows e m) false ++ maskClaim m.mask false ++ spadAll false
  | .vscat d _ b m => zClaim d.val false ++ zRange b.val (offsetRows e m) false ++ maskClaim m.mask false ++ spadAll true
  | .mldt a b c t => [(.tile t.val, true)]
      ++ spadRows (rowStarts (x a) (x b) (shRows (sh t))) (shRowBytes (sh t)) false ++ side t c false
  | .mstt a b c t => [(.tile t.val, false)]
      ++ spadRows (rowStarts (x a) (x b) (shRows (sh t))) (shRowBytes (sh t)) true ++ side t c true
  | .mcvt d a _ _ _ _ | .mtrn d a => [(.tile d.val, true), (.tile a.val, false)]
  | .mzero d n => zRange d.val (n.val + 1) true
  | .mzeroT t => [(.tile t.val, true)]
  | .mma d a b _ _ _ => [(.tile a.val, false), (.tile b.val, false)] ++ zRange d.val (shRows (sh a)) true
  | .mmag a b _ _ =>
    (if core = 0 ∨ core = 2 then [(.tile a.val, false)] else []) ++ (if core < 2 then [(.tile b.val, false)] else []) ++ zRange 0 128 true
  | .mdrain d a df tr _ _ rows cols => zRange d.val (rows.val + 1) false
      ++ spadClaim (v a) (drainLen df (rows.val + 1) (cols.toNat + 1)).2.2 true
      ++ (match tr with
          | some t => spadClaim (v t.b) (drainLen t.tf (cols.toNat + 1) (rows.val + 1)).2.2 true
          | none => [])
  | .mkat a b _ _ => spadClaim (v a) (v b) false
  | .ghash d a => zClaim d.val true ++ [(.tile a.val, false)]
  | .grep d a t _ => zRange d.val 2 true ++ zClaim a.val false ++ [(.tile t.val, false)]
  | .gpack d a b => [(.tile d.val, true), (.tile a.val, false)] ++ zRange (b.val - 1) 2 false
  | .gscat d a b | .ggsum d a b => zRange d.val (128 - d.val) true ++ zRange a.val (128 - a.val) false ++ zClaim b.val false
  | .gmap a m => zRange m.val 2 false ++ spadClaim (v a) 1536 true
  | .glmap a m => zRange m.val 2 true ++ spadClaim (v a) 1536 false
  | .copy a b c => spadClaim (v a) (v c) true ++ spadClaim (v b) (v c) false
  | .copy2 a b c len rows =>
    let st := copy2Strides (x c)
    spadEach (rowStarts (x a) st.1 (rows.toNat + 1)) len.toNat true
      ++ spadEach (rowStarts (x b) st.2 (rows.toNat + 1)) len.toNat false
  | .gather a b c q esz n =>
    (if v b < 0x180000 ∨ v c < 0x180000 then spadAll false else [])
      ++ (match q with | none => spadClaim (v a) (2 ^ esz.val * n.toNat) true | some _ => [])
  | .scatter a b c esz n =>
    (if v a < 0x180000 ∨ v c < 0x180000 then spadAll true else []) ++ spadClaim (v b) (2 ^ esz.val * n.toNat) false
  | .sout a b c f => spadRows (rowStarts (x a) (x c) (v b)) 768 true ++ zRange f.val (v b) false
  -- the source's length stands in the packet, which is read later: the longest is claimed (log 90)
  | .opk _ b c _ => spadClaim (v b) 16 false ++ (if c = 0 then [] else spadClaim (v c) 256 false)
  | .cstore _ b c _ => spadClaim (v c) (8 * (v b / 2 ^ 32 % 32 + 1)) false
  | .fredw _ _ c _ => if c = 0 then [] else spadClaim (v c) 128 true
  | i =>
    match vecInfo i with
    | some (_, m, srcs) => srcClaims srcs ++ maskClaim m.mask false ++ vecDest i
    | none => []

/-- Whether two lists of claims conflict: they overlap and one of the two writes (R17). -/
def conflict (a b : List (Claimed × Bool)) : Bool := a.any fun x => b.any fun y => x.1.meets y.1 && (x.2 || y.2)

/-- What a stream in memory claims until it has given its last element: the span of its elements in the local window
(R301). -/
def streamClaims (b : Stream) : List (Claimed × Bool) :=
  match b.kind with
  | .scalar | .row =>
    if b.count = 0 ∨ (b.fetched = b.count ∧ b.buf.isEmpty) then []
    else spadRows [b.addr, b.addr + BitVec.ofNat 64 (b.count - 1) * b.stride] (if b.kind = .row then 768 else 8) false
  | _ => []

/-- The claims of the streams bound before a word (R301). -/
def streamsBefore (c : Ctx) (uid : Nat) : List (Claimed × Bool) :=
  c.streams.toList.flatMap fun b => match b with
    | some b => if b.id < uid then streamClaims b else []
    | none => []

end Sys2Proof.Machine
end

