-- ==== Sys2Proof/Machine/Operands.lean ====
section
/-! DEFINITION. Operands: scalar sources with the streams (R23, R24, R193), and the control registers by number
(R183, R213, R331) with what each refuses (R16, R151, R226, R260, R285). -/

namespace Sys2Proof.Machine

/-! ## Scalar sources (R193) -/

/-- The S registers that sources name. -/
def srcRegs (l : List Src) : List (Fin 32) := l.filterMap fun x => match x with | .s r => some r | .q _ => none

/-- Whether a stream has given its last element: nothing is buffered and all has been fetched (R24). -/
def streamOver (b : Stream) : Bool :=
  b.buf.isEmpty && (match b.kind with | .scalar | .row => b.fetched == b.count | .result | .feed => false)

/-- The stream register that a copy-queue word feeds (R296). -/
def feeds : Instr → Option (Fin 8)
  | .opk _ _ _ q | .cstore _ _ _ q | .gather _ _ _ q _ _ => q
  | .cjoin _ _ _ q | .fredw _ _ _ q => some q
  | _ => none

/-- The binding that a word feeds, taken at its routing (R296, R302). -/
def feedId (i : Instr) (c : Ctx) : Option Nat := (feeds i).bind fun q => (c.streams[q]).map (·.id)

/-- Replaces the binding of a stream register. -/
def setStream (q : Fin 8) (b : Option Stream) (s : State) : State :=
  { s with cx := { s.cx with streams := s.cx.streams.set q b } }

/-- The beats of a stream's next element that are left, in order; each that is complete stays so (R301). -/
def fetchBeats (q : Fin 8) (b : Stream) : List (W64 × Nat) → List (List Byte) → State → Res (List (List Byte))
  | [], got, s => .ok got (setStream q (some { b with part := [] }) s)
  | p :: r, got, s =>
    ((beatAccess 5 b.addr .rd p.1 p.2 s).andThen fun gs s => readSegs 5 gs s).andThen fun bs s =>
      fetchBeats q b r (got ++ [bs]) (setStream q (some { b with part := got ++ [bs] }) s)

/-- Fetches the next element of a stream in memory (R301): its bytes beat by beat in the copy queue, behind the earlier
words that write them. -/
def fetchElem (q : Fin 8) (b : Stream) (s : State) : Res Row :=
  if s.cx.fl.pend.any fun p => p.uid < b.id && !p.retained && conflict (claims (s.me % 4) p) (streamClaims b) then .stop (.wait .other s)
  else
    let n := if b.kind = .row then 768 else 8
    let a := b.addr + BitVec.ofNat 64 b.fetched * b.stride
    (fetchBeats q b ((beatParts a n).drop b.part.length) b.part s).andThen fun l s => .ok (BitVec.ofNat 6144 (natOf l.flatten)) s

/-- Reads one element of a stream register (R23, R24): QUEUE where it is unbound, of the other kind or at its end, or
empty with no word to feed it; a wait where no element has arrived. An element in memory that has not been fetched
ahead is fetched now, with its faults (R301). -/
def popStream (pc : W64) (row : Bool) (q : Fin 8) (s : State) : Res Row :=
  match s.cx.streams[q] with
  | none => .stop (.trap cQUEUE pc 0 s)
  | some b =>
    let isRow := b.kind == .row || b.kind == .feed
    if isRow != row then .stop (.trap cQUEUE pc 0 s)
    else
      match b.buf with
      | x :: r => .ok x (setStream q (some { b with buf := r }) s)
      | [] =>
        if streamOver b then .stop (.trap cQUEUE pc 0 s)
        else match b.kind with
          | .scalar | .row => (fetchElem q b s).andThen fun x s =>
            .ok x (setStream q (some { b with fetched := b.fetched + 1, part := [] }) s)
          | _ =>
            if s.cx.fl.pend.any fun e => e.note == some b.id && feeds e.ins == some q then .stop (.wait .other s)
            else .stop (.trap cQUEUE pc 0 s)

/-- The value of a scalar source of a control word. -/
def readSrc (x : Src) (s : State) : Res W64 :=
  match x with
  | .s r => .ok (sget s.cx r) s
  | .q q => (popStream s.cx.pc false q s).andThen fun v s => .ok (v.setWidth 64) s

/-- Two sources, A before B (R193). -/
def readSrc2 (a b : Src) (s : State) : Res (W64 × W64) :=
  (readSrc a s).andThen fun x s => (readSrc b s).andThen fun y s => .ok (x, y) s

/-! ## Control registers (R183) -/

/-- A value with its reserved bits cleared (R5). -/
def keep (v : W64) (m : Nat) : W64 := v &&& BitVec.ofNat 64 m

/-- GCFG0's rule (R285). -/
def gcfg0Ok (v : W64) : Bool :=
  let k := bits v 4 0; let bw := bits v 11 8
  k ≤ 16 && (bw < k || (k == 0 && bw == 0)) && bits v 23 20 ≤ 5 && bits v 19 12 ≤ 192

/-- The value of a user register, and the state after the read; none where the number is unassigned. -/
def readUser (n : Nat) (s : State) : Option (W64 × State) :=
  let c := s.cx
  if n = 0 then some (c.cfg.vtype, s)
  else if n = 1 then some (c.cfg.rmode, s)
  else if n = 2 then some (c.flags, s)
  else if n = 3 then some (c.qdepth, s)
  else if n = 4 then some (c.cfg.fmtsel, s)
  else if 8 ≤ n ∧ n < 16 then some (c.cfg.tshape[n - 8]?.getD 0, s)
  else if 16 ≤ n ∧ n < 32 then some (c.cfg.fmt[n - 16]?.getD 0, s)
  else if 32 ≤ n ∧ n < 36 then some (c.cfg.gcfg[n - 32]?.getD 0, s)
  else if n = 36 then some (c.cfg.key.setWidth 64, s)
  else if n = 37 then some ((c.cfg.key >>> 64).setWidth 64, s)
  else if n = 38 then some (c.cfg.ctr.setWidth 64, s)
  else if n = 39 then some ((c.cfg.ctr >>> 64).setWidth 64, s)
  else if n = 48 then some (readPwrstat s)
  else if n = 49 then some (c.energy, s)
  else if n = 50 then some (curHandle s, s)
  else if n = 51 then some (leaseWord s, s)
  else if n = 52 then some (mchknWord c, s)
  else none

/-- The value of a privileged register (R331). -/
def readPriv (n : Nat) (s : State) : Option W64 :=
  let p := s.cx.pr
  match n with
  | 0x80 => some (tstatus s)
  | 0x81 => some p.tvec
  | 0x82 => some p.tepc
  | 0x83 => some p.tnpc
  | 0x84 => some p.tcause
  | 0x85 => some p.taddr
  | 0x86 => some p.tinfo
  | 0x87 => some p.tret
  | 0x88 => some p.tscr0
  | 0x89 => some p.tscr1
  | 0x8A => some (p.asid.setWidth 64)
  | 0x8B => some (p.intpend.setWidth 64)
  | 0x8C => some (p.intmask.setWidth 64)
  | 0x8D => some p.timer
  | 0x8E => some ((myMcq s).headD 0)
  | 0x8F => some (s.imgver.setWidth 64)
  | _ => none

/-- Changes the captured registers. -/
def updCfg (f : Cfg → Cfg) (s : State) : State := { s with cx := { s.cx with cfg := f s.cx.cfg } }

/-- Concatenation of two halves. -/
def cat128 (hi lo : W64) : BitVec 128 := hi ++ lo

/-- Writes a user register. `none`: the number is unassigned; `some none`: the register refuses the value. -/
def writeUser (n : Nat) (v : W64) (s : State) : Option (Option State) :=
  if n = 0 then some (let x := keep v 0xF; if x.toNat ≤ 10 then some (updCfg (fun c => { c with vtype := x }) s) else none)
  else if n = 1 then some (let x := keep v 7; if x.toNat ≤ 5 then some (updCfg (fun c => { c with rmode := x }) s) else none)
  else if n = 2 then some (some { s with cx := { s.cx with flags := keep v 0x7F } })
  else if n = 3 then
    some (let x := keep v 0x7F; if 1 ≤ x.toNat ∧ x.toNat ≤ 64 then some { s with cx := { s.cx with qdepth := x } } else none)
  else if n = 4 then some (some (updCfg (fun c => { c with fmtsel := keep v 3 }) s))
  else if 8 ≤ n ∧ n < 16 then
    some (let x := keep v 0x3FFF00FF
          if shapeOk x then some (updCfg (fun c => { c with tshape := c.tshape.set! (n - 8) x }) s) else none)
  else if 16 ≤ n ∧ n < 32 then some (some (updCfg (fun c => { c with fmt := c.fmt.set! (n - 16) (keep v 0xF) }) s))
  else if n = 32 then
    some (let x := keep v 0xFFFF1F
          if gcfg0Ok x then some (updCfg (fun c => { c with gcfg := c.gcfg.set 0 x }) s) else none)
  else if n = 33 then
    some (let x := keep v 7; if x.toNat ≤ 4 then some (updCfg (fun c => { c with gcfg := c.gcfg.set 1 x }) s) else none)
  else if n = 34 then some (some (updCfg (fun c => { c with gcfg := c.gcfg.set 2 v }) s))
  else if n = 35 then some (some (updCfg (fun c => { c with gcfg := c.gcfg.set 3 v }) s))
  else if n = 36 then some (some (updCfg (fun c => { c with key := cat128 ((c.key >>> 64).setWidth 64) v }) s))
  else if n = 37 then some (some (updCfg (fun c => { c with key := cat128 v (c.key.setWidth 64) }) s))
  else if n = 38 then some (some (updCfg (fun c => { c with ctr := cat128 ((c.ctr >>> 64).setWidth 64) v }) s))
  else if n = 39 then some (some (updCfg (fun c => { c with ctr := cat128 v (c.ctr.setWidth 64) }) s))
  else if 48 ≤ n ∧ n ≤ 52 then some (some s)
  else none

/-- Changes the privileged registers. -/
def updPriv (f : Priv → Priv) (s : State) : State := { s with cx := { s.cx with pr := f s.cx.pr } }

/-- Writes a privileged register (R331); read-only ones ignore the write (R5). `none`: unassigned. -/
def writePriv (n : Nat) (v : W64) (s : State) : Option State :=
  match n with
  | 0x81 => some (updPriv (fun p => { p with tvec := keep v (2 ^ 52 - 1) }) s)
  | 0x83 => some (updPriv (fun p => { p with tnpc := v }) s)
  | 0x87 => some (updPriv (fun p =>
      let act := if bits v 1 0 = 3 then bits p.tret 1 0 else bits v 1 0
      { p with tret := fields [(bits v 47 32, 32), (act, 0)] }) s)
  | 0x88 => some (updPriv (fun p => { p with tscr0 := v }) s)
  | 0x89 => some (updPriv (fun p => { p with tscr1 := v }) s)
  | 0x8B => some (updPriv (fun p => { p with intpend := p.intpend &&& ~~~ v.setWidth 3 }) s)
  | 0x8C => some (updPriv (fun p => { p with intmask := v.setWidth 3 }) s)
  | 0x8D => some (updPriv (fun p => { p with timer := v }) s)
  | 0x80 | 0x82 | 0x84 | 0x85 | 0x86 | 0x8A | 0x8E | 0x8F => some s
  | _ => none

/-- The queues whose words can write a register that MOVCR reads (R213). -/
def regWriters (n : Nat) : List Queue :=
  if n = 2 then [.varith, .matrix, .gauge, .vload]
  else if n = 34 ∨ n = 35 then [.gauge]
  else if n = 51 ∨ n = 52 then [.matrix]
  else []

/-- Whether an earlier routed word can still write a register. Retained words count only once released. -/
def regPending (n : Nat) (s : State) : Bool :=
  s.cx.fl.pend.any fun e => !e.retained && (regWriters n).contains e.queue

end Sys2Proof.Machine
end

