-- ==== Sys2Proof/Machine/CtlAlu.lean ====
section
/-! DEFINITION. Scalar arithmetic of the control engine (R194 to R197) and NOP (R225). -/

namespace Sys2Proof.Machine

/-- A form D = f(a, b) (R194). -/
def alu2 (f : W64 → W64 → W64) (d : Fin 32) (a b : Src) (s : State) : Host.Outcome State Fault Refusal :=
  ctl (srcRegs [a, b]) (fun s => (readSrc2 a b s).bind fun x s => .done (wr s d (f x.1 x.2))) s

/-- A form D = f(a) (R194, R196). -/
def alu1 (f : W64 → W64) (d : Fin 32) (a : Src) (s : State) : Host.Outcome State Fault Refusal :=
  ctl (srcRegs [a]) (fun s => (readSrc a s).bind fun x s => .done (wr s d (f x))) s

/-- A form that writes a constant (R197). -/
def setReg (d : Fin 32) (v : W64) (s : State) : Host.Outcome State Fault Refusal :=
  ctl [] (fun s => .done (wr s d v)) s

/-- Shift amount b[5:0] (R194). -/
def shamt (b : W64) : Nat := b.toNat % 64

/-- 1 or 0. -/
def ofBool64 (b : Bool) : W64 := if b then 1 else 0

/-- High half of the signed product. -/
def mulhS (a b : W64) : W64 := BitVec.ofInt 64 (a.toInt * b.toInt / 2 ^ 64)

/-- High half of the unsigned product. -/
def mulhU (a b : W64) : W64 := BitVec.ofNat 64 (a.toNat * b.toNat / 2 ^ 64)

/-- DIV (R195). -/
def divS (a b : W64) : W64 := if b = 0 then BitVec.allOnes 64 else BitVec.ofInt 64 (a.toInt.tdiv b.toInt)

/-- REM (R195). -/
def remS (a b : W64) : W64 := if b = 0 then BitVec.allOnes 64 else BitVec.ofInt 64 (a.toInt.tmod b.toInt)

/-- DIVU (R195). -/
def divU (a b : W64) : W64 := if b = 0 then BitVec.allOnes 64 else BitVec.ofNat 64 (a.toNat / b.toNat)

/-- REMU (R195). -/
def remU (a b : W64) : W64 := if b = 0 then BitVec.allOnes 64 else BitVec.ofNat 64 (a.toNat % b.toNat)

/-- Leading zero bits. -/
def clz64 (a : W64) : W64 := if a = 0 then 64 else BitVec.ofNat 64 (63 - Nat.log2 a.toNat)

/-- One bits. -/
def popc64 (a : W64) : W64 := BitVec.ofNat 64 ((List.range 64).filter (a.getLsbD ·)).length

/-- NOP (R225). -/
def execNop (s : State) : Host.Outcome State Fault Refusal := ctl [] .done s
/-- ADD (R194). -/
def execAdd (d : Fin 32) (a b : Src) (s : State) : Host.Outcome State Fault Refusal := alu2 (· + ·) d a b s
/-- SUB (R194). -/
def execSub (d : Fin 32) (a b : Src) (s : State) : Host.Outcome State Fault Refusal := alu2 (· - ·) d a b s
/-- AND (R194). -/
def execAnd (d : Fin 32) (a b : Src) (s : State) : Host.Outcome State Fault Refusal := alu2 (· &&& ·) d a b s
/-- OR (R194). -/
def execOr (d : Fin 32) (a b : Src) (s : State) : Host.Outcome State Fault Refusal := alu2 (· ||| ·) d a b s
/-- XOR (R194). -/
def execXor (d : Fin 32) (a b : Src) (s : State) : Host.Outcome State Fault Refusal := alu2 (· ^^^ ·) d a b s
/-- SHL (R194). -/
def execShl (d : Fin 32) (a b : Src) (s : State) : Host.Outcome State Fault Refusal :=
  alu2 (fun x y => x <<< shamt y) d a b s
/-- SHR (R194). -/
def execShr (d : Fin 32) (a b : Src) (s : State) : Host.Outcome State Fault Refusal :=
  alu2 (fun x y => x >>> shamt y) d a b s
/-- SAR (R194). -/
def execSar (d : Fin 32) (a b : Src) (s : State) : Host.Outcome State Fault Refusal :=
  alu2 (fun x y => x.sshiftRight (shamt y)) d a b s
/-- MUL (R194). -/
def execMul (d : Fin 32) (a b : Src) (s : State) : Host.Outcome State Fault Refusal := alu2 (· * ·) d a b s
/-- MULH (R194). -/
def execMulh (d : Fin 32) (a b : Src) (s : State) : Host.Outcome State Fault Refusal := alu2 mulhS d a b s
/-- MULHU (R194). -/
def execMulhu (d : Fin 32) (a b : Src) (s : State) : Host.Outcome State Fault Refusal := alu2 mulhU d a b s
/-- DIV (R194, R195). -/
def execDiv (d : Fin 32) (a b : Src) (s : State) : Host.Outcome State Fault Refusal := alu2 divS d a b s
/-- DIVU (R194, R195). -/
def execDivu (d : Fin 32) (a b : Src) (s : State) : Host.Outcome State Fault Refusal := alu2 divU d a b s
/-- REM (R194, R195). -/
def execRem (d : Fin 32) (a b : Src) (s : State) : Host.Outcome State Fault Refusal := alu2 remS d a b s
/-- REMU (R194, R195). -/
def execRemu (d : Fin 32) (a b : Src) (s : State) : Host.Outcome State Fault Refusal := alu2 remU d a b s
/-- MIN (R194). -/
def execMin (d : Fin 32) (a b : Src) (s : State) : Host.Outcome State Fault Refusal :=
  alu2 (fun x y => if y.slt x then y else x) d a b s
/-- MAX (R194). -/
def execMax (d : Fin 32) (a b : Src) (s : State) : Host.Outcome State Fault Refusal :=
  alu2 (fun x y => if x.slt y then y else x) d a b s
/-- MINU (R194). -/
def execMinu (d : Fin 32) (a b : Src) (s : State) : Host.Outcome State Fault Refusal :=
  alu2 (fun x y => if y.ult x then y else x) d a b s
/-- MAXU (R194). -/
def execMaxu (d : Fin 32) (a b : Src) (s : State) : Host.Outcome State Fault Refusal :=
  alu2 (fun x y => if x.ult y then y else x) d a b s
/-- SLT (R194). -/
def execSlt (d : Fin 32) (a b : Src) (s : State) : Host.Outcome State Fault Refusal :=
  alu2 (fun x y => ofBool64 (x.slt y)) d a b s
/-- SLTU (R194). -/
def execSltu (d : Fin 32) (a b : Src) (s : State) : Host.Outcome State Fault Refusal :=
  alu2 (fun x y => ofBool64 (x.ult y)) d a b s
/-- SEQ (R194). -/
def execSeq (d : Fin 32) (a b : Src) (s : State) : Host.Outcome State Fault Refusal :=
  alu2 (fun x y => ofBool64 (x == y)) d a b s
/-- CLZ (R194). -/
def execClz (d : Fin 32) (a : Src) (s : State) : Host.Outcome State Fault Refusal := alu1 clz64 d a s
/-- POPC (R194). -/
def execPopc (d : Fin 32) (a : Src) (s : State) : Host.Outcome State Fault Refusal := alu1 popc64 d a s
/-- ADDI (R196). -/
def execAddi (d : Fin 32) (a : Src) (i : BitVec 8) (s : State) : Host.Outcome State Fault Refusal :=
  alu1 (· + i.signExtend 64) d a s
/-- ANDI (R196). -/
def execAndi (d : Fin 32) (a : Src) (i : BitVec 8) (s : State) : Host.Outcome State Fault Refusal :=
  alu1 (· &&& i.signExtend 64) d a s
/-- ORI (R196). -/
def execOri (d : Fin 32) (a : Src) (i : BitVec 8) (s : State) : Host.Outcome State Fault Refusal :=
  alu1 (· ||| i.signExtend 64) d a s
/-- XORI (R196). -/
def execXori (d : Fin 32) (a : Src) (i : BitVec 8) (s : State) : Host.Outcome State Fault Refusal :=
  alu1 (· ^^^ i.signExtend 64) d a s
/-- SHLI (R196). -/
def execShli (d : Fin 32) (a : Src) (i : BitVec 6) (s : State) : Host.Outcome State Fault Refusal :=
  alu1 (· <<< i.toNat) d a s
/-- SHRI (R196). -/
def execShri (d : Fin 32) (a : Src) (i : BitVec 6) (s : State) : Host.Outcome State Fault Refusal :=
  alu1 (· >>> i.toNat) d a s
/-- SARI (R196). -/
def execSari (d : Fin 32) (a : Src) (i : BitVec 6) (s : State) : Host.Outcome State Fault Refusal :=
  alu1 (fun x => x.sshiftRight i.toNat) d a s
/-- LI (R197). -/
def execLi (d : Fin 32) (i : BitVec 15) (s : State) : Host.Outcome State Fault Refusal := setReg d (i.signExtend 64) s
/-- LIX (R197). -/
def execLix (d : Fin 32) (x : BitVec 32) (s : State) : Host.Outcome State Fault Refusal := setReg d (x.signExtend 64) s
/-- LIX64 (R197). -/
def execLix64 (d : Fin 32) (lo hi : BitVec 32) (s : State) : Host.Outcome State Fault Refusal := setReg d (hi ++ lo) s

end Sys2Proof.Machine
end

