-- ==== Sys2Proof/Machine/Queue.lean ====
section
/-! DEFINITION. The engine queues (R12 to R19, R22): when a routed word may start, and what its attempt leaves. A word starts when it is routed unless something holds it; the queues' freedom to start later
is not used (log 17). -/

namespace Sys2Proof.Machine

/-- Whether the control engine's access to bytes of the local window must wait for a routed word (R17, R18). -/
def spadHeld (s : State) (va n : Nat) (w : Bool) : Bool :=
  (s.cx.fl.pend.any fun e => !e.retained && conflict (claims (s.me % 4) e) (spadClaim va n w))
    || conflict (streamsBefore s.cx s.uid) (spadClaim va n w)

/-! ## Which entries may start (R14, R17, R97, R334) -/

/-- Whether a mask names a queue. -/
def maskHas (m : BitVec 7) (q : Queue) : Bool := m.getLsbD (qbit (some q))

/-- Whether a QFENCE of a mask and a serial has something before it that is not complete: an entry of a named queue, or a store of one
that has not left the device (R97). -/
def fenceOpen (s : State) (m : BitVec 7) (u : Nat) : Bool :=
  (s.cx.fl.pend.any fun p => p.uid < u && maskHas m p.queue && !p.retained)
    || s.cx.fl.unacked.any fun x => x.uid < u && m.getLsbD x.q && unsent s x.tag

/-- Whether a QFENCE holds an entry behind earlier entries of the named queues. -/
def fenced (s : State) (e : QEntry) : Bool :=
  s.cx.fl.fences.any fun (m, u) => maskHas m e.queue && u < e.uid && fenceOpen s m u

/-- Whether a QFENCE holds the control engine's accesses. -/
def ctlFenced (s : State) : Bool := s.cx.fl.fences.any fun (m, u) => m.getLsbD 0 && fenceOpen s m u

/-- While a trap or page fault drains, only the words before the faulting one start, and those that have issued or begun go on
(R334). -/
def drainAllows (s : State) (e : QEntry) : Bool :=
  e.issued || e.begun ||
  (match s.cx.fl.drain with | some t => (match t.quid with | some q => e.uid < q | none => true) | none => true)
  && (match s.cx.fl.pf with | some p => (match p.quid with | some q => e.uid < q | none => true) | none => true)

/-- Whether a gang lease claims what an entry touches: every tile register and Z row of a member that is not the
holder (R271). Its multiplies are not held: they fault (R269). -/
def gangClaims (s : State) (e : QEntry) : Bool :=
  s.cx.lease.held && s.cx.lease.gang && !s.cx.lease.holder && (match e.ins with | .mma .. | .mmag .. => false | _ => true)
    && (claims (s.me % 4) e).any fun x => match x.1 with | .tile _ | .z _ _ => true | _ => false

/-- Whether two lists of claims name one resource, read or written. -/
def share (a b : List (Claimed × Bool)) : Bool := a.any fun x => b.any fun y => x.1.meets y.1

/-- The matrix words that wait for the completion of a multiply that runs: MWAIT.z (R271), and MREL, which may end its lease only
then. -/
def waitsMma : Instr → Bool
  | .mwait z _ => z
  | .mrel => true
  | _ => false

/-- The clocks that R266's table gives a matrix word behind a multiply: none for those that its shape does not fix. -/
def tableClocks (e : QEntry) : Option Nat :=
  let rows (t : Fin 8) : Nat := shRows e.cfg.tshape[t]
  match e.ins with
  | .mcvt _ a _ _ _ _ => some (16 + rows a)
  | .mtrn _ a => some (16 + rows a)
  | .mzero _ _ | .mzeroT _ => some 8
  | .mdrain _ _ _ tr _ _ r _ => some ((24 + (r.val + 1)) * (if tr.isSome then 2 else 1))
  | .mkat _ b _ _ => some (16 + (if b = 0 then 0 else e.s[b].toNat) / 64)
  | _ => none

/-- Whether a matrix word may complete before a multiply that runs (R266): it shares no resource with it and its time is shorter. MLDT and
MSTT, whose times are those of their bytes, may (log 112); a later multiply waits for the array. -/
def outruns (core : Nat) (p e : QEntry) : Bool :=
  !share (claims core p) (claims core e) && !waitsMma e.ins
    && (match tableClocks e with | some n => p.time == 0 || n < p.time | none => true)

/-- Whether an earlier routed word lets a later one start: in its own queue it has issued, and a multiply that runs may be passed
(R14, R266); in another one they do not conflict (R17). -/
def letsPass (core : Nat) (p e : QEntry) : Bool :=
  if p.queue = e.queue then
    e.issued || (p.issued && (p.queue != .matrix || outruns core p e))
  else p.retained || !conflict (claims core p) (claims core e)

/-- Whether the arithmetic queue has issued a word in this clock: it issues one (R20). -/
def arithIssued (s : State) (e : QEntry) : Bool := e.queue == .varith && s.cx.fl.arith == some s.clock

/-- Whether an entry may start now. -/
def canStart (s : State) (e : QEntry) : Bool :=
  !e.retained && !arithIssued s e && drainAllows s e && !fenced s e && !gangClaims s e
  && !conflict (streamsBefore s.cx e.uid) (claims (s.me % 4) e)
  && s.cx.fl.pend.all fun p => p.uid == e.uid || e.uid < p.uid || letsPass (s.me % 4) p e

/-! ## CQ and XQ (R21, R22) -/

/-- Which of the two queues a word pushes into: CQ (false) or XQ (true). -/
def pushesTo : Instr → Option Bool
  | .vanyq _ _ | .vallq _ _ => some false
  | .vxq _ _ _ | .mpop _ _ => some true
  | _ => none

/-- Whether CQ or XQ is full. -/
def queueFull (c : Ctx) (x : Bool) : Bool := if x then 16 ≤ c.xq.length else 16 ≤ c.cq.length

/-- The oldest word of a queue. -/
def headOf (s : State) (q : Queue) : Option QEntry := s.cx.fl.pend.find? (·.queue == q)

/-- Whether a word is held by a full CQ or XQ. -/
def heldByFull (s : State) (e : QEntry) : Bool :=
  match pushesTo e.ins with | some x => queueFull s.cx x | none => false

/-- A pop from an empty CQ or XQ: QUEUE where nothing can fill it (R22), else a wait. -/
def popEmpty (x : Bool) (s : State) : Act :=
  let arith := s.cx.fl.pend.filter fun e => e.queue == .varith && !e.retained
  let stuck := match headOf s .varith with | some e => heldByFull s e | none => false
  if !arith.any (fun e => pushesTo e.ins == some x) || stuck then .trap cQUEUE s.cx.pc 0 s
  else .wait .other s

/-! ## Attempts and routing -/

/-- What an attempt at a queued word comes to, and how much of it is complete. -/
abbrev QAct := Act × Nat

/-- Replaces a routed entry. -/
def setEntry (e : QEntry) (s : State) : State :=
  { s with cx := { s.cx with fl := { s.cx.fl with pend := s.cx.fl.pend.map fun p => if p.uid = e.uid then e else p } } }

/-- Removes a completed entry, and the QFENCE groups that have nothing before them any more. -/
def dropEntry (u : Nat) (s : State) : State :=
  let pend := s.cx.fl.pend.filter (·.uid != u)
  { s with cx := { s.cx with fl := { s.cx.fl with
      pend := pend, fences := s.cx.fl.fences.filter fun f => pend.any (·.uid < f.2) || s.cx.fl.unacked.any (·.uid < f.2) } } }

/-- The words that have issued while they still wait for an answer; later words of the copy queue start behind them
(R295, R309, R312, R313). -/
def inBackground : Instr → Bool
  | .opk _ _ _ _ | .cjoin _ _ _ _ | .cstore _ _ _ _ | .fred _ _ _ _ _ _ | .fredw _ _ _ _ | .frel => true
  | _ => false

/-- Changes the count of retired instructions of the moving context. -/
def updRetired (f : W64 → W64) (s : State) : State := { s with cx := { s.cx with retired := f s.cx.retired } }

/-- A word that faults is not counted; its entry stays, and has not issued (R222, R334). -/
def faultEntry (e : QEntry) (s : State) : State :=
  setEntry { e with counted := false, issued := false, begun := false } (if e.counted then updRetired (· - 1) s else s)

/-- A word is counted when it is reissued after a fault (R222). -/
def countEntry (e : QEntry) (s : State) : State :=
  if e.counted then s else setEntry { e with counted := true } (updRetired (· + 1) s)

/-- The arithmetic queue has issued a word in this clock (R20). -/
def noteArith (s : State) : State := { s with cx := { s.cx with fl := { s.cx.fl with arith := some s.clock } } }

/-- What an attempt at an entry, which stands in the list and is counted, leaves. -/
def settleEntry (e : QEntry) (r : QAct) : State :=
  let asks : Bool := match r.1 with | .wait _ s => s.cx.fl.reqs.any (·.q == qbit (some e.queue)) | _ => false
  let e := { e with done := r.2, issued := e.issued || (inBackground e.ins && r.2 != 0), begun := e.begun || r.2 != 0 || asks
                    counted := true }
  match r.1 with
  | .done s =>
    let s := dropEntry e.uid s
    if holdsControl e.ins then { s with cx := { s.cx with fl := { s.cx.fl with wait := .none } } }
    else if e.queue = .varith then noteArith s
    else s
  | .left s => s
  | .trap c addr i s =>
    startTrap { cause := c, taddr := if c = cSTARVED then e.pc else addr, tinfo := BitVec.ofNat 64 i, tepc := e.pc, tnpc := s.cx.pc,
                queue := qbit (some e.queue), quid := some e.uid } (faultEntry e s)
  | .late cause pc addr s => startTrap { cause := cause, taddr := addr, tepc := pc, tnpc := s.cx.pc } (faultEntry e s)
  | .absent h addr k s =>
    if faultRoute h s then startFault h addr k (some e.uid) (faultEntry e s)
    else startTrap { cause := cSTARVED, taddr := e.pc, tepc := e.pc, tnpc := s.cx.pc, queue := qbit (some e.queue), quid := some e.uid }
      (faultEntry e s)
  | .wait w s =>
    let s := setEntry e s
    if holdsControl e.ins then
      { s with cx := { s.cx with fl := { s.cx.fl with wait := w, waitSince := if s.cx.fl.wait = w then s.cx.fl.waitSince else s.clock } } }
    else s

/-- Words of a queue that have not completed (R15). -/
def slip (s : State) (q : Queue) : Nat := (s.cx.fl.pend.filter (·.queue == q)).length

/-- Routes a word (R12, R13, R15, R22): its S operands must have been delivered, its queue must have room, its
routing checks must pass; then it is placed with what it captures, and started if nothing holds it. -/
def routeQ (q : Queue) (i : Instr) (rs : List (Fin 32)) (chk : State → Option Act) (atRoute : State → State)
    (body : QEntry → State → QAct) (s : State) : Host.Outcome State Fault Refusal :=
  let stall : State → Act := fun s =>
    if s.cx.qdepth.toNat ≤ slip s q then
      (match headOf s q with
       | some e => if heldByFull s e then .trap cQUEUE s.cx.pc 0 s else .wait .other s
       | none => .wait .other s)
    else match chk s with
      | some a => a
      | none =>
        let (u, s) := takeUid s
        let e : QEntry := { uid := u, queue := q, ins := i, pc := s.cx.pc, s := s.cx.s, cfg := s.cx.cfg, note := feedId i s.cx }
        let s := complete (atRoute s)
        let s := { s with cx := { s.cx with fl := { s.cx.fl with pend := s.cx.fl.pend ++ [e] } } }
        .left (if canStart s e then settleEntry e (body e s) else s)
  .next (finish s (interlock rs stall s))

end Sys2Proof.Machine
end

