-- ==== Sys2Proof/Machine/Mmio.lean ====
section
/-! DEFINITION. The MMIO registers (R443): their places, their reads and writes with the rule of each register
(R56, R57, R122, R129, R135, R407, R418, R419, R431, R439). -/

namespace Sys2Proof.Machine

/-- What an address of the MMIO range holds. -/
inductive MReg where
  | lincfg | linstat | pwrcfg | ecwt | thermcfg
  | coreMap (n : Nat)
  | fqcfg | fqsig | fans | fstat
  | stcfg (k : Nat)
  | hbmhlth (k : Nat)
  | thrtime (k : Nat)
  | idleen | recen | quarn
  | lineage (i w : Nat)
  | none
  deriving DecidableEq, Repr

/-- The register that an 8-byte place of the MMIO range holds (R443). -/
def mregAt (pa : Nat) : MReg :=
  let pg := (pa - 0xF0000000000) / 2 ^ 16; let off := pa % 2 ^ 16 / 8 * 8
  if 0xF0400000000 ≤ pa ∧ pa < 0xF0800000000 then .lineage ((pa - 0xF0400000000) / 64) (pa % 64 / 8)
  else match pg with
    | 0 => if off = 0 then .lincfg else if off = 8 then .linstat else .none
    | 1 => if off = 0 then .pwrcfg else if off = 8 then .ecwt else if off = 16 then .thermcfg else .none
    | 2 => if off < 8 * 384 then .coreMap (off / 8) else .none
    | 3 => if off = 0 then .fqcfg else if off = 8 then .fqsig else if off = 16 then .fans
           else if off = 24 then .fstat else .none
    | 4 => if 0x100 ≤ off ∧ off < 0x100 + 8 * 24 then .stcfg ((off - 0x100) / 8) else .none
    | 5 => if off < 0x40 then .hbmhlth (off / 8) else if off < 0x60 then .thrtime ((off - 0x40) / 8)
           else if off = 0x60 then .idleen else if off = 0x68 then .recen else if off = 0x70 then .quarn else .none
    | _ => .none

/-- Changes the MMIO record. -/
def updMmio (f : Mmio → Mmio) (s : State) : State := { s with mmio := f s.mmio }

/-- The part of a register that an access reaches, as a mask. -/
def halfMask : Half → W64
  | .whole => BitVec.allOnes 64
  | .low => 0xFFFFFFFF
  | .high => 0xFFFFFFFF00000000

/-- A write of a part, the rest as it stands: a half is given in the low 32 bits of `v` (R443). -/
def mergeHalf (old v : W64) : Half → W64
  | .whole => v
  | .low => (old &&& ~~~ halfMask .low) ||| (v &&& halfMask .low)
  | .high => (old &&& halfMask .low) ||| (v <<< 32)

/-- What a read of a part returns. -/
def halfOf (v : W64) : Half → W64
  | .whole => v
  | .low => v &&& halfMask .low
  | .high => v >>> 32

/-! ## Reads -/

/-- LINSTAT's read clears FAILEDN when it reaches the low half (R57). -/
def linstatReadOp (h : Half) (s : State) : W64 × State :=
  (halfOf (linstat s) h, if h = .high then s else updMmio (fun m => { m with failedn := 0 }) s)

/-- FSTAT's read clears ORPHAN when it reaches the high half (R419). -/
def fstatReadOp (h : Half) (s : State) : W64 × State :=
  (halfOf (fstat s) h, if h = .low then s else updMmio (fun m => { m with orphan := 0 }) s)

/-- A stack's health register clears the counts of the part that is read (R439). -/
def hbmhlthReadOp (k : Nat) (h : Half) (s : State) : W64 × State :=
  let v := (s.mmio.hbmhlth[k]?).getD 0
  (halfOf v h, updMmio (fun m => { m with hbmhlth := m.hbmhlth.set! k (v &&& ~~~ halfMask h) }) s)

/-- A read of an MMIO place. -/
def mmioReadOp (pa : Nat) (h : Half) (s : State) : W64 × State :=
  match mregAt pa with
  | .lincfg => (halfOf s.mmio.lincfg h, s)
  | .linstat => linstatReadOp h s
  | .pwrcfg => (halfOf s.mmio.pwrcfg h, s)
  | .ecwt => (halfOf s.mmio.ecwt h, s)
  | .thermcfg => (halfOf s.mmio.thermcfg h, s)
  | .coreMap n => (halfOf ((s.mmio.coreMap[n]?.getD 0).setWidth 64) h, s)
  | .fqcfg => (halfOf s.mmio.fqcfg h, s)
  | .fqsig => (halfOf s.mmio.fqsig h, s)
  | .fans => (0, s)
  | .fstat => fstatReadOp h s
  | .stcfg k => (halfOf (match s.fab.st[k]? with | some t => stcfgWord t | Option.none => 0) h, s)
  | .hbmhlth k => hbmhlthReadOp k h s
  | .thrtime k => (halfOf (s.mmio.thrtime[k]?.getD 0) h, s)
  | .idleen => (halfOf s.mmio.idleen h, s)
  | .recen => (halfOf s.mmio.recen h, s)
  | .quarn => (halfOf (BitVec.ofNat 64 s.mmio.quarUnits.length) h, s)
  | .lineage i w => (halfOf (lineageWord s i w) h, s)
  | .none => (0, s)

/-! ## Writes -/

/-- LINCFG (R56, R57): PLACE refuses 3; a new buddy starts the copy, and holds nothing of it yet (R51). -/
def lincfgWriteOp (h : Half) (v : W64) (s : State) : State :=
  let old := s.mmio.lincfg
  let x := keep (mergeHalf old v h) 0xFFF80F0000000000
  let x := if bits x 52 51 = 3 then (x &&& ~~~ (0x18000000000000 : W64)) ||| (old &&& 0x18000000000000) else x
  let s := updMmio (fun m => { m with lincfg := x }) s
  if x.getLsbD 53 ∧ (bits x 63 54 ≠ bits old 63 54 ∨ !old.getLsbD 53) then
    { s with lin := { s.lin with copying := true, mirrored := [] } }
  else s

/-- CAPW within its limits (R135). -/
def clampCap (n : Nat) : Nat := Nat.max 100 (Nat.min 1800 n)

/-- PWRCFG (R135). A new limit applies from the next interval of 1 µs: until then the limit in force stands. -/
def pwrcfgWriteOp (h : Half) (v : W64) (s : State) : State :=
  let old := s.mmio.pwrcfg
  let x := mergeHalf old v h
  let ramp := if 5 ≤ bits x 21 16 ∧ bits x 21 16 ≤ 40 then bits x 21 16 else bits old 21 16
  let ginc := if 1 ≤ bits x 7 0 ∧ bits x 7 0 ≤ 200 then bits x 7 0 else bits old 7 0
  updMmio (fun m => { m with pwrcfg := fields [(clampCap (bits x 47 32), 32), (ramp, 16), (ginc, 0)] })
    { s with gov := { s.gov with limit := some (increments s, (s.clock / micros 1 + 1) * micros 1) } }

/-- ECWT (R129). -/
def ecwtWriteOp (h : Half) (v : W64) (s : State) : State :=
  updMmio (fun m => { m with ecwt := mergeHalf m.ecwt v h }) s

/-- THERMCFG (R431). -/
def thermcfgWriteOp (h : Half) (v : W64) (s : State) : State :=
  let old := s.mmio.thermcfg
  let x := mergeHalf old v h
  let hy := if 1 ≤ bits x 15 8 ∧ bits x 15 8 ≤ 20 then bits x 15 8 else bits old 15 8
  let tl := if 70 ≤ bits x 7 0 ∧ bits x 7 0 ≤ 105 then bits x 7 0 else bits old 7 0
  updMmio (fun m => { m with thermcfg := fields [(hy, 8), (tl, 0)] }) s

/-- A core-map entry (R122): ignored, with a placement event, where it would name a physical core twice. -/
def coreMapWriteOp (n : Nat) (h : Half) (v : W64) (s : State) : State :=
  match s.mmio.coreMap[n]? with
  | Option.none => s
  | some old =>
    let x : BitVec 9 := (mergeHalf (old.setWidth 64) v h).setWidth 9
    let dup := x.toNat < 384 && (List.range 384).any fun i => i != n && s.mmio.coreMap[i]? == some x
    if dup then event 6 1 wholeDevice (BitVec.ofNat 64 n) 0 s
    else updMmio (fun m => { m with coreMap := m.coreMap.set! n x }) s

/-- A waiter is answered: here, or through the fabric (R333). -/
def answerWaiter (ans : FaultAns) (w : Nat × Nat) (s : State) : State :=
  if w.1 = s.dev.val then raiseDue (.faultAnswer w.2 ans) s
  else send (.words 6 w.1 [BitVec.ofNat 64 w.2, match ans with | .retry => 0 | .refuseAbsent => 1 | .refusePerm => 2]) s

/-- FANS (R419): acts on an ST64 only. -/
def fansWriteOp (h : Half) (v : W64) (s : State) : State :=
  if h ≠ .whole then s
  else
    let asid : BitVec 16 := BitVec.ofNat 16 (bits v 63 48); let page : BitVec 36 := BitVec.ofNat 36 (bits v 47 12)
    let ans : Option FaultAns := match bits v 1 0 with
      | 0 => some .retry | 1 => some .refuseAbsent | 2 => some .refusePerm | _ => Option.none
    match ans with
    | Option.none => s
    | some a =>
      match s.xl.waiters.find? fun w => w.asid == asid && w.page == page with
      | Option.none => updMmio (fun m => { m with orphan := if m.orphan = 0xFFFF then m.orphan else m.orphan + 1 }) s
      | some w =>
        let s := { s with xl := { s.xl with waiters := s.xl.waiters.filter (· != w) } }
        w.who.foldl (fun s x => answerWaiter a x s) s

/-- STCFG (R407): MODE. -/
def stcfgWriteOp (k : Nat) (h : Half) (v : W64) (s : State) : State :=
  if h = .high then s
  else match s.fab.st[k]? with
    | some t => { s with fab := { s.fab with st := s.fab.st.set! k { t with mode := v.getLsbD 0 } } }
    | Option.none => s

/-- FQCFG, FQSIG, and every register that ignores writes (R5, R418, R443). -/
def plainMmioWriteOp (pa : Nat) (h : Half) (v : W64) (s : State) : State :=
  match mregAt pa with
  | .fqcfg => updMmio (fun m => { m with fqcfg := keep (mergeHalf m.fqcfg v h) 0xFFFFFFFFFF0 }) s
  | .fqsig => updMmio (fun m => { m with fqsig := mergeHalf m.fqsig v h }) s
  | _ => s

/-- A write of an MMIO place. -/
def mmioWriteOp (pa : Nat) (h : Half) (v : W64) (s : State) : State :=
  match mregAt pa with
  | .lincfg => lincfgWriteOp h v s
  | .pwrcfg => pwrcfgWriteOp h v s
  | .ecwt => ecwtWriteOp h v s
  | .thermcfg => thermcfgWriteOp h v s
  | .coreMap n => coreMapWriteOp n h v s
  | .fans => fansWriteOp h v s
  | .stcfg k => stcfgWriteOp k h v s
  | _ => plainMmioWriteOp pa h v s

/-- The part that an access of `n` bytes at `pa` reaches. -/
def halfAt (pa n : Nat) : Half := if n = 8 then .whole else if pa % 8 = 0 then .low else .high

end Sys2Proof.Machine
end

