-- ==== Sys2Proof/Machine/CtlMem.lean ====
section
/-! DEFINITION. Loads and stores of the control engine (R198, R199) and the atomics (R200 to R205, R93 to R96), with
what a unit does for one, here or for a peer. -/

namespace Sys2Proof.Machine

/-! ## Loads and stores (R198, R199) -/

/-- The effective address a + sext(I) × n. -/
def effAddr (a : W64) (i : BitVec 8) (n : Nat) : W64 := a + i.signExtend 64 * BitVec.ofNat 64 n

/-- What a load writes to its register. -/
def loadValue (n : Nat) (signed : Bool) (bs : List Byte) : W64 :=
  let v := natOf bs
  if signed then BitVec.ofInt 64 (BitVec.ofNat (8 * n) v).toInt else BitVec.ofNat 64 v

/-- The checks of R199 before the data moves: ALIGN, then the rest of R82. -/
def ctlCheck (cls : AccCls) (perm : Perm) (ea : W64) (n : Nat) (s : State) : Res (List Seg) :=
  if ea.toNat % n ≠ 0 then .stop (.trap cALIGN ea 0 s) else access 0 cls perm ea.toNat n s

/-- A load of `n` bytes (R199): from the window, an MMIO register or this device's memory at once; from another
device or a host as an outstanding load. -/
def loadBody (ins : Instr) (d : Fin 32) (a : Src) (i : BitVec 8) (s : State) : Act :=
  let (n, signed) := accessWidth ins
  (readSrc a s).bind fun base s =>
    let ea := effAddr base i n
    (ctlCheck (if signed then .ctlSigned else .ctl n) .rd ea n s).bind fun gs s =>
      match gs with
      | [g] =>
        if ctlFenced s || (g.own && spadHeld s ea.toNat n false) then .wait .other s
        else if g.ty = 6 then
          let (v, s) := mmioReadOp g.pa (halfAt g.pa n) s
          .done (wr s d v)
        else if g.ty = 4 ∨ g.ty = 5 then
          let fixed := (List.range n).map fun k => pinned s.cx 0 (g.loc + k)
          if fixed.all Option.isSome then .done (wr s d (loadValue n signed (fixed.map (·.getD 0))))
          else if g.ty = 4 && !chanUp s 0 then starved s
          else if segMoved g s then .wait .other s
          else
            let (u, s) := askRemote g s
            let s := wr s d (sget s.cx d)
            .done { s with cx := { s.cx with fl := { s.cx.fl with
              loads := s.cx.fl.loads ++ [{ uid := u, ins := ins, pc := s.cx.pc, dests := if d = 0 then [] else [d], addr := ea, tag := u, loc := g.loc
                                           rkey := g.rkey, fixed := fixed }] } } }
        else match (if g.own then none else s.mem.poisoned g.pa n) with
          | some _ =>
            let s := wr s d (sget s.cx d)
            .done { s with cx := { s.cx with fl := { s.cx.fl with
              late := s.cx.fl.late ++ [⟨cECC, s.cx.pc, BitVec.ofNat 64 (ea.toNat / 64 * 64), [d]⟩] } } }
          | none => (readSeg 0 g s).bind fun bs s => .done (wr s d (loadValue n signed bs))
      | _ => .trap cSTRADDLE ea 0 s

/-- The execution of a load. -/
def load (ins : Instr) (d : Fin 32) (a : Src) (i : BitVec 8) (s : State) : Host.Outcome State Fault Refusal :=
  ctl (srcRegs [a]) (loadBody ins d a i) s

/-- A store of `n` bytes (R199). -/
def storeBody (ins : Instr) (d a : Src) (i : BitVec 8) (s : State) : Act :=
  let (n, _) := accessWidth ins
  (readSrc a s).bind fun base s => (readSrc d s).bind fun v s =>
    let ea := effAddr base i n
    (ctlCheck (.ctl n) .wr ea n s).bind fun gs s =>
      match gs with
      | [g] =>
        if ctlFenced s || (g.own && spadHeld s ea.toNat n true) || storeHeld s.uid gs s then .wait .other s
        else if g.ty = 6 then .done (mmioWriteOp g.pa (halfAt g.pa n) v s)
        else .done (writeSeg 0 g (bytesOf n v.toNat) s)
      | _ => .trap cSTRADDLE ea 0 s

/-- The execution of a store. -/
def store (ins : Instr) (d a : Src) (i : BitVec 8) (s : State) : Host.Outcome State Fault Refusal :=
  ctl (srcRegs [a, d]) (storeBody ins d a i) s

/-- LD8 (R198). -/
def execLd8 (d : Fin 32) (a : Src) (i : BitVec 8) (s : State) : Host.Outcome State Fault Refusal := load (.ld8 d a i) d a i s
/-- LD16 (R198). -/
def execLd16 (d : Fin 32) (a : Src) (i : BitVec 8) (s : State) : Host.Outcome State Fault Refusal := load (.ld16 d a i) d a i s
/-- LD32 (R198). -/
def execLd32 (d : Fin 32) (a : Src) (i : BitVec 8) (s : State) : Host.Outcome State Fault Refusal := load (.ld32 d a i) d a i s
/-- LD64 (R198). -/
def execLd64 (d : Fin 32) (a : Src) (i : BitVec 8) (s : State) : Host.Outcome State Fault Refusal := load (.ld64 d a i) d a i s
/-- LDS8 (R198). -/
def execLds8 (d : Fin 32) (a : Src) (i : BitVec 8) (s : State) : Host.Outcome State Fault Refusal := load (.lds8 d a i) d a i s
/-- LDS16 (R198). -/
def execLds16 (d : Fin 32) (a : Src) (i : BitVec 8) (s : State) : Host.Outcome State Fault Refusal :=
  load (.lds16 d a i) d a i s
/-- LDS32 (R198). -/
def execLds32 (d : Fin 32) (a : Src) (i : BitVec 8) (s : State) : Host.Outcome State Fault Refusal :=
  load (.lds32 d a i) d a i s
/-- ST8 (R198). -/
def execSt8 (d a : Src) (i : BitVec 8) (s : State) : Host.Outcome State Fault Refusal := store (.st8 d a i) d a i s
/-- ST16 (R198). -/
def execSt16 (d a : Src) (i : BitVec 8) (s : State) : Host.Outcome State Fault Refusal := store (.st16 d a i) d a i s
/-- ST32 (R198). -/
def execSt32 (d a : Src) (i : BitVec 8) (s : State) : Host.Outcome State Fault Refusal := store (.st32 d a i) d a i s
/-- ST64 (R198). -/
def execSt64 (d a : Src) (i : BitVec 8) (s : State) : Host.Outcome State Fault Refusal := store (.st64 d a i) d a i s

/-! ## Atomics at a unit (R93, R94, R201 to R205) -/

/-- The new value of an atomic, none where it writes nothing (R201). Values are of `w` bits. -/
def amoNew (op : AmoOp) (w : Nat) (old c e : Nat) : Option Nat :=
  let x : BitVec w := BitVec.ofNat w old; let y : BitVec w := BitVec.ofNat w c
  match op with
  | .add => some (x + y).toNat
  | .swp => some y.toNat
  | .and => some (x &&& y).toNat
  | .or => some (x ||| y).toNat
  | .xor => some (x ^^^ y).toNat
  | .min => some (if y.slt x then y else x).toNat
  | .max => some (if x.slt y then y else x).toNat
  | .minu => some (if y.ult x then y else x).toNat
  | .maxu => some (if x.ult y then y else x).toNat
  | .cas => if x = BitVec.ofNat w e then some y.toNat else none

/-- What a unit did: its answer's bytes, or an unreadable block's address. -/
abbrev UnitAns := Sum (List Byte) Nat

/-- Reads `n` bytes at a unit, or the unreadable block. -/
def unitRead (m : Memory) (key : Option (BitVec 512)) (pa n : Nat) : Sum Nat Nat :=
  match m.poisoned pa n with
  | some b => .inr b
  | none => .inl (natOf (m.read key pa n))

/-- An atomic on 4 or 8 bytes (R201): the old value. -/
def unitAmo (op : AmoOp) (n pa c e : Nat) (key : Option (BitVec 512)) (m : Memory) : UnitAns × Memory :=
  match unitRead m key pa n with
  | .inr b => (.inr b, m)
  | .inl old =>
    (.inl (bytesOf n old), match amoNew op (8 * n) old c e with
      | some v => m.write key pa (bytesOf n v)
      | none => m)

/-- AMOCAS2 (R202). -/
def unitCas2 (pa e c : Nat) (key : Option (BitVec 512)) (m : Memory) : UnitAns × Memory :=
  match unitRead m key pa 16 with
  | .inr b => (.inr b, m)
  | .inl old => (.inl (bytesOf 16 old), if old = e then m.write key pa (bytesOf 16 c) else m)

/-- A queue descriptor: TAIL, HEAD, capacity; none where it is bad (R203). `hi` is the end of its page. -/
def queueDesc (d pa hi : Nat) : Option (Nat × Nat × Nat) :=
  let logn := d / 2 ^ 64 % 32
  if d / 2 ^ 69 ≠ 0 ∨ logn < 1 ∨ 20 < logn ∨ hi < pa + 16 + 8 * 2 ^ logn then none
  else some (d / 2 ^ 32 % 2 ^ 32, d % 2 ^ 32, 2 ^ logn)

/-- LENQ (R203): the 8 bytes of A. -/
def unitLenq (pa hi c : Nat) (key : Option (BitVec 512)) (m : Memory) : UnitAns × Memory :=
  match unitRead m key pa 16 with
  | .inr b => (.inr b, m)
  | .inl d =>
    match queueDesc d pa hi with
    | none => (.inl (bytesOf 8 0xFFFFFFFFFFFFFFFE), m)
    | some (tail, head, cap) =>
      if (tail + 2 ^ 32 - head) % 2 ^ 32 = cap then (.inl (bytesOf 8 0xFFFFFFFFFFFFFFFF), m)
      else
        let m := m.write key (pa + 16 + 8 * (tail % cap)) (bytesOf 8 c)
        (.inl (bytesOf 8 tail), m.write key (pa + 4) (bytesOf 4 ((tail + 1) % 2 ^ 32)))

/-- LDEQ (R203): the 8 bytes of A, then the 8 of C. -/
def unitLdeq (pa hi : Nat) (key : Option (BitVec 512)) (m : Memory) : UnitAns × Memory :=
  match unitRead m key pa 16 with
  | .inr b => (.inr b, m)
  | .inl d =>
    match queueDesc d pa hi with
    | none => (.inl (bytesOf 8 0 ++ bytesOf 8 2), m)
    | some (tail, head, cap) =>
      if tail = head then (.inl (bytesOf 8 0 ++ bytesOf 8 0), m)
      else match unitRead m key (pa + 16 + 8 * (head % cap)) 8 with
        | .inr b => (.inr b, m)
        | .inl v => (.inl (bytesOf 8 v ++ bytesOf 8 1), m.write key pa (bytesOf 4 ((head + 1) % 2 ^ 32)))

/-- The pointers of PCHASE (R205): `delta` turns a virtual address of the page into a physical one. -/
def chaseFrom (m : Memory) (key : Option (BitVec 512)) (lo hi link : Nat) (toPa : Nat → Nat) : Nat → Nat → Sum Nat Nat
  | 0, p => .inl p
  | n + 1, p =>
    let x := p + link
    if p = 0 ∨ x % 8 ≠ 0 ∨ x < lo ∨ hi < x + 8 then .inl p
    else match unitRead m key (toPa x) 8 with
      | .inr b => .inr b
      | .inl q => chaseFrom m key lo hi link toPa n q

/-- PCHASE (R205): `pa` holds the virtual address `b` of the page from `lo` to `hi`. -/
def unitChase (pa b lo hi n link : Nat) (key : Option (BitVec 512)) (m : Memory) : UnitAns × Memory :=
  match chaseFrom m key lo hi link (fun x => pa + x - b) n b with
  | .inr k => (.inr k, m)
  | .inl p => (.inl (bytesOf 8 p), m)

/-! ## Atomics of the control engine (R95, R200) -/

/-- The page of `va`: first virtual address and the address after its last byte (R203, R205). -/
def pageSpan (s : State) (va : Nat) : Nat × Nat :=
  let e := match s.xl.tlb.find? fun e => (cachesOf s.me 0).contains e.at_ && e.covers s.cx.pr.asid va with
    | some e => some e
    | none => (walkPage s s.cx.pr.asid va).2
  match e with
  | some e => (e.page * 2 ^ 16, (e.page + e.pages) * 2 ^ 16)
  | none => (va / 2 ^ 16 * 2 ^ 16, va / 2 ^ 16 * 2 ^ 16 + 2 ^ 16)

/-- The registers that an answer's words go to: A (and A + 1, or C). -/
def answerRegs (bs : List Byte) (dests : List (Fin 32)) : List (Fin 32 × W64) :=
  dests.mapIdx fun k r => (r, BitVec.ofNat 64 (natOf ((bs.drop (8 * k)).take 8)))

/-- Writes some registers. -/
def wrAll (l : List (Fin 32 × W64)) (s : State) : State := l.foldl (fun s x => wr s x.1 x.2) s

/-- The bytes of a load: what the phase had fixed when it was issued, else what came back (R88). -/
def loadBytes (l : OutLoad) (bs : List Byte) : List Byte :=
  (List.range (accessWidth l.ins).1).map fun k => ((l.fixed[k]?).getD none).getD (bs.getD k 0)

/-- The bytes of a delivered load are fixed for its phase: for the loads of that phase in flight, and, where the snapshot has not been
refreshed since it was issued, for the later reads of the context (R88, R90, R92). -/
def pinLoad (stale loc : Nat) (bs : List Byte) (c : Ctx) : Ctx :=
  let c := if stale = 0 then pinRead loc bs c else c
  let fix (l : OutLoad) : OutLoad :=
    if plainLoad l.ins && l.stale == stale then
      { l with fixed := (List.range (accessWidth l.ins).1).map fun k =>
          ((l.fixed[k]?).getD none).or (if loc ≤ l.loc + k then bs[l.loc + k - loc]? else none) }
    else l
  { c with fl := { c.fl with loads := c.fl.loads.map fix } }

/-- The 64-byte block that an answer names as unreadable, as a virtual address: its physical address comes back with the answer to an
atomic (R192, log 91); a load's is its own. -/
def failedBlock (l : OutLoad) (bs : List Byte) : W64 :=
  let own := l.addr.toNat / 64 * 64
  if bs.isEmpty then BitVec.ofNat 64 own else BitVec.ofNat 64 (own + natOf bs / 64 * 64 - (l.loc - 2 ^ 60) % 2 ^ 44 / 64 * 64)

/-- What came back for an outstanding load or atomic reaches its registers (R191, R95); an error stays to be taken
(R192, R393). -/
def deliverLoad (l : OutLoad) (c : Ctx) : Ctx :=
  match l.got with
  | none => c
  | some (st, bs) =>
    let c := { c with fl := { c.fl with loads := c.fl.loads.filter (· != l) } }
    if st = .done then
      if plainLoad l.ins then
        let (n, signed) := accessWidth l.ins
        let bs := loadBytes l bs
        l.dests.foldl (fun c d => sset c d (loadValue n signed bs)) (pinLoad l.stale l.loc bs c)
      else (answerRegs bs l.dests).foldl (fun c x => sset c x.1 x.2) c
    else
      { c with fl := { c.fl with late := c.fl.late ++ [⟨statusCause st, l.pc, if st = .ecc then failedBlock l bs else l.addr, l.regs⟩] } }

/-- Every answer that has come back reaches its registers. -/
def deliverAll (c : Ctx) : Ctx := (c.fl.loads.filter fun l => !isOpk l.ins).foldl (fun c l => deliverLoad l c) c

/-- Whether the moving context's task is replayable. -/
def replayable (s : State) : Bool := match s.cx.task with | some t => replayPkt t.packet | none => false

/-- An atomic (R200): ILLEGAL in a replayable task, the checks of R82, then the unit of its bytes performs it: on this
device at once; at a peer on request, with the answer outstanding (R95). -/
def atomicBody (ins : Instr) (b : W64) (n align : Nat) (dests : List (Fin 32)) (here : Seg → Memory → UnitAns × Memory)
    (there : Seg → RemoteOp) (s : State) : Act :=
  if replayable s then illegal s.cx.pc s
  else if b.toNat % align ≠ 0 then .trap cALIGN b 0 s
  else (access 0 .atomic .rw b.toNat n s).bind fun gs s =>
    match gs with
    | [g] =>
      if ctlFenced s || storeHeld s.uid gs s then .wait .other s
      else if g.ty = 4 then
        let (u, s) := takeUid s
        let s := sendFar g.rdev u g.len (there g) s
        let s := dests.foldl (fun s d => wr s d (sget s.cx d)) s
        .done { s with cx := { s.cx with fl := { s.cx.fl with
          loads := s.cx.fl.loads ++ [{ uid := u, ins := ins, pc := s.cx.pc, dests := dests, addr := b, tag := u, loc := g.loc, rkey := g.rkey }] } } }
      else
        match here g s.mem with
        | (.inl bs, m) => .done (wrAll (answerRegs bs dests) { s with mem := m })
        | (.inr k, m) =>
          -- the failing block lies in the page of `b`
          let s := dests.foldl (fun s d => wr s d (sget s.cx d)) { s with mem := m }
          .done { s with cx := { s.cx with fl := { s.cx.fl with
            late := s.cx.fl.late ++ [⟨cECC, s.cx.pc, BitVec.ofNat 64 (b.toNat / 64 * 64 + k - g.pa / 64 * 64), dests⟩] } } }
    | _ => .trap cSTRADDLE b 0 s

/-- An atomic of 4 or 8 bytes (R201). -/
def amo (op : AmoOp) (ins : Instr) (a b c : Fin 32) (dbl : Bool) (s : State) : Host.Outcome State Fault Refusal :=
  let n := if dbl then 8 else 4
  ctl ([b, c] ++ if op = .cas then [a] else [])
    (fun s =>
      let x := sget s.cx c; let e := sget s.cx a
      atomicBody ins (sget s.cx b) n n [a] (fun g m => unitAmo op n g.pa x.toNat e.toNat g.key m)
        (fun g => .amo op dbl g.pa x e g.rkey) s) s

/-- AMOADD (R201). -/
def execAmoadd (a b c : Fin 32) (dbl : Bool) (s : State) : Host.Outcome State Fault Refusal :=
  amo .add (.amoadd a b c dbl) a b c dbl s
/-- AMOSWP (R201). -/
def execAmoswp (a b c : Fin 32) (dbl : Bool) (s : State) : Host.Outcome State Fault Refusal :=
  amo .swp (.amoswp a b c dbl) a b c dbl s
/-- AMOCAS (R201). -/
def execAmocas (a b c : Fin 32) (dbl : Bool) (s : State) : Host.Outcome State Fault Refusal :=
  amo .cas (.amocas a b c dbl) a b c dbl s
/-- AMOMIN (R201). -/
def execAmomin (a b c : Fin 32) (dbl u : Bool) (s : State) : Host.Outcome State Fault Refusal :=
  amo (if u then .minu else .min) (.amomin a b c dbl u) a b c dbl s
/-- AMOMAX (R201). -/
def execAmomax (a b c : Fin 32) (dbl u : Bool) (s : State) : Host.Outcome State Fault Refusal :=
  amo (if u then .maxu else .max) (.amomax a b c dbl u) a b c dbl s
/-- AMOAND (R201). -/
def execAmoand (a b c : Fin 32) (dbl : Bool) (s : State) : Host.Outcome State Fault Refusal :=
  amo .and (.amoand a b c dbl) a b c dbl s
/-- AMOOR (R201). -/
def execAmoor (a b c : Fin 32) (dbl : Bool) (s : State) : Host.Outcome State Fault Refusal :=
  amo .or (.amoor a b c dbl) a b c dbl s
/-- AMOXOR (R201). -/
def execAmoxor (a b c : Fin 32) (dbl : Bool) (s : State) : Host.Outcome State Fault Refusal :=
  amo .xor (.amoxor a b c dbl) a b c dbl s

/-- The odd register of an even pair (R202). -/
def oddOf (r : Fin 32) : Fin 32 := Fin.ofNat 32 (r.val / 2 * 2 + 1)

/-- AMOCAS2 (R202). -/
def execAmocas2 (a b c : Fin 32) (s : State) : Host.Outcome State Fault Refusal :=
  ctl [a, oddOf a, b, c, oddOf c]
    (fun s =>
      let e := cat128 (sget s.cx (oddOf a)) (sget s.cx a); let x := cat128 (sget s.cx (oddOf c)) (sget s.cx c)
      atomicBody (.amocas2 a b c) (sget s.cx b) 16 16 [a, oddOf a]
        (fun g m => unitCas2 g.pa e.toNat x.toNat g.key m) (fun g => .cas2 g.pa e x g.rkey) s) s

/-- The end, as a physical address, of the page that holds a segment. -/
def pageEnd (s : State) (g : Seg) : Nat := g.pa + (pageSpan s g.va).2 - g.va

/-- LENQ (R203). -/
def execLenq (a b c : Fin 32) (s : State) : Host.Outcome State Fault Refusal :=
  ctl [b, c]
    (fun s =>
      let x := sget s.cx c
      atomicBody (.lenq a b c) (sget s.cx b) 16 16 [a] (fun g m => unitLenq g.pa (pageEnd s g) x.toNat g.key m)
        (fun g => .lenq g.pa (pageEnd s g) x g.rkey) s) s

/-- LDEQ (R203). -/
def execLdeq (a b c : Fin 32) (s : State) : Host.Outcome State Fault Refusal :=
  ctl [b]
    (fun s =>
      atomicBody (.ldeq a b c) (sget s.cx b) 16 16 [a, c] (fun g m => unitLdeq g.pa (pageEnd s g) g.key m)
        (fun g => .ldeq g.pa (pageEnd s g) g.rkey) s) s

/-- PCHASE (R205). -/
def execPchase (a b c : Fin 32) (f : BitVec 7) (s : State) : Host.Outcome State Fault Refusal :=
  ctl [b, c]
    (fun s =>
      let n := Nat.min (sget s.cx c).toNat 256; let link := 8 * f.toNat
      atomicBody (.pchase a b c f) (sget s.cx b) 1 1 [a]
        (fun g m => let p := pageSpan s g.va; unitChase g.pa g.va p.1 p.2 n link g.key m)
        (fun g => let p := pageSpan s g.va; .chase g.pa g.va p.1 p.2 n link g.rkey) s) s

end Sys2Proof.Machine
end

