-- ==== Sys2Proof/Machine/CtlFlow.lean ====
section
/-! DEFINITION. Branches, calls and loops (R206 to R211), the pops of CQ and XQ (R212), control-register moves (R213),
boundaries and fences (R86, R87, R214 to R217), the generator (R220), counters (R221) and TRAP (R224). -/

namespace Sys2Proof.Machine

/-! ## Branches (R179, R206 to R208) -/

/-- The target of a branch with a displacement in lines and a slot (R179). -/
def branchTarget (pc : W64) (disp : W64) (slot : Fin 32) : W64 :=
  BitVec.ofNat 64 (pc.toNat / 128 * 128) + disp * 128 + BitVec.ofNat 64 (4 * slot.val)

/-- The control engine continues at an address. -/
def goto (t : W64) (s : State) : State := { s with cx := { s.cx with npc := t } }

/-- A taken branch: the checks of its target, then what it writes, then the jump. -/
def takeBranch (t : W64) (f : State → State) (s : State) : Act := (checkTarget t s).bind fun _ s => .done (goto t (f s))

/-- B (R206). -/
def execB (disp : BitVec 17) (slot : Fin 32) (s : State) : Host.Outcome State Fault Refusal :=
  ctl [] (fun s => takeBranch (branchTarget s.cx.pc (disp.signExtend 64) slot) id s) s

/-- BZ (R206). -/
def execBz (r : Fin 32) (disp : BitVec 12) (slot : Fin 32) (s : State) : Host.Outcome State Fault Refusal :=
  ctl [r] (fun s => if sget s.cx r = 0 then takeBranch (branchTarget s.cx.pc (disp.signExtend 64) slot) id s else .done s) s

/-- BNZ (R206). -/
def execBnz (r : Fin 32) (disp : BitVec 12) (slot : Fin 32) (s : State) : Host.Outcome State Fault Refusal :=
  ctl [r] (fun s => if sget s.cx r = 0 then .done s else takeBranch (branchTarget s.cx.pc (disp.signExtend 64) slot) id s) s

/-- Removes the head of CQ. -/
def dropCq (s : State) : State := { s with cx := { s.cx with cq := s.cx.cq.drop 1 } }

/-- A branch on the head of CQ (R207): taken where the entry equals `want`; a TARGET fault comes after the pop. -/
def branchCq (want : Bool) (disp : BitVec 12) (slot : Fin 32) (s : State) : Act :=
  match s.cx.cq with
  | [] => popEmpty false s
  | x :: _ =>
    let t := branchTarget s.cx.pc (disp.signExtend 64) slot
    if x != want then .done (dropCq s)
    else
      match checkTarget t s with
      | .ok _ s => .done (goto t (dropCq s))
      | .stop (.trap c a i s) => .trap c a i (if c = cTARGET then dropCq s else s)
      | .stop x => x

/-- BCQ (R207). -/
def execBcq (disp : BitVec 12) (slot : Fin 32) (s : State) : Host.Outcome State Fault Refusal :=
  ctl [] (branchCq true disp slot) s

/-- BCQN (R207). -/
def execBcqn (disp : BitVec 12) (slot : Fin 32) (s : State) : Host.Outcome State Fault Refusal :=
  ctl [] (branchCq false disp slot) s

/-- CALL (R208). -/
def execCall (disp : BitVec 17) (slot : Fin 32) (s : State) : Host.Outcome State Fault Refusal :=
  ctl [] (fun s => takeBranch (branchTarget s.cx.pc (disp.signExtend 64) slot) (fun s => wr s 31 s.cx.npc) s) s

/-- A jump to the value of a source (R208). -/
def jumpTo (a : Src) (f : State → State) (s : State) : Act := (readSrc a s).bind fun t s => takeBranch t f s

/-- CALLR (R208). -/
def execCallr (d : Fin 32) (a : Src) (s : State) : Host.Outcome State Fault Refusal :=
  ctl (srcRegs [a]) (jumpTo a fun s => wr s d s.cx.npc) s

/-- JR (R208). -/
def execJr (a : Src) (s : State) : Host.Outcome State Fault Refusal := ctl (srcRegs [a]) (jumpTo a id) s

/-- RET (R208). -/
def execRet (a : Src) (s : State) : Host.Outcome State Fault Refusal := ctl (srcRegs [a]) (jumpTo a id) s

/-! ## Loops (R209 to R211) -/

/-- Writes a loop counter. -/
def setL (k : Fin 4) (v : W64) (s : State) : State := updCfg (fun c => { c with l := c.l.set k v }) s

/-- The closing of a loop with a count (R211). -/
def closeLoop (k : Fin 4) (count : W64) (disp : BitVec 12) (slot : Fin 32) (s : State) : Act :=
  let n := s.cx.cfg.l[k] + 1
  if n.ult count then takeBranch (branchTarget s.cx.pc (disp.signExtend 64) slot) (setL k n) s else .done (setL k 0 s)

/-- LOOP (R211). -/
def execLoop (op : LoopOp) (k : Fin 4) (s : State) : Host.Outcome State Fault Refusal :=
  match op with
  | .close r disp slot => ctl [r] (fun s => closeLoop k (sget s.cx r) disp slot s) s
  | .set r => ctl [r] (fun s => .done (setL k (sget s.cx r) s)) s
  | .get d => ctl [] (fun s => .done (wr s d s.cx.cfg.l[k])) s

/-- LOOPI (R211). -/
def execLoopi (op : LoopIOp) (k : Fin 4) (s : State) : Host.Outcome State Fault Refusal :=
  match op with
  | .close n disp slot => ctl [] (closeLoop k (n.setWidth 64) disp slot) s
  | .set v => ctl [] (fun s => .done (setL k (v.setWidth 64) s)) s

/-! ## Pops (R212) -/

/-- CQPOP (R212). -/
def execCqpop (d : Fin 32) (s : State) : Host.Outcome State Fault Refusal :=
  ctl [] (fun s => match s.cx.cq with
    | [] => popEmpty false s
    | x :: _ => .done (wr (dropCq s) d (if x then 1 else 0))) s

/-- XQPOP (R212). -/
def execXqpop (d : Fin 32) (s : State) : Host.Outcome State Fault Refusal :=
  ctl [] (fun s => match s.cx.xq with
    | [] => popEmpty true s
    | x :: r => .done (wr { s with cx := { s.cx with xq := r } } d x)) s

/-! ## Control registers (R213) -/

/-- Access to a privileged number from MOVC or MOVCR (R183). -/
def movcPriv (s : State) : Act := if s.cx.pr.priv then illegal s.cx.pc s else .trap cPRIVILEGE s.cx.pc 0 s

/-- MOVC (R213). A stream source is read before an unassigned number is found (log 81). -/
def execMovc (a : Src) (n : BitVec 8) (s : State) : Host.Outcome State Fault Refusal :=
  ctl (srcRegs [a])
    (fun s =>
      if 0x80 ≤ n.toNat then movcPriv s
      else if n = 2 && regPending 2 s then .wait .other s
      else (readSrc a s).bind fun v s =>
        match writeUser n.toNat v s with
        | some (some s) => .done s
        | _ => illegal s.cx.pc s) s

/-- MOVCR (R213). -/
def execMovcr (d : Fin 32) (n : BitVec 8) (s : State) : Host.Outcome State Fault Refusal :=
  ctl []
    (fun s =>
      if 0x80 ≤ n.toNat then movcPriv s
      else if regPending n.toNat s then .wait .other s
      else match readUser n.toNat s with
        | some (v, s) => .done (wr s d v)
        | none => illegal s.cx.pc s) s

/-! ## Boundaries (R86, R87, R90, R214) -/

/-- What a boundary still waits for before its publication part ends: the queues' words, the reads and atomics under
way, and with `far` the acknowledgements of REMOTE and HOST stores. In a handler the entries that the trap retains are not waited for
(log 82). -/
def unpublished (far : Bool) (s : State) : Option Act :=
  match lateOf none s with
  | some a => some a
  | none =>
    if s.cx.fl.pend.any (fun e => !e.retained) || !s.cx.fl.loads.isEmpty || (far && !s.cx.fl.unacked.isEmpty) then
      some (.wait .other s)
    else none

/-- A boundary's completion refreshes the snapshot. -/
def boundaryDone (s : State) : State := { s with cx := refresh s.cx s.mem }

/-- PHASE (R214). -/
def execPhase (sc : Scope) (s : State) : Host.Outcome State Fault Refusal :=
  ctl []
    (fun s => match unpublished (sc == .pod) s with
      | some a => a
      | none => .done (boundaryDone s)) s

/-- The other devices of a .pod scope: those of the holder mask of the moving context's ASID (R10) that are not lost. -/
def podOthers (s : State) : List Nat :=
  match bindOf s.xl s.cx.pr.asid with
  | some b => (List.range 1024).filter fun d => b.mask.getLsbD d && d != s.dev.val && !devLost s d
  | none => []

/-- Whether a physical core lies in the scope of another (R10); of .pod, the cores of this device. -/
def inScope (sc : Scope) (a b : Nat) : Bool :=
  match sc with
  | .lane | .core => a == b
  | .quad => quadOf a == quadOf b
  | .die => dieOf a == dieOf b
  | .pkg | .pod => true

/-- The tasks with the core that each counts at in a barrier (R11). -/
def barrierTasks (s : State) : List (Nat × TaskRun) :=
  (banks s).filterMap (fun (n, _, c) => c.task.map (n, ·))
    ++ s.dist.images.filterMap (fun i => i.ctx.task.map (i.core, ·))

/-- The participants of a barrier that task `t` issues on the moving core (R11). -/
def participants (s : State) (sc : Scope) (t : TaskRun) : List TaskId :=
  ((barrierTasks s).filter fun (n, u) =>
    u.info.asid == t.info.asid && u.info.id == t.info.id && u.started.isSome
      && inScope sc s.me n).map fun x => taskId x.2

/-- The arrival of a task at a barrier: at an instance that it belongs to, or a new one (R11, R215). The other devices of a .pod scope
learn of it when every participant here has arrived. -/
def arrive (sc : Scope) (t : TaskRun) (s : State) : Act :=
  let me := taskId t
  match s.dist.barriers.find? fun b => b.scope == sc && b.members.contains me && !b.arrived.contains me with
  | some b =>
    .wait (.barrier b.k) (barrierCheck { s with dist := { s.dist with barriers := s.dist.barriers.map fun x =>
      if x.k = b.k then { x with arrived := x.arrived ++ [me] } else x } })
  | none =>
    let (k, s) := takeUid s
    let ms := participants s sc t
    let b : Barrier := { k := k, scope := sc, home := s.me, members := if ms.contains me then ms else me :: ms, arrived := [me]
                         others := if sc = .pod then podOthers s else [], id := t.info.id, since := s.clock }
    .wait (.barrier k) (barrierCheck { s with dist := { s.dist with barriers := s.dist.barriers ++ [b] } })

/-- BAR (R214): the PHASE's publication part, then the arrival; BARRIER_COMPLETE completes the word. -/
def execBar (sc : Scope) (s : State) : Host.Outcome State Fault Refusal :=
  ctl []
    (fun s =>
      match s.cx.fl.wait with
      | .barrier k => .wait (.barrier k) s
      | _ =>
        match unpublished (sc == .pod) s with
        | some a => a
        | none =>
          if sc = .core then .done (boundaryDone s)
          else match s.cx.task with
            | some t => arrive sc t s
            | none => .done (boundaryDone s)) s

/-- FENCE (R216): earlier atomics and operation packets have answered. -/
def execFence (s : State) : Host.Outcome State Fault Refusal :=
  ctl []
    (fun s => match lateOf none s with
      | some a => a
      | none =>
        if s.cx.fl.loads.any (fun l => !plainLoad l.ins) || s.cx.fl.pend.any (fun e => !e.retained && isOpk e.ins) then
          .wait .other s
        else .done s) s

/-- What a QFENCE orders, the snapshot knows as ordered: the named queues see each other's own stores (R89). -/
def joinPins (m : BitVec 7) (c : Ctx) : Ctx :=
  { c with fl := { c.fl with snap := c.fl.snap.map fun p =>
      if p.queues &&& m = 0 then p else { p with queues := p.queues ||| m } } }

/-- QFENCE (R97, R217). With bit 0 the control engine waits for its own earlier scalar accesses. -/
def execQfence (m : BitVec 7) (s : State) : Host.Outcome State Fault Refusal :=
  ctl []
    (fun s =>
      if m.getLsbD 0 && s.cx.fl.loads.any (fun l => !isOpk l.ins) then .wait .other s
      else
        let (u, s) := takeUid s
        .done { s with cx := joinPins m { s.cx with fl := { s.cx.fl with
          fences := if s.cx.fl.pend.isEmpty && s.cx.fl.unacked.isEmpty then s.cx.fl.fences else s.cx.fl.fences ++ [(m, u)] } } }) s

/-! ## The generator (R219, R220) -/

/-- RKEY (R220). -/
def execRkey (a b : Src) (s : State) : Host.Outcome State Fault Refusal :=
  ctl (srcRegs [a, b])
    (fun s => (readSrc2 a b s).bind fun x s => .done (updCfg (fun c => { c with key := cat128 x.2 x.1 }) s)) s

/-- RCTR (R220). -/
def execRctr (a b : Src) (s : State) : Host.Outcome State Fault Refusal :=
  ctl (srcRegs [a, b])
    (fun s => (readSrc2 a b s).bind fun x s => .done (updCfg (fun c => { c with ctr := cat128 x.2 x.1 }) s)) s

/-- RSKIP (R220). -/
def execRskip (a b : Src) (s : State) : Host.Outcome State Fault Refusal :=
  ctl (srcRegs [a, b])
    (fun s => (readSrc2 a b s).bind fun x s =>
      .done (updCfg (fun c => { c with ctr := c.ctr + cat128 x.2 x.1 }) s)) s

/-- RNEXT (R220). -/
def execRnext (d : Fin 32) (s : State) : Host.Outcome State Fault Refusal :=
  ctl []
    (fun s =>
      let v : W64 := BitVec.ofNat 64 (rngF s.cx.cfg.key.toNat s.cx.cfg.ctr.toNat)
      .done (wr (updCfg (fun c => { c with ctr := c.ctr + 1 }) s) d v)) s

/-! ## Counters (R221, R222) and TRAP (R224) -/

/-- RDEN (R221). -/
def execRden (d : Fin 32) (s : State) : Host.Outcome State Fault Refusal := ctl [] (fun s => .done (wr s d s.cx.energy)) s

/-- RDPWR (R221). -/
def execRdpwr (d : Fin 32) (s : State) : Host.Outcome State Fault Refusal :=
  ctl [] (fun s => let (v, s) := readPwrstat s; .done (wr s d v)) s

/-- RDCYC (R221). -/
def execRdcyc (d : Fin 32) (s : State) : Host.Outcome State Fault Refusal :=
  ctl [] (fun s => .done (wr s d (BitVec.ofNat 64 s.clock))) s

/-- RDRET (R221). -/
def execRdret (d : Fin 32) (s : State) : Host.Outcome State Fault Refusal := ctl [] (fun s => .done (wr s d s.cx.retired)) s

/-- TRAP (R224): cause USER, with TNPC at the next instruction (R335). -/
def execTrap (code : BitVec 15) (s : State) : Host.Outcome State Fault Refusal :=
  .next (startTrap { cause := cUSER, taddr := s.cx.pc, tepc := s.cx.pc, tnpc := s.cx.npc, ucode := code } s)

end Sys2Proof.Machine
end

