-- ==== Sys2Proof/Machine/Vec.lean ====
section
/-! DEFINITION. The vector engine (R226 to R259): what each VEC word does when its queue attempts it, and its routing.
The arithmetic on lanes stands in Lanes.lean. -/

namespace Sys2Proof.Machine

/-! ## The environment of a word (R227 to R229, R155) -/

/-- The rounding mode of a word (R173). -/
def vecRm (m : VMod) (g : Cfg) : Rm := match m.rm with | .mode r => r | .rmode => rmOf g.rmode.toNat

/-- The value of a mask register; M0 reads all ones (R229). -/
def mget (c : Ctx) (r : Fin 8) : MaskBits := if r = 0 then BitVec.allOnes 768 else c.m[r]

/-- What a word works under, with the registers captured at its routing. -/
def vecEnv (m : VMod) (e : QEntry) (c : Ctx) : LaneEnv :=
  let mk := (mget c m.mask).toNat
  { f := vecFmt m e.cfg, rm := vecRm m e.cfg, sat := m.sat,
    draw := drawOf e.cfg.key.toNat e.cfg.ctr.toNat
    act := fun i => m.mask == 0 || mk / 2 ^ i % 2 == 1 }

/-- Every lane with the low bits of one value (R175). -/
def broadcast (f : Fmt) (v : Nat) : Nat := packLanes f.width (List.replicate f.lanes (v % 2 ^ (8 * f.width)))

/-- The row of a vector source (R175, R228). -/
def readVSrc (f : Fmt) (e : QEntry) (x : VSrc) (s : State) : Res Nat :=
  match x with
  | .v r => .ok (s.cx.v[r]).toNat s
  | .q q =>
    -- the binding that stood at the word's routing (R296)
    if (match s.cx.streams[q] with | some b => decide (e.uid < b.id) | none => false) then .stop (.trap cQUEUE e.pc 0 s)
    else (popStream e.pc true q s).andThen fun r s => .ok r.toNat s
  | .s r => .ok (broadcast f (if r = 0 then 0 else (e.s[r]).toNat)) s
  | .imm v => .ok (broadcast f v.toNat) s

/-- Counter values that a word takes at its routing (R155, R254). A word that does not round takes none. -/
def drawBlocks (i : Instr) (g : Cfg) : Nat :=
  match i with
  | .vrng _ m => (vecFmt m g).lanes / 4
  | .vquant _ _ _ m => if vecRm m g = .sr then 192 else 0
  | .vcvt _ _ df _ m | .vdeq _ _ df m => if vecRm m g = .sr then df.lanes / 4 else 0
  | i =>
    match vecInfo i with
    | some (v, m, _) =>
      if vecRm m g = .sr && (v.rm == .any || (v.rm == .f && (vecFmt m g).isF)) then (vecFmt m g).lanes / 4 else 0
    | none => 0

/-- Advances the counter past a word's draws, in program order (R155). -/
def takeDraws (n : Nat) (s : State) : State := updCfg (fun c => { c with ctr := c.ctr + BitVec.ofNat 128 n }) s

/-! ## Registers and the shadow checker (R20, R232) -/

/-- A V register or mask, for the shadow checker. -/
abbrev VReg := Bool × Nat

/-- Writes a V register, which no shadow covers any more. -/
def setV (r : Fin 128) (x : Nat) (c : Ctx) : Ctx :=
  { c with v := c.v.set r (BitVec.ofNat 6144 x)
           fl := { c.fl with shadow := c.fl.shadow.filter fun h => !(h.reg == r.val && !h.isMask) } }

/-- Writes a mask register. M0 is never a destination (R237, R258). -/
def setM (r : Fin 8) (x : Nat) (c : Ctx) : Ctx :=
  { c with m := c.m.set r (BitVec.ofNat 768 x)
           fl := { c.fl with shadow := c.fl.shadow.filter fun h => !(h.reg == r.val && h.isMask) } }

/-- Opens the shadow of a write that began now (R20). -/
def addShadow (x : VReg) (lat : Nat) (s : State) : State :=
  { s with cx := { s.cx with fl := { s.cx.fl with shadow := ⟨x.1, x.2, s.clock + lat⟩ :: s.cx.fl.shadow } } }

/-- Whether a word reads a register within a shadow. -/
def inShadow (l : List VReg) (s : State) : Bool :=
  s.cx.fl.shadow.any fun h => s.clock < h.ready && l.contains (h.isMask, h.reg)

/-- The V registers of class-V sources and the mask of a modifier, as reads (R232). -/
def srcReads (m : VMod) (srcs : List VSrc) : List VReg :=
  srcs.filterMap (fun x => match x with | .v r => some (false, r.val) | _ => none)
    ++ (if m.mask = 0 then [] else [(true, m.mask.val)])

/-! ## Arithmetic words -/

/-- What a word of the arithmetic queue gives: a row or a mask, or an entry for CQ or XQ, and its flags. -/
structure VOut where
  v : Option (Fin 128 × Nat) := none
  mask : Option (Fin 8 × Nat) := none
  cq : Option Bool := none
  xq : Option W64 := none
  fl : Flg := 0

/-- Writes what a word gives, with latency class `lat` (R20, R21, R230). -/
def writeOut (o : VOut) (lat : Nat) (s : State) : State :=
  let s := { s with cx := addFlags o.fl s.cx }
  let s := match o.v with
    | some (d, x) => addShadow (false, d.val) lat { s with cx := setV d x s.cx }
    | none => s
  let s := match o.mask with
    | some (d, x) => addShadow (true, d.val) lat { s with cx := setM d x s.cx }
    | none => s
  let s := match o.cq with | some b => { s with cx := { s.cx with cq := s.cx.cq ++ [b] } } | none => s
  match o.xq with | some v => { s with cx := { s.cx with xq := s.cx.xq ++ [v] } } | none => s

/-- Puts back what a queue word that does not complete took from streams. -/
def unreadQ (s0 : State) (a : Act) : Act :=
  match a with
  | .trap c x i s => .trap c x i (unread s0 s)
  | .wait w s => .wait w (unread s0 s)
  | a => a

/-- An arithmetic word: SCHEDULE for a shadowed read, a full queue holds a push (R21), then the sources in order. -/
def vecArith (m : VMod) (srcs : List VSrc) (extra : List VReg) (push : Option Bool) (lat : LaneEnv → Nat)
    (run : LaneEnv → List Nat → Ctx → VOut) (e : QEntry) (s : State) : QAct :=
  if inShadow (srcReads m srcs ++ extra) s then (.trap cSCHEDULE e.pc 0 s, 0)
  else if (match push with | some x => queueFull s.cx x | none => false) then (.wait .other s, 0)
  else
    let env := vecEnv m e s.cx
    (unreadQ s ((Res.mapM (readVSrc env.f e) srcs s).bind fun l s => .done (writeOut (run env l s.cx) (lat env) s)), 0)

/-- A word with one source and a V destination. -/
def vec1 (d : Fin 128) (a : VSrc) (m : VMod) (lat : LaneEnv → Nat) (f : LaneEnv → Nat → Nat × Flg) : QEntry → State → QAct :=
  vecArith m [a] [] none lat fun env l _ => let r := f env (l.getD 0 0); { v := some (d, r.1), fl := r.2 }

/-- A word with two sources and a V destination. -/
def vec2 (d : Fin 128) (a b : VSrc) (m : VMod) (lat : LaneEnv → Nat) (f : LaneEnv → Nat → Nat → Nat × Flg) :
    QEntry → State → QAct :=
  vecArith m [a, b] [] none lat fun env l _ =>
    let r := f env (l.getD 0 0) (l.getD 1 0); { v := some (d, r.1), fl := r.2 }

/-- A word that also reads its destination (R233). -/
def vec3 (d : Fin 128) (a b : VSrc) (m : VMod) (lat : LaneEnv → Nat) (f : LaneEnv → Nat → Nat → Nat → Nat × Flg) :
    QEntry → State → QAct :=
  vecArith m [a, b] [(false, d.val)] none lat fun env l c =>
    let r := f env (l.getD 0 0) (l.getD 1 0) (c.v[d]).toNat; { v := some (d, r.1), fl := r.2 }

/-- A latency class (R231). -/
def lat (n : Nat) (_ : LaneEnv) : Nat := n
/-- Class 6 for floats and 4 for integers. -/
def latFI (e : LaneEnv) : Nat := if e.f.isF then 6 else 4

/-- Lane by lane from one row. -/
def lanes1 (g : LaneEnv → Nat → Nat → Nat × Flg) (e : LaneEnv) (a : Nat) : Nat × Flg :=
  mapLanes e fun i => g e i (laneOf e.f.width a i)

/-- Lane by lane from two rows. -/
def lanes2 (g : LaneEnv → Nat → Nat → Nat → Nat × Flg) (e : LaneEnv) (a b : Nat) : Nat × Flg :=
  mapLanes e fun i => g e i (laneOf e.f.width a i) (laneOf e.f.width b i)

/-- Lane by lane from two rows and the old destination. -/
def lanes3 (g : LaneEnv → Nat → Nat → Nat → Nat → Nat × Flg) (e : LaneEnv) (a b c : Nat) : Nat × Flg :=
  mapLanes e fun i => g e i (laneOf e.f.width a i) (laneOf e.f.width b i) (laneOf e.f.width c i)

/-! ### Elementwise (R233 to R236) -/

/-- VADD (R233). -/
def bodyVadd (d : Fin 128) (a b : VSrc) (m : VMod) : QEntry → State → QAct :=
  vec2 d a b m latFI (lanes2 fun e i x y => arithLane e opAdd (fun x y _ => x + y) false x y 0 i)
/-- VSUB (R233). -/
def bodyVsub (d : Fin 128) (a b : VSrc) (m : VMod) : QEntry → State → QAct :=
  vec2 d a b m latFI (lanes2 fun e i x y => arithLane e opSub (fun x y _ => x - y) false x y 0 i)
/-- VMUL (R233). -/
def bodyVmul (d : Fin 128) (a b : VSrc) (m : VMod) : QEntry → State → QAct :=
  vec2 d a b m latFI (lanes2 fun e i x y => arithLane e opMul (fun x y _ => x * y) false x y 0 i)
/-- VFMA (R233). -/
def bodyVfma (d : Fin 128) (a b : VSrc) (m : VMod) : QEntry → State → QAct :=
  vec3 d a b m latFI (lanes3 fun e i x y z => arithLane e opFma (fun x y z => x * y + z) true x y z i)
/-- VFMS (R233). -/
def bodyVfms (d : Fin 128) (a b : VSrc) (m : VMod) : QEntry → State → QAct :=
  vec3 d a b m latFI (lanes3 fun e i x y z => arithLane e opFms (fun x y z => x * y - z) true x y z i)
/-- VFNMA (R233). -/
def bodyVfnma (d : Fin 128) (a b : VSrc) (m : VMod) : QEntry → State → QAct :=
  vec3 d a b m latFI (lanes3 fun e i x y z => arithLane e opFnma (fun x y z => z - x * y) true x y z i)
/-- VMIN (R234). -/
def bodyVmin (d : Fin 128) (a b : VSrc) (m : VMod) : QEntry → State → QAct :=
  vec2 d a b m (lat 4) (lanes2 fun e _ x y => minmaxLane e.f false x y)
/-- VMAX (R234). -/
def bodyVmax (d : Fin 128) (a b : VSrc) (m : VMod) : QEntry → State → QAct :=
  vec2 d a b m (lat 4) (lanes2 fun e _ x y => minmaxLane e.f true x y)
/-- VABS (R234). -/
def bodyVabs (d : Fin 128) (a : VSrc) (m : VMod) : QEntry → State → QAct :=
  vec1 d a m (lat 4) (lanes1 fun e _ x => absLane e.f e.sat x)
/-- VNEG (R234). -/
def bodyVneg (d : Fin 128) (a : VSrc) (m : VMod) : QEntry → State → QAct :=
  vec1 d a m (lat 4) (lanes1 fun e _ x => negLane e.f e.sat x)
/-- VAND (R235). -/
def bodyVand (d : Fin 128) (a b : VSrc) (m : VMod) : QEntry → State → QAct :=
  vec2 d a b m (lat 4) (lanes2 fun _ _ x y => (x &&& y, 0))
/-- VOR (R235). -/
def bodyVor (d : Fin 128) (a b : VSrc) (m : VMod) : QEntry → State → QAct :=
  vec2 d a b m (lat 4) (lanes2 fun _ _ x y => (x ||| y, 0))
/-- VXOR (R235). -/
def bodyVxor (d : Fin 128) (a b : VSrc) (m : VMod) : QEntry → State → QAct :=
  vec2 d a b m (lat 4) (lanes2 fun _ _ x y => (x ^^^ y, 0))
/-- VSHL (R235). -/
def bodyVshl (d : Fin 128) (a b : VSrc) (m : VMod) : QEntry → State → QAct :=
  vec2 d a b m (lat 4) (lanes2 fun e _ x y => shlLane e.f e.sat x y)
/-- VSHR (R235). -/
def bodyVshr (d : Fin 128) (a b : VSrc) (m : VMod) : QEntry → State → QAct :=
  vec2 d a b m (lat 4) (lanes2 fun e _ x y => shrLane e.f x y)
/-- VSAR (R235). -/
def bodyVsar (d : Fin 128) (a b : VSrc) (m : VMod) : QEntry → State → QAct :=
  vec2 d a b m (lat 4) (lanes2 fun e _ x y => sarLane e.f x y)
/-- VMOV (R236). -/
def bodyVmov (d : Fin 128) (a : VSrc) (m : VMod) : QEntry → State → QAct :=
  vec1 d a m (lat 4) (lanes1 fun _ _ x => (x, 0))
/-- VSEL (R236): every lane, by the mask's bit. -/
def bodyVsel (d : Fin 128) (a b : VSrc) (m : VMod) : QEntry → State → QAct :=
  vec2 d a b m (lat 4) fun e x y =>
    collect e.f.width e.n fun i => (if e.act i then laneOf e.f.width x i else laneOf e.f.width y i, 0)
/-- VIOTA (R236). -/
def bodyViota (d : Fin 128) (a : VSrc) (m : VMod) : QEntry → State → QAct := vec1 d a m (lat 4) iotaRow

/-! ### Compares, classes, conversion (R237 to R241) -/

/-- VCMP (R237). -/
def bodyVcmp (p : Pred) (d : Fin 8) (a b : VSrc) (m : VMod) : QEntry → State → QAct :=
  vecArith m [a, b] [] none (lat 4) fun e l _ =>
    let rs := (List.range e.n).map fun i =>
      if e.act i then cmpLane e.f p (laneOf e.f.width (l.getD 0 0) i) (laneOf e.f.width (l.getD 1 0) i) else (false, 0)
    { mask := some (d, rs.foldr (fun x acc => 2 * acc + x.1.toNat) 0), fl := rs.foldl (fun fl x => fl ||| x.2) 0 }
/-- VCLASS (R238). -/
def bodyVclass (d : Fin 128) (a : VSrc) (m : VMod) : QEntry → State → QAct :=
  vec1 d a m (lat 4) (lanes1 fun e _ x => (classLane e.f x, 0))
/-- VCVT (R239). -/
def bodyVcvt (d : Fin 128) (a : VSrc) (df : Fmt) (part : Fin 4) (m : VMod) : QEntry → State → QAct :=
  vec1 d a m (lat 6) fun e x => cvtRow e df part.val x
/-- VQUANT (R240). -/
def bodyVquant (d : Fin 128) (a : VSrc) (df : Fmt) (m : VMod) : QEntry → State → QAct :=
  vec1 d a m (lat 14) fun e x => if df = .bs8 then quantRowBs8 e.f e.rm e.draw x else quantRowQ4n e.f e.rm e.draw x
/-- VDEQ (R241). -/
def bodyVdeq (d : Fin 128) (a : VSrc) (df : Fmt) (m : VMod) : QEntry → State → QAct :=
  vec1 d a m (lat 14) fun e x => if e.f = .bs8 then deqRowBs8 df e.rm e.draw x else deqRowQ4n df e.rm e.draw x

/-! ### Functions (R242 to R245) -/

/-- VRCP (R242). -/
def bodyVrcp (d : Fin 128) (a : VSrc) (m : VMod) : QEntry → State → QAct :=
  vec1 d a m (lat 10) (lanes1 fun _ _ x => rcpLane x)
/-- VRSQ (R242). -/
def bodyVrsq (d : Fin 128) (a : VSrc) (m : VMod) : QEntry → State → QAct :=
  vec1 d a m (lat 10) (lanes1 fun _ _ x => rsqLane x)
/-- VSQRT (R244). -/
def bodyVsqrt (d : Fin 128) (a : VSrc) (m : VMod) : QEntry → State → QAct :=
  vec1 d a m (lat 12) (lanes1 fun e i x => sqrtLane e.f e.rm (e.draw i) x)
/-- VEXP2F (R243). -/
def bodyVexp2f (d : Fin 128) (a : VSrc) (m : VMod) : QEntry → State → QAct :=
  vec1 d a m (lat 12) (lanes1 fun _ _ x => exp2Lane x)
/-- VLOG2F (R243). -/
def bodyVlog2f (d : Fin 128) (a : VSrc) (m : VMod) : QEntry → State → QAct :=
  vec1 d a m (lat 12) (lanes1 fun _ _ x => log2Lane x)
/-- VRINT (R244). -/
def bodyVrint (d : Fin 128) (a : VSrc) (m : VMod) : QEntry → State → QAct :=
  vec1 d a m (lat 6) (lanes1 fun e i x => rintLane e.f e.rm (e.draw i) x)
/-- VFINT (R244). -/
def bodyVfint (d : Fin 128) (a : VSrc) (m : VMod) : QEntry → State → QAct :=
  vec1 d a m (lat 6) (lanes1 fun e i x => fintLane e.f e.rm (e.draw i) x)
/-- VEXPI (R245). -/
def bodyVexpi (d : Fin 128) (a b : VSrc) (m : VMod) : QEntry → State → QAct :=
  vec2 d a b m (lat 6) (lanes2 fun e i x y => expiLane e.f e.rm (e.draw i) x y)
/-- VGETEXP (R245). -/
def bodyVgetexp (d : Fin 128) (a : VSrc) (m : VMod) : QEntry → State → QAct :=
  vec1 d a m (lat 6) (lanes1 fun e _ x => getExpLane e.f x)
/-- VGETMANT (R245). -/
def bodyVgetmant (d : Fin 128) (a : VSrc) (m : VMod) : QEntry → State → QAct :=
  vec1 d a m (lat 6) (lanes1 fun e _ x => getMantLane e.f x)

/-! ### Reductions and scan (R247, R248), cross-lane forms (R249 to R253), VRNG -/

/-- VREDADD (R247). -/
def bodyVredadd (d : Fin 128) (a : VSrc) (m : VMod) : QEntry → State → QAct :=
  vec1 d a m (lat 14) fun e x => reduceRow e (redGroup e.f m.gsz.val) (leafLane e.f) (combAdd e) x
/-- VREDMAX (R247). -/
def bodyVredmax (d : Fin 128) (a : VSrc) (m : VMod) : QEntry → State → QAct :=
  vec1 d a m (lat 14) fun e x =>
    reduceRow e (redGroup e.f m.gsz.val) (leafLane e.f) (fun _ y z => minmaxLane e.f true y z) x
/-- VREDAMAX (R247). -/
def bodyVredamax (d : Fin 128) (a : VSrc) (m : VMod) : QEntry → State → QAct :=
  vec1 d a m (lat 14) fun e x =>
    reduceRow e (redGroup e.f m.gsz.val) (fun v => (v, 0)) (fun _ y z => (combAmax e.f y z, 0)) x
/-- VREDMIN (R247). -/
def bodyVredmin (d : Fin 128) (a : VSrc) (m : VMod) : QEntry → State → QAct :=
  vec1 d a m (lat 14) fun e x =>
    reduceRow e (redGroup e.f m.gsz.val) (leafLane e.f) (fun _ y z => minmaxLane e.f false y z) x
/-- VSCAN (R248). -/
def bodyVscan (d : Fin 128) (a : VSrc) (m : VMod) : QEntry → State → QAct :=
  vec1 d a m (lat 14) fun e x => scanRow e (redGroup e.f m.gsz.val) x
/-- VPERM (R250). -/
def bodyVperm (d : Fin 128) (a b : VSrc) (m : VMod) : QEntry → State → QAct :=
  vec2 d a b m (lat 8) fun e x y => (permRow e (crossGroup e.f m.gsz.val) x y, 0)
/-- VBCAST (R250). -/
def bodyVbcast (d : Fin 128) (a b : VSrc) (m : VMod) : QEntry → State → QAct :=
  vec2 d a b m (lat 8) fun e x y => (bcastRow e (crossGroup e.f m.gsz.val) x y, 0)
/-- VSHUF (R251). -/
def bodyVshuf (d : Fin 128) (a b : VSrc) (pat : ShufPat) (m : VMod) : QEntry → State → QAct :=
  vec2 d a b m (lat 8) fun e x y => (shufRow e (crossGroup e.f m.gsz.val) pat x y, 0)
/-- VROT (R252). -/
def bodyVrot (d : Fin 128) (a b : VSrc) (m : VMod) : QEntry → State → QAct :=
  vec2 d a b m (lat 8) fun e x y => (rotRow e (crossGroup e.f m.gsz.val) x y, 0)
/-- VSLIDE (R252). -/
def bodyVslide (d : Fin 128) (a b : VSrc) (m : VMod) : QEntry → State → QAct :=
  vec2 d a b m (lat 8) fun e x y => (slideRow e (crossGroup e.f m.gsz.val) x y, 0)
/-- VCOMP (R253). -/
def bodyVcomp (d : Fin 128) (a : VSrc) (k : BitVec 8) (m : VMod) : QEntry → State → QAct :=
  vec1 d a m (lat 16) fun e x => (compRow e (redGroup e.f m.gsz.val) k.toNat x, 0)
/-- VRNG (R254). -/
def bodyVrng (d : Fin 128) (m : VMod) : QEntry → State → QAct :=
  vecArith m [] [] none (lat 6) fun e _ _ => { v := some (d, (rngRow e).1) }

/-! ### Masks and queue transfers (R258, R259) -/

/-- A word on two masks, all 768 bits. -/
def mask2 (d a b : Fin 8) (m : VMod) (f : MaskBits → MaskBits → MaskBits) : QEntry → State → QAct :=
  vecArith m [] ([a, b].filterMap fun r => if r = 0 then none else some (true, r.val)) none (lat 4) fun _ _ c =>
    { mask := some (d, (f (mget c a) (mget c b)).toNat) }

/-- The active lanes whose bit in a mask is 1, in ascending order. -/
def maskLanes (e : LaneEnv) (c : Ctx) (a : Fin 8) : List Nat :=
  (List.range e.n).filter fun i => e.act i && (mget c a).getLsbD i

/-- A word that pushes a function of its active mask lanes. -/
def maskPush (a : Fin 8) (m : VMod) (push : Bool) (f : LaneEnv → List Nat → VOut) : QEntry → State → QAct :=
  vecArith m [] (if a = 0 then [] else [(true, a.val)]) (some push) (lat 4) fun e _ c => f e (maskLanes e c a)

/-- MAND (R258). -/
def bodyMand (d a b : Fin 8) (m : VMod) : QEntry → State → QAct := mask2 d a b m (· &&& ·)
/-- MOR (R258). -/
def bodyMor (d a b : Fin 8) (m : VMod) : QEntry → State → QAct := mask2 d a b m (· ||| ·)
/-- MXOR (R258). -/
def bodyMxor (d a b : Fin 8) (m : VMod) : QEntry → State → QAct := mask2 d a b m (· ^^^ ·)
/-- MNOT (R258). -/
def bodyMnot (d a : Fin 8) (m : VMod) : QEntry → State → QAct := mask2 d a a m fun x _ => ~~~x
/-- MFIRST (R258). -/
def bodyMfirst (d a : Fin 8) (m : VMod) : QEntry → State → QAct :=
  vecArith m [] (if a = 0 then [] else [(true, a.val)]) none (lat 4) fun e _ c =>
    { mask := some (d, match maskLanes e c a with | i :: _ => 2 ^ i | [] => 0) }
/-- MPOP (R258). -/
def bodyMpop (a : Fin 8) (m : VMod) : QEntry → State → QAct :=
  maskPush a m true fun _ l => { xq := some (BitVec.ofNat 64 l.length) }
/-- VANYQ (R259). -/
def bodyVanyq (a : Fin 8) (m : VMod) : QEntry → State → QAct :=
  maskPush a m false fun _ l => { cq := some !l.isEmpty }
/-- VALLQ (R259). -/
def bodyVallq (a : Fin 8) (m : VMod) : QEntry → State → QAct :=
  maskPush a m false fun e l => { cq := some (l.length == ((List.range e.n).filter e.act).length) }
/-- VXQ (R259). -/
def bodyVxq (a b : VSrc) (m : VMod) : QEntry → State → QAct :=
  vecArith m [a, b] [] (some true) (lat 8) fun e l _ =>
    let j := laneOf e.f.width (l.getD 1 0) 0
    let v := if j < e.n && e.act j then laneOf e.f.width (l.getD 0 0) j else 0
    { xq := some (if e.f.isI then BitVec.ofInt 64 (ival e.f v) else BitVec.ofNat 64 v) }

/-! ## Memory words (R255 to R257) -/

/-- Bytes of the row whose lanes are active. -/
def byteActive (e : LaneEnv) (k : Nat) : Bool := e.act (k / e.f.width)

/-- A row with its inactive lanes zero (R229). -/
def maskRow (e : LaneEnv) (row : Nat) : Nat := (collect e.f.width e.n fun i => (if e.act i then laneOf e.f.width row i else 0, 0)).1

/-- The captured value of an S register. -/
def qs (e : QEntry) (r : Fin 32) : W64 := if r = 0 then 0 else e.s[r]

/-- Writes the bytes of a segment of one 64-byte block that a list gives, at once (R84, R255). -/
def writeSome (q : Nat) (g : Seg) (bs : List (Option Byte)) (s : State) : State :=
  if bs.all Option.isNone then s
  else
    let e := wordAt q s
    let c := if g.own then s.cx else (bs.zipIdx).foldl (fun c (b, k) => match b with
      | some b => pin (seenBy q (e.map (·.uid)) s.cx) (g.loc + k) [b] c
      | none => c) s.cx
    if g.ty = 4 then sendStore q e g bs { s with cx := c } else { s with cx := c, mem := s.mem.writeSome g.key g.pa bs }

/-- Stores the listed bytes over checked segments. -/
def writeMasked (q : Nat) : List Seg → List (Option Byte) → State → State
  | [], _, s => s
  | g :: r, bs, s =>
    let s := if (bs.take g.len).all Option.isSome then writeSeg q g ((bs.take g.len).map (·.getD 0)) s
      else (blocksOf g).foldl (fun s (o, b) => writeSome q b ((bs.drop o).take b.len) s) s
    writeMasked q r (bs.drop g.len) s

/-- The checks of a vector access in queue `q`: ALIGN, then the rest of R82. -/
def vecAccess (q : Nat) (perm : Perm) (al n : Nat) (va : W64) (s : State) (down : Bool := false) : Res (List Seg) :=
  if va.toNat % al ≠ 0 then .stop (.trap cALIGN va 0 s) else access q .vec perm va.toNat n s down

/-- The bytes of a row. -/
def rowBytes (r : Row) : List Byte := bytesOf 768 r.toNat

/-- A fault of a piece gives a number in TINFO (R331). -/
def withInfo {α : Type} (k : Nat) (r : Res α) : Res α :=
  match r with
  | .stop (.trap c a _ s) => .stop (.trap c a k s)
  | r => r

/-- A vector load of the bytes at some addresses, each checked as one access and read in order (R255 to R257), with
what TINFO holds if it faults. -/
def readPieces (al n : Nat) (l : List (W64 × Nat)) (s : State) (down : Bool := false) : Res (List (List Byte)) :=
  Res.mapM (fun va s => withInfo va.2 ((vecAccess 1 .rd al n va.1 s down).andThen fun gs s => readSegs 1 gs s)) l s

/-- The checks of the pieces of a vector store. -/
def checkPieces (al n : Nat) (l : List (W64 × Nat)) (s : State) (down : Bool := false) : Res (List (List Seg)) :=
  Res.mapM (fun va s => withInfo va.2 (vecAccess 3 .wr al n va.1 s down)) l s

/-- Whether some piece of a store waits behind an FREL (R98). -/
def piecesHeld (u : Nat) (l : List (List Seg)) (s : State) : Bool := l.any fun gs => storeHeld u gs s

/-- Writes pieces in order. -/
def writePieces : List (List Seg) → List (List (Option Byte)) → State → State
  | gs :: r, bs :: t, s => writePieces r t (writeMasked 3 gs bs s)
  | _, _, s => s

/-- Row bytes of which the inactive lanes are left out, from byte `k`, `n` of them. -/
def activeBytes (e : LaneEnv) (row : Row) (k n : Nat) : List (Option Byte) :=
  ((rowBytes row).drop k |>.take n).mapIdx fun j b => if byteActive e (k + j) then some b else none

/-- VLD (R255). -/
def bodyVld (d : Fin 128) (a : Fin 32) (m : VMod) (e : QEntry) (s : State) : QAct :=
  ((readPieces 64 768 [(qs e a, 0)] s).bind fun l s =>
    .done { s with cx := setV d (maskRow (vecEnv m e s.cx) (natOf l.flatten)) s.cx }, 0)

/-- VST (R255). -/
def bodyVst (d : Fin 128) (a : Fin 32) (m : VMod) (e : QEntry) (s : State) : QAct :=
  ((checkPieces 64 768 [(qs e a, 0)] s).bind fun l s =>
    if piecesHeld e.uid l s then .wait .other s
    else .done (writePieces l [activeBytes (vecEnv m e s.cx) (s.cx.v[d]) 0 768] s), 0)

/-- The 12 block addresses of R256. -/
def strided (a b : W64) : List (W64 × Nat) := (List.range 12).map fun j => (a + BitVec.ofNat 64 j * b, 0)

/-- VLDS (R256). -/
def bodyVlds (d : Fin 128) (a b : Fin 32) (m : VMod) (e : QEntry) (s : State) : QAct :=
  ((readPieces 64 64 (strided (qs e a) (qs e b)) s (down := (qs e b).slt 0)).bind fun l s =>
    .done { s with cx := setV d (maskRow (vecEnv m e s.cx) (natOf l.flatten)) s.cx }, 0)

/-- VSTS (R256). -/
def bodyVsts (d : Fin 128) (a b : Fin 32) (m : VMod) (e : QEntry) (s : State) : QAct :=
  ((checkPieces 64 64 (strided (qs e a) (qs e b)) s (down := (qs e b).slt 0)).bind fun l s =>
    if piecesHeld e.uid l s then .wait .other s
    else .done (writePieces l ((List.range 12).map fun j =>
      activeBytes (vecEnv m e s.cx) (s.cx.v[d]) (64 * j) 64) s), 0)

/-- The address of an element of VGATH or VSCAT (R257), with its lane. -/
def elemAddr (e : QEntry) (c : Ctx) (a : Fin 32) (b : Fin 128) (i : Nat) : W64 × Nat :=
  (qs e a + BitVec.ofNat 64 (laneOf 4 (c.v[b.val + i / 192]?.getD 0).toNat (i % 192)), i)

/-- Active lanes in ascending order. -/
def activeLanes (e : LaneEnv) : List Nat := (List.range e.n).filter e.act

/-- With an absent page goes the lane of the element that met it (R82, R331). -/
def withLane (els : List (W64 × Nat)) (a : Act) : QAct :=
  match a with
  | .absent _ x _ _ => (a, ((els.find? fun y => y.1.toNat / 2 ^ 16 == x.toNat / 2 ^ 16).map (·.2)).getD 0)
  | _ => (a, 0)

/-- VGATH (R257). -/
def bodyVgath (d : Fin 128) (a : Fin 32) (b : Fin 128) (m : VMod) (e : QEntry) (s : State) : QAct :=
  let env := vecEnv m e s.cx
  let w := env.f.width
  let ls := activeLanes env
  let els := ls.map (elemAddr e s.cx a b)
  withLane els ((readPieces w w els s).bind fun l s =>
    .done { s with cx := setV d ((ls.zip l).foldl (fun row (i, bs) => row + natOf bs * 2 ^ (8 * w * i)) 0) s.cx })

/-- VSCAT (R257). -/
def bodyVscat (d : Fin 128) (a : Fin 32) (b : Fin 128) (m : VMod) (e : QEntry) (s : State) : QAct :=
  let env := vecEnv m e s.cx
  let w := env.f.width
  let ls := activeLanes env
  let els := ls.map (elemAddr e s.cx a b)
  withLane els ((checkPieces w w els s).bind fun l s =>
    if piecesHeld e.uid l s then .wait .other s
    else .done (writePieces l (ls.map fun i => (bytesOf w (laneOf w (s.cx.v[d]).toNat i)).map some) s))

/-! ## Routing -/

/-- The S registers that a VEC word's sources name. -/
def vsrcRegs (l : List VSrc) : List (Fin 32) := l.filterMap fun x => match x with | .s r => some r | _ => none

/-- Routes a VEC word: the checks of R174 in the effective format are the decoder's, before it is routed (R169); then its draws (R155). -/
def vecRoute (q : Queue) (i : Instr) (m : VMod) (rs : List (Fin 32)) (body : QEntry → State → QAct) (s : State) :
    Host.Outcome State Fault Refusal :=
  if vecOk (vecFmt m s.cx.cfg) i then routeQ q i rs (fun _ => none) (fun s => takeDraws (drawBlocks i s.cx.cfg) s) body s
  else .next (finish s (illegal s.cx.pc s))

/-- VADD: routing. -/
def execVadd (d : Fin 128) (a b : VSrc) (m : VMod) (s : State) : Host.Outcome State Fault Refusal :=
  vecRoute .varith (.vadd d a b m) m (vsrcRegs [a, b]) (bodyVadd d a b m) s
/-- VSUB: routing. -/
def execVsub (d : Fin 128) (a b : VSrc) (m : VMod) (s : State) : Host.Outcome State Fault Refusal :=
  vecRoute .varith (.vsub d a b m) m (vsrcRegs [a, b]) (bodyVsub d a b m) s
/-- VMUL: routing. -/
def execVmul (d : Fin 128) (a b : VSrc) (m : VMod) (s : State) : Host.Outcome State Fault Refusal :=
  vecRoute .varith (.vmul d a b m) m (vsrcRegs [a, b]) (bodyVmul d a b m) s
/-- VFMA: routing. -/
def execVfma (d : Fin 128) (a b : VSrc) (m : VMod) (s : State) : Host.Outcome State Fault Refusal :=
  vecRoute .varith (.vfma d a b m) m (vsrcRegs [a, b]) (bodyVfma d a b m) s
/-- VFMS: routing. -/
def execVfms (d : Fin 128) (a b : VSrc) (m : VMod) (s : State) : Host.Outcome State Fault Refusal :=
  vecRoute .varith (.vfms d a b m) m (vsrcRegs [a, b]) (bodyVfms d a b m) s
/-- VFNMA: routing. -/
def execVfnma (d : Fin 128) (a b : VSrc) (m : VMod) (s : State) : Host.Outcome State Fault Refusal :=
  vecRoute .varith (.vfnma d a b m) m (vsrcRegs [a, b]) (bodyVfnma d a b m) s
/-- VMIN: routing. -/
def execVmin (d : Fin 128) (a b : VSrc) (m : VMod) (s : State) : Host.Outcome State Fault Refusal :=
  vecRoute .varith (.vmin d a b m) m (vsrcRegs [a, b]) (bodyVmin d a b m) s
/-- VMAX: routing. -/
def execVmax (d : Fin 128) (a b : VSrc) (m : VMod) (s : State) : Host.Outcome State Fault Refusal :=
  vecRoute .varith (.vmax d a b m) m (vsrcRegs [a, b]) (bodyVmax d a b m) s
/-- VABS: routing. -/
def execVabs (d : Fin 128) (a : VSrc) (m : VMod) (s : State) : Host.Outcome State Fault Refusal :=
  vecRoute .varith (.vabs d a m) m (vsrcRegs [a]) (bodyVabs d a m) s
/-- VNEG: routing. -/
def execVneg (d : Fin 128) (a : VSrc) (m : VMod) (s : State) : Host.Outcome State Fault Refusal :=
  vecRoute .varith (.vneg d a m) m (vsrcRegs [a]) (bodyVneg d a m) s
/-- VAND: routing. -/
def execVand (d : Fin 128) (a b : VSrc) (m : VMod) (s : State) : Host.Outcome State Fault Refusal :=
  vecRoute .varith (.vand d a b m) m (vsrcRegs [a, b]) (bodyVand d a b m) s
/-- VOR: routing. -/
def execVor (d : Fin 128) (a b : VSrc) (m : VMod) (s : State) : Host.Outcome State Fault Refusal :=
  vecRoute .varith (.vor d a b m) m (vsrcRegs [a, b]) (bodyVor d a b m) s
/-- VXOR: routing. -/
def execVxor (d : Fin 128) (a b : VSrc) (m : VMod) (s : State) : Host.Outcome State Fault Refusal :=
  vecRoute .varith (.vxor d a b m) m (vsrcRegs [a, b]) (bodyVxor d a b m) s
/-- VSHL: routing. -/
def execVshl (d : Fin 128) (a b : VSrc) (m : VMod) (s : State) : Host.Outcome State Fault Refusal :=
  vecRoute .varith (.vshl d a b m) m (vsrcRegs [a, b]) (bodyVshl d a b m) s
/-- VSHR: routing. -/
def execVshr (d : Fin 128) (a b : VSrc) (m : VMod) (s : State) : Host.Outcome State Fault Refusal :=
  vecRoute .varith (.vshr d a b m) m (vsrcRegs [a, b]) (bodyVshr d a b m) s
/-- VSAR: routing. -/
def execVsar (d : Fin 128) (a b : VSrc) (m : VMod) (s : State) : Host.Outcome State Fault Refusal :=
  vecRoute .varith (.vsar d a b m) m (vsrcRegs [a, b]) (bodyVsar d a b m) s
/-- VMOV: routing. -/
def execVmov (d : Fin 128) (a : VSrc) (m : VMod) (s : State) : Host.Outcome State Fault Refusal :=
  vecRoute .varith (.vmov d a m) m (vsrcRegs [a]) (bodyVmov d a m) s
/-- VSEL: routing. -/
def execVsel (d : Fin 128) (a b : VSrc) (m : VMod) (s : State) : Host.Outcome State Fault Refusal :=
  vecRoute .varith (.vsel d a b m) m (vsrcRegs [a, b]) (bodyVsel d a b m) s
/-- VBCAST: routing. -/
def execVbcast (d : Fin 128) (a b : VSrc) (m : VMod) (s : State) : Host.Outcome State Fault Refusal :=
  vecRoute .varith (.vbcast d a b m) m (vsrcRegs [a, b]) (bodyVbcast d a b m) s
/-- VIOTA: routing. -/
def execViota (d : Fin 128) (a : VSrc) (m : VMod) (s : State) : Host.Outcome State Fault Refusal :=
  vecRoute .varith (.viota d a m) m (vsrcRegs [a]) (bodyViota d a m) s
/-- VCMP: routing. -/
def execVcmp (p : Pred) (d : Fin 8) (a b : VSrc) (m : VMod) (s : State) : Host.Outcome State Fault Refusal :=
  vecRoute .varith (.vcmp p d a b m) m (vsrcRegs [a, b]) (bodyVcmp p d a b m) s
/-- VCLASS: routing. -/
def execVclass (d : Fin 128) (a : VSrc) (m : VMod) (s : State) : Host.Outcome State Fault Refusal :=
  vecRoute .varith (.vclass d a m) m (vsrcRegs [a]) (bodyVclass d a m) s
/-- VCVT: routing. -/
def execVcvt (d : Fin 128) (a : VSrc) (df : Fmt) (part : Fin 4) (m : VMod) (s : State) : Host.Outcome State Fault Refusal :=
  vecRoute .varith (.vcvt d a df part m) m (vsrcRegs [a]) (bodyVcvt d a df part m) s
/-- VQUANT: routing. -/
def execVquant (d : Fin 128) (a : VSrc) (df : Fmt) (m : VMod) (s : State) : Host.Outcome State Fault Refusal :=
  vecRoute .varith (.vquant d a df m) m (vsrcRegs [a]) (bodyVquant d a df m) s
/-- VDEQ: routing. -/
def execVdeq (d : Fin 128) (a : VSrc) (df : Fmt) (m : VMod) (s : State) : Host.Outcome State Fault Refusal :=
  vecRoute .varith (.vdeq d a df m) m (vsrcRegs [a]) (bodyVdeq d a df m) s
/-- VRCP: routing. -/
def execVrcp (d : Fin 128) (a : VSrc) (m : VMod) (s : State) : Host.Outcome State Fault Refusal :=
  vecRoute .varith (.vrcp d a m) m (vsrcRegs [a]) (bodyVrcp d a m) s
/-- VRSQ: routing. -/
def execVrsq (d : Fin 128) (a : VSrc) (m : VMod) (s : State) : Host.Outcome State Fault Refusal :=
  vecRoute .varith (.vrsq d a m) m (vsrcRegs [a]) (bodyVrsq d a m) s
/-- VSQRT: routing. -/
def execVsqrt (d : Fin 128) (a : VSrc) (m : VMod) (s : State) : Host.Outcome State Fault Refusal :=
  vecRoute .varith (.vsqrt d a m) m (vsrcRegs [a]) (bodyVsqrt d a m) s
/-- VEXP2F: routing. -/
def execVexp2f (d : Fin 128) (a : VSrc) (m : VMod) (s : State) : Host.Outcome State Fault Refusal :=
  vecRoute .varith (.vexp2f d a m) m (vsrcRegs [a]) (bodyVexp2f d a m) s
/-- VLOG2F: routing. -/
def execVlog2f (d : Fin 128) (a : VSrc) (m : VMod) (s : State) : Host.Outcome State Fault Refusal :=
  vecRoute .varith (.vlog2f d a m) m (vsrcRegs [a]) (bodyVlog2f d a m) s
/-- VRINT: routing. -/
def execVrint (d : Fin 128) (a : VSrc) (m : VMod) (s : State) : Host.Outcome State Fault Refusal :=
  vecRoute .varith (.vrint d a m) m (vsrcRegs [a]) (bodyVrint d a m) s
/-- VFINT: routing. -/
def execVfint (d : Fin 128) (a : VSrc) (m : VMod) (s : State) : Host.Outcome State Fault Refusal :=
  vecRoute .varith (.vfint d a m) m (vsrcRegs [a]) (bodyVfint d a m) s
/-- VEXPI: routing. -/
def execVexpi (d : Fin 128) (a b : VSrc) (m : VMod) (s : State) : Host.Outcome State Fault Refusal :=
  vecRoute .varith (.vexpi d a b m) m (vsrcRegs [a, b]) (bodyVexpi d a b m) s
/-- VGETEXP: routing. -/
def execVgetexp (d : Fin 128) (a : VSrc) (m : VMod) (s : State) : Host.Outcome State Fault Refusal :=
  vecRoute .varith (.vgetexp d a m) m (vsrcRegs [a]) (bodyVgetexp d a m) s
/-- VGETMANT: routing. -/
def execVgetmant (d : Fin 128) (a : VSrc) (m : VMod) (s : State) : Host.Outcome State Fault Refusal :=
  vecRoute .varith (.vgetmant d a m) m (vsrcRegs [a]) (bodyVgetmant d a m) s
/-- VREDADD: routing. -/
def execVredadd (d : Fin 128) (a : VSrc) (m : VMod) (s : State) : Host.Outcome State Fault Refusal :=
  vecRoute .varith (.vredadd d a m) m (vsrcRegs [a]) (bodyVredadd d a m) s
/-- VREDMAX: routing. -/
def execVredmax (d : Fin 128) (a : VSrc) (m : VMod) (s : State) : Host.Outcome State Fault Refusal :=
  vecRoute .varith (.vredmax d a m) m (vsrcRegs [a]) (bodyVredmax d a m) s
/-- VREDAMAX: routing. -/
def execVredamax (d : Fin 128) (a : VSrc) (m : VMod) (s : State) : Host.Outcome State Fault Refusal :=
  vecRoute .varith (.vredamax d a m) m (vsrcRegs [a]) (bodyVredamax d a m) s
/-- VREDMIN: routing. -/
def execVredmin (d : Fin 128) (a : VSrc) (m : VMod) (s : State) : Host.Outcome State Fault Refusal :=
  vecRoute .varith (.vredmin d a m) m (vsrcRegs [a]) (bodyVredmin d a m) s
/-- VSCAN: routing. -/
def execVscan (d : Fin 128) (a : VSrc) (m : VMod) (s : State) : Host.Outcome State Fault Refusal :=
  vecRoute .varith (.vscan d a m) m (vsrcRegs [a]) (bodyVscan d a m) s
/-- VPERM: routing. -/
def execVperm (d : Fin 128) (a b : VSrc) (m : VMod) (s : State) : Host.Outcome State Fault Refusal :=
  vecRoute .varith (.vperm d a b m) m (vsrcRegs [a, b]) (bodyVperm d a b m) s
/-- VSHUF: routing. -/
def execVshuf (d : Fin 128) (a b : VSrc) (pat : ShufPat) (m : VMod) (s : State) : Host.Outcome State Fault Refusal :=
  vecRoute .varith (.vshuf d a b pat m) m (vsrcRegs [a, b]) (bodyVshuf d a b pat m) s
/-- VROT: routing. -/
def execVrot (d : Fin 128) (a b : VSrc) (m : VMod) (s : State) : Host.Outcome State Fault Refusal :=
  vecRoute .varith (.vrot d a b m) m (vsrcRegs [a, b]) (bodyVrot d a b m) s
/-- VSLIDE: routing. -/
def execVslide (d : Fin 128) (a b : VSrc) (m : VMod) (s : State) : Host.Outcome State Fault Refusal :=
  vecRoute .varith (.vslide d a b m) m (vsrcRegs [a, b]) (bodyVslide d a b m) s
/-- VCOMP: routing. -/
def execVcomp (d : Fin 128) (a : VSrc) (k : BitVec 8) (m : VMod) (s : State) : Host.Outcome State Fault Refusal :=
  vecRoute .varith (.vcomp d a k m) m (vsrcRegs [a]) (bodyVcomp d a k m) s
/-- VRNG: routing. -/
def execVrng (d : Fin 128) (m : VMod) (s : State) : Host.Outcome State Fault Refusal :=
  vecRoute .varith (.vrng d m) m [] (bodyVrng d m) s
/-- VLD: routing. -/
def execVld (d : Fin 128) (a : Fin 32) (m : VMod) (s : State) : Host.Outcome State Fault Refusal :=
  vecRoute .vload (.vld d a m) m [a] (bodyVld d a m) s
/-- VST: routing. -/
def execVst (d : Fin 128) (a : Fin 32) (m : VMod) (s : State) : Host.Outcome State Fault Refusal :=
  vecRoute .vstore (.vst d a m) m [a] (bodyVst d a m) s
/-- VLDS: routing. -/
def execVlds (d : Fin 128) (a b : Fin 32) (m : VMod) (s : State) : Host.Outcome State Fault Refusal :=
  vecRoute .vload (.vlds d a b m) m [a, b] (bodyVlds d a b m) s
/-- VSTS: routing. -/
def execVsts (d : Fin 128) (a b : Fin 32) (m : VMod) (s : State) : Host.Outcome State Fault Refusal :=
  vecRoute .vstore (.vsts d a b m) m [a, b] (bodyVsts d a b m) s
/-- VGATH: routing. -/
def execVgath (d : Fin 128) (a : Fin 32) (b : Fin 128) (m : VMod) (s : State) : Host.Outcome State Fault Refusal :=
  vecRoute .vload (.vgath d a b m) m [a] (bodyVgath d a b m) s
/-- VSCAT: routing. -/
def execVscat (d : Fin 128) (a : Fin 32) (b : Fin 128) (m : VMod) (s : State) : Host.Outcome State Fault Refusal :=
  vecRoute .vstore (.vscat d a b m) m [a] (bodyVscat d a b m) s
/-- MAND: routing. -/
def execMand (d a b : Fin 8) (m : VMod) (s : State) : Host.Outcome State Fault Refusal :=
  vecRoute .varith (.mand d a b m) m [] (bodyMand d a b m) s
/-- MOR: routing. -/
def execMor (d a b : Fin 8) (m : VMod) (s : State) : Host.Outcome State Fault Refusal :=
  vecRoute .varith (.mor d a b m) m [] (bodyMor d a b m) s
/-- MXOR: routing. -/
def execMxor (d a b : Fin 8) (m : VMod) (s : State) : Host.Outcome State Fault Refusal :=
  vecRoute .varith (.mxor d a b m) m [] (bodyMxor d a b m) s
/-- MNOT: routing. -/
def execMnot (d a : Fin 8) (m : VMod) (s : State) : Host.Outcome State Fault Refusal :=
  vecRoute .varith (.mnot d a m) m [] (bodyMnot d a m) s
/-- MPOP: routing. -/
def execMpop (a : Fin 8) (m : VMod) (s : State) : Host.Outcome State Fault Refusal :=
  vecRoute .varith (.mpop a m) m [] (bodyMpop a m) s
/-- MFIRST: routing. -/
def execMfirst (d a : Fin 8) (m : VMod) (s : State) : Host.Outcome State Fault Refusal :=
  vecRoute .varith (.mfirst d a m) m [] (bodyMfirst d a m) s
/-- VANYQ: routing. -/
def execVanyq (a : Fin 8) (m : VMod) (s : State) : Host.Outcome State Fault Refusal :=
  vecRoute .varith (.vanyq a m) m [] (bodyVanyq a m) s
/-- VALLQ: routing. -/
def execVallq (a : Fin 8) (m : VMod) (s : State) : Host.Outcome State Fault Refusal :=
  vecRoute .varith (.vallq a m) m [] (bodyVallq a m) s
/-- VXQ: routing. -/
def execVxq (a b : VSrc) (m : VMod) (s : State) : Host.Outcome State Fault Refusal :=
  vecRoute .varith (.vxq a b m) m (vsrcRegs [a, b]) (bodyVxq a b m) s

end Sys2Proof.Machine
end

