-- ==== Sys2Proof/Machine/Mtx.lean ====
section
/-! DEFINITION. The matrix forms (R260 to R284): leases and gangs (R123 to R125, R267 to R271), tiles, the multiply, the
drain, self-checks, and how array time is counted against a lease (R123, R132, R272). -/

namespace Sys2Proof.Machine

/-! ## Lease requests and grants (R123 to R125, R267) -/

/-- Changes the lease state of the moving context. -/
def updLease (f : Lease → Lease) (s : State) : State := { s with cx := { s.cx with lease := f s.cx.lease } }

/-- The moving context requests a lease of its session's kind, as a new request. -/
def requestLease (gang : Bool) (s : State) : State :=
  let (u, s) := takeUid s
  raiseDue (.leaseGrant (quadOf s.me))
    (updLease (fun l => { l with waiting := true, passed := false, gang := gang, age := u }) s)

/-- Applies an operation to both banks of a quad's four cores. -/
def mapQuad (q : Nat) (f : Ctx → Ctx) (s : State) : State :=
  (List.range 4).foldl (fun s i =>
    let (c, k) := coreOf s (4 * q + i)
    setCore s (4 * q + i) (f c, { k with standby := k.standby.map f })) s

/-- A lease ends while its session is open: it is requested again at once (R267); a gang's holder counts as the last
to request. -/
def endRenew (core : Nat) (s : State) : State :=
  let (u, s) := takeUid s
  let (v, s) := takeUid s
  let f (c : Ctx) : Ctx :=
    if c.lease.held && c.lease.session.isSome then
      { c with lease := { c.lease with waiting := true, passed := false, age := if c.lease.holder then v else u } }
    else c
  endLease core (mapQuad (quadOf core) f s)

/-- A request for an array: the core it counts for, whether it is a gang's, its PRIO, age and PASSED. -/
structure LeaseReq where
  core : Nat
  gang : Bool
  prio : Nat
  age : Nat
  passed : Bool
  deriving DecidableEq, Repr

/-- PRIO of a context's task. -/
def ctxPrio (c : Ctx) : Nat := match c.task with | some t => prioOf t.packet | none => 0

/-- The requests that wait for a quad's array; a gang's counts once all four cores have made it (R125). -/
def leaseReqs (s : State) (q : Nat) : List LeaseReq :=
  let w := (banks s).filter fun b => quadOf b.1 == q && b.2.2.lease.waiting
  let singles := (w.filter fun b => !b.2.2.lease.gang).map fun b =>
    (⟨b.1, false, ctxPrio b.2.2, b.2.2.lease.age, b.2.2.lease.passed⟩ : LeaseReq)
  let g := w.filter fun b => b.2.2.lease.gang
  let cores := (g.map fun b => b.1).dedup
  if cores.length = 4 then
    let age := (g.map fun b => b.2.2.lease.age).foldl Nat.max 0
    let core := ((g.find? fun b => b.2.2.lease.age == age).map (·.1)).getD 0
    singles ++ [⟨core, true, (g.map fun b => ctxPrio b.2.2).foldl Nat.max 0, age, g.any fun b => b.2.2.lease.passed⟩]
  else singles

/-- The request that is granted (R124): the oldest passed over; else the highest PRIO, round robin among equals. -/
def chooseReq (last : Nat) (l : List LeaseReq) : Option LeaseReq :=
  let old := l.filter (·.passed)
  match old.find? fun r => old.all (r.age ≤ ·.age) with
  | some r => some r
  | none =>
    let top := l.filter fun r => l.all (·.prio ≤ r.prio)
    let next := top.filter (last < ·.core)
    let pool := if next.isEmpty then top else next
    pool.find? fun r => pool.all (r.core ≤ ·.core)

/-- Grants an idle array (R124, R125): the lease runs 16 multiplies and 4,096 clocks from now, or from the end of the
operation that still runs; every other request has been passed over. -/
def grantLease (q : Nat) (s : State) : State :=
  let a := arrOf s q
  match a.holder, chooseReq a.last (leaseReqs s q) with
  | none, some r =>
    let reqs := leaseReqs s q
    let gangReq := reqs.any (·.gang)
    let start := Nat.max s.clock a.busy
    let f (c : Ctx) : Ctx :=
      let l := c.lease
      if !l.waiting then c
      else if l.gang == r.gang && (r.gang || l.age == r.age) then
        { c with lease := { l with held := true, waiting := false, passed := false, mmas := 16, ends := start + 4096,
                                   fresh := true, holder := r.gang && l.age == r.age } }
      else if l.gang && !gangReq then c
      else { c with lease := { l with passed := true } }
    updArr q (fun a => { a with holder := some r.core, gang := r.gang, last := r.core }) (mapQuad q f s)
  | _, _ => s

/-! ## Formats, shapes and tiles (R260 to R262) -/

/-- The format of a matrix field, with the table entry of the captured registers (R262); none where R139 or R140
refuses it. -/
def mtxFmt (g : Cfg) (f : MFmt) : Option Fmt :=
  let r := match f with
    | .fmt f => some f
    | .tab => fmtOf? ((g.fmt[(g.l[g.fmtsel.toNat % 4]?.getD 0).toNat % 16]?.getD 0).toNat)
  r.filter isMatrixFmt

/-- The shape of a tile register. -/
def shOf (g : Cfg) (t : Fin 8) : W64 := g.tshape[t]

/-- A rounding field with RMODE (R264). -/
def selRm (r : RmSel) (g : Cfg) : Rm := match r with | .mode m => m | .rmode => rmOf g.rmode.toNat

/-- The first `n` rows of a tile register. -/
def tileRows (t : Tile) (n : Nat) : List TRow :=
  (List.range n).map fun r => ((t.rows[r]?.getD 0).toNat, (t.side[r]?.getD 0).toNat)

/-- A tile register whose first rows are the list; every other byte is zero (R261). -/
def mkTile (l : List TRow) : Tile :=
  let a := l.toArray
  { rows := Vector.ofFn fun r => BitVec.ofNat 2048 (a.getD r.val (0, 0)).1
    side := Vector.ofFn fun r => BitVec.ofNat 256 (a.getD r.val (0, 0)).2 }

/-- Writes a tile register of the moving context. -/
def setT (t : Fin 8) (l : List TRow) (s : State) : State := { s with cx := { s.cx with t := s.cx.t.set t (mkTile l) } }

/-- Rows of Z from `d` on, as numbers. -/
def zRows (c : Ctx) (d n : Nat) : List Nat := (List.range n).map fun i => (c.v[d + i]?.getD 0).toNat

/-- Writes rows of Z from `d` on. -/
def setZ (d : Nat) (l : List Nat) (c : Ctx) : Ctx :=
  l.zipIdx.foldl (fun c (x, i) => setV (Fin.ofNat 128 (d + i)) x c) c

/-! ## Routing checks -/

/-- ILLEGAL at routing unless a test holds. -/
def need (b : State → Bool) (s : State) : Option Act := if b s then none else some (illegal s.cx.pc s)

/-- The first check that fails. -/
def firstOf (l : List (State → Option Act)) (s : State) : Option Act := l.findSome? fun f => f s

/-- PAGE_PERM at the first byte outside the task's scratchpad part (R281, R284). -/
def inPart (a : W64) (n : Nat) (s : State) : Option Act :=
  let (lo, hi) := spadPart (ctxSpad s.cx)
  if a.toNat < lo ∨ hi ≤ a.toNat then some (.trap cPERM a 0 s)
  else if hi < a.toNat + n then some (.trap cPERM (BitVec.ofNat 64 hi) 0 s)
  else none

/-- Routes a matrix word. -/
def mtxRoute (i : Instr) (rs : List (Fin 32)) (chk : State → Option Act) (atRoute : State → State)
    (body : QEntry → State → QAct) (s : State) : Host.Outcome State Fault Refusal :=
  routeQ .matrix i rs chk atRoute body s

/-- No routing check. -/
def noChk (_ : State) : Option Act := none

/-! ## MLEASE, MREL, MWAIT, MCHKN (R267, R268, R271, R282) -/

/-- MLEASE (R267, R268). The entry's count is 1 once it has requested. -/
def bodyMlease (gang : Bool) (e : QEntry) (s : State) : QAct :=
  let l := s.cx.lease
  if e.done = 0 then
    match l.session with
    | some k => if k = gang then (.done s, 0) else (.trap cLEASE e.pc 0 s, 0)
    | none =>
      let s := updLease (fun l => { l with session := some gang, shapes := if gang then e.cfg.tshape else l.shapes }) s
      (.wait .other (requestLease gang s), 1)
  else if l.held || l.session.isNone then (.done s, 1)
  else if l.waiting then (.wait .other s, 1)
  else (.wait .other (requestLease gang s), 1)

/-- MREL (R268). -/
def bodyMrel (_ : QEntry) (s : State) : QAct :=
  let close (c : Ctx) : Ctx := { c with lease := { c.lease with session := none, waiting := false, passed := false, holder := false } }
  match s.cx.lease.session with
  | none => (.done s, 0)
  | some false =>
    let s := if s.cx.lease.held then endLease s.me s else s
    (.done { s with cx := close s.cx }, 0)
  | some true =>
    if s.cx.lease.holder then
      let s := if s.cx.lease.held then endLease s.me s else s
      (.done (mapQuad (quadOf s.me) (fun c => if c.lease.session = some true then close c else c) s), 0)
    else (.done s, 0)

/-- MWAIT (R271): earlier matrix words have completed when the word is attempted. The entry's count names the gang
lease that it waits for. -/
def bodyMwait (gang : Bool) (e : QEntry) (s : State) : QAct :=
  let l := s.cx.lease
  if gang && l.held && l.gang && (e.done = 0 || e.done = l.age + 1) then (.wait .other s, l.age + 1) else (.done s, e.done)

/-- MCHKN (R282). -/
def bodyMchkn (a : Fin 32) (e : QEntry) (s : State) : QAct :=
  (.done { s with cx := { s.cx with mchkPeriod := (qs e a).setWidth 16, mchkCount := 0 } }, 0)

/-! ## Loading and storing tiles (R276, R277) -/

/-- The side-store arrays of a shape (R276): start, bytes per row, byte of the side store. -/
def sideArrays (sh c c1 : W64) : List (W64 × Nat × Nat) :=
  match shSs sh with
  | 1 => [(c, 4 * (shCols sh / 32), 0)]
  | 2 => [(c, shCols sh / 64, 0), (c1, 4 * ((shCols sh + 255) / 256), 8)]
  | _ => []

/-- SC20 words with their ignored bits zero (R146). -/
def cleanSide (ss x : Nat) : Nat :=
  let mask (from_ n : Nat) : Nat := (List.range n).foldl (fun acc k => acc ||| ((x / 2 ^ (32 * (from_ + k)) % 2 ^ 20) * 2 ^ (32 * (from_ + k)))) 0
  match ss with
  | 1 => mask 0 8
  | 2 => x % 2 ^ 64 + mask 2 2
  | _ => 0

/-- The accesses of row `r`: elements, then scales; each with its byte count. -/
def rowParts (sh a b c c1 : W64) (r : Nat) : List (W64 × Nat) :=
  (a + BitVec.ofNat 64 r * b, shRowBytes sh)
    :: (sideArrays sh c c1).map fun (base, n, _) => (base + BitVec.ofNat 64 (r * n), n)

/-- The address of the second scale array: register C + 1. -/
def nextReg (e : QEntry) (c : Fin 32) : W64 := qs e (Fin.ofNat 32 (c.val + 1))

/-- MLDT from the row given on, `n` rows (R277): a row that cannot move stops the word at its number. -/
def loadRows (t : Fin 8) (sh a b c c1 : W64) : Nat → Nat → State → QAct
  | 0, r, s =>
    -- rows at or beyond ROWS are zero (R261)
    (.done (setT t (tileRows s.cx.t[t] r) s), r)
  | n + 1, r, s =>
    let got := (Res.mapM (fun x s => access 4 .vec .rd x.1.toNat x.2 s) (rowParts sh a b c c1 r) s).andThen fun gs s =>
      Res.mapM (fun g s => readSegs 4 g s) gs s
    match withInfo r got with
    | .stop x => (x, r)
    | .ok l s =>
      let elems := natOf (l.headD [])
      let side := ((sideArrays sh c c1).zip (l.drop 1)).foldl (fun acc (x, bs) => acc + natOf bs * 2 ^ (8 * x.2.2)) 0
      let tile := s.cx.t[t]
      let tile : Tile := { rows := tile.rows.set! r (BitVec.ofNat 2048 elems)
                           side := tile.side.set! r (BitVec.ofNat 256 (cleanSide (shSs sh) side)) }
      loadRows t sh a b c c1 n (r + 1) { s with cx := { s.cx with t := s.cx.t.set t tile } }

/-- MLDT (R276). -/
def bodyMldt (a b c : Fin 32) (t : Fin 8) (e : QEntry) (s : State) : QAct :=
  let sh := shOf e.cfg t
  loadRows t sh (qs e a) (qs e b) (qs e c) (nextReg e c) (shRows sh - e.done) e.done s

/-- MSTT from the row given on, `n` rows (R277). -/
def storeRows (u : Nat) (t : Fin 8) (sh a b c c1 : W64) : Nat → Nat → State → QAct
  | 0, r, s => (.done s, r)
  | n + 1, r, s =>
    match withInfo r (Res.mapM (fun x s => access 4 .vec .wr x.1.toNat x.2 s) (rowParts sh a b c c1 r) s) with
    | .stop x => (x, r)
    | .ok gs s =>
      if gs.any (fun g => storeHeld u g s) then (.wait .other s, r)
      else
        let row := (tileRows s.cx.t[t] (r + 1)).getD r (0, 0)
        let side := cleanSide (shSs sh) row.2
        let data := bytesOf (shRowBytes sh) row.1
          :: (sideArrays sh c c1).map fun (_, k, o) => bytesOf k (side / 2 ^ (8 * o))
        storeRows u t sh a b c c1 n (r + 1) ((gs.zip data).foldl (fun s (g, bs) => writeSegs 4 g bs s) s)

/-- MSTT (R276). -/
def bodyMstt (a b c : Fin 32) (t : Fin 8) (e : QEntry) (s : State) : QAct :=
  let sh := shOf e.cfg t
  storeRows e.uid t sh (qs e a) (qs e b) (qs e c) (nextReg e c) (shRows sh - e.done) e.done s

/-- The S registers of MLDT and MSTT: C only where the shape has a side store, C + 1 only for Q4N (R276). -/
def tileMoveRegs (a b c : Fin 32) (t : Fin 8) (s : State) : List (Fin 32) :=
  match shSs (shOf s.cx.cfg t) with
  | 1 => [a, b, c]
  | 2 => [a, b, c, Fin.ofNat 32 (c.val + 1)]
  | _ => [a, b]

/-- The routing checks of MLDT and MSTT (R276). -/
def tileMoveOk (c : Fin 32) (t : Fin 8) (s : State) : Bool :=
  let sh := shOf s.cx.cfg t
  !shEmpty sh && !(shSs sh == 2 && c.val == 31)

/-! ## Reshaping (R278, R279) -/

/-- MCVT's formats under its routing checks (R279). -/
def cvtFmts (d a : Fin 8) (sf df : MFmt) (g : Cfg) : Option (Fmt × Fmt) :=
  match mtxFmt g sf, mtxFmt g df with
  | some x, some y =>
    if fits x (shOf g a) && fits y (shOf g d) && shRows (shOf g a) == shRows (shOf g d)
      && shCols (shOf g a) == shCols (shOf g d) then some (x, y) else none
  | _, _ => none

/-- MCVT (R279). -/
def bodyMcvt (d a : Fin 8) (sf df : MFmt) (rm : RmSel) (sat : Bool) (e : QEntry) (s : State) : QAct :=
  match cvtFmts d a sf df e.cfg with
  | none => (illegal e.pc s, 0)
  | some (x, y) =>
    let sh := shOf e.cfg a
    let r := cvtTile x y (selRm rm e.cfg) sat (drawOf e.cfg.key.toNat e.cfg.ctr.toNat) (shCols sh)
      (tileRows s.cx.t[a] (shRows sh))
    let s := setT d r.1 s
    (.done { s with cx := addFlags r.2 s.cx }, 0)

/-- Counter values of MCVT (R155). -/
def cvtDraws (a : Fin 8) (rm : RmSel) (g : Cfg) : Nat :=
  if selRm rm g = .sr then (shRows (shOf g a) * shCols (shOf g a) + 3) / 4 else 0

/-- MTRN's routing check (R278): of Td the rule asks EW, ROWS and COLS and no value of SS (log 71). -/
def mtrnOk (d a : Fin 8) (g : Cfg) : Bool :=
  let x := shOf g a; let y := shOf g d
  !shEmpty x && shEw x != 0 && shSs x == 0 && shEw y == shEw x && shRows y == shCols x && shCols y == shRows x

/-- MTRN (R278). -/
def bodyMtrn (d a : Fin 8) (e : QEntry) (s : State) : QAct :=
  let x := shOf e.cfg a; let y := shOf e.cfg d
  (.done (setT d (keepScales (shSs y) (shCols y) (tileRows s.cx.t[d] (shRows y))
    (transposeTile (shEw x) (shCols x) (tileRows s.cx.t[a] (shRows x)))) s), 0)

/-- MZERO of Z rows (R278). -/
def bodyMzero (d n : Fin 128) (_ : QEntry) (s : State) : QAct :=
  (.done { s with cx := setZ d.val (List.replicate (n.val + 1) 0) s.cx }, 0)

/-- MZERO.t (R278). -/
def bodyMzeroT (t : Fin 8) (_ : QEntry) (s : State) : QAct := (.done (setT t [] s), 0)

/-- MFMT completes without further effect (R263). -/
def bodyMfmt (_ : QEntry) (s : State) : QAct := (.done s, 0)

/-! ## Multiplying (R272 to R274, R282, R283) -/

/-- Issue clocks of an operation of length K (R272). -/
def issueSlots (f : Fmt) (k : Nat) : Nat := 32 * ((k + (fmtShape f).2.2.2 - 1) / (fmtShape f).2.2.2)

/-- COUNT after a start (R282); past 65,535 the spec states no value (log 18). -/
def nextCount (s : State) : BitVec 16 × State :=
  if s.cx.mchkCount = 0xFFFF then let (k, s) := takeFree s; (Config.countPast k, s) else (s.cx.mchkCount + 1, s)

/-- What a multiply does: of a gang or not, its issue clocks, the blocks of Z that it writes (where, first row, rows, first column,
columns), its results, and the quadrants of an MMAG, which its array keeps while it runs. -/
structure MmaOp where
  gang : Bool
  slots : Nat
  blocks : List (Loc × Nat × Nat × Nat × Nat)
  run : State → State
  quads : List GangQuad := []

/-- Whether a multiply of a context runs. -/
def multiplies (c : Ctx) : Bool := c.fl.pend.any fun e => e.issued && (match e.ins with | .mma .. | .mmag .. => true | _ => false)

/-- Whether a multiply of a quad's contexts runs, or has not left its queue yet. -/
def quadMultiplies (s : State) (q : Nat) : Bool := (banks s).any fun b => quadOf b.1 == q && multiplies b.2.2

/-- Whether a multiply of a context that holds its lease waits. -/
def mmaWaits (c : Ctx) : Bool :=
  c.lease.held && c.fl.pend.any fun e => !e.issued && !e.retained && (match e.ins with | .mma .. | .mmag .. => true | _ => false)

/-- A multiply of the moving context that waits at a density below what the die's issue step admits is held by ramp: RAMPHOLD is set, and
the array asks for increments (R133). -/
def noteRamp (s : State) : State :=
  if mmaWaits s.cx && (arrOf s (quadOf s.me)).density < maxDensity s (dieOf s.me) then
    raiseDue .governorInterval { s with cx := { s.cx with ramphold := true } }
  else s

/-- A multiply that has not started needs its lease and the array (R123, R133, R267): it waits for the grant, for the operation that
runs, or for the array's first increment; it ends the lease if 4,096 clocks have passed or if it does not fit; else it starts, and from
then on its entry runs. A frozen one goes on with the issue clocks that it still needs, and its self-check stands (R275). The entry's
count is 2 for a self-checked operation, 1 for another. -/
def mmaStart (o : MmaOp) (e : QEntry) (s : State) : Act :=
  let s := noteRamp s
  let l := s.cx.lease
  let q := quadOf s.me
  let a := arrOf s q
  let frozen := 0 < e.ends
  if !l.held then .wait .other (if l.waiting then s else requestLease o.gang s)
  else if l.mmas = 0 ∨ s.clock < a.busy ∨ quadMultiplies s q = true ∨ a.density = 0 then .wait .other s
  else if l.ends ≤ s.clock then .wait .other (endRenew s.me s)
  else
    let (count, s1) := if frozen then (s.cx.mchkCount, s) else nextCount s
    let periodic := !frozen && s.cx.mchkPeriod != 0 && s.cx.mchkPeriod.toNat ≤ count.toNat
    let chk := if frozen then e.done == 2 else periodic || 1024 ≤ a.ring.length
    let step := issueStep s (powOf s (dieOf s.me))
    let slots := if frozen then e.ends else if chk then 2 * o.slots else o.slots
    let time := slotClocks s.clock slots (Nat.min a.density (8 - step))
    if !l.fresh && l.ends < s.clock + time then .wait .other (endRenew s.me s)
    else
      let s := { s1 with cx := { s1.cx with
        mchkCount := if periodic then 0 else count
        task := s1.cx.task.map fun t => { t with mmaOn := q :: t.mmaOn.filter (· != q) } } }
      let s := updArr q (fun a => { a with busy := s.clock + time, slots := slots, from_ := s.clock, step := step, run := o.quads }) s
      let dec (c : Ctx) : Ctx :=
        if c.lease.held then { c with lease := { c.lease with mmas := c.lease.mmas - 1, fresh := false } } else c
      let s := if o.gang then mapQuad q dec s else { s with cx := dec s.cx }
      .left (setEntry { e with issued := true, ends := 0, time := slots + 24, done := if chk then 2 else 1 } s)

/-- What an array that computes wrongly leaves in a block of Z: which bits of which elements are wrong is free (log 85). -/
def spoil (k d n zc cols : Nat) (c : Ctx) : Ctx :=
  setZ d ((zRows c d n).mapIdx fun i z => (List.range cols).foldl (fun z j =>
    z ^^^ (Config.wrongElement (k + i * cols + j)).toNat * 2 ^ (32 * (zc + j))) z) c

/-- The wrong elements of every block, with fresh free values. -/
def spoilAll (l : List (Loc × Nat × Nat × Nat × Nat)) (s : State) : State :=
  l.foldl (fun s (loc, d, n, zc, cols) =>
    updLoc loc (spoil s.free d n zc cols) { s with free := s.free + n * cols }) s

/-- A multiply that runs (R123, R283): at its last clock a self-check that differs takes the silent-error path, with no Z written, and
the array keeps what differed first, which is free; otherwise the results are written, and a lease whose last or extending operation
this was ends. That the element differs in the first quadrant that an MMAG computes, and that its cell column counts from the block's
own column 0, are the model's choices (log 106). -/
def mmaEnd (o : MmaOp) (e : QEntry) (s : State) : Act :=
  let q := quadOf s.me
  let wrong := s.broken.contains (coreUnit s.me 2)
  if s.clock < (arrOf s q).busy then .left s
  else if e.done = 2 ∧ wrong = true then
    match s.cx.task, o.blocks with
    | some t, (_, _, n, _, cols) :: _ =>
      let k := (Config.wrongElement s.free).toNat % (n * cols)
      let s := updArr q (fun a => { a with failed := some (k, k / cols, k % cols, (k / cols + 1) % 128) }) { s with free := s.free + 1 }
      .left (selfcheckFail (.bank s.me true) t s.me s)
    | _, _ => .left s
  else
    let s := o.run s
    let s := if wrong then spoilAll o.blocks s else s
    let s := if e.done = 2 then passCheck q s else s
    let l := s.cx.lease
    .done (if l.held && (l.mmas == 0 || l.ends ≤ s.clock) then endRenew s.me s else s)

/-- One attempt at a multiply. -/
def mmaTurn (o : MmaOp) (e : QEntry) (s : State) : QAct := (if e.issued then mmaEnd o e s else mmaStart o e s, e.done)

/-- The block of one MMA in a context: Z rows, with its flags. -/
def multiply (f : Fmt) (acc : Bool) (d zc k : Nat) (as bs : List TRow) (c : Ctx) : Ctx :=
  let r := mmaRows f acc zc k as bs (zRows c d as.length)
  addFlags r.2 (setZ d r.1 c)

/-- MMA's routing checks (R273). -/
def mmaOk (d : Fin 128) (a b : Fin 8) (f : MFmt) (zc : BitVec 8) (g : Cfg) : Bool :=
  let x := shOf g a; let y := shOf g b
  match mtxFmt g f with
  | none => false
  | some f => fits f x && fits f y && shCols x == shCols y && shCols x ≤ (fmtShape f).2.2.1
      && d.val + shRows x ≤ 128 && zc.toNat ≤ 191 && zc.toNat + shRows y ≤ 192

/-- An MMA under its captured shapes. -/
def mmaOp (d : Fin 128) (a b : Fin 8) (f : Fmt) (acc : Bool) (zc : BitVec 8) (g : Cfg) (core : Nat) : MmaOp :=
  let x := shOf g a; let y := shOf g b
  let run (s : State) : State :=
    { s with cx := multiply f acc d.val zc.toNat (shCols x) (tileRows s.cx.t[a] (shRows x)) (tileRows s.cx.t[b] (shRows y)) s.cx }
  { gang := false, slots := issueSlots f (shCols x), blocks := [(.bank core true, d.val, shRows x, zc.toNat, shRows y)], run := run }

/-- MMA (R269, R273): the lease is looked at when the word comes to the head of its queue. -/
def bodyMma (d : Fin 128) (a b : Fin 8) (f : MFmt) (acc : Bool) (zc : BitVec 8) (e : QEntry) (s : State) : QAct :=
  let arr := arrOf s (quadOf s.me)
  if !e.issued && (s.cx.lease.session != some false || (arr.gang && arr.holder.isSome)) then (.trap cLEASE e.pc 0 s, 0)
  else match mtxFmt e.cfg f with
    | none => (illegal e.pc s, 0)
    | some f => mmaTurn (mmaOp d a b f acc zc e.cfg s.me) e s

/-- The member of a gang on a core of the quad. -/
def gangMember (s : State) (q i : Nat) : Option (Loc × Ctx) :=
  let n := 4 * q + i
  ([Loc.bank n true, Loc.bank n false].filterMap fun l => (ctxAt s l).map fun c => (l, c)).find? fun x =>
    x.2.lease.held && x.2.lease.gang

/-- The rows that a member supplies: its tile register under the shape of its MLEASE.gang (R270). -/
def gangHalf (s : State) (q i : Nat) (t : Fin 8) : W64 × List TRow :=
  match gangMember s q i with
  | some (_, c) => let sh : W64 := c.lease.shapes[t]; (sh, tileRows c.t[t] (shRows sh))
  | none => (0, [])

/-- The conditions on the halves (R270). -/
def gangOk (f : Fmt) (a0 a1 b0 b1 : W64) : Bool :=
  let half (max : Nat) (x : W64) : Bool := shRows x ≤ max && fits f x && shCols x == shCols a0
  half 128 a0 && half 192 b0 && (shEmpty a1 || half 128 a1) && (shEmpty b1 || half 192 b1)
    && shCols a0 ≤ (fmtShape f).2.2.1

/-- What tells the task of a gang's member from others on its core. -/
def ctxTask (c : Ctx) : Option (W64 × List W64) := c.task.map fun t => (t.handle, t.idx)

/-- The quadrants that an MMAG computes, in order (R274), with the halves as they stand when it starts. -/
def gangQuads (s : State) (q : Nat) (a b : Fin 8) : List GangQuad :=
  let a0 := gangHalf s q 0 a; let a1 := gangHalf s q 2 a; let b0 := gangHalf s q 0 b; let b1 := gangHalf s q 1 b
  let quad (i : Nat) (x y : W64 × List TRow) : GangQuad := ⟨i, (gangMember s q i).bind fun m => ctxTask m.2, x, y⟩
  [quad 0 a0 b0, quad 1 a0 b1, quad 2 a1 b0, quad 3 a1 b1].filter fun x => !shEmpty x.a.1 && !shEmpty x.b.1

/-- The bank of a quadrant's core in which the member that the MMAG started with stands, whatever has become of the lease (R123). -/
def quadLoc (s : State) (q : Nat) (x : GangQuad) : Option Loc :=
  [Loc.bank (4 * q + x.core) true, Loc.bank (4 * q + x.core) false].find? fun l =>
    match ctxAt s l with | some c => ctxTask c == x.task | none => false

/-- An MMAG of a quad, by its quadrants. -/
def mmagOp (f : Fmt) (acc : Bool) (q : Nat) (quads : List GangQuad) (s : State) : MmaOp :=
  let blocks := quads.filterMap fun x => (quadLoc s q x).map fun l => (l, 0, shRows x.a.1, 0, shRows x.b.1)
  let run (s : State) : State := quads.foldl (fun s x =>
    match quadLoc s q x with
    | some loc => updLoc loc (multiply f acc 0 0 (shCols x.a.1) x.a.2 x.b.2) s
    | none => s) s
  ⟨true, (quads.map fun x => issueSlots f (shCols x.a.1)).foldl (· + ·) 0, blocks, run, quads⟩

/-- Whether another context of the quad issues MMAG for the gang. -/
def otherHolder (s : State) : Bool :=
  (banks s).any fun b => quadOf b.1 == quadOf s.me && b.1 != s.me && b.2.2.lease.holder

/-- MMAG (R269, R270, R274): a member that is not the holder faults, also while the gang's lease is being renewed. -/
def bodyMmag (a b : Fin 8) (f : MFmt) (acc : Bool) (e : QEntry) (s : State) : QAct :=
  let l := s.cx.lease
  let q := quadOf s.me
  if !e.issued && (l.session != some true || (l.held && !l.holder) || (!l.held && !l.holder && otherHolder s)) then (.trap cLEASE e.pc 0 s, 0)
  else if !e.issued && !l.held then (.wait .other (if l.waiting then s else requestLease true s), 0)
  else match mtxFmt e.cfg f with
    | none => (illegal e.pc s, 0)
    | some f =>
      let h (i : Nat) (t : Fin 8) : W64 := (gangHalf s q i t).1
      if !e.issued && !gangOk f (h 0 a) (h 2 a) (h 0 b) (h 1 b) then (illegal e.pc s, 0)
      else mmaTurn (mmagOp f acc q (if e.issued then (arrOf s q).run else gangQuads s q a b) s) e s

/-- A member of a gang whose lease a switch or a pre-emption has taken away asks again once it is active (R267; a member that stayed
active asks at its next turn, log 92). -/
def gangAgain (s : State) : State :=
  let l := s.cx.lease
  if l.session == some true && !l.held && !l.waiting && s.cx.task.isSome then requestLease true s else s

/-! ## Draining (R280, R281) -/

/-- Bytes of a copy. -/
def copyLen (f : Fmt) (rows cols : Nat) : Nat :=
  match f with
  | .bs8 => (drainLen f rows cols).2.2
  | .q4n => (drainLen f rows cols).2.2
  | _ => (drainLen f rows cols).1

/-- Whether a copy's columns suit its block format (R281). -/
def colsOk (f : Fmt) (cols : Nat) : Bool :=
  match f with | .bs8 => cols % 32 == 0 | .q4n => cols % 64 == 0 | _ => true

/-- The copies of MDRAIN: format, rows, columns, address. -/
def drainCopies (a : W64) (df : Fmt) (tr : Option (Fmt × W64)) (rows cols : Nat) : List (Fmt × Nat × Nat × W64) :=
  (df, rows, cols, a) :: (match tr with | some (f, b) => [(f, cols, rows, b)] | none => [])

/-- The copies under the values of routing. -/
def drainOf (v : Fin 32 → W64) (a : Fin 32) (df : Fmt) (tr : Option DrainT) (rows cols : Nat) : List (Fmt × Nat × Nat × W64) :=
  drainCopies (v a) df (tr.map fun t => (t.tf, v t.b)) rows cols

/-- Whether two copies share a byte. -/
def copiesMeet : List (Fmt × Nat × Nat × W64) → Bool
  | [(f, r, c, a), (g, r', c', b)] => a.toNat < b.toNat + copyLen g r' c' && b.toNat < a.toNat + copyLen f r c
  | _ => false

/-- MDRAIN's routing checks (R280, R281), ILLEGAL first, then ALIGN, PAGE_PERM and the overlap (log 20). -/
def drainChk (d : Fin 128) (a : Fin 32) (df : Fmt) (tr : Option DrainT) (rows : Fin 128) (cols : BitVec 8) (s : State) : Option Act :=
  let r := rows.val + 1; let c := cols.toNat + 1
  let l := drainOf (sget s.cx) a df tr r c
  firstOf [
    need fun _ => drainFmt df && (match tr with | some t => drainFmt t.tf && drainInt t.tf == drainInt df | none => true)
      && d.val + r ≤ 128 && c ≤ 192 && l.all fun x => colsOk x.1 x.2.2.1,
    fun s => (l.find? fun x => x.2.2.2.toNat % 64 != 0).map fun x => .trap cALIGN x.2.2.2 0 s,
    fun s => l.findSome? fun x => inPart x.2.2.2 (copyLen x.1 x.2.1 x.2.2.1) s,
    need fun _ => !copiesMeet l] s

/-- Counter values of MDRAIN (R155). -/
def drainDraws (rm : RmSel) (tr : Option DrainT) (rows : Fin 128) (cols : BitVec 8) (g : Cfg) : Nat :=
  if selRm rm g = .sr then ((rows.val + 1) * (cols.toNat + 1) * (if tr.isSome then 2 else 1) + 3) / 4 else 0

/-- MDRAIN (R280, R281): every byte lies in the task's scratchpad part. -/
def bodyMdrain (d : Fin 128) (a : Fin 32) (df : Fmt) (tr : Option DrainT) (rm : RmSel) (sat : Bool) (rows : Fin 128)
    (cols : BitVec 8) (e : QEntry) (s : State) : QAct :=
  let r := rows.val + 1; let c := cols.toNat + 1
  let vals := (zRows s.cx d.val r).map fun z => (List.range c).map fun j =>
    if drainInt df then xint (ival .int32 (laneOf 4 z j)) else fval .fp32 (laneOf 4 z j)
  let draw := drawOf e.cfg.key.toNat e.cfg.ctr.toNat
  let put (base : W64) (x : List (Nat × List Byte) × Flg) (s : State) : State :=
    let s := x.1.foldl (fun s (o, bs) =>
      writeSeg 4 { ty := 3, own := true, rdev := 0, pa := spadBase s.me + base.toNat + o, len := bs.length, key := none,
                   rkey := none, va := base.toNat + o } bs s) s
    { s with cx := addFlags x.2 s.cx }
  let s := put (qs e a) (drainCopy df (selRm rm e.cfg) sat draw c vals) s
  (.done (match tr with
    | some t => put (qs e t.b) (drainCopy t.tf (selRm rm e.cfg) sat (fun k => draw (r * c + k)) r (transposeVals c vals)) s
    | none => s), 0)

/-! ## Known answer (R284) -/

/-- MKAT's routing checks. -/
def mkatChk (a b : Fin 32) (s : State) : Option Act :=
  let n := (sget s.cx b).toNat
  firstOf [need fun _ => n % 64 == 0 && 64 ≤ n && n ≤ 98304, inPart (sget s.cx a) n] s

/-- The label of MKAT: line and word. -/
def mkatLabel (pc : W64) (disp : BitVec 17) : W64 :=
  BitVec.ofNat 64 (pc.toNat / 128 * 128) + disp.signExtend 64 * 128

/-- MKAT (R284). A difference runs the silent-error path, which names the array (R352). -/
def bodyMkat (a b : Fin 32) (disp : BitVec 17) (slot : Fin 32) (e : QEntry) (s : State) : QAct :=
  let line := mkatLabel e.pc disp
  ((fetchLine line.toNat s).bind fun l s =>
    if lineKind l ≠ 1 then .trap cTARGET (line + BitVec.ofNat 64 (4 * slot.val)) 0 s
    else
      let want := lineWord l slot.val + lineWord l (slot.val + 1) * 2 ^ 32
      let bytes := s.mem.raw (spadBase s.me + (qs e a).toNat) (qs e b).toNat
      if (sealDigest bytes).toNat = want then .done (passCheck (quadOf s.me) s)
      else match s.cx.task with
        | some t => .left (selfcheckFail (.bank s.me true) t s.me s)
        | none => .left s, 0)

/-! ## The meanings -/

/-- MLEASE: routing. -/
def execMlease (gang : Bool) (s : State) : Host.Outcome State Fault Refusal :=
  mtxRoute (.mlease gang) [] noChk id (bodyMlease gang) s
/-- MREL: routing. -/
def execMrel (s : State) : Host.Outcome State Fault Refusal := mtxRoute .mrel [] noChk id bodyMrel s
/-- MLDT: routing. -/
def execMldt (a b c : Fin 32) (t : Fin 8) (s : State) : Host.Outcome State Fault Refusal :=
  mtxRoute (.mldt a b c t) (tileMoveRegs a b c t s) (need (tileMoveOk c t)) id (bodyMldt a b c t) s
/-- MSTT: routing. -/
def execMstt (a b c : Fin 32) (t : Fin 8) (s : State) : Host.Outcome State Fault Refusal :=
  mtxRoute (.mstt a b c t) (tileMoveRegs a b c t s) (need (tileMoveOk c t)) id (bodyMstt a b c t) s
/-- MCVT: routing. -/
def execMcvt (d a : Fin 8) (sf df : MFmt) (rm : RmSel) (sat : Bool) (s : State) : Host.Outcome State Fault Refusal :=
  mtxRoute (.mcvt d a sf df rm sat) [] (need fun s => (cvtFmts d a sf df s.cx.cfg).isSome)
    (fun s => takeDraws (cvtDraws a rm s.cx.cfg) s) (bodyMcvt d a sf df rm sat) s
/-- MTRN: routing. -/
def execMtrn (d a : Fin 8) (s : State) : Host.Outcome State Fault Refusal :=
  mtxRoute (.mtrn d a) [] (need fun s => mtrnOk d a s.cx.cfg) id (bodyMtrn d a) s
/-- MZERO: routing. -/
def execMzero (d n : Fin 128) (s : State) : Host.Outcome State Fault Refusal :=
  mtxRoute (.mzero d n) [] noChk id (bodyMzero d n) s
/-- MZERO_T: routing. -/
def execMzeroT (t : Fin 8) (s : State) : Host.Outcome State Fault Refusal := mtxRoute (.mzeroT t) [] noChk id (bodyMzeroT t) s
/-- MMA: routing. -/
def execMma (d : Fin 128) (a b : Fin 8) (f : MFmt) (acc : Bool) (zc : BitVec 8) (s : State) : Host.Outcome State Fault Refusal :=
  mtxRoute (.mma d a b f acc zc) [] (need fun s => mmaOk d a b f zc s.cx.cfg) id (bodyMma d a b f acc zc) s
/-- MMAG: routing. -/
def execMmag (a b : Fin 8) (f : MFmt) (acc : Bool) (s : State) : Host.Outcome State Fault Refusal :=
  mtxRoute (.mmag a b f acc) [] (need fun s => (mtxFmt s.cx.cfg f).isSome) id (bodyMmag a b f acc) s
/-- MDRAIN: routing. -/
def execMdrain (d : Fin 128) (a : Fin 32) (df : Fmt) (tr : Option DrainT) (rm : RmSel) (sat : Bool) (rows : Fin 128)
    (cols : BitVec 8) (s : State) : Host.Outcome State Fault Refusal :=
  mtxRoute (.mdrain d a df tr rm sat rows cols) (a :: (match tr with | some t => [t.b] | none => []))
    (drainChk d a df tr rows cols) (fun s => takeDraws (drainDraws rm tr rows cols s.cx.cfg) s)
    (bodyMdrain d a df tr rm sat rows cols) s
/-- MFMT: writes FMT[n] at routing (R263, R279). -/
def execMfmt (n : Fin 16) (code : Fmt) (s : State) : Host.Outcome State Fault Refusal :=
  mtxRoute (.mfmt n code) [] noChk
    (updCfg fun g => { g with fmt := g.fmt.set n (BitVec.ofNat 64 code.code) }) bodyMfmt s
/-- MCHKN: routing. -/
def execMchkn (a : Fin 32) (s : State) : Host.Outcome State Fault Refusal :=
  mtxRoute (.mchkn a) [a] (need fun s => (sget s.cx a).toNat ≤ 65535) id (bodyMchkn a) s
/-- MKAT: routing. -/
def execMkat (a b : Fin 32) (disp : BitVec 17) (slot : Fin 32) (s : State) : Host.Outcome State Fault Refusal :=
  mtxRoute (.mkat a b disp slot) [a, b] (mkatChk a b) id (bodyMkat a b disp slot) s
/-- MWAIT: routing. -/
def execMwait (z gang : Bool) (s : State) : Host.Outcome State Fault Refusal :=
  mtxRoute (.mwait z gang) [] noChk id (bodyMwait gang) s

end Sys2Proof.Machine
end

