-- ==== Sys2Proof/Machine/Fabric.lean ====
section
/-! DEFINITION. Cast groups (R100 to R107, R307 to R311, R445) and in-switch reduction (R108 to R111, R312), at the device
and at the Dorvia switches, and the release across the fabric (R98, R99). -/

namespace Sys2Proof.Machine

/-! ## Caten headers (R401, R402) -/

/-- Word 0 of a header: KIND, group, originator, the LEN8 field, serial or marker. -/
def catenHead (kind g src len serial : Nat) : W64 := fields [(kind, 60), (g, 48), (src, 38), (len, 33), (serial, 0)]

/-- A cast store as an item: 1 CAST, 2 STAMPED, 3 REPLAY. -/
def castMsg (dev kind : Nat) (seq : BitVec 32) (c : CastItem) : Msg :=
  .caten dev (catenHead kind c.g.val c.src.val (c.data.length / 8 - 1) c.serial.toNat) (fields [(c.off.toNat, 32), (seq.toNat, 0)]) c.data

/-- A request for missing numbers. -/
def gapMsg (dev g src count : Nat) (first : BitVec 32) : Msg :=
  .caten dev (catenHead 4 g src 0 0) (fields [(count, 32), (first.toNat, 0)]) []

/-- Codes of R312. -/
def RedOp.code : RedOp → Nat
  | .add => 0 | .max => 1 | .min => 2 | .absmax => 3

/-- A contribution as an item. -/
def redMsg (dev : Nat) (c : RedItem) : Msg :=
  .caten dev (fields [(5, 60), (c.g.val, 48), (c.src.val, 38), (c.op.code, 36), (c.int.toNat, 35), (c.nanskip.toNat, 34)])
    (fields [(c.tag.toNat, 48), (c.value.toNat, 0)]) []

/-- An outcome or a NACK as an item (6 REDRES, 7 REDNACK) of the contribution of a device. -/
def resMsg (dev kind g : Nat) (tag : BitVec 16) (r : RedOutcome) : Msg :=
  .caten dev (catenHead kind g dev 0 0)
    (fields [(tag.toNat, 48), (r.status.toNat, 45), (r.ovf.toNat, 44), (r.ncont, 32), (r.value.toNat, 0)])
    (if kind = 6 ∧ r.status = 1 then bytesOf 128 r.bitmap.toNat else [])

/-- A release marker (8 REL) or its answer (9 RELDONE). -/
def relMsg (dev kind src : Nat) (marker : BitVec 32) : Msg := .caten dev (catenHead kind 0 src 0 marker.toNat) 0 []

/-- Queues an occurrence that may equal one already queued. -/
def postDue (i : Event) (s : State) : State := { s with due := s.due ++ [i] }

/-- What this device sends to the switch of a group: a cast store, for which a frozen group has no switch, or a contribution. -/
def sendCast (c : CastItem) (s : State) : State :=
  postDue (.castStamp c) (match s.fab.groups.find? (·.g == c.g) with
    | some w => if w.frozen then s else send (castMsg s.dev.val 1 0 c) s
    | none => s)

/-- A contribution leaves for the switch. -/
def sendRed (c : RedItem) (s : State) : State := postDue (.red c) (send (redMsg s.dev.val c) s)

/-- A release marker leaves on a station. -/
def sendRel (plane : Fin 24) (marker : BitVec 32) (s : State) : State :=
  postDue (.rel plane s.dev marker) (sendOn plane.val (relMsg s.dev.val 8 s.dev.val marker) s)

/-- What an item that has come on a plane is, by its header; none where its KIND is reserved. -/
def catenEvent (plane : Fin 24) (w0 w1 : W64) (data : List Byte) : Option Event :=
  let g : Fin 4096 := Fin.ofNat 4096 (bits w0 59 48)
  let src : Fin 1024 := Fin.ofNat 1024 (bits w0 47 38)
  let serial : BitVec 32 := w0.setWidth 32
  let hi : BitVec 32 := BitVec.ofNat 32 (bits w1 63 32); let lo : BitVec 32 := w1.setWidth 32
  let store : CastItem := ⟨g, src, serial, hi, data.take (8 * (bits w0 37 33 + 1))⟩
  let tag : BitVec 16 := BitVec.ofNat 16 (bits w1 63 48); let status : BitVec 3 := BitVec.ofNat 3 (bits w1 47 45)
  match bits w0 63 60 with
  | 1 => some (.castStamp store)
  | 2 => some (.stamped lo store)
  | 3 => some (.replay lo store)
  | 4 => some (.gapreq src g lo hi.toNat)
  | 5 =>
    let op : RedOp := match bits w0 37 36 with | 0 => .add | 1 => .max | 2 => .min | _ => .absmax
    some (.red ⟨g, tag, src, op, w0.getLsbD 35, w0.getLsbD 34, lo⟩)
  | 6 => some (.redres g tag ⟨status, w1.getLsbD 44, bits w1 43 32, lo, BitVec.ofNat 1024 (natOf (data.take 128))⟩)
  | 7 => some (.rednack g tag status)
  | 8 => some (.rel plane src serial)
  | 9 => some (.reldone plane serial)
  | _ => none

/-- An item arrives: what it is happens next; one with a reserved KIND is discarded and counted (R401). -/
def takeItem (plane : Fin 24) (w0 w1 : W64) (data : List Byte) (s : State) : State :=
  match catenEvent plane w0 w1 data with
  | some e => postDue e s
  | none => { s with fab := { s.fab with badItems := s.fab.badItems + 1 } }

/-! ## Members (R102 to R107) -/

/-- The device's membership of a group. -/
def memberOf (s : State) (g : Fin 4096) : Option Member := s.fab.members.find? (·.g == g)

/-- Changes a membership. -/
def updMember (g : Fin 4096) (f : Member → Member) (s : State) : State :=
  { s with fab := { s.fab with members := s.fab.members.map fun m => if m.g = g then f m else m } }

/-- The group at its sequencing switch. -/
def swGroup (s : State) (g : Fin 4096) : Option SwGroup := s.fab.groups.find? (·.g == g)

/-- Changes a group at the switch. -/
def updSw (g : Fin 4096) (f : SwGroup → SwGroup) (s : State) : State :=
  { s with fab := { s.fab with groups := s.fab.groups.map fun x => if x.g = g then f x else x } }

/-- Applies the next store of a group (R102): a store applied before under another number is not written again (R105). -/
def applyStore (g : Fin 4096) (seq : BitVec 32) (c : CastItem) (s : State) : State :=
  match memberOf s g with
  | none => s
  | some m =>
    let dup := m.serials.contains (c.src, c.serial)
    -- a source's numbers go around: those far from the one applied now are forgotten
    let near (x : Fin 1024 × BitVec 32) : Bool :=
      x.1 != c.src || (c.serial - x.2).toNat < 2 ^ 30 || (x.2 - c.serial).toNat < 2 ^ 30
    let s := if dup then s else { s with mem := s.mem.write m.key (m.base + c.off.toNat) c.data }
    updMember g (fun m => { m with
      applied := seq
      upto := if m.upto = some seq then none else m.upto
      serials := if dup then m.serials else (c.src, c.serial) :: m.serials.filter near
      ring := ((seq, c) :: m.ring).take 256 }) s

/-- Applies the kept stores that follow in order. -/
def drainKept (g : Fin 4096) : Nat → State → State
  | 0, s => s
  | k + 1, s =>
    match memberOf s g with
    | none => s
    | some m =>
      let n := seqSucc m.applied
      match m.kept.find? (·.1 == n) with
      | some (_, c, _) =>
        drainKept g k (updMember g (fun m => { m with kept := m.kept.filter (·.1 != n) }) (applyStore g n c s))
      | none => s

/-- Asks the other members for `count` numbers after the highest applied one (R104, R105). -/
def askNumbers (g : Fin 4096) (count : Nat) (s : State) : State :=
  match memberOf s g, swGroup s g with
  | some m, some w =>
    if count = 0 then s
    else
      (w.members.filter (· != s.dev)).foldl (fun s d => send (gapMsg d.val g.val s.dev.val count (seqSucc m.applied)) s) s
  | _, _ => s

/-- The numbers missing before the first store that is held. -/
def gapLength (m : Member) : Nat :=
  if m.kept.isEmpty then 0
  else Nat.max 1 (((List.range 256).map fun k => seqSucc m.applied + BitVec.ofNat 32 k).findIdx fun n => m.kept.any (·.1 == n))

/-- Asks the other members for the missing numbers (R104). -/
def askMissing (g : Fin 4096) (s : State) : State :=
  match memberOf s g with
  | some m => askNumbers g (gapLength m) s
  | none => s

/-- Applies what follows in order, and asks for what is missing before a store that is then still held (R104). -/
def drainMember (g : Fin 4096) (s : State) : State := askMissing g (drainKept g (((memberOf s g).map (·.kept.length)).getD 0 + 1) s)

/-- The clock of the gap that a member stands before: when the first of the stores came that it holds (R104). -/
def gapSince (m : Member) : Option Nat :=
  match m.kept.map (·.2.2) with | [] => none | t :: r => some (r.foldl Nat.min t)

/-- A stamped or replayed store reaches the member. -/
def receiveStore (g : Fin 4096) (seq : BitVec 32) (c : CastItem) (s : State) : State :=
  match memberOf s g with
  | none => s
  | some m =>
    if m.gap then s
    else if m.joining then
      if m.kept.any (·.1 == seq) || !seqLe m.first seq then s
      else if 256 ≤ m.kept.length then updMember g (fun m => { m with gap := true, kept := [] }) s
      else updMember g (fun m => { m with kept := m.kept ++ [(seq, c, s.clock)] }) s
    else if seqLe seq m.applied || m.kept.any (·.1 == seq) then s
    else
      let first := m.kept.isEmpty
      let s := updMember g (fun m => { m with kept := m.kept ++ [(seq, c, s.clock)] }) s
      if m.frozen then s
      else if seq = seqSucc m.applied || first then drainMember g s
      else askMissing g s

/-- The last of the stores that a member holds, in serial order. -/
def lastKept (m : Member) : Option (BitVec 32) :=
  match m.kept.map (·.1) with | [] => none | n :: r => some (r.foldl (fun x y => if seqLe x y then y else x) n)

/-- The joiner's first CWAIT applies what it recorded, in order (R107); what stands behind a gap it holds from now on. -/
def endJoining (g : Fin 4096) (s : State) : State :=
  match memberOf s g with
  | some m =>
    if m.joining && !m.frozen then
      drainMember g (updMember g (fun m => { m with joining := false, upto := lastKept m, kept := m.kept.map fun x => (x.1, x.2.1, s.clock) }) s)
    else s
  | none => s

/-! ## The sequencing switch (R101, R105, R445) -/

/-- The store that the switch receives: of this device's stores to a group the first that it has not received, since they travel in
the order in which their contexts routed them (R101). -/
def received (c : CastItem) (s : State) : Option CastItem :=
  if c.src = s.dev then (s.fab.sends.find? fun x => x.item.g == c.g && !x.stamped && x.seq.isNone).map (·.item) else some c

/-- A cast store reaches the switch: stamped for a member, else discarded; a frozen group stamps nothing. -/
def stampStore (c : CastItem) (s : State) : State :=
  match received c s with
  | none => s
  | some c =>
    match swGroup s c.g with
    | some w =>
      if !w.members.contains c.src then
        { s with fab := { s.fab with sends := s.fab.sends.filter fun x => x.item != c } }
      else if w.frozen then s
      else
        let s := updSw c.g (fun w => { w with next := seqSucc w.next }) s
        let s := { s with fab := { s.fab with sends := s.fab.sends.map fun x => if x.item = c then { x with stamped := true } else x } }
        w.members.foldl (fun s d =>
          if d = s.dev then raiseDue (.stamped w.next c) s else switchSend (castMsg d.val 2 w.next c) s) s
    | none => { s with fab := { s.fab with sends := s.fab.sends.filter fun x => x.item != c } }

/-- A stamped store is seen: by the sender, as stamped (R105, R309); the switch goes on from a number that it has given (R101). -/
def seenStamped (seq : BitVec 32) (c : CastItem) (s : State) : State :=
  let s := updSw c.g (fun w => if seqLe w.next seq then { w with next := seqSucc seq } else w) s
  { s with fab := { s.fab with sends := s.fab.sends.filterMap fun x =>
      if x.item = c then (if x.wants then some { x with seq := some seq } else none) else some x } }

/-- What a member knows of the stores of a device that is no member any more, or a new one: it numbers its stores afresh (R102, R106). -/
def forgetSource (g : Fin 4096) (d : Fin 1024) (s : State) : State :=
  updMember g (fun m => { m with serials := m.serials.filter (·.1 != d) }) s

/-- A device stops being a member; a group without members no longer exists (R106, R445). -/
def leaveGroup (g : Fin 4096) (d : Fin 1024) (s : State) : State :=
  let s := forgetSource g d s
  let s := updSw g (fun w => { w with members := w.members.filter (· != d), planes := w.planes.filter (·.1 != d) }) s
  let s := { s with fab := { s.fab with groups := s.fab.groups.filter fun w => !w.members.isEmpty } }
  if d = s.dev then { s with fab := { s.fab with members := s.fab.members.filter (·.g != g) } } else s

/-- A device stops being a member of every group (R106, R445): its cast stores, contributions and release markers that have reached no
switch are discarded. -/
def removeMember (dev : Fin 1024) (s : State) : State :=
  let mine : Event → Bool := fun e => match e with
    | .castStamp c => c.src == dev
    | .red c => c.src == dev
    | .rel _ d _ => d == dev
    | _ => false
  let s := { s with due := s.due.filter (!mine ·) }
  (s.fab.groups.map (·.g)).foldl (fun s g => leaveGroup g dev s) s

/-- Whether a plane can carry a group at this device (R397, R400): its station is up, its switch is Dorvia's, and it parks neither the cast
nor the reduce channel. -/
def planeUp (s : State) (k : Nat) : Bool :=
  match s.fab.st[k]? with
  | some t => t.dorvia && carries t 2 && carries t 3
  | none => false

/-- Whether some plane can carry a group. -/
def anyPlane (s : State) : Bool := (List.range 24).any (planeUp s)

/-- Whether a plane can carry a group at every member (R105, R397). -/
def planeFor (s : State) (w : SwGroup) (k : Nat) : Bool :=
  (!w.members.contains s.dev || planeUp s k) && w.planes.all fun x => x.2.getLsbD k

/-- Whether a plane can carry a group with this device as a member. -/
def groupPlane (s : State) (g : Fin 4096) : Bool :=
  match swGroup s g with
  | some w => (List.range 24).any fun k => planeUp s k && planeFor s w k
  | none => anyPlane s

/-- The first plane that can, from `k` up modulo 24. -/
def planeFrom (can : Nat → Bool) (k : Nat) : Option Nat := ((List.range 24).map fun i => (k + i) % 24).find? can

/-- The frozen group is formed again on the next plane that is up (R105). The highest number that a live member applied
lies between this member's and the last stamped; which it is, is free (log 21). -/
def reformGroup (g : Fin 4096) (s : State) : State :=
  match swGroup s g with
  | none => s
  | some w =>
    match planeFrom (planeFor s w) (w.plane + 1) with
    | none => updMember g (fun m => { m with starved := true }) s
    | some p =>
      let own := match memberOf s g with | some m => m.applied | none => seqPred w.next
      let span := (w.next.toNat + (2 ^ 32 - 1) - (seqSucc own).toNat) % (2 ^ 32 - 1)
      let alone := w.members.all (· == s.dev)
      let (k, s) := if alone then (0, s) else takeFree s
      let high := if alone then own else (List.range (Config.pick k % (span + 1))).foldl (fun x _ => seqSucc x) own
      let s := updSw g (fun w => { w with plane := p, next := seqSucc high, frozen := false }) s
      -- what the failed plane stamped beyond H has not arrived anywhere
      let lost : Event → Bool := fun e => match e with | .stamped n c => c.g == g && !seqLe n high | _ => false
      let s := { s with due := s.due.filter (!lost ·) }
      let short (m : Member) : Nat := (high.toNat + (2 ^ 32 - 1) - m.applied.toNat) % (2 ^ 32 - 1)
      let s := updMember g (fun m =>
        let kept := (m.kept.filter fun x => seqLe x.1 high).map fun x => (x.1, x.2.1, s.clock)
        { m with frozen := false, starved := false, kept := kept
                 gap := m.gap || (seqLe m.applied high && 256 < short m) }) s
      -- a member that is short of H, one that is still joining too, asks for what it lacks
      let s := match memberOf s g with
        | some m =>
          if m.gap || !seqLe m.applied high then s
          else if m.joining then askNumbers g (short m) s
          else
            let s := drainMember g s
            match memberOf s g with
            | some m => if m.kept.isEmpty then askNumbers g (short m) s else s
            | none => s
        | none => s
      -- the reductions' fences end (R110), and unstamped stores are sent again in order
      let again (x : CastSend) : CastSend := if x.item.g = g ∧ x.seq.isNone = true then { x with stamped := false } else x
      let s := { s with fab := { s.fab with fences := s.fab.fences.filter (·.g != g), sends := s.fab.sends.map again } }
      (s.fab.sends.filter fun x => x.item.g == g && x.seq.isNone).foldl (fun s x => sendCast x.item s) s

/-- Groups that found no plane are formed again once a station can carry them (R105, R400, R405). -/
def retryFrozen (s : State) : State :=
  let waits (w : SwGroup) : Bool := w.frozen && (match memberOf s w.g with | some m => m.starved | none => true)
  ((s.fab.groups.filter waits).map (·.g)).foldl (fun s g => reformGroup g s) s

/-- A group freezes (R105). -/
def freezeGroup (g : Fin 4096) (s : State) : State :=
  updMember g (fun m => { m with frozen := true, frozenAt := s.clock }) (updSw g (fun w => { w with frozen := true }) s)

/-- A plane fails: its groups freeze and are formed again (R105). -/
def failPlane (plane : Nat) (s : State) : State :=
  let gs := (s.fab.groups.filter (·.plane == plane)).map (·.g)
  gs.foldl (fun s g => reformGroup g s) (gs.foldl (fun s g => freezeGroup g s) s)

/-- A group whose plane cannot carry it at every member is formed again on one that can (R105, R397). -/
def checkPlane (g : Fin 4096) (s : State) : State :=
  match swGroup s g with
  | some w => if w.frozen || planeFor s w w.plane then s else reformGroup g (freezeGroup g s)
  | none => s

/-! ## Joining (R107, R307) -/

/-- The device joins a group (R307): status and number; none while the group is frozen, whoever asks. The others learn of it on the
management channel (R399). -/
def joinGroup (g : Fin 4096) (base : Nat) (key : Option (BitVec 512)) (size : Nat) (s : State) : Option ((Nat × BitVec 32) × State) :=
  let frozen := match swGroup s g with | some w => w.frozen | none => false
  match memberOf s g with
  | some m => if frozen then none else some ((1, seqSucc m.applied), s)
  | none =>
    let join (n : BitVec 32) (s : State) : State :=
      send (.group s.dev.val g true) { s with fab := { s.fab with
        members := { g := g, base := base, key := key, size := size, applied := seqPred n, joining := true, first := n } :: s.fab.members } }
    match swGroup s g with
    | none => some ((0, 1), join 1 { s with fab := { s.fab with
        groups := { g := g, members := [s.dev], next := 1, plane := (planeFrom (planeUp s) (g.val % 24)).getD 0, size := size } :: s.fab.groups } })
    | some w =>
      if frozen then none
      else if w.size != size then some ((2, 0), s)
      else
        let s := checkPlane g (updSw g (fun w => { w with members := w.members ++ [s.dev] }) s)
        match swGroup s g with
        | some w => some ((0, w.next), join w.next s)
        | none => none

/-- What the switch answers to a device that asks to join: STATUS and number as CJOIN gives them, with the group; STATUS 3 where no plane
can carry the group with it (the layout is the model's, log 113). -/
def answerJoin (src : Fin 1024) (g : Fin 4096) (status : Nat) (n : BitVec 32) (s : State) : State :=
  switchSend (.words 7 src.val [BitVec.ofNat 64 g.val, fields [(status, 32), (n.toNat, 0)]]) s

/-- Another device joins a group at its switch, or tells which planes can carry its groups now (R100, R105, R397); a frozen group lets it
wait, and tells whether it must. -/
def joinPeer (src : Fin 1024) (g : Fin 4096) (size : Nat) (planes : BitVec 24) (s : State) : Option State :=
  let plan (w : SwGroup) : SwGroup := { w with planes := (src, planes) :: w.planes.filter (·.1 != src) }
  match swGroup s g with
  | none =>
    match planeFrom (fun k => planes.getLsbD k) (g.val % 24) with
    | none => some (answerJoin src g 3 0 s)
    | some p => some (answerJoin src g 0 1 { s with fab := { s.fab with
        groups := { g := g, members := [src], next := 1, plane := p, size := size, planes := [(src, planes)] } :: s.fab.groups } })
  | some w =>
    if w.members.contains src then some (retryFrozen (checkPlane g (updSw g plan s)))
    else if w.frozen then none
    else if w.size ≠ size then some (answerJoin src g 2 0 s)
    else if !(List.range 24).any (planeFor s (plan w)) then some (answerJoin src g 3 0 s)
    else
      let s := checkPlane g (updSw g (fun w => plan { w with members := w.members ++ [src] }) (forgetSource g src s))
      match swGroup s g with
      | some w => some (answerJoin src g 0 w.next s)
      | none => some s

/-- This device leaves a group (R308), and says so. -/
def leaveOwn (g : Fin 4096) (s : State) : State := send (.group s.dev.val g false) (leaveGroup g s.dev s)

/-! ## Reductions (R108 to R111) -/

/-- Whether one value lies above another, +0 above −0 (R108). -/
def redAbove (x y : XVal) : Bool := xlt y x || (!xlt x y && y.neg && !x.neg)

/-- The result over some contributed FP32 encodings, none of them a NaN. -/
def redF32 (op : RedOp) (vs : List Nat) : Nat :=
  let best (above : XVal → XVal → Bool) : List Nat → Nat
    | [] => 0
    | v :: r => r.foldl (fun b w => if above (fval .fp32 w) (fval .fp32 b) then w else b) v
  match op with
  | .add => match xsum (vs.map (fval .fp32)) with
    | some x => (roundTo .fp32 .rne false 0 x).1
    | none => canonNaN .fp32
  | .max => best redAbove vs
  | .min => best (fun x y => redAbove y x) vs
  | .absmax => best redAbove (vs.map (· % 2 ^ 31))

/-- The result over INT32 contributions and OVF. -/
def redI32 (op : RedOp) (vs : List Nat) : Nat × Bool :=
  let is := vs.map (ival .int32)
  match op with
  | .add => let t := is.foldl (· + ·) 0; (wrapInt 32 t, decide (t < -(2 ^ 31) ∨ 2 ^ 31 ≤ t))
  | .max => (wrapInt 32 (match is with | [] => 0 | x :: r => r.foldl max x), false)
  | .min => (wrapInt 32 (match is with | [] => 0 | x :: r => r.foldl min x), false)
  | .absmax =>
    let m := (is.map Int.natAbs).foldl Nat.max 0
    if m = 2 ^ 31 then (0x7FFFFFFF, true) else (m, false)

/-- The outcome of a slot (R108, R109, R313). -/
def redOutcome (r : RSlot) (status : BitVec 3) : RedOutcome :=
  let vs := r.got.map fun x => x.2.toNat
  let nan (v : Nat) : Bool := (fval .fp32 v).isNaN
  let bitmap := r.got.foldl (fun b x => b ||| (1 : BitVec 1024) <<< x.1.val) 0
  if r.int then
    let (v, o) := redI32 r.op vs
    ⟨status, o, vs.length, BitVec.ofNat 32 v, bitmap⟩
  else
    let nums := vs.filter fun v => !nan v
    if (!r.nanskip && vs.any nan) || nums.isEmpty then ⟨status, false, vs.length, 0x7FC00000, bitmap⟩
    else ⟨status, false, nums.length, BitVec.ofNat 32 (redF32 r.op nums), bitmap⟩

/-- The outcome goes to a device. -/
def sendOutcome (g : Fin 4096) (tag : BitVec 16) (r : RedOutcome) (d : Fin 1024) (s : State) : State :=
  if d = s.dev then raiseDue (.redres g tag r) s else switchSend (resMsg d.val 6 g.val tag r) s

/-- A NACK goes to a device: a status of R402. -/
def sendNack (g : Fin 4096) (tag : BitVec 16) (st : BitVec 3) (d : Fin 1024) (s : State) : State :=
  if d = s.dev then raiseDue (.rednack g tag st) s
  else switchSend (resMsg d.val 7 g.val tag ⟨st, false, 0, 0, 0⟩) s

/-- Members still fenced against a pair (R110). -/
def fencedOf (s : State) (g : Fin 4096) (tag : BitVec 16) : List (Fin 1024) :=
  (s.fab.fences.filter fun x => x.g == g && x.tag == tag).flatMap (·.who)

/-- The device's own first contribution to a slot is accepted: it counts (R313). -/
def markCounted (c : RedItem) (s : State) : State :=
  if c.src = s.dev then
    let k := (s.fab.freds.find? fun f => f.item == c && !f.counted && f.out.isNone).map (·.id)
    { s with fab := { s.fab with freds := s.fab.freds.map fun f => if some f.id = k then { f with counted := true, resend := false } else f } }
  else s

/-- A complete slot is released: the result goes to every contributor (R108). -/
def releaseSlot (r : RSlot) (status : BitVec 3) (s : State) : State :=
  let s := { s with fab := { s.fab with rslots := s.fab.rslots.filter fun x => !(x.g == r.g && x.tag == r.tag) } }
  r.got.foldl (fun s x => sendOutcome r.g r.tag (redOutcome r status) x.1 s) s

/-- A contribution reaches the switch (R108 to R110). An open slot of a group that has been formed again on another plane stays, and later
contributions join it: that is the model's choice (log 104). -/
def contribute (c : RedItem) (s : State) : State :=
  if (fencedOf s c.g c.tag).contains c.src then
    sendNack c.g c.tag 2 c.src { s with fab := { s.fab with fences := (s.fab.fences.map fun x =>
      if x.g = c.g ∧ x.tag = c.tag then { x with who := x.who.filter (· != c.src) } else x).filter fun x => !x.who.isEmpty } }
  else
    match s.fab.rslots.find? fun x => x.g == c.g && x.tag == c.tag with
    | some r =>
      if r.op != c.op || r.int != c.int || r.nanskip != c.nanskip || r.got.any (·.1 == c.src) then
        sendNack c.g c.tag 3 c.src s
      else
        let r := { r with got := r.got ++ [(c.src, c.value)] }
        let s := markCounted c { s with fab := { s.fab with rslots := s.fab.rslots.map fun x =>
          if x.g = c.g ∧ x.tag = c.tag then r else x } }
        if r.expected.all fun d => r.got.any (·.1 == d) then releaseSlot r 0 s else s
    | none =>
      match swGroup s c.g with
      | none => s
      | some w =>
        -- each plane's switch has 1,024 slots of its own
        if 1024 ≤ (s.fab.rslots.filter (·.plane == w.plane)).length then sendNack c.g c.tag 5 c.src s
        else
          let r : RSlot := ⟨c.g, c.tag, c.op, c.int, c.nanskip, w.members.filter (!(fencedOf s c.g c.tag).contains ·),
            [(c.src, c.value)], w.plane, s.clock⟩
          let s := markCounted c { s with fab := { s.fab with rslots := r :: s.fab.rslots } }
          if r.expected.all fun d => r.got.any (·.1 == d) then releaseSlot r 0 s else s

/-- Clocks of a group's reduction timeout (R110). -/
def redTimeout (s : State) (g : Fin 4096) : Nat := micros (match swGroup s g with | some w => w.timeout | none => 20)

/-- The timeout of an open slot (R110): an INCOMPLETE release, and the pair is fenced against the absent members. A
contribution of this device that found no slot for a whole timeout gives NOSLOT (R111). -/
def slotTimeout (g : Fin 4096) (tag : BitVec 16) (s : State) : State :=
  let t := redTimeout s g
  let s := match s.fab.rslots.find? fun x => x.g == g && x.tag == tag && x.since + t ≤ s.clock with
    | some r =>
      let absent := r.expected.filter fun d => !r.got.any (·.1 == d)
      let s := releaseSlot r 1 s
      if absent.isEmpty then s else { s with fab := { s.fab with fences := ⟨g, tag, absent, s.clock⟩ :: s.fab.fences } }
    | none => s
  { s with fab := { s.fab with freds := s.fab.freds.map fun f =>
      if f.item.g = g ∧ f.item.tag = tag ∧ f.resend = true ∧ f.since + t ≤ s.clock then
        { f with resend := false, out := some ⟨4, false, 0, 0, 0⟩ } else f } }

/-! ## Release (R98, R99) -/

/-- What a plane's release waits for: stores that the FREL counts, which travelled on it and are not acknowledged. -/
def planeOpen (s : State) (f : FrelRec) (plane : Nat) : Bool :=
  s.fab.farOps.any fun o => farStore o && o.station == plane && f.tags.contains o.tag

/-- Release-done of a plane (R98). -/
def releaseDone (plane : Nat) (marker : BitVec 32) (s : State) : State :=
  let fs := s.fab.frels.map fun f => if f.marker = marker then { f with planes := f.planes.filter (· != plane) } else f
  { s with fab := { s.fab with frels := fs.filter fun f => !f.planes.isEmpty } }

/-- What an acknowledgement of a store lets complete: the device's own count where the switch is none of Dorvia's (R99) or the station
has failed, and the markers that stand at a switch (R98). -/
def relCheck (s : State) : State :=
  let plain (k : Nat) : Bool := match s.fab.st[k]? with | some t => !t.dorvia || t.width = 0 | none => true
  let s := s.fab.frels.foldl (fun s f =>
    f.planes.foldl (fun s p => if plain p && !planeOpen s f p then releaseDone p f.marker s else s) s) s
  s.fab.rels.foldl (fun s (p, d, m) =>
    if d = s.dev ∧ s.fab.frels.any (fun f => f.marker == m && planeOpen s f p) = true then s
    else
      let s := { s with fab := { s.fab with rels := s.fab.rels.filter (· != (p, d, m)) } }
      if d = s.dev then raiseDue (.reldone (Fin.ofNat 24 p) m) s
      else switchSend (relMsg d.val 9 d.val m) s) s

end Sys2Proof.Machine
end

