-- ==== Sys2Proof/Machine/Cpy.lean ====
section
/-! DEFINITION. The copy queue (R295 to R313): moves in beats (R83), gathers and scatters, streams, operation packets, and
the words of cast groups, reductions and the release. -/

namespace Sys2Proof.Machine

/-! ## Beats (R83, R295) -/

/-- Runs beats in order: a beat that does not complete stops the word at its number, which TINFO then holds. -/
def runBeats {α : Type} (f : α → State → Act) : List α → Nat → State → QAct
  | [], k, s => (.done s, k)
  | x :: r, k, s =>
    match f x s with
    | .done s => runBeats f r (k + 1) s
    | .trap c a _ s => (.trap c a k s, k)
    | y => (y, k)

/-- Whether some bytes lie in the 64 KiB page of an address. -/
def inPageOf (addr va : W64) (n : Nat) : Bool :=
  va.toNat / 2 ^ 16 ≤ addr.toNat / 2 ^ 16 && addr.toNat / 2 ^ 16 ≤ (va.toNat + n - 1) / 2 ^ 16

/-- KIND of a beat's page fault: 2 where the page holds bytes of both sides (R418). -/
def beatKind {α : Type} (dst src : List (W64 × Nat)) : Res α → Res α
  | .stop (.absent h a k s) =>
    .stop (.absent h a (if dst.any (fun x => inPageOf a x.1 x.2) && src.any (fun x => inPageOf a x.1 x.2) then .readWrite else k) s)
  | r => r

/-- The same for one run of bytes on each side. -/
def bothKind {α : Type} (dst src : W64) (n : Nat) (r : Res α) : Res α := beatKind [(dst, n)] [(src, n)] r

/-- A beat: destination, length, and the source in memory or in a Z row from a byte on. -/
structure Beat where
  dst : W64
  n : Nat
  src : Sum W64 (Nat × Nat)
  deriving DecidableEq, Repr

/-- The beats of one row of a move. -/
def rowBeats (dst src : W64) (n : Nat) : List Beat := (beatParts dst n).map fun p => ⟨p.1, p.2, .inl (src + (p.1 - dst))⟩

/-- The beats of one Z row (R303). -/
def zBeats (dst : W64) (r : Nat) : List Beat := (beatParts dst 768).map fun p => ⟨p.1, p.2, .inr (r, (p.1 - dst).toNat)⟩

/-- One beat of a move whose first bytes lie at `cd` and `cs` (log 20: its destination is checked before its source). -/
def moveBeat (u : Nat) (cd cs : W64) (b : Beat) (s : State) : Act :=
  match b.src with
  | .inl a =>
    (bothKind b.dst a b.n (beatAccess 5 cd .wr b.dst b.n s)).bind fun gd s =>
      (bothKind b.dst a b.n (beatAccess 5 cs .rd a b.n s)).bind fun gs s =>
        (readSegs 5 gs s).bind fun bs s => if storeHeld u gd s then .wait .other s else .done (writeSegs 5 gd bs s)
  | .inr (r, k) =>
    (beatAccess 5 cd .wr b.dst b.n s).bind fun gd s =>
      if storeHeld u gd s then .wait .other s
      else .done (writeSegs 5 gd ((rowBytes (s.cx.v[r]?.getD 0)).drop k |>.take b.n) s)

/-- The rest of a move, from the entry's beat on. -/
def moveBeats (e : QEntry) (cd cs : W64) (l : List Beat) (s : State) : QAct :=
  runBeats (moveBeat e.uid cd cs) (l.drop e.done) e.done s

/-- COPY (R298). -/
def bodyCopy (a b c : Fin 32) (e : QEntry) (s : State) : QAct :=
  moveBeats e (qs e a) (qs e b) (rowBeats (qs e a) (qs e b) (qs e c).toNat) s

/-- COPY2 (R299). -/
def bodyCopy2 (a b c : Fin 32) (len : BitVec 18) (rows : BitVec 14) (e : QEntry) (s : State) : QAct :=
  let st := copy2Strides (qs e c)
  let n := rows.toNat + 1
  moveBeats e (qs e a) (qs e b)
    (((rowStarts (qs e a) st.1 n).zip (rowStarts (qs e b) st.2 n)).flatMap fun x => rowBeats x.1 x.2 len.toNat) s

/-- SOUT (R303). -/
def bodySout (a b c : Fin 32) (f : Fin 128) (e : QEntry) (s : State) : QAct :=
  let rows := (rowStarts (qs e a) (qs e c) (qs e b).toNat).zipIdx
  moveBeats e (qs e a) 0 (rows.flatMap fun x => zBeats x.1 (f.val + x.2)) s

/-- PREF (R304): the stream TLB translates the pages announced, as far as they are there and a read of the copy engine is not refused. -/
def bodyPref (a b : Fin 32) (e : QEntry) (s : State) : QAct :=
  let va := (qs e a).toNat; let n := Nat.min (qs e b).toNat (2 ^ 36)
  let pages := if n = 0 ∨ 2 ^ 52 ≤ va then [] else (List.range ((va + n - 1) / 2 ^ 16 - va / 2 ^ 16 + 1)).map (va / 2 ^ 16 + ·)
  let may (s : State) (va : Nat) (pte : W64) (base : Nat) : Bool :=
    match checkPage s s.cx.pr.priv .copy .rd va 1 (.leaf pte base) with | .ok _ => true | _ => false
  (.done (pages.foldl (fun s p => prefetchBy (may s (p * 2 ^ 16)) 5 (p * 2 ^ 16) s) s), 0)

/-! ## Delivery (R23, R296, R302) -/

/-- Elements that a buffer holds. -/
def bufferSize : StreamKind → Nat
  | .row | .feed => 4
  | .scalar | .result => 32

/-- The binding that a word feeds, while it stands. -/
def boundTo (e : QEntry) (s : State) : Option (Fin 8 × Stream) :=
  match feeds e.ins with
  | some q => (match s.cx.streams[q] with
    | some b => if some b.id = e.note then some (q, b) else none
    | none => none)
  | none => none

/-- Whether an element of the word can be delivered now: no earlier word feeds the binding, and there is room. What feeds
no binding any more is discarded at once. -/
def canDeliver (e : QEntry) (s : State) : Bool :=
  match boundTo e s with
  | some (_, b) => b.buf.length < bufferSize b.kind && !(s.cx.fl.pend.any fun p => p.uid < e.uid && p.note == e.note)
  | none => true

/-- Delivers an element. -/
def deliver (e : QEntry) (item : Row) (s : State) : State :=
  match boundTo e s with
  | some (q, b) => setStream q (some { b with buf := b.buf ++ [item] }) s
  | none => s

/-- The result of a word that has acted: it reaches the stream, or the word keeps it until its stream can take it (R313). -/
def giveResult (e : QEntry) (v : W64) (s : State) : QAct :=
  if canDeliver e s then (.done (deliver e (v.setWidth 6144) s), e.done)
  else (.left (setEntry { e with got := some v, issued := true, begun := true, counted := true } s), e.done)

/-! ## GATHER and SCATTER (R300) -/

/-- Entry `k` of the index array at `c`. -/
def readIndex (c : W64) (k : Nat) (s : State) : Res Nat :=
  (access 5 .copy .rd (c + BitVec.ofNat 64 (4 * k)).toNat 4 s).andThen fun gs s =>
    (readSegs 5 gs s).andThen fun bs s => .ok (natOf bs) s

/-- An entry that skips its element. -/
def skipped (i : Nat) : Bool := i == 0xFFFFFFFF

/-- Where element `i` lies. -/
def elemAt (base : W64) (w i : Nat) : W64 := base + BitVec.ofNat 64 (w * i)

/-- The address that the first element which is not skipped names: the first byte of the command on its indexed side (R83). An index that
cannot be read is met when its element's turn comes. -/
def firstIndexed (base c : W64) (w : Nat) : List Nat → State → Res (Option W64)
  | [], s => .ok none s
  | k :: r, s =>
    match readIndex c k s with
    | .ok i s => if skipped i then firstIndexed base c w r s else .ok (some (elemAt base w i)) s
    | .stop (.wait x s) => .stop (.wait x s)
    | .stop _ => .ok none s

/-- The bytes of an element that an index names: none where it is skipped. -/
def gatherElem (dst : List (W64 × Nat)) (cs : Option W64) (b : W64) (w i : Nat) (s : State) : Res (Option (List Byte)) :=
  if skipped i then .ok none s
  else
    let src := elemAt b w i
    (beatKind dst [(src, w)] (beatAccess 5 (cs.getD src) .rd src w s)).andThen fun gs s =>
      (readSegs 5 gs s).andThen fun bs s => .ok (some bs) s

/-- The elements whose first byte lies in beat `k` of a range that begins `p` bytes into a block. -/
def beatElems (p w n k : Nat) : List Nat :=
  let lo := (64 * k - p + w - 1) / w; let hi := Nat.min n ((64 * k + 64 - p + w - 1) / w)
  (List.range (hi - lo)).map (lo + ·)

/-- The runs of the listed bytes: where each begins, and its bytes. -/
def byteRuns : List (Option Byte) → Nat → List (Nat × List Byte)
  | [], _ => []
  | none :: r, k => byteRuns r (k + 1)
  | some b :: r, k =>
    match byteRuns r (k + 1) with
    | (j, bs) :: t => if j = k + 1 then (k, b :: bs) :: t else (k, [b]) :: (j, bs) :: t
    | [] => [(k, [b])]

/-- Stores the listed bytes of a beat: what goes to a host is one request, or one for each run of bytes where some are left out (R393). -/
def storeListed : List Seg → List (Option Byte) → State → State
  | [], _, s => s
  | g :: r, bs, s =>
    let here := bs.take g.len
    let s := if g.ty = 5 then
        (byteRuns here 0).foldl (fun s x => writeSeg 5 { g with pa := g.pa + x.1, len := x.2.length, va := g.va + x.1 } x.2 s) s
      else writeMasked 5 [g] here s
    storeListed r (bs.drop g.len) s

/-- One beat of memory mode: its destination is checked, then the source of each element (log 20), and only then is any of it written. -/
def gatherBeat (u : Nat) (cs : Option W64) (a b c : W64) (w n k : Nat) (s : State) : Act :=
  let es := beatElems (a.toNat % 64) w n k
  if es.isEmpty then .done s
  else
    let d := elemAt a w (es.headD 0)
    let dst := [(d, w * es.length)]
    (Res.mapM (readIndex c) es s).bind fun is s =>
      let srcs := (is.filter fun i => !skipped i).map fun i => (elemAt b w i, w)
      (beatKind dst srcs (beatAccess 5 a .wr d (w * es.length) s)).bind fun gd s =>
        (Res.mapM (gatherElem dst cs b w) is s).bind fun xs s =>
          if storeHeld u gd s then .wait .other s
          else .done (storeListed (mergeHost gd) (xs.flatMap fun x => match x with | some bs => bs.map some | none => List.replicate w none) s)

/-- Puts lanes into the assembly row (R300). -/
def mergeLanes (w : Nat) (l : List (Nat × Option (List Byte))) (row : Row) : Row :=
  l.foldl (fun row (k, x) =>
    match x with
    | some bs =>
      let sh := 8 * w * (k % (768 / w))
      (row &&& ~~~ (BitVec.ofNat 6144 ((2 ^ (8 * w) - 1) * 2 ^ sh))) ||| BitVec.ofNat 6144 (natOf bs * 2 ^ sh)
    | none => row) row

/-- One beat of row mode: the last of a row delivers a copy of it. -/
def gatherRowBeat (e : QEntry) (cs : Option W64) (b c : W64) (w n k : Nat) (s : State) : Act :=
  let last := (k + 1) % 12 == 0 || k + 1 == (w * n + 63) / 64
  let es := beatElems 0 w n k
  if last && !canDeliver e s then .wait .other s
  else (Res.mapM (fun k s => (readIndex c k s).andThen fun i s => gatherElem [] cs b w i s) es s).bind fun l s =>
    match boundTo e s with
    | some (q, st) =>
      let row := mergeLanes w (es.zip l) st.asm
      let s := setStream q (some { st with asm := row }) s
      .done (if last then deliver e row s else s)
    | none => .done s

/-- GATHER (R300). -/
def bodyGather (a b c : Fin 32) (q : Option (Fin 8)) (esz : Fin 4) (count : BitVec 24) (e : QEntry) (s : State) : QAct :=
  let w := 2 ^ esz.val; let n := count.toNat
  match firstIndexed (qs e b) (qs e c) w (List.range n) s with
  | .stop x => (x, e.done)
  | .ok cs s =>
    match q with
    | none =>
      let beats := if n = 0 then 0 else ((qs e a).toNat % 64 + w * n + 63) / 64
      runBeats (gatherBeat e.uid cs (qs e a) (qs e b) (qs e c) w n) ((List.range beats).drop e.done) e.done s
    | some _ =>
      runBeats (gatherRowBeat e cs (qs e b) (qs e c) w n) ((List.range ((w * n + 63) / 64)).drop e.done) e.done s

/-- How far a scatter is: beats completed, the element and its beat. -/
def scatterAt (beats k j : Nat) : Nat := beats + 2 ^ 32 * (2 * k + j)

/-- Moves the beats of element `k` from its beat `j` on (R83). -/
def scatterParts (u : Nat) (cd cs : W64) (k : Nat) : List Beat → Nat → Nat → State → Sum QAct (Nat × State)
  | [], _, beats, s => .inr (beats, s)
  | x :: r, j, beats, s =>
    match moveBeat u cd cs x s with
    | .done s => scatterParts u cd cs k r (j + 1) (beats + 1) s
    | .trap c y _ s => .inl (.trap c y beats s, scatterAt beats k j)
    | y => .inl (y, scatterAt beats k j)

/-- The elements of a scatter in index order, each moved beat by beat, the destination of a beat checked before its source as in any
move (log 20). -/
def scatterRun (u : Nat) (cd : Option W64) (a b c : W64) (w : Nat) : List Nat → Nat → Nat → State → QAct
  | [], _, beats, s => (.done s, beats)
  | k :: r, j, beats, s =>
    match readIndex c k s with
    | .ok i s =>
      if skipped i then scatterRun u cd a b c w r 0 beats s
      else
        let d := elemAt a w i
        (match scatterParts u (cd.getD d) b k ((rowBeats d (elemAt b w k) w).drop j) j beats s with
         | .inr (beats, s) => scatterRun u cd a b c w r 0 beats s
         | .inl x => x)
    | .stop (.trap x y _ s) => (.trap x y beats s, scatterAt beats k j)
    | .stop x => (x, scatterAt beats k j)

/-- SCATTER (R300). -/
def bodyScatter (a b c : Fin 32) (esz : Fin 4) (count : BitVec 24) (e : QEntry) (s : State) : QAct :=
  let w := 2 ^ esz.val; let n := count.toNat
  let pos := e.done / 2 ^ 32
  match firstIndexed (qs e a) (qs e c) w (List.range n) s with
  | .stop x => (x, e.done)
  | .ok cd s =>
    scatterRun e.uid cd (qs e a) (qs e b) (qs e c) w ((List.range n).drop (pos / 2)) (pos % 2) (e.done % 2 ^ 32) s

/-! ## Streams (R301, R302): binding takes effect at routing -/

/-- What SBIND binds. -/
def bindStream (a b c : Fin 32) (kind : StreamKind) (q : Fin 8) (s : State) : State :=
  let (u, s) := takeUid s
  setStream q (some { id := u, kind := kind, addr := sget s.cx a, count := (sget s.cx b).toNat, stride := sget s.cx c }) s

/-- Whether SBIND may bind: the register is free and a memory stream's count is below 2^32. -/
def sbindOk (b : Fin 32) (kind : StreamKind) (q : Fin 8) (s : State) : Bool :=
  (s.cx.streams[q]).isNone && (match kind with | .scalar | .row => (sget s.cx b).toNat < 2 ^ 32 | _ => true)

/-- SBIND and SUNBIND have nothing left to do at the head of the queue. -/
def bodySbind (_ : QEntry) (s : State) : QAct := (.done s, 0)
/-- SUNBIND (R302). -/
def bodySunbind (_ : QEntry) (s : State) : QAct := (.done s, 0)

/-! ## Operation packets (R305, R306) -/

/-- An operation packet's fields. -/
structure OpPacket where
  op : Nat
  f : Fmt
  n : Nat
  imm : Nat
  deriving DecidableEq, Repr

/-- Reads a packet; none where it is malformed. -/
def opPacket (w0 w1 : W64) : Option OpPacket :=
  let op := bits w0 63 56; let code := bits w0 55 52
  if 4 < op ∨ bits w0 51 8 ≠ 0 ∨ ¬ (code ≤ 2 ∨ (5 ≤ code ∧ code ≤ 10)) then none
  else
    let f := fmtOf code
    if (if op = 0 then 2 ^ (8 * f.width) ≤ w1.toNat else w1 ≠ 0) ∨ 256 < (bits w0 7 0 + 1) * f.width then none
    else some ⟨op, f, bits w0 7 0 + 1, w1.toNat⟩

/-- The new value of one element of FILL, ADD, MAX or MIN (R305). -/
def opElem (p : OpPacket) (old src : Nat) : Nat :=
  match p.op with
  | 0 => p.imm
  | 1 => if p.f.isF then (fResult p.f .rne 0 0 (xadd .rne (fval p.f old) (fval p.f src))).1
         else wrapInt (8 * p.f.width) (ival p.f old + ival p.f src)
  | 2 => (minmaxLane p.f true old src).1
  | _ => (minmaxLane p.f false old src).1

/-- SUM over the elements (R305, R108). -/
def opSum (p : OpPacket) (vs : List Nat) : Nat :=
  if p.f.isF then
    if vs.any fun v => (fval p.f v).isNaN then canonNaN p.f else (fResult p.f .rne 0 0 (xsum (vs.map (fval p.f)))).1
  else wrapInt (8 * p.f.width) ((vs.map (ival p.f)).foldl (· + ·) 0)

/-- An element's value extended to 64 bits. -/
def opExtend (f : Fmt) (v : Nat) : Nat := if f.isI && f.signed then wrapInt 64 (ival f v) else v

/-- Performs a packet on `n × w` bytes at a unit (R93, R305): the result element. -/
def unitOpk (p : OpPacket) (pa : Nat) (src : List Byte) (key : Option (BitVec 512)) (m : Memory) : UnitAns × Memory :=
  let w := p.f.width
  match unitRead m key pa (p.n * w) with
  | .inr b => (.inr b, m)
  | .inl t =>
    let olds := (List.range p.n).map (laneOf w t)
    if p.op = 4 then (.inl (bytesOf 8 (opExtend p.f (opSum p olds))), m)
    else
      let new := olds.mapIdx fun k o => opElem p o (laneOf w (natOf src) k)
      (.inl (bytesOf 8 (opExtend p.f (olds.headD 0))), m.write key pa (bytesOf (p.n * w) (packLanes w new)))

/-- The source of ADD, MAX and MIN. -/
def opSource (p : OpPacket) (c : W64) (s : State) : Res (List Byte) :=
  if p.op = 0 ∨ p.op = 4 then .ok [] s
  else (access 5 .copy .rd c.toNat (p.n * p.f.width) s).andThen fun gs s => readSegs 5 gs s

/-- The answer of a peer's unit to a packet. -/
def opAnswered (e : QEntry) (s : State) : QAct :=
  match s.cx.fl.loads.find? (·.tag + 1 == e.done) with
  | none => (.done s, e.done)
  | some l =>
    match l.got with
    | none => (.wait .other s, e.done)
    | some (st, bs) =>
      let s' := { s with cx := { s.cx with fl := { s.cx.fl with loads := s.cx.fl.loads.filter (· != l) } } }
      if st = .done then
        if canDeliver e s then (.done (deliver e (BitVec.ofNat 6144 (natOf bs)) s'), e.done) else (.wait .other s, e.done)
      else (.trap (statusCause st) (failedBlock l (if st = .ecc then bs else [])) 0 s', 0)

/-- OPK (R305, R306). The entry's count names the request to a peer. -/
def bodyOpk (a b c : Fin 32) (q : Option (Fin 8)) (e : QEntry) (s : State) : QAct :=
  if e.done ≠ 0 then opAnswered e s
  else match e.got with
  | some v => giveResult e v s
  | none =>
    match (access 5 .copy .rd (qs e b).toNat 16 s).andThen fun gs s => readSegs 5 gs s with
    | .stop x => (x, 0)
    | .ok bs s =>
      let raw := natOf bs
      match opPacket (BitVec.ofNat 64 raw) (BitVec.ofNat 64 (raw / 2 ^ 64)) with
      | none => (illegal e.pc s, 0)
      | some p =>
        let t := (qs e a).toNat; let n := p.n * p.f.width
        if ((p.op = 0 ∨ p.op = 4) ∧ c ≠ 0) ∨ (p.op = 4 ∧ q = none) then (illegal e.pc s, 0)
        else if t % p.f.width ≠ 0 ∨ t / 256 ≠ (t + n - 1) / 256 then (.trap cALIGN (qs e a) 0 s, 0)
        else
          match access 5 .atomic .rw t n s with
          | .stop x => (x, 0)
          | .ok gs s =>
            match gs, opSource p (qs e c) s with
            | _, .stop x => (x, 0)
            | [g], .ok src s =>
              if storeHeld e.uid [g] s then (.wait .other s, 0)
              else if g.ty = 4 then
                let (u, s) := takeUid s
                let s := sendFar g.rdev u g.len (.opk g.pa (BitVec.ofNat 128 raw) src g.rkey) s
                (.wait .other { s with cx := { s.cx with fl := { s.cx.fl with
                  loads := s.cx.fl.loads ++ [{ uid := u, ins := e.ins, pc := e.pc, dests := [], addr := qs e a, tag := u, loc := g.loc, rkey := g.rkey }] } } }, u + 1)
              else
                match unitOpk p g.pa src g.key s.mem with
                | (.inl v, m) => giveResult e (BitVec.ofNat 64 (natOf v)) { s with mem := m }
                | (.inr k, _) => (.trap cECC (BitVec.ofNat 64 (t / 64 * 64 + (k - g.pa / 64 * 64))) 0 s, 0)
            | _, .ok _ s => (.trap cSTRADDLE (qs e a) 0 s, 0)

/-! ## Cast groups (R307 to R311) -/

/-- A group number in a register. -/
def groupOf (e : QEntry) (a : Fin 32) : Fin 4096 := Fin.ofNat 4096 (qs e a).toNat

/-- CJOIN (R307). -/
def bodyCjoin (a b c : Fin 32) (e : QEntry) (s : State) : QAct :=
  let n := (qs e c).toNat
  if e.got.isSome then giveResult e (e.got.getD 0) s
  else match access 5 .cast .rw (qs e b).toNat 1 s with
  | .stop x => (x, 0)
  | .ok _ s =>
    let hi := (pageSpan s (qs e b).toNat).2
    if hi < (qs e b).toNat + n then (.trap cPERM (BitVec.ofNat 64 hi) 0 s, 0)
    else match access 5 .cast .rw (qs e b).toNat n s with
      | .stop x => (x, 0)
      | .ok gs s =>
        match gs with
        | g :: _ =>
          if !groupPlane s (groupOf e a) then (starved s, 0)
          else match joinGroup (groupOf e a) g.pa g.key n s with
            | none => (.wait .other s, 0)
            | some ((status, num), s) => giveResult e (fields [(status, 32), (num.toNat, 0)]) s
        | [] => (.trap cPERM (qs e b) 0 s, 0)

/-- Whether a cast store of this device to a group has not been stamped or discarded. -/
def unstamped (s : State) (g : Fin 4096) : Bool := s.fab.sends.any fun x => x.item.g == g && x.seq.isNone

/-- CLEAVE (R308). -/
def bodyCleave (a : Fin 32) (e : QEntry) (s : State) : QAct :=
  let g := groupOf e a
  if (memberOf s g).isNone then (.done s, 0)
  else if unstamped s g then (.wait .other s, 0)
  else (.done (leaveOwn g s), 0)

/-- What the head of the queue checks of a member (R309, R311): ILLEGAL, then CAST_GAP. -/
def memberChk (e : QEntry) (g : Fin 4096) (s : State) : Sum Member Act :=
  match memberOf s g with
  | none => .inr (illegal e.pc s)
  | some m => if m.gap then .inr (.trap cCASTGAP e.pc 0 s) else .inl m

/-- CSTORE (R309). The entry's count names the store whose number is awaited. -/
def bodyCstore (a b c : Fin 32) (q : Option (Fin 8)) (e : QEntry) (s : State) : QAct :=
  let g := groupOf e a
  if e.done ≠ 0 then
    match s.fab.sends.find? fun x => x.item.serial.toNat + 1 == e.done with
    | none => (.done s, e.done)
    | some x =>
      match x.seq with
      | some k =>
        if canDeliver e s then
          (.done (deliver e (k.setWidth 6144) { s with fab := { s.fab with sends := s.fab.sends.filter (· != x) } }), e.done)
        else (.wait .other s, e.done)
      | none => (.wait .other s, e.done)
  else
    let off := (qs e b).setWidth 32; let n := 8 * (bits (qs e b) 36 32 + 1)
    match memberChk e g s with
    | .inr x => (x, 0)
    | .inl m =>
      if m.size < off.toNat + n then (illegal e.pc s, 0)
      else match (access 5 .copy .rd (qs e c).toNat n s).andThen fun gs s => readSegs 5 gs s with
        | .stop x => (x, 0)
        | .ok bs s =>
          if frelHolds e.uid s then (.wait .other s, 0)
          else if !groupPlane s g then (starved s, 0)
          else
            let item : CastItem := ⟨g, s.dev, s.fab.serial, off, bs⟩
            let s := sendCast item { s with fab := { s.fab with
              serial := s.fab.serial + 1, sends := s.fab.sends ++ [⟨item, q.isSome, none, false⟩] } }
            if q.isSome then (.wait .other s, item.serial.toNat + 1) else (.done s, 0)

/-- CWAIT (R103, R107, R311). The one that ends the joining, and any that comes before it is over, waits for the recorded stores. -/
def bodyCwait (a b : Fin 32) (e : QEntry) (s : State) : QAct :=
  let g := groupOf e a
  match memberChk e g s with
  | .inr x => (x, 0)
  | .inl _ =>
    let n : BitVec 32 := (qs e b).setWidth 32
    let s := endJoining g s
    let there := match memberOf s g with | some m => !m.joining && m.upto.isNone && (n == 0 || seqLe n m.applied) | none => false
    if there then (.done { s with cx := refresh s.cx s.mem }, 0)
    else (.wait (.cwait g.val n.toNat) s, 0)

/-! ## FRED, FREDW, FREL (R98, R99, R312, R313) -/

/-- Every context of the device, the saved ones too. -/
def everyCtx (s : State) : List Ctx := (banks s).map (·.2.2) ++ s.dist.images.map (·.ctx)

/-- How a FREDW's count names the contribution that it collects; the odd number says that the bitmap has been written (R313). -/
def collects (id : Nat) (written : Bool) : Nat := 2 * (id + 1) + written.toNat

/-- Whether some FREDW collects a contribution. -/
def collected (id : Nat) (s : State) : Bool :=
  (everyCtx s).any fun c => c.fl.pend.any fun p => (match p.ins with | .fredw _ _ _ _ => true | _ => false) && p.done / 2 == id + 1

/-- The contributions to a pair that are routed and have not left (R313). -/
def queuedFreds (g : Fin 4096) (tag : BitVec 16) (s : State) : List Nat :=
  (everyCtx s).flatMap fun c => (c.fl.pend.filter fun p => p.done == 0 && (match p.ins with
    | .fred a b _ _ _ _ => groupOf p a == g && (qs p b).setWidth 16 == tag
    | _ => false)).map (·.uid)

/-- The contribution that a FREDW collects: the device's earliest to the pair, of those routed before it, that none collects yet. -/
def earliestFred (g : Fin 4096) (tag : BitVec 16) (e : QEntry) (s : State) : Option Nat :=
  let sent := (s.fab.freds.filter fun f => f.item.g == g && f.item.tag == tag && !f.claimed).map (·.id)
  ((sent ++ queuedFreds g tag s).filter fun id => id < e.uid && !collected id s).min?

/-- FRED (R312). The entry's count says that its contribution, which bears its serial, has left. -/
def bodyFred (a b c : Fin 32) (op : RedOp) (int nanskip : Bool) (e : QEntry) (s : State) : QAct :=
  if e.done ≠ 0 then
    match s.fab.freds.find? (·.id == e.uid) with
    | some f => (if f.counted || f.out.isSome then .done s else .wait .other s, e.done)
    | none => (.done s, e.done)
  else if (memberOf s (groupOf e a)).isNone then (illegal e.pc s, 0)
  else if frelHolds e.uid s then (.wait .other s, 0)
  else if !groupPlane s (groupOf e a) then (starved s, 0)
  else
    let item : RedItem := ⟨groupOf e a, (qs e b).setWidth 16, s.dev, op, int, nanskip, (qs e c).setWidth 32⟩
    let f : FredRec := { id := e.uid, item := item, claimed := collected e.uid s, since := s.clock }
    (.wait .other (sendRed item { s with fab := { s.fab with freds := s.fab.freds ++ [f] } }), 1)

/-- The result element of a reduction (R313). -/
def redItem (r : RedOutcome) : Row :=
  (fields [(r.status.toNat, 61), (r.ovf.toNat, 60), (r.ncont, 32), (r.value.toNat, 0)]).setWidth 6144

/-- Writes the bitmap of an INCOMPLETE outcome (R313). -/
def writeBitmap (e : QEntry) (c : W64) (map : BitVec 1024) (s : State) : Act :=
  if c.toNat % 64 ≠ 0 then .trap cALIGN c 0 s
  else
    (runBeats (fun k s => (beatAccess 5 c .wr (c + BitVec.ofNat 64 (64 * k)) 64 s).bind fun gs s =>
      if storeHeld e.uid gs s then .wait .other s
      else .done (writeSegsBy 5 (some e) (mergeHost gs) ((bytesOf 128 map.toNat).drop (64 * k) |>.take 64) s)) [0, 1] 0 s).1

/-- FREDW (R313). The bitmap is written when the outcome arrives, before there need be room for the element. -/
def bodyFredw (a b c : Fin 32) (e : QEntry) (s : State) : QAct :=
  match (if e.done ≠ 0 then some (e.done / 2 - 1) else earliestFred (groupOf e a) ((qs e b).setWidth 16) e s) with
  | none => (.trap cQUEUE e.pc 0 s, 0)
  | some id =>
    let k := if e.done ≠ 0 then e.done else collects id false
    let claim (x : FredRec) : FredRec := if x.id = id then { x with claimed := true } else x
    let s := { s with fab := { s.fab with freds := s.fab.freds.map claim } }
    match (s.fab.freds.find? (·.id == id)).bind (·.out) with
    | none => (.wait .other s, k)
    | some r =>
      let fin (k : Nat) (s : State) : QAct :=
        if canDeliver e s then
          (.done (deliver e (redItem r) { s with fab := { s.fab with freds := s.fab.freds.filter (·.id != id) } }), k)
        else (.wait .other s, k)
      if r.status = 1 ∧ c ≠ 0 ∧ k % 2 = 0 then
        match writeBitmap e (qs e c) r.bitmap s with
        | .done s => fin (collects id true) s
        | x => (x, k)
      else fin k s

/-- The stations that have carried REMOTE stores of the moving context (R98). -/
def carriedPlanes (s : State) : List Nat := (List.range 24).filter fun k => s.cx.fl.carried.getLsbD k

/-- The REMOTE stores of the moving context that are not acknowledged. -/
def openStores (s : State) : List Nat :=
  (s.fab.farOps.filter fun o => farStore o && s.cx.fl.unacked.any (·.tag == o.tag)).map (·.tag)

/-- The words of the engine queues that can store outside the scratchpad. -/
def storesOut : Instr → Bool
  | .vst _ _ _ | .vsts _ _ _ _ | .vscat _ _ _ _ | .mstt _ _ _ _ | .copy _ _ _ | .copy2 _ _ _ _ _ | .gather _ _ _ none _ _
  | .scatter _ _ _ _ _ | .sout _ _ _ _ => true
  | .gmap _ _ => true
  | .fredw _ _ c _ => c != 0
  | _ => false

/-- Whether a word routed before the release can still store (R98). -/
def storesBefore (e : QEntry) (s : State) : Bool :=
  s.cx.fl.pend.any fun p => p.uid < e.uid && !p.retained && storesOut p.ins

/-- FREL (R98, R99). The entry's count is 1 while it waits for earlier words and 2 once its markers are out. -/
def bodyFrel (e : QEntry) (s : State) : QAct :=
  if e.done = 2 then
    (if s.fab.frels.any (·.uid == e.uid) then .wait .other s else .done s, 2)
  else if storesBefore e s then (.wait .other s, 1)
  else
    let ps := carriedPlanes s
    let mk := s.fab.marker
    let s := { s with fab := { s.fab with marker := mk + 1 } }
    if ps.isEmpty then (.done s, 2)
    else
      let s := { s with fab := { s.fab with frels := ⟨e.uid, mk, curHandle s, ps, openStores s⟩ :: s.fab.frels } }
      let s := ps.foldl (fun s p =>
        match s.fab.st[p]? with
        | some t => if t.dorvia && t.width != 0 then sendRel (Fin.ofNat 24 p) mk s else s
        | none => s) s
      (.wait .other (relCheck s), 2)

/-! ## Routing -/

/-- Routes a copy word. -/
def cpyRoute (i : Instr) (rs : List (Fin 32)) (chk : State → Option Act) (atRoute : State → State)
    (body : QEntry → State → QAct) (s : State) : Host.Outcome State Fault Refusal :=
  routeQ .copy i rs chk atRoute body s

/-- ILLEGAL in a replayable task (R47). -/
def notReplayed : State → Option Act := need fun s => !replayable s

/-- QUEUE where a feeding word's register is not bound with its kind (R296). -/
def feedChk (q : Option (Fin 8)) (kind : StreamKind) (s : State) : Option Act :=
  match q with
  | none => none
  | some q => if (s.cx.streams[q]).any (·.kind == kind) then none else some (.trap cQUEUE s.cx.pc 0 s)

/-- A group number is at most 4,095 (R307). -/
def groupOk (a : Fin 32) (s : State) : Bool := (sget s.cx a).toNat < 4096

/-- ALIGN at an address. -/
def alignChk (a : Fin 32) (n : Nat) (s : State) : Option Act :=
  if (sget s.cx a).toNat % n ≠ 0 then some (.trap cALIGN (sget s.cx a) 0 s) else none

/-- COPY: routing. -/
def execCopy (a b c : Fin 32) (s : State) : Host.Outcome State Fault Refusal :=
  cpyRoute (.copy a b c) [a, b, c] (need fun s => (sget s.cx c).toNat ≤ 2 ^ 36) id (bodyCopy a b c) s
/-- COPY2: routing. -/
def execCopy2 (a b c : Fin 32) (len : BitVec 18) (rows : BitVec 14) (s : State) : Host.Outcome State Fault Refusal :=
  cpyRoute (.copy2 a b c len rows) [a, b, c] noChk id (bodyCopy2 a b c len rows) s
/-- GATHER: routing. -/
def execGather (a b c : Fin 32) (q : Option (Fin 8)) (esz : Fin 4) (count : BitVec 24) (s : State) :
    Host.Outcome State Fault Refusal :=
  cpyRoute (.gather a b c q esz count) [a, b, c] (feedChk q .feed) id (bodyGather a b c q esz count) s
/-- SCATTER: routing. -/
def execScatter (a b c : Fin 32) (esz : Fin 4) (count : BitVec 24) (s : State) : Host.Outcome State Fault Refusal :=
  cpyRoute (.scatter a b c esz count) [a, b, c] noChk id (bodyScatter a b c esz count) s
/-- SBIND: routing, where it binds. -/
def execSbind (a b c : Fin 32) (kind : StreamKind) (q : Fin 8) (s : State) : Host.Outcome State Fault Refusal :=
  cpyRoute (.sbind a b c kind q) [a, b, c] (need (sbindOk b kind q)) (bindStream a b c kind q) bodySbind s
/-- SUNBIND: routing, where it unbinds. -/
def execSunbind (q : Fin 8) (s : State) : Host.Outcome State Fault Refusal :=
  cpyRoute (.sunbind q) [] noChk (setStream q none) bodySunbind s
/-- SOUT: routing. -/
def execSout (a b c : Fin 32) (f : Fin 128) (s : State) : Host.Outcome State Fault Refusal :=
  cpyRoute (.sout a b c f) [a, b, c]
    (need fun s => let n := (sget s.cx b).toNat; 1 ≤ n && n ≤ 128 && f.val + n ≤ 128) id (bodySout a b c f) s
/-- PREF: routing. -/
def execPref (a b : Fin 32) (s : State) : Host.Outcome State Fault Refusal :=
  cpyRoute (.pref a b) [a, b] noChk id (bodyPref a b) s
/-- OPK: routing. -/
def execOpk (a b c : Fin 32) (q : Option (Fin 8)) (s : State) : Host.Outcome State Fault Refusal :=
  cpyRoute (.opk a b c q) [a, b, c]
    (firstOf [notReplayed, feedChk q .result, alignChk b 16, fun s => inPart (sget s.cx b) 16 s]) id (bodyOpk a b c q) s
/-- CJOIN: routing. -/
def execCjoin (a b c : Fin 32) (q : Fin 8) (s : State) : Host.Outcome State Fault Refusal :=
  cpyRoute (.cjoin a b c q) [a, b, c]
    (firstOf [notReplayed, need (fun s =>
      let n := (sget s.cx c).toNat
      groupOk a s && (sget s.cx b).toNat % 64 == 0 && n % 64 == 0 && 64 ≤ n && n ≤ 2 ^ 29), feedChk (some q) .result])
    id (bodyCjoin a b c) s
/-- CLEAVE: routing. -/
def execCleave (a : Fin 32) (s : State) : Host.Outcome State Fault Refusal :=
  cpyRoute (.cleave a) [a] (firstOf [notReplayed, need (groupOk a)]) id (bodyCleave a) s
/-- CSTORE: routing. -/
def execCstore (a b c : Fin 32) (q : Option (Fin 8)) (s : State) : Host.Outcome State Fault Refusal :=
  cpyRoute (.cstore a b c q) [a, b, c]
    (firstOf [notReplayed, need (fun s =>
      groupOk a s && bits (sget s.cx b) 63 37 == 0 && bits (sget s.cx b) 31 0 % 8 == 0), feedChk q .result])
    id (bodyCstore a b c q) s
/-- CWAIT: routing. -/
def execCwait (a b : Fin 32) (s : State) : Host.Outcome State Fault Refusal :=
  cpyRoute (.cwait a b) [a, b] (firstOf [notReplayed, need fun s => groupOk a s && bits (sget s.cx b) 63 32 == 0])
    id (bodyCwait a b) s
/-- FRED: routing. -/
def execFred (a b c : Fin 32) (op : RedOp) (int nanskip : Bool) (s : State) : Host.Outcome State Fault Refusal :=
  cpyRoute (.fred a b c op int nanskip) [a, b, c]
    (firstOf [notReplayed, need fun s => groupOk a s && bits (sget s.cx b) 63 16 == 0]) id (bodyFred a b c op int nanskip) s
/-- FREDW: routing. -/
def execFredw (a b c : Fin 32) (q : Fin 8) (s : State) : Host.Outcome State Fault Refusal :=
  cpyRoute (.fredw a b c q) [a, b, c]
    (firstOf [notReplayed, need fun s => groupOk a s && bits (sget s.cx b) 63 16 == 0, feedChk (some q) .result])
    id (bodyFredw a b c) s
/-- FREL: routing. -/
def execFrel (s : State) : Host.Outcome State Fault Refusal := cpyRoute .frel [] notReplayed id bodyFrel s

end Sys2Proof.Machine
end

