-- ==== Sys2Proof/Machine/Gau.lean ====
section
/-! DEFINITION. The gauge stage (R263, R285 to R294): hashing rows of a tile, bucketing them, packing their
representatives, and scattering results back. -/

namespace Sys2Proof.Machine

/-! ## Configuration (R285, R286) -/

/-- K of GCFG0. -/
def gK (g : Cfg) : Nat := bits g.gcfg[0] 4 0
/-- BW. -/
def gBw (g : Cfg) : Nat := bits g.gcfg[0] 11 8
/-- LIVE. -/
def gLive (g : Cfg) : Nat := bits g.gcfg[0] 19 12
/-- FMT. -/
def gFmt (g : Cfg) : Fmt := fmtOf (bits g.gcfg[0] 23 20)
/-- RM of GCFG1. -/
def gRm (g : Cfg) : Rm := rmOf (bits g.gcfg[1] 2 0)

/-- What GCFG makes of GCFG0; none where R285 refuses it. -/
def gcfgWord (k bw : BitVec 7) (f : BitVec 4) (old : W64) : Option W64 :=
  let v := fields [(f.toNat, 20), (bits old 19 12, 12), (bw.toNat, 8), (k.toNat, 0)]
  if k.toNat ≤ 16 ∧ bw.toNat < 16 ∧ gcfg0Ok v then some v else none

/-! ## Tiles and lanes -/

/-- The exact values of a row of a tile under the captured shape. -/
def gRow (g : Cfg) (t : Tile) (sh : W64) (r : Nat) : List XVal :=
  (List.range (shCols sh)).map (tileVal (gFmt g) ((t.rows[r]?.getD 0).toNat, 0))

/-- The 192 lanes of a row in the 32-bit view. -/
def lanes32 (x : Row) : List Nat := (List.range 192).map (laneOf 4 x.toNat)

/-- A V register written from 32-bit lanes. -/
def setLanes (d : Nat) (l : List Nat) (s : State) : State := { s with cx := setV (Fin.ofNat 128 d) (packLanes 4 l) s.cx }

/-- GCFG and what follows it: nothing more at the head of the queue (R263). -/
def bodyGcfg (_ : QEntry) (s : State) : QAct := (.done s, 0)

/-- GPLANE (R287): the planes, and P to GCFG2 and GCFG3. -/
def bodyGplane (a b : Fin 32) (e : QEntry) (s : State) : QAct :=
  let p := cat128 (qs e b) (qs e a)
  let pl := planesOf e.cfg.key.toNat p.toNat
  let s := { s with cx := { s.cx with plane := Vector.ofFn fun i => BitVec.ofNat 256 (pl.getD i.val 0) } }
  (.done (updCfg (fun c => { c with gcfg := (c.gcfg.set 2 (qs e a)).set 3 (qs e b) }) s), 0)

/-- GHASH (R288). -/
def bodyGhash (d : Fin 128) (a : Fin 8) (e : QEntry) (s : State) : QAct :=
  let sh := shOf e.cfg a
  let live := if gLive e.cfg = 0 then shRows sh else Nat.min (gLive e.cfg) (shRows sh)
  let pl := s.cx.plane.toList.map (·.toNat)
  let lane (r : Nat) : Nat := if live ≤ r then 0x80000000 else hashLane (gK e.cfg) pl (gRow e.cfg s.cx.t[a] sh r)
  (.done (setLanes d.val ((List.range 192).map lane) s), 0)

/-- GREP (R289, R290). -/
def bodyGrep (d a : Fin 128) (t : Fin 8) (rule : RepRule) (e : QEntry) (s : State) : QAct :=
  let r := grepRows (gK e.cfg) (gBw e.cfg) rule (lanes32 s.cx.v[a]) (gRow e.cfg s.cx.t[t] (shOf e.cfg t))
  (.done (setLanes (d.val + 1) r.2 (setLanes d.val r.1 s)), 0)

/-- A bucket-table lane: count, rule, representative. -/
def tabLane (l : Nat) : Nat × Nat × Nat := (l / 2 ^ 16, l / 2 ^ 8 % 4, l % 2 ^ 8)

/-- Whether GPACK's table and map name only rows of the tile (R291). -/
def packOk (rows : Nat) (tab : List Nat) (live : List (Nat × Nat)) : Bool :=
  (tab.all fun l => let t := tabLane l; t.1 == 0 || t.2.2 < rows)
    && live.all fun m => m.1 < rows || (let t := tabLane (tab.getD m.2 0); t.1 == 0 || t.2.1 != 2)

/-- Row `j` that GPACK writes (R291), with its flags; a copied row holds the bytes of its elements, the rest is zero (R261). -/
def packRow (g : Cfg) (t : Tile) (sh : W64) (live : List (Nat × Nat)) (l j : Nat) : Nat × Flg :=
  let (n, rule, rep) := tabLane l
  if n = 0 then (0, 0)
  else if rule != 2 then ((t.rows[rep]?.getD 0).toNat % 2 ^ (8 * shRowBytes sh), 0)
  else
    let mem := (live.filter (·.2 == j)).map fun m => gRow g t sh m.1
    let es := (List.range (shCols sh)).map fun c => meanElem (gFmt g) (gRm g) n (mem.map fun r => r.getD c (.fin false 0 1))
    (packLanes (gFmt g).width (es.map Prod.fst), es.foldl (fun fl x => fl ||| x.2) 0)

/-- GPACK (R291): rows at or beyond ROWS stay zero (R261). -/
def bodyGpack (d a : Fin 8) (b : Fin 128) (e : QEntry) (s : State) : QAct :=
  let sh := shOf e.cfg a
  let tab := lanes32 s.cx.v[b]
  let live := liveLanes (s.cx.v[b.val - 1]?.getD 0).toNat
  if !packOk (shRows sh) tab live then (illegal e.pc s, 0)
  else
    let rows := (tab.take (shRows sh)).mapIdx fun j l => packRow e.cfg s.cx.t[a] sh live l j
    let s := { s with cx := addFlags (rows.foldl (fun fl x => fl ||| x.2) 0) s.cx }
    (.done (setT d (rows.map fun x => (x.1, 0)) s), 0)

/-- GSCAT (R292). -/
def bodyGscat (d a b : Fin 128) (e : QEntry) (s : State) : QAct :=
  let live := liveLanes (s.cx.v[b]).toNat
  if live.any fun m => 127 < d.val + m.1 || 127 < a.val + m.2 then (illegal e.pc s, 0)
  else
    let c := live.foldl (fun c m => setV (Fin.ofNat 128 (d.val + m.1)) (s.cx.v[a.val + m.2]?.getD 0).toNat c) s.cx
    (.done { s with cx := c }, 0)

/-- GGSUM (R293). -/
def bodyGgsum (d a b : Fin 128) (e : QEntry) (s : State) : QAct :=
  let live := liveLanes (s.cx.v[b]).toNat
  let nb := live.foldl (fun n m => Nat.max n (m.2 + 1)) 0
  if (live.any fun m => 127 < a.val + m.1) || 128 < d.val + nb then (illegal e.pc s, 0)
  else
    let row (j : Nat) : List (Nat × Flg) :=
      let mem := (live.filter (·.2 == j)).map fun m => lanes32 (s.cx.v[a.val + m.1]?.getD 0)
      (List.range 192).map fun c => meanElem .fp32 (gRm e.cfg) 1 (mem.map fun r => fval .fp32 (r.getD c 0))
    let rows := (List.range nb).map row
    let fl := rows.foldl (fun fl r => r.foldl (fun fl x => fl ||| x.2) fl) 0
    let c := setZ d.val (rows.map fun r => packLanes 4 (r.map Prod.fst)) (addFlags fl s.cx)
    (.done { s with cx := c }, 0)

/-- The bytes of the map row and the row after it. -/
def mapBytes (c : Ctx) (m : Fin 128) : List Byte := rowBytes c.v[m] ++ rowBytes (c.v[m.val + 1]?.getD 0)

/-- Address of beat `k` of a map. -/
def mapBeat (a : W64) (k : Nat) : W64 := a + BitVec.ofNat 64 (64 * k)

/-- GMAP (R294). -/
def bodyGmap (a : Fin 32) (m : Fin 128) (e : QEntry) (s : State) : QAct :=
  runBeats (fun k s =>
    (beatAccess 6 (qs e a) .wr (mapBeat (qs e a) k) 64 s).bind fun gs s =>
      if storeHeld e.uid gs s then .wait .other s
      else .done (writeSegs 6 gs ((mapBytes s.cx m).drop (64 * k) |>.take 64) s)) ((List.range 24).drop e.done) e.done s

/-- A row with 64 of its bytes replaced. -/
def putBlock (row : Row) (k : Nat) (bs : List Byte) : Row :=
  let l := rowBytes row
  BitVec.ofNat 6144 (natOf (l.take (64 * k) ++ bs ++ l.drop (64 * k + 64)))

/-- GLMAP (R294). -/
def bodyGlmap (a : Fin 32) (m : Fin 128) (e : QEntry) (s : State) : QAct :=
  runBeats (fun k s =>
    (beatAccess 6 (qs e a) .rd (mapBeat (qs e a) k) 64 s).bind fun gs s =>
      (readSegs 6 gs s).bind fun bs s =>
        let r := m.val + k / 12
        .done { s with cx := setV (Fin.ofNat 128 r) (putBlock (s.cx.v[r]?.getD 0) (k % 12) bs).toNat s.cx })
    ((List.range 24).drop e.done) e.done s

/-! ## Routing -/

/-- Routes a gauge word. -/
def gauRoute (i : Instr) (rs : List (Fin 32)) (chk : State → Option Act) (atRoute : State → State)
    (body : QEntry → State → QAct) (s : State) : Host.Outcome State Fault Refusal :=
  routeQ .gauge i rs chk atRoute body s

/-- While K is 0 the gauge unit is not configured (R285). -/
def gaugeOn : State → Option Act := need fun s => gK s.cx.cfg != 0

/-- The gauge format fits a tile's shape (R261, R288). -/
def gaugeFits (a : Fin 8) (s : State) : Bool := fits (gFmt s.cx.cfg) (shOf s.cx.cfg a)

/-- GCFG: routing, where it writes (R286). -/
def execGcfg (k bw : BitVec 7) (f : BitVec 4) (s : State) : Host.Outcome State Fault Refusal :=
  gauRoute (.gcfg k bw f) [] (need fun s => (gcfgWord k bw f s.cx.cfg.gcfg[0]).isSome)
    (fun s => updCfg (fun c => { c with gcfg := c.gcfg.set 0 ((gcfgWord k bw f c.gcfg[0]).getD c.gcfg[0]) }) s) bodyGcfg s
/-- GPLANE: routing. -/
def execGplane (a b : Fin 32) (s : State) : Host.Outcome State Fault Refusal :=
  gauRoute (.gplane a b) [a, b] gaugeOn id (bodyGplane a b) s
/-- GHASH: routing. -/
def execGhash (d : Fin 128) (a : Fin 8) (s : State) : Host.Outcome State Fault Refusal :=
  gauRoute (.ghash d a) [] (firstOf [gaugeOn, need (gaugeFits a)]) id (bodyGhash d a) s
/-- GREP: routing. -/
def execGrep (d a : Fin 128) (t : Fin 8) (rule : RepRule) (s : State) : Host.Outcome State Fault Refusal :=
  gauRoute (.grep d a t rule) [] (firstOf [gaugeOn, need (gaugeFits t)]) id (bodyGrep d a t rule) s
/-- GPACK: routing. -/
def execGpack (d a : Fin 8) (b : Fin 128) (s : State) : Host.Outcome State Fault Refusal :=
  gauRoute (.gpack d a b) []
    (firstOf [gaugeOn, need fun s => b != 0 && gaugeFits a s && shOf s.cx.cfg d == shOf s.cx.cfg a]) id (bodyGpack d a b) s
/-- GSCAT: routing. -/
def execGscat (d a b : Fin 128) (s : State) : Host.Outcome State Fault Refusal :=
  gauRoute (.gscat d a b) [] gaugeOn id (bodyGscat d a b) s
/-- GMAP: routing. -/
def execGmap (a : Fin 32) (m : Fin 128) (s : State) : Host.Outcome State Fault Refusal :=
  gauRoute (.gmap a m) [a] (alignChk a 64) id (bodyGmap a m) s
/-- GLMAP: routing. -/
def execGlmap (a : Fin 32) (m : Fin 128) (s : State) : Host.Outcome State Fault Refusal :=
  gauRoute (.glmap a m) [a] (alignChk a 64) id (bodyGlmap a m) s
/-- GGSUM: routing. -/
def execGgsum (d a b : Fin 128) (s : State) : Host.Outcome State Fault Refusal :=
  gauRoute (.ggsum d a b) [] gaugeOn id (bodyGgsum d a b) s

end Sys2Proof.Machine
end

