-- ==== Sys2Proof/Machine/Sched.lean ====
section
/-! DEFINITION. Which ready task a free core takes (R39, R41, R126, R128, R129), and how it starts or is restored
(R31, R342, R344, R346). -/

namespace Sys2Proof.Machine

/-! ## The budget window (R128) -/

/-- W(c) of ECWT. -/
def classWeight (s : State) (c : Nat) : Nat := bits s.mmio.ecwt (8 * c + 7) (8 * c)

/-- The charge of a class at an issue step. -/
def chargeAt (s : State) (c step : Nat) : Nat := (classWeight s c * (8 - step) + 7) / 8

/-- The classes of the tasks that run on a die. -/
def runningClasses (s : State) (die : Nat) : List Nat :=
  (banks s).filterMap fun (n, act, c) =>
    if act && dieOf n == die then c.task.map (fun t => eclassOf t.packet) else none

/-- The sum of the charges of a die at an issue step. -/
def chargesAt (s : State) (die step : Nat) : Nat := ((runningClasses s die).map fun c => chargeAt s c step).foldl (· + ·) 0

/-- Whether a task of a class fits the die's budget window (R128); at budget step 7 it is taken whether or not (R129). -/
def fitsBudget (s : State) (die c : Nat) : Bool :=
  let d := powOf s die
  d.budget == 7 || chargesAt s die (issueStep s d) + chargeAt s c (issueStep s d) ≤ d.dbud

/-! ## Candidates (R26, R39, R41, R126) -/

/-- Where a candidate waits. -/
inductive From where
  | standby
  | deque
  | pool
  deriving DecidableEq, Repr

/-- A candidate. -/
structure Cand where
  src : From
  w : Waiting
  deriving DecidableEq, Repr

/-- Whether two SPAD parts share a byte (R32). -/
def spadsMeet (a b : Nat) : Bool :=
  let (l, h) := spadPart a; let (m, k) := spadPart b
  l < k && m < h

/-- PRIO of a waiting task. -/
def prioW (w : Waiting) : Nat := prioOf w.packet

/-- A second core for a PAIR task: free, eligible, in another quad (R39). -/
def pairCore (s : State) (core : Nat) (w : Waiting) : Option Nat :=
  ((List.range 96).map (96 * dieOf core + ·) ++ (List.range 384)).find? fun n =>
    quadOf n != quadOf core && coreFree s n && !(avoidOf s w).contains (quadOf n)

/-- Whether a core is eligible for a waiting task (R39), and lies in no quad kept away (R74, R351): PINNED names it, and a PAIR task
has a second core, free or not. A recovery run ignores PINNED (R49). -/
def eligibleFor (s : State) (core : Nat) (w : Waiting) : Bool :=
  let fit (n : Nat) : Bool := !(coreOf s n).2.gated && !coreOut s n && !(avoidOf s w).contains (quadOf n)
  fit core && (!pinnedPkt w.packet || w.kind == .recovery || physCore s (pktPin w.packet) == some core)
    && (!pairPkt w.packet || (List.range 384).any fun n => quadOf n != quadOf core && fit n)

/-- Whether a saved context can be restored. -/
def imageReady (s : State) (w : Waiting) : Bool :=
  match w.image.bind fun id => s.dist.images.find? (·.id == id) with
  | some i => restorable i.ctx s
  | none => true

/-- Whether a core may run a waiting task: PINNED names it, it lies in no quad kept away, a PAIR task has its second
core (R39, R74, R351). A recovery run ignores PINNED (R49). -/
def mayRun (s : State) (core : Nat) (w : Waiting) : Bool :=
  (!pinnedPkt w.packet || w.kind == .recovery || physCore s (pktPin w.packet) == some core)
    && !(avoidOf s w).contains (quadOf core) && (!pairPkt w.packet || (pairCore s core w).isSome)
    && imageReady s w

/-- Whether a preloaded task has what it needs to become active: a PAIR task its second core (R346). -/
def standbyMay (s : State) (core : Nat) (w : Waiting) : Bool := !pairPkt w.packet || (pairCore s core w).isSome

/-- What a core sees, in the order of R126. -/
def candidates (s : State) (core : Nat) : List Cand :=
  let k := (coreOf s core).2
  let st : List Cand := match k.standby with
    | some c => if preloaded c then (c.task.map fun t => (⟨.standby, waitingOf t none⟩ : Cand)).toList else []
    | none => []
  let of (src : From) (l : List DqEntry) : List Cand := (l.filter (·.cust == .inDeque)).map fun e => ⟨src, e.w⟩
  let pool := (s.dist.pools[dieOf core]?).getD []
  (st ++ of .deque k.deque ++ of .pool pool).filter fun c => if c.src = .standby then standbyMay s core c.w else mayRun s core c.w

/-- Whether a task has waited 100 µs (R41). -/
def aged (s : State) (w : Waiting) : Bool := w.since + micros 100 ≤ s.clock

/-- Puts a candidate before those that have waited less. -/
def insertOld (c : Cand) : List Cand → List Cand
  | [] => [c]
  | d :: l => if c.w.since ≤ d.w.since then c :: d :: l else d :: insertOld c l

/-- The candidates of the highest PRIO in selection order (R126): the aged ones, oldest first, then in the order seen. -/
def ordered (s : State) (core : Nat) : List Cand :=
  let cs := candidates s core
  let top := cs.filter fun c => cs.all fun d => prioW d.w ≤ prioW c.w
  (top.filter fun c => aged s c.w).foldr insertOld [] ++ top.filter fun c => !aged s c.w

/-- Whether a candidate's class fits the budget of a core's die. -/
def candFits (s : State) (core : Nat) (c : Cand) : Bool := fitsBudget s (dieOf core) (eclassOf c.w.packet)

/-- The candidate that is taken: the first in selection order that fits (R126, R129). -/
def select (s : State) (core : Nat) : Option Cand := (ordered s core).find? (candFits s core)

/-- Whether the first task in selection order is held by budget (R129). -/
def heldByBudget (s : State) (core : Nat) : Bool := match (ordered s core).head? with | some c => !candFits s core c | none => false

/-! ## Starting (R31, R113, R342, R346) -/

/-- Removes the first entry of a task from a list. -/
def dropFirst (w : Waiting) : List DqEntry → List DqEntry
  | [] => []
  | e :: r => if e.w = w ∧ e.cust = .inDeque then r else e :: dropFirst w r

/-- Takes a candidate from where it waits. -/
def takeCand (core : Nat) (c : Cand) (s : State) : State :=
  match c.src with
  | .standby => s
  | .deque => let (x, k) := coreOf s core; setCore s core (x, { k with deque := dropFirst c.w k.deque })
  | .pool => match s.dist.pools[dieOf core]? with
    | some p => { s with dist := { s.dist with pools := s.dist.pools.set! (dieOf core) (dropFirst c.w p) } }
    | none => s

/-- The scratchpad of a core is cleared before a task whose ASID differs from that of the core's previous task (R32). -/
def clearSpad (core : Nat) (asid : BitVec 16) (s : State) : State :=
  let (c, k) := coreOf s core
  if k.lastAsid = some asid then s
  else setCore { s with mem := s.mem.clear (spadBase core) spadSize } core (c, { k with lastAsid := some asid })

/-- Puts a context into the active bank of a core; its slot, record or recovery task is running. -/
def enterBank (core : Nat) (c : Ctx) (s : State) : State :=
  let s := match c.task with | some t => if t.started.isNone then clearSpad core c.pr.asid s else s | none => s
  let c := refresh c s.mem
  let c := { c with task := c.task.map fun t => { t with started := some (t.started.getD s.clock), preload := false } }
  let (_, k) := coreOf s core
  let s := setCore s core (c, k)
  match c.task with
  | some t =>
    let s := match slotOf s t.handle with
      | some x => updSlot x.num (fun y => { y with st := .running }) s
      | none => s
    match t.recov with
    | some id => updRec? id (fun q => { q with running := true }) s
    | none => s
  | none => s

/-- A restored image brings the bytes of the task's scratchpad part back (R32, R342). -/
def putSpad (core : Nat) (bs : List Host.Cell) (spad : Nat) (s : State) : State :=
  let (lo, hi) := spadPart spad
  let mem := s.mem.clear (spadBase core + lo) (hi - lo)
  { s with mem := bs.foldl (fun m c => m.setAll (spadBase core + c.1) [c.2]) mem }

/-- A fresh run of a task on a core; a PAIR task starts on two (R346), the lower-numbered core's member first. -/
def startTask (core : Nat) (w : Waiting) (s : State) : State :=
  let c := startCtx s w
  if pairPkt w.packet then
    match pairCore s core w with
    | some n =>
      let mem (low : Bool) (other : Nat) : Ctx := { c with task := c.task.map fun t => { t with pair := some (other, low) } }
      enterBank n (mem (n < core) core) (enterBank core (mem (core < n) n) s)
    | none => s
  else enterBank core c s

/-- A save image that cannot be read or whose version is unknown (R344): a replayable task runs afresh, any other fails. -/
def imageLost (id : Nat) (s : State) : State :=
  match (ctxAt s (.image id)).bind (·.task) with
  | some t => killRun (.image id) [] (killRec t cIMAGELOST 0) s
  | none => s

/-- The image of the other member of a pair. -/
def partnerImage (s : State) (t : TaskRun) : Option Nat :=
  match partnerLoc s t with | some (.image m) => some m | _ => none

/-- Whether an image can be restored: none of its blocks is unreadable, and its version is known (R344). -/
def imageReadable (s : State) (id : Nat) : Bool :=
  match s.dist.images.find? (·.id == id) with
  | some i => (s.mem.poisoned i.addr (2 ^ 22)).isNone && versionKnown s i.addr
  | none => false

/-- Whether the images of a waiting task can be restored, a pair's both. -/
def imagesReadable (s : State) (id : Nat) : Bool :=
  imageReadable s id && (match ((ctxAt s (.image id)).bind (·.task)).bind (partnerImage s) with
    | some m => imageReadable s m
    | none => true)

/-- The context of an image comes out of its slot (R342), its scratchpad bytes onto a core. -/
def readImage (core id : Nat) (s : State) : Option (Ctx × State) :=
  match s.dist.images.find? (·.id == id) with
  | none => none
  | some i =>
    let s := { s with dist := { s.dist with images := s.dist.images.filter (·.id != id) } }
    let s := putSpad core i.spad (ctxSpad i.ctx) s
    some (reissue (deliverAll i.ctx) s)

/-- Restores an image on a core (R342). -/
def restoreImage (core id : Nat) (s : State) : State :=
  let s := match ctxAt s (.image id) with | some c => clearSpad core c.pr.asid s | none => s
  match readImage core id s with
  | some (c, s) => enterBank core c s
  | none => s

/-- The members of a pair learn on which cores they run, and which of them is on the lower-numbered one (R347). -/
def pairUp (a b : Nat) (s : State) : State :=
  let fix (c other : Nat) (s : State) : State :=
    updLoc (.bank c true) (fun x => { x with task := x.task.map fun t => { t with pair := t.pair.map fun _ => (other, decide (c < other)) } }) s
  fix b a (fix a b s)

/-- Restores the image of a waiting task, with its partner's on a second core. -/
def restoreTask (core id : Nat) (w : Waiting) (s : State) : State :=
  match ((ctxAt s (.image id)).bind (·.task)).bind (partnerImage s) with
  | some m =>
    (match pairCore s core w with
     | some n => pairUp core n (restoreImage n m (restoreImage core id s))
     | none => s)
  | none => restoreImage core id s

/-- A PAIR task that was preloaded and has become active gets its other member on a second core: started with it (R346), or restored. -/
def joinPair (core : Nat) (s : State) : State :=
  match (coreOf s core).1.task with
  | none => s
  | some t =>
    if !pairPkt t.packet then s
    else match pairCore s core (waitingOf t none), t.pair with
      | some n, none =>
        let give (o : Nat) (low : Bool) (c : Ctx) : Ctx := { c with task := c.task.map fun t => { t with pair := some (o, low) } }
        enterBank n (give core (n < core) (startCtx s (waitingOf t none))) (updLoc (.bank core true) (give n (core < n)) s)
      | some n, some _ =>
        (match partnerImage s t with
         | some m => if imageReadable s m then pairUp core n (restoreImage n m s) else imageLost m s
         | none => s)
      | none, _ => s

/-- Whether an ASID is BOUND (R420, R421). -/
def asidBound (s : State) (a : BitVec 16) : Bool := match bindOf s.xl a with | some b => !b.retiring | none => false

/-- A task whose ASID is not BOUND when it is selected fails before its first instruction (R422). -/
def failUnbound (core : Nat) (s : State) : State :=
  match (coreOf s core).1.task with
  | some t => if asidBound s t.info.asid then s else failRun (.bank core true) (killRec t cASID 0) s
  | none => s

/-- The task preloaded in a standby bank becomes active. -/
def enterStandby (core : Nat) (s : State) : State :=
  let s := switchBanks core s
  failUnbound core (joinPair core (enterBank core (coreOf s core).1 s))

/-- A core takes a candidate (R126): a preloaded task becomes active; a task with an image is restored; any other starts.
A preloaded task that cannot stay beside the one taken goes back (R26). -/
def takeTask (core : Nat) (c : Cand) (s : State) : State :=
  match c.src with
  | .standby => enterStandby core s
  | _ =>
    let s := takeCand core c s
    let s := match (coreOf s core).2.standby with
      | some d => if preloaded d && (d.pr.asid != c.w.info.asid || spadsMeet (ctxSpad d) (packetSpad c.w.packet))
        then unloadStandby core s else s
      | none => s
    match c.w.image with
    | some id =>
      if !asidBound s c.w.info.asid then
        (match (ctxAt s (.image id)).bind (·.task) with
         | some t => failRun (.image id) (killRec t cASID 0) s
         | none => s)
      else if imagesReadable s id then restoreTask core id c.w s else imageLost id s
    | none => failUnbound core (startTask core c.w s)

/-! ## Preloading (R26) -/

/-- Whether a core runs with both banks (R359). -/
def twoBanks (s : State) (core : Nat) : Bool :=
  let u := unitId (dieOf core) (core % 96 / 4) (core % 4) 9
  !quarantined s u && !quarantined s (u + 4)

/-- The task that the standby bank of a core is preloaded with (R26): the next from the owner end of the deque, of the active task's ASID,
with a scratchpad part that does not meet that task's; a whole scratchpad is not shared. -/
def nextPreload (core : Nat) (s : State) : Option Waiting :=
  let (c, k) := coreOf s core
  match c.task, k.standby, k.deque.find? (·.cust == .inDeque) with
  | some t, none, some e =>
    if twoBanks s core && !coreOut s core && !k.gated && e.w.info.asid == t.info.asid
        && !spadsMeet (packetSpad t.packet) (packetSpad e.w.packet) && eligibleFor s core e.w && imageReady s e.w
        && (match e.w.image with | some id => imagesReadable s id | none => true) then some e.w
    else none
  | _, _, _ => none

/-- The standby bank of a core is preloaded, with the task's save image where it has one. -/
def preloadTask (core : Nat) (s : State) : State :=
  match nextPreload core s with
  | none => s
  | some w =>
    let s := takeCand core ⟨.deque, w⟩ s
    let fill (c : Ctx) (s : State) : State := let (x, k) := coreOf s core; setCore s core (x, { k with standby := some c })
    match w.image with
    | none => fill (startCtx s w) s
    | some id =>
      match readImage core id s with
      | some (c, s) => fill { c with task := c.task.map fun t => { t with preload := true } } s
      | none => s

/-! ## What a core could steal (R114) -/

/-- What a victim core would offer to a thief (R114): its thief-end entry where that has the highest waiting priority,
else its highest-priority entry nearest the thief end. -/
def offerOf (s : State) (victim : Nat) : Option DqEntry :=
  let l := ((coreOf s victim).2.deque.filter (·.cust == .inDeque)).reverse
  l.find? fun e => l.all fun d => prioW d.w ≤ prioW e.w

/-- Whether a waiting task may be stolen: a PINNED one may not (R113), save a recovery run, which ignores PINNED (R49). -/
def stealable (w : Waiting) : Bool := !pinnedPkt w.packet || w.kind == .recovery

/-- The victim of a thief core (R114): of the other cores of its die, else of the other dies, one that offers what the core may run, with
the most entries. That the thief passes over a core whose offer it could not run is the model's choice (log 105). -/
def victimOf (s : State) (core : Nat) : Option Nat :=
  let size (n : Nat) : Nat := ((coreOf s n).2.deque.filter (·.cust == .inDeque)).length
  let offers (n : Nat) : Bool := n != core && (match offerOf s n with | some e => stealable e.w && mayRun s core e.w | none => false)
  let best (l : List Nat) : Option Nat := l.find? fun n => l.all fun m => size m ≤ size n
  let l := (liveCores s).filter offers
  (best (l.filter fun n => dieOf n == dieOf core)).or (best l)

/-- TASK_SELECTION (R126): a free core whose active bank is empty and whose standby bank holds no waiting context. -/
def selectTask (core : Nat) (s : State) : State :=
  let (c, k) := coreOf s core
  if c.task.isSome || k.gated || coreOut s core then s
  else match k.standby with
    | some d =>
      if !preloaded d then (if resumable s d then switchBanks core s else s)
      else match select s core with | some x => takeTask core x s | none => s
    | none => match select s core with | some x => takeTask core x s | none => s

end Sys2Proof.Machine
end

