-- ==== Sys2Proof/Machine/Tsk.lean ====
section
/-! DEFINITION. The task interface (R315 to R329): spawning and signalling, versions, leaving the core; with what a
recovery run (R49), a re-enqueued instance (R345) and a pair (R347) do at each. What a step changes in the records takes effect when the
buddy has acknowledged it: the step itself waits for that (`mirrorGate`). -/

namespace Sys2Proof.Machine

/-! ## Shared -/

/-- Changes the task of the moving context. -/
def updTask (f : TaskRun → TaskRun) (s : State) : State := { s with cx := { s.cx with task := s.cx.task.map f } }

/-- Runs a body with the task of the moving context. -/
def withTask (f : TaskRun → Act) (s : State) : Act :=
  match s.cx.task with | some t => f t | none => illegal s.cx.pc s

/-- SEAL at the word; with `failed` the version goes into the completion record (R75, R389). -/
def sealAt (tile : W64) (failed : Bool) (s : State) : Act :=
  .trap cSEAL s.cx.pc 0 (if failed then { s with cx := { s.cx with fl := { s.cx.fl with tile := tile } } } else s)

/-- SEAL at the word, of a version that may be FAILED here, or with the shard that would know it (R63). -/
def sealFault (tile : W64) (s : State) : Act :=
  sealAt tile (match recOf s tile with | some r => r.st == .failed | none => shardFailed s tile) s

/-- SEAL at the word, of a version whose shard has refused the word: its answer says whether the version is FAILED. -/
def sealRefused (tile : W64) (a : ShardAns) (s : State) : Act :=
  sealAt tile (match a with | .state _ c => c == 7 | _ => false) s

/-- A boundary: the publication part, then the body (R86). -/
def published (f : State → Act) (s : State) : Act := match unpublished true s with | some a => a | none => f s

/-! ## Questions to other devices (R54, R63, R317, R319, R320 to R327) -/

/-- An answer is taken: the waiting word keeps it until it completes. -/
def takeAnswer (u : Nat) (a : ShardAns) (s : State) : State :=
  { s with cx := { s.cx with fl := { s.cx.fl with wait := .none, notes := s.cx.fl.notes ++ [a] } }
           lin := { s.lin with remote := s.lin.remote.filter (·.1 != u), reqs := s.lin.reqs.filter (·.1 != u) } }

/-- The `i`-th question of a word to another device: asked once, on a channel, and awaited (SHARD_ACKNOWLEDGEMENT). -/
def await (i vc : Nat) (leave : Nat → State → State) (k : ShardAns → State → Act) (s : State) : Act :=
  match s.cx.fl.notes[i]? with
  | some a => k a s
  | none =>
    match s.cx.fl.wait with
    | .shard u =>
      (match s.lin.remote.find? (·.1 == u) with
       | some (_, a) => k a (takeAnswer u a s)
       | none => .wait (.shard u) s)
    | _ =>
      if !chanUp s vc then starved s
      else
        let (u, s) := takeUid s
        .wait (.shard u) (leave u s)

/-- What a word has learnt stands in the state now: it asks no more of it. -/
def settled (s : State) : State := forgetNotes s

/-- A question to a device that serves a shard; it is asked again of the device that acts for a lost one (R63). -/
def askDevice (i : Nat) (dev : Nat) (q : HomeAsk) (k : ShardAns → State → Act) (s : State) : Act :=
  await i 4 (fun u s => send (.shard dev u q) { s with lin := { s.lin with reqs := (u, dev) :: s.lin.reqs } }) k s

/-- The question to the shard of a version: SEAL where its device is lost and nobody acts for it (R63, R320). -/
def askShard (i : Nat) (tile : W64) (q : HomeAsk) (k : ShardAns → State → Act) (s : State) : Act :=
  match shardDev s tile with
  | none => sealFault tile s
  | some d => askDevice i d q k s

/-- The device that keeps what a lost one kept, where one does (R63). -/
def standsFor (s : State) (d : Fin 1024) : Option Nat :=
  match s.lin.lostDevs.find? (·.1 == d) with
  | none => some d.val
  | some (_, a) => (a.map (·.val)).filter (!devLost s ·)

/-! ## Spawning and signalling (R317 to R319) -/

/-- A new slot's handle; the word waits while none is free (R318). -/
def withSlot (t : TaskRun) (k : W64 → State → Act) (s : State) : Act :=
  match reserveSlot (some t.info.launch) s with
  | (some h, s) => k h s
  | (none, s) => .wait .slot s

/-- Notes what a run did in the task graph (R345). -/
def addActs (f : Actions → Actions) (s : State) : State := updTask (fun t => { t with acts := f t.acts }) s

/-- Completes a spawn that its launch has counted: the handle in D, the action noted, the boundary's refresh. -/
def spawned (a : Fin 32) (h : W64) (s : State) : Act :=
  .done (boundaryDone (wr (addActs (fun x => { x with spawns := x.spawns ++ [h] }) s) a h))

/-- The packet at `b`: header first, then all of it (R317 step 2). -/
def readPacket (b : W64) (s : State) : Res (List W64) :=
  let words (bs : List Byte) : List W64 := (List.range (bs.length / 8)).map fun i => BitVec.ofNat 64 (natOf ((bs.drop (8 * i)).take 8))
  if b.toNat % 32 ≠ 0 then .stop (.trap cALIGN b 0 s)
  else (access 0 (.ctl 32) .rd b.toNat 32 s).andThen fun gs s => (readSegs 0 gs s).andThen fun h s =>
    let n := 4 * bits ((words h).headD 0) 3 0
    if n ≤ 4 then .ok (words h) s
    else (access 0 (.ctl 32) .rd b.toNat (8 * n) s).andThen fun gs s => (readSegs 0 gs s).andThen fun bs s => .ok (words bs) s

/-- Publishes a checked packet (R317 steps 4 to 6). A spawn on another device counts in its launch from when its request leaves, so that no
COMPLETE comes before it (R386); where it is refused, it counts no longer. -/
def spawnPacket (a : Fin 32) (t : TaskRun) (p : List W64) (s : State) : Act :=
  let info : SpawnInfo := ⟨t.info.launch, s.cx.pr.asid, s.cx.cfg.key, t.info.id⟩
  let h := pktHandle p
  let here (h : W64) (s : State) : Act := spawned a h (countSpawn t.info.launch (publish h p info (some s.me) s))
  if h = 0 then withSlot t here s
  else if bits h 63 54 = s.dev.val then
    match slotOf s h with
    | some x => if x.st = .reserved then here h s else illegal s.cx.pc s
    | none => illegal s.cx.pc s
  else await 0 0 (fun u s => send (.words 0 (bits h 63 54) ([BitVec.ofNat 64 u, h, info.launch, info.asid.setWidth 64,
      info.key.setWidth 64, (info.key >>> 64).setWidth 64, info.id] ++ p)) (countSpawn t.info.launch s))
    (fun r s => if r = .held then spawned a h s else illegal s.cx.pc (launchEnded t.info.launch s)) s

/-- TSPAWN and TSPAWNL (R317), with the kind that the form requires. What an earlier instance made is not made again (R345). -/
def spawnBody (kind : Nat) (a b : Fin 32) (res : Bool) (s : State) : Act :=
  withTask (fun t =>
    if t.kind = .recovery then .done (wr s a 0)
    else if res then
      let got (h : W64) (s : State) : Act := .done (wr (addActs (fun x => { x with ress := x.ress ++ [h] }) s) a h)
      match t.prior.ress[t.acts.ress.length]? with
      | some h => got h s
      | none => withSlot t got s
    else
      match t.prior.spawns[t.acts.spawns.length]? with
      | some h => .done (wr (addActs (fun x => { x with spawns := x.spawns ++ [h] }) s) a h)
      | none => published (fun s => (readPacket (sget s.cx b) s).bind fun p s =>
          match packetRule s s.cx.pr.asid p with
          | (none, s) => .wait .other s
          | (some bad, s) =>
            let s := dropLines s
            if bad.isSome || pktKind p != kind then illegal s.cx.pc s else spawnPacket a t p s) s) s

/-- TSPAWN (R317). -/
def execTspawn (a b : Fin 32) (res : Bool) (s : State) : Host.Outcome State Fault Refusal := ctl [b] (spawnBody 1 a b res) s

/-- TSPAWNL (R317). -/
def execTspawnl (a b : Fin 32) (res : Bool) (s : State) : Host.Outcome State Fault Refusal := ctl [b] (spawnBody 2 a b res) s

/-- One signal of a word: done when the handle's distributor has accepted it (R119, R319). -/
def signalFrom (h : W64) (k : State → Act) (s : State) : Act :=
  if bits h 63 54 = s.dev.val then
    match signalHere h s with
    | some s => k s
    | none => .wait (.early h) s
  else await 0 0 (fun u s => send (.signal (bits h 63 54) u h) s) (fun _ s => k s) s

/-- TSIG (R319). -/
def tsigBody (a : Fin 32) (s : State) : Act :=
  withTask (fun t =>
    let h := sget s.cx a
    if t.kind = .recovery then .done s
    else if h = 0 then illegal s.cx.pc s
    else published (fun s =>
      let fin (s : State) : Act := .done (boundaryDone (addActs (fun x => { x with sigs := x.sigs ++ [h] }) s))
      if (t.acts.sigs.filter (· == h)).length < (t.prior.sigs.filter (· == h)).length then fin s
      else signalFrom h fin s) s) s

/-- TSIG. -/
def execTsig (a : Fin 32) (s : State) : Host.Outcome State Fault Refusal := ctl [a] (tsigBody a) s

/-! ## TNEWV (R42, R46, R49, R53, R320, R345, R347) -/

/-- A TNEWV's answer: the run has the version, with its own storage where that is not the record's. -/
def gotVersion (a : Fin 32) (h : W64) (buf : Option (Place × Nat)) (s : State) : Act :=
  let more (l : List (W64 × Place × Nat)) : List (W64 × Place × Nat) := match buf with | some (p, n) => l ++ [(h, p, n)] | none => l
  .done (wr (updTask (fun t => { t with acts := { t.acts with allocs := t.acts.allocs ++ [h] }, buffers := more t.buffers }) s) a h)

/-- Whether this run is the member of a pair that writes shadow buffers. -/
def shadowed (t : TaskRun) : Bool := match t.pair with | some (_, low) => !low | none => false

/-- Storage of the run's own beside the record's, on a device: a discard buffer (R49) or a shadow buffer (R347). Another device lends
it. -/
def withBuffer (i : Nat) (h : W64) (dev : Fin 1024) (ty : TileTgt) (die : Fin 4) (n : Nat) (k : Place → State → Act) (s : State) : Act :=
  if dev = s.dev ∨ devLost s dev.val = true then
    match allocStore s ty die.val n with
    | (some p, s) => k p s
    | (none, s) => .wait .storage s
  else askDevice i dev.val (.lend h false ty die n) (fun a s => match a with | .address p _ => k p s | _ => sealFault h s) s

/-- The place of a version that another shard homes and a run here writes. -/
def noteFar (h : W64) (p : Place) (n : Nat) (s : State) : State :=
  if (recOf s h).isSome then s
  else { s with lin := { s.lin with far := ⟨h, p, n, false⟩ :: s.lin.far.filter (·.tile != h) } }

/-- Whether a run writes a shadow buffer of a version that stands already: what the other member of its pair does not, where that has come
to its TNEWV of it, on whichever core each was then. -/
def takesShadow (t : TaskRun) (h : W64) (s : State) : Bool :=
  match partnerTask s t with
  | some u => if u.acts.allocs.contains h then !u.buffers.any (·.1 == h) else shadowed t
  | none => shadowed t

/-- A version that stands already is met again at a TNEWV: the run writes its recorded storage, or as the other member of a pair a
shadow buffer beside it. -/
def writesVersion (a : Fin 32) (i : Nat) (h : W64) (p : Place) (n : Nat) (t : TaskRun) (s : State) : Act :=
  if takesShadow t h s then
    withBuffer i h p.dev p.ty p.die n (fun q s => gotVersion a h (some (q, n)) (noteFar h p n s)) s
  else gotVersion a h none (noteFar h p n s)

/-- A version that is not to be written is met again at a TNEWV: the run writes a discard buffer (R49), on this device with what TNEWV
asks for (log 23). -/
def discards (a : Fin 32) (h : W64) (ty : TileTgt) (die n : Nat) (s : State) : Act :=
  withBuffer 0 h s.dev ty (Fin.ofNat 4 die) n (fun p s => gotVersion a h (some (p, n)) s) s

/-- Whether the other member of a pair waits for another device at the same allocation. -/
def partnerAsks (t : TaskRun) (s : State) : Bool :=
  match (partnerLoc s t).bind (ctxAt s) with
  | some c => (match c.fl.wait with | .shard _ => true | _ => false)
      && (match c.task with | some u => u.acts.allocs.length == t.acts.allocs.length | none => false)
  | none => false

/-- The pool entry of a run's first TNEWV. -/
def notePool (o : Option (Fin 1024 × Nat)) (s : State) : State := addActs (fun x => { x with pool := x.pool.or o }) s

/-- A version that nothing stands for yet (R320). -/
def freshVersion (a : Fin 32) (b : W64) (n : Nat) (ty : TileTgt) (die : Nat) (t : TaskRun) (s : State) : Act :=
  let pool := (actsOf s t).pool
  let replay := replayPkt t.packet
  let packet := if replay then retainPacket t.packet t.idx else []
  let inputs := if replay then t.decl else []
  if partnerAsks t s then .wait .other s
  else if !servesShard s b then
    askShard 0 b (.newv b n ty (Fin.ofNat 4 die) t.handle t.acts.allocs.length packet t.info t.idx pool inputs) (fun r s =>
      match r with
      | .newv h p o =>
        -- from here on the version stands: a shadow buffer is asked for apart
        let s := settled (noteFar h p n (notePool o (updTask (fun t => { t with prior := { t.prior with allocs := t.acts.allocs ++ [h] } }) s)))
        writesVersion a 0 h p n t s
      | r => sealRefused b r s) s
  else
    match newVersion s.dev b n ty die t.handle t.acts.allocs.length packet t.info t.idx pool inputs s with
    | .refused => sealFault b s
    | .wait w s => .wait w s
    | .made h p o s' =>
      if shadowed t then
        match allocStore s' p.ty p.die.val n with
        | (some q, s') => gotVersion a h (some (q, n)) (notePool o s')
        | (none, _) => .wait .storage s
      else gotVersion a h none (notePool o s')

/-- The k-th TNEWV of a run whose k-th version an earlier instance or the other member of the pair has made (R345, R347). -/
def againVersion (a : Fin 32) (h : W64) (n : Nat) (ty : TileTgt) (die : Nat) (t : TaskRun) (s : State) : Act :=
  match recOf s h with
  | some r =>
    if r.st = .pending then writesVersion a 0 h r.place r.size t (updRec h (fun r => { r with owner := s.dev }) s)
    else discards a h ty die n s
  | none =>
    if servesShard s h then discards a h ty die n s
    else if t.kind = .requeued then
      askShard 0 h (.adopt h) (fun r s => match r with
        | .address p m => writesVersion a 1 h p m t s
        | _ => discards a h ty die n s) s
    else match farOf s h with
      | some x => if x.done then discards a h ty die n s else writesVersion a 0 h x.place x.size t s
      | none => discards a h ty die n s

/-- The k-th TNEWV of a recovery run (R49): the version recorded with OUTIX k, which the shard that keeps the packet knows. A version
trimmed since has no record, and its number is free (log 23). -/
def recoveryVersion (a : Fin 32) (b : W64) (n : Nat) (ty : TileTgt) (die : Nat) (t : TaskRun) (s : State) : Act :=
  let k := t.acts.allocs.length
  let go (i : Nat) (r : ShardAns) (s : State) : Act :=
    match r with
    | .known h p m rebuilt => if rebuilt then writesVersion a i h p m t s else discards a h ty die n s
    | _ =>
      match (partnerTask s t).bind fun u => u.acts.allocs[k]? with
      | some h => discards a h ty die n s
      | none =>
        let (u, s) := takeFree s
        discards a (b + BitVec.ofNat 64 (Config.pick u % 0xFFFFFF + 1)) ty die n s
  match t.prior.pool with
  | none => go 0 .refused s
  | some (d, ix) =>
    if d = s.dev then go 0 (knownOut ix k s) s
    else match standsFor s d with
      | some e => askDevice 0 e (.known ix k) (go 1) s
      | none => sealFault b s

/-- TNEWV (R320). -/
def tnewvBody (a b c : Fin 32) (tt : TileTgt) (dsel : Bool) (die : Fin 4) (s : State) : Act :=
  withTask (fun t =>
    let id := sget s.cx b; let c := (sget s.cx c).toNat
    if bits id 23 0 ≠ 0 ∨ c < 1 ∨ 0xFFFFFFC0 < c then illegal s.cx.pc s
    else if replayPkt t.packet && 64 ≤ t.acts.allocs.length then sealFault id s
    else
      let n := (c + 63) / 64 * 64
      let d := if dsel then die.val else homeDie id
      if t.kind = .recovery then recoveryVersion a id n tt d t s
      else match (actsOf s t).allocs[t.acts.allocs.length]? with
        | some h => againVersion a h n tt d t s
        | none => freshVersion a id n tt d t s) s

/-- TNEWV. -/
def execTnewv (a b c : Fin 32) (tt : TileTgt) (dsel : Bool) (die : Fin 4) (s : State) : Host.Outcome State Fault Refusal :=
  ctl [b, c] (tnewvBody a b c tt dsel die) s

/-! ## TDECL and TREADV (R46, R47, R60, R92, R321, R322) -/

/-- Whether a replayable run's inputs are recorded now: not a recovery run's, which were at the first. -/
def lists (t : TaskRun) : Bool := replayPkt t.packet && t.kind != .recovery

/-- The PENDING output records of a replayable run that do not list an input yet. -/
def unlisted (s : State) (t : TaskRun) (u : W64) : List VRec :=
  if lists t then (t.acts.allocs.filterMap (recOf s)).filter fun r => r.st == .pending && !r.inputs.contains u else []

/-- Continuation records that some records need for one input more. -/
def linkCost (rs : List VRec) : Nat := (rs.map fun r => chainLen (r.inputs.length + 1) - r.chain.length).foldl (· + ·) 0

/-- Lists an input in the records given, with the indices for their chains. -/
def linkInput (u : W64) : List VRec → List Nat → State → State
  | [], _, s => s
  | r :: rs, ixs, s =>
    let k := chainLen (r.inputs.length + 1) - r.chain.length
    linkInput u rs (ixs.drop k)
      (updRec r.tile (fun r => { r with inputs := r.inputs ++ [u], chain := r.chain ++ ixs.take k }) s)

/-- A replayable run's PENDING outputs that other shards home, which are to list an input. -/
def farOutputs (t : TaskRun) (s : State) : List W64 :=
  if lists t then
    t.acts.allocs.filter fun v => (shardDev s v).isSome && (match farOf s v with | some x => !x.done | none => false)
  else []

/-- The shards of some outputs are asked to list an input, from a word's `i`-th question on; one that is full refuses in the end (R58). -/
def linkFar (u : W64) (k : State → Act) : List W64 → Nat → State → Act
  | [], _, s => k s
  | v :: r, i, s => askShard i v (.link v u) (fun a s => if a = .held then linkFar u k r (i + 1) s else sealFault u s) s

/-- Whether a version is PENDING and this instance allocated it (R321, R322). -/
def ownPending (t : TaskRun) (h : W64) (s : State) : Bool :=
  (actsOf s t).allocs.contains h && (match recOf s h with
    | some r => r.st == .pending
    | none => match farOf s h with | some x => !x.done | none => false)

/-- Declares a version that is not declared yet (R321). -/
def declare (t : TaskRun) (h : W64) (k : State → Act) (s : State) : Act :=
  let limit := if replayPkt t.packet then 64 else 256
  if limit ≤ t.decl.length || ownPending t h s then sealFault h s
  else
    let rs := unlisted s t h
    match freeIndices s (linkCost rs) with
    | none => .wait .record s
    | some ixs =>
      let note (s : State) : State := updTask (fun t => { t with decl := t.decl ++ [h] }) (linkInput h rs ixs s)
      if servesShard s h then
        match recOf s h with
        | some r => if r.st = .failed then sealFault h s else linkFar h (fun s => k (settle (settled (note s)))) (farOutputs t s) 0 s
        | none => sealFault h s
      else
        let n := refsHere (note s) h; let p := Nat.max (farPrio s h) (prioOf t.packet)
        askShard 0 h (.decl h n p) (fun r s => match r with
          | .declared _ =>
            let s := { s with lin := { s.lin with told := (h, n, p) :: s.lin.told.filter (·.1 != h) } }
            linkFar h (fun s => k (settle (settled (note s)))) (farOutputs t s) 1 s
          | r => sealRefused h r s) s

/-- TDECL (R321). -/
def tdeclBody (a : Fin 32) (s : State) : Act :=
  withTask (fun t =>
    let h := sget s.cx a
    if t.decl.contains h then .done s else declare t h .done s) s

/-- TDECL. -/
def execTdecl (a : Fin 32) (s : State) : Host.Outcome State Fault Refusal := ctl [a] (tdeclBody a) s

/-- Name of a place's bytes in the snapshot. -/
def placeLoc (s : State) (p : Place) : Nat :=
  if p.dev = s.dev then p.addr.toNat else 2 ^ 60 + p.dev.val * 2 ^ 44 + p.addr.toNat

/-- A TREADV's answer for a sealed version: the address, with the snapshot refreshed over its range (R92). -/
def sealedAddr (a : Fin 32) (p : Place) (n : Nat) (s : State) : Act :=
  .done (wr { s with cx := refreshRange (placeLoc s p) n s.cx s.mem } a (tileVa p))

/-- TREADV of a declared version that this instance did not allocate, or has sealed (R322). -/
def readVersion (a : Fin 32) (h : W64) (s : State) : Act :=
  if servesShard s h then
    match recOf s h with
    | some r =>
      if r.st = .failed then sealFault h s
      else if r.st.avail then sealedAddr a r.place r.size s
      else .wait (.treadv h) (settle s)
    | none => sealFault h s
  else askShard 0 h (.read h) (fun r s => match r with
    | .address p n => sealedAddr a p n s
    | r => sealRefused h r s) s

/-- Where a run writes a version that it allocated and has not sealed: its own buffer, the recorded storage, what a recovery run keeps of a
version trimmed since (R73), or the storage of another shard's version. -/
def writtenAt (t : TaskRun) (h : W64) (s : State) : Option (Place × Nat) :=
  match t.buffers.find? (·.1 == h) with
  | some x => some x.2
  | none =>
    if !(actsOf s t).allocs.contains h then none
    else match recOf s h with
      | some r =>
        if r.st = .pending ∨ (t.kind = .recovery ∧ r.st = .recovering ∧ some (r.pkdev, r.pool) = t.prior.pool) then some (r.place, r.size)
        else none
      | none =>
        match (t.recov.bind fun id => s.lin.rtasks.find? (·.id == id)).bind fun q => q.kept.find? (·.1 == h) with
        | some x => some x.2
        | none => match farOf s h with | some x => if x.done then none else some (x.place, x.size) | none => none

/-- TREADV (R322, R413). -/
def treadvBody (a b : Fin 32) (s : State) : Act :=
  withTask (fun t =>
    let h := sget s.cx b
    let twen := match bindOf s.xl s.cx.pr.asid with | some x => x.twen | none => false
    if !twen then sealFault h s
    else match writtenAt t h s with
      | some (p, _) => .done (wr s a (tileVa p))
      | none =>
        if t.decl.contains h then readVersion a h s
        else if replayPkt t.packet then sealFault h s
        else declare t h (readVersion a h) s) s

/-- TREADV. -/
def execTreadv (a b : Fin 32) (s : State) : Host.Outcome State Fault Refusal := ctl [b] (treadvBody a b) s

/-! ## TSEAL (R45, R48, R59, R73, R74, R323, R324, R347) -/

/-- The sealed version joins the rings of the arrays that the task used (R62). Where a ring already holds 1,024 handles and no MMA has
run since, the model goes on appending (log 75). -/
def noteRings (h : W64) (t : TaskRun) (s : State) : State :=
  t.mmaOn.foldl (fun s q => updArr q (fun a => { a with ring := if a.ring.contains h then a.ring else a.ring ++ [h] }) s) s

/-- A run's own storage of a version goes, its TSEAL of it is over. -/
def dropBuffer (h : W64) (t : TaskRun) (s : State) : State :=
  let back := (t.buffers.filter fun b => b.1 == h && b.2.1.dev != s.dev).map fun b => b.2.1.dev.val
  let s := back.foldl (fun s d => send (.shard d 0 (.giveBack h)) s) s
  updTask (fun t => { t with buffers := t.buffers.filter (·.1 != h), sealing := none
                             digest := if t.digest.map Prod.fst = some h then none else t.digest }) s

/-- The seal of a version stands: the other member of a pair, which waits in its own TSEAL, goes on (R347). -/
def tellPartner (h : W64) (t : TaskRun) (s : State) : State :=
  match partnerLoc s t with
  | some l =>
    let go (u : TaskRun) : TaskRun := if u.digest.map Prod.fst = some h then { u with sealing := some h } else u
    updLoc l (fun c => { c with task := c.task.map go }) s
  | none => s

/-- A TSEAL completes. -/
def sealDone (h : W64) (t : TaskRun) (s : State) : Act :=
  .done (boundaryDone (addActs (fun x => { x with seals := x.seals ++ [h] }) (dropBuffer h t (noteRings h t s))))

/-- A TSEAL whose seal has been recorded: done for a replayable task, else at REPLICA (R48). -/
def finishSeal (h : W64) (t : TaskRun) (s : State) : Act :=
  if replayPkt t.packet || !servesShard s h then sealDone h t s
  else
    match recOf s h with
    | some r =>
      if r.st = .replica then sealDone h t s
      else if r.st = .failed then sealFault h (dropBuffer h t s)
      else .wait .other s
    | none => sealFault h (dropBuffer h t s)

/-- The bytes of a place, which on another device are asked for once more than the snapshot holds them. -/
def placeBytes (p : Place) (n : Nat) (s : State) : Res (List Byte) :=
  if p.dev = s.dev then
    match s.mem.poisoned p.addr.toNat n with
    | some b => .stop (.trap cECC (tileVa { p with addr := BitVec.ofNat 44 b }) 0 s)
    | none => .ok (s.mem.raw p.addr.toNat n) s
  else readFar 0 (fun g => 2 ^ 62 + g.rdev * 2 ^ 44 + g.pa)
    (fun e g s => .trap (statusCause e) (tileVa { p with addr := BitVec.ofNat 44 (g.pa / 64 * 64) }) 0 s)
    ⟨4, false, p.dev.val, p.addr.toNat, n, none, none, 0, false⟩ s

/-- The depths of some inputs as they are recorded now (R59), those of other shards asked for: how many questions that took. A shard
that is lost with nobody acting for it records none. -/
def withDepths (k : List (W64 × Nat) → Nat → State → Act) : List W64 → Nat → List (W64 × Nat) → State → Act
  | [], i, l, s => k l i s
  | u :: r, i, l, s =>
    match recOf s u, shardDev s u with
    | some v, _ => withDepths k r i (l ++ [(u, v.depth)]) s
    | none, none => withDepths k r i (l ++ [(u, 0)]) s
    | none, some d =>
      if servesShard s u then withDepths k r i (l ++ [(u, 0)]) s
      else askDevice i d (.stat u) (fun a s =>
        withDepths k r (i + 1) (l ++ [(u, match a with | .stat v => bits v 59 56 | _ => 0)]) s) s

/-- The depth of R59 before the bound. -/
def depthOver (inputs : List (W64 × Nat)) : Nat := 1 + (inputs.map Prod.snd).foldl Nat.max 0

/-- DBOUND (R57). -/
def depthBound (s : State) : Nat := bits s.mmio.lincfg 43 40

/-- Records a seal in this device's shard (R44, R48, R59, R324 step 5). -/
def recordSeal (h : W64) (d : W64) (rplay : Bool) (depth : Nat) (s : State) : State :=
  let full := !rplay || depthBound s ≤ depth || s.lin.unmirr
  let s := updRec h (fun r => { r with digest := d, depth := if full then 0 else depth }) s
  settle (setVState h (if full then .replicating else .sealed) s)

/-- The seal leaves for the version's shard (R54), with the inputs' depths; `compare` where the shard compares the digest (R73). -/
def sealFar (i : Nat) (h d : W64) (t : TaskRun) (compare : Bool) (inputs : List (W64 × Nat)) (k : ShardAns → State → Act) (s : State) :
    Act :=
  match shardDev s h with
  | none => sealFault h s
  | some dev => await i 4 (fun u s => send (.seal dev u h d (replayPkt t.packet) compare inputs)
      { s with lin := { s.lin with reqs := (u, dev) :: s.lin.reqs } }) k s

/-- Step 5 of TSEAL, where the version is homed. -/
def sealStep (h d : W64) (t : TaskRun) (s : State) : Act :=
  withDepths (fun inputs i s =>
    let after (s : State) : Act := let s := tellPartner h t (noteRings h t s); finishSeal h t (updTask (fun t => { t with sealing := some h }) s)
    if servesShard s h then after (settled (recordSeal h d (replayPkt t.packet) (depthOver inputs) s))
    else sealFar i h d t false inputs (fun r s => match r with
      | .sealed | .held => after (settled (dropFar h s))
      | r => sealRefused h r s) s) t.decl 0 [] s

/-- The first run's units are tested once a later run matches the record where the first did not (R74). -/
def testFirst (h id : W64) (runs : List DivRun) (s : State) : State :=
  match runs with
  | [r] => if r.digests.any (·.1 == h) then reportTest (coresOfRuns [r]) id s (testCores (coresOfRuns [r]) s) else s
  | _ => s

/-- A recovery run has sealed a version again: a RECOVERING one that its task rebuilds re-seals (R73). -/
def resealed (h : W64) (pool : Option (Fin 1024 × Nat)) (s : State) : State :=
  match recOf s h with
  | some r => if r.st = .recovering ∧ r.rep = none ∧ some (r.pkdev, r.pool) = pool then settle (reseal h s) else s
  | none => s

/-- A re-enqueued instance, or a recovery run, whose digest differs from the record's has diverged (R74). -/
def sealDiverged (h d : W64) (t : TaskRun) (s : State) : Act :=
  let l : Loc := .bank s.me true
  if t.kind = .recovery then .left (divergeRecovery l t s.me [(h, d)] s)
  else match divergeRequeued l t s.me [(h, d)] s with
    | some s => .left s
    | none =>
      -- judged non-deterministic
      let s := event 3 3 wholeDevice t.handle h s
      let s := (actsOf s t).allocs.foldl (fun s v => match recOf s v with
        | some r => if r.st = .sealed then requestReplica v s else s
        | none => if servesShard s v then s else tell v (.repl v false) s) s
      .left (failRun l (killRec t cSEAL 0) s)

/-- The comparison of R73 and R345 in place of step 5, at the version's shard. A version trimmed since is not compared. -/
def compareSeal (h d : W64) (t : TaskRun) (s : State) : Act :=
  let q := t.recov.bind fun id => s.lin.rtasks.find? (·.id == id)
  let runs := if t.kind = .recovery then (q.map (·.runs)).getD [] else divRuns s t
  let fin (s : State) : Act := sealDone h t (tellPartner h t (testFirst h t.info.id runs s))
  if servesShard s h then
    match recOf s h with
    | none => fin s
    | some r => if d = r.digest then fin (resealed h (if t.kind = .recovery then t.prior.pool else none) s) else sealDiverged h d t s
  else sealFar 0 h d t true [] (fun r s => match r with
    | .sealed => fin (settled (if t.kind = .recovery then dropFar h s else s))
    | _ => sealDiverged h d t (settled s)) s

/-- Whether a member of a pair seals a version for both: the one that writes the recorded storage. -/
def leads (h : W64) (low : Bool) (t u : TaskRun) : Bool :=
  match t.buffers.any (·.1 == h), u.buffers.any (·.1 == h) with
  | false, true => true
  | true, false => false
  | _, _ => low

/-- The seal of one member of a pair: it waits for the other's digest and compares (R324 step 4); the member that writes the recorded
storage then goes on for both. -/
def pairSeal (h d : W64) (t : TaskRun) (k : State → Act) (s : State) : Act :=
  match partnerTask s t, t.pair with
  | some u, some (_, low) =>
    let s := updTask (fun t => { t with digest := some (h, d) }) s
    (match u.digest with
     | some (v, e) =>
       if v ≠ h then .wait .other s
       else if e ≠ d then .left (pairMismatch (.bank s.me true) t s.me s)
       else if leads h low t u then k s
       else .wait .other s
     | none => .wait .other s)
  | _, _ => k s

/-- TSEAL (R324). -/
def tsealBody (a : Fin 32) (s : State) : Act :=
  withTask (fun t =>
    let h := sget s.cx a
    if t.sealing == some h then finishSeal h t s
    else if !(actsOf s t).allocs.contains h || (t.kind == .recovery && t.acts.seals.contains h) then sealFault h s
    else
      let pend := ownPending t h s
      -- compared with the record: every seal of a recovery run, and of a discard buffer
      let compare := t.kind == .recovery || (t.buffers.any (·.1 == h) && !pend)
      if !compare && !pend then sealFault h s
      else published (fun s =>
        if s.clock < s.cx.fl.skid then .wait .other s
        else match writtenAt t h s with
          | none => sealDone h t s
          | some (p, n) => (placeBytes p n s).bind fun bs s =>
              let d := sealDigest bs
              pairSeal h d t (if compare then compareSeal h d t else sealStep h d t) s) s) s

/-- TSEAL. -/
def execTseal (a : Fin 32) (s : State) : Host.Outcome State Fault Refusal := ctl [a] (tsealBody a) s

/-! ## TREPL, TPIN, TSTAT (R325 to R327) -/

/-- TREPL (R325). -/
def treplBody (a : Fin 32) (wait : Bool) (s : State) : Act :=
  withTask (fun t =>
    let h := sget s.cx a
    if t.kind = .recovery then .done s
    else if servesShard s h then
      match recOf s h with
      | none => sealFault h s
      | some r =>
        if r.st = .pending ∨ r.st = .failed then sealFault h s
        else if r.st = .replica then .done s
        else if r.st = .replicating ∨ s.cx.fl.wait = .trepl h then (if wait then .wait (.trepl h) s else .done s)
        else
          let s := settle (requestReplica h s)
          if wait then .wait (.trepl h) s else .done s
    else askShard 0 h (.repl h wait) (fun r s => if r = .held then .done s else sealRefused h r s) s) s

/-- TREPL. -/
def execTrepl (a : Fin 32) (wait : Bool) (s : State) : Host.Outcome State Fault Refusal := ctl [a] (treplBody a wait) s

/-- TPIN (R326). -/
def tpinBody (a : Fin 32) (rel : Bool) (s : State) : Act :=
  withTask (fun t =>
    let h := sget s.cx a
    if t.kind = .recovery then .done s
    else if servesShard s h then
      match pinVersion h rel s with
      | some s => .done (settle s)
      | none => sealFault h s
    else askShard 0 h (.pin h rel) (fun r s => if r = .held then .done s else sealRefused h r s) s) s

/-- TPIN. -/
def execTpin (a : Fin 32) (rel : Bool) (s : State) : Host.Outcome State Fault Refusal := ctl [a] (tpinBody a rel) s

/-- The status of a task handle of this device (R327). -/
def taskStat (s : State) (h : W64) : W64 :=
  match slotOf s h with
  | none => 0
  | some x =>
    let early : Int := ((s.dist.early.find? (·.1 == h)).map fun e => (e.2 : Int)).getD 0
    let count := if x.st = .reserved then -early else x.counter
    let st := match x.st with | .reserved => 1 | .waiting => 2 | .ready => 3 | .running => 4 | .exited => 5
    fields [(st, 60), (wrapInt 32 count, 0)]

/-- CTRL of a version that no shard knows any more (log 114): FAILED, with the other fields free, where the shard that acted for its own is
lost too (R63); a free word where none has acted, which the spec does not state. -/
def lostStat (a : Fin 32) (h : W64) (s : State) : Act :=
  let (k, s) := takeFree s
  let v := Config.unstated k
  .done (wr s a (if shardFailed s h then fields [(7, 60), (bits v 59 0, 0)] else v))

/-- TSTAT (R327). -/
def tstatBody (a b : Fin 32) (task : Bool) (s : State) : Act :=
  let h := sget s.cx b
  let got (r : ShardAns) (s : State) : Act := match r with | .stat v => .done (wr s a v) | _ => lostStat a h s
  if task then
    if bits h 63 54 = s.dev.val then .done (wr s a (taskStat s h))
    else await 0 0 (fun u s => send (.words 0 (bits h 63 54) [BitVec.ofNat 64 u, h]) s) got s
  else if servesShard s h then .done (wr s a (match recOf s h with | some r => ctrlWord s r | none => 0))
  else match shardDev s h with
    | some d => askDevice 0 d (.stat h) got s
    | none => lostStat a h s

/-- TSTAT. -/
def execTstat (a b : Fin 32) (task : Bool) (s : State) : Host.Outcome State Fault Refusal := ctl [b] (tstatBody a b task) s

/-! ## TYIELD and TEXIT (R328, R329) -/

/-- Whether a core has a ready task of at least a priority that it would take under R126. -/
def betterTask (s : State) (core prio : Nat) : Bool :=
  match select s core with | some c => prio ≤ prioW c.w | none => false

/-- TYIELD (R328, R343): the context goes to the die pool with its age once it has halted, as at a pre-emption, and the core selects
again. -/
def tyieldBody (s : State) : Act :=
  withTask (fun t =>
    if freeSaveSlots s = 0 ∨ betterTask s s.me (prioOf t.packet) = false then .done s
    else .left (requestLeave s.me (complete s))) s

/-- TYIELD. -/
def execTyield (s : State) : Host.Outcome State Fault Refusal := ctl [] tyieldBody s

/-- Steps 2 to 5 of TEXIT (R329): the declared counts go, the lease session closes, the streams are unbound, ENERGY joins the launch's
total; the successors in `hs` are to be signalled. -/
def leaveGraph (t : TaskRun) (hs : List W64) (s : State) : State :=
  let s := leaveLease s.me s.cx false (countEnergy t.info.launch s.cx.energy s)
  let s := updTask (fun t => { t with decl := [], exiting := some hs }) s
  settle { s with cx := { s.cx with streams := Vector.replicate 8 none, energy := 0, lease := { s.cx.lease with session := none } } }

/-- Step 6 of TEXIT: the successors are signalled in order, each once its distributor accepts it (R119); then the task has ended. -/
def signalRest (t : TaskRun) : List W64 → State → Act
  | [], s => .left (feed (settle (taskEnded t none 0 (dropRun (.bank s.me true) s))))
  | h :: r, s => signalFrom h (fun s => signalRest t r (settled (updTask (fun t => { t with exiting := some r }) s))) s

/-- The first member of a pair to exit leaves; the other one knows what it has done (R347). -/
def memberExits (t : TaskRun) (s : State) : State :=
  let note (c : Ctx) : Ctx := { c with task := c.task.map fun u => { u with gone := joinActs t.prior t.acts } }
  let s := match partnerLoc s t with | some l => updLoc l note s | none => s
  settle (dropRun (.bank s.me true) (countEnergy t.info.launch s.cx.energy s))

/-- TEXIT (R329). The first member of a pair to exit leaves, and the task ends with the other (log 39). -/
def texitBody (s : State) : Act :=
  withTask (fun t =>
    match t.exiting with
    | some hs => signalRest t hs s
    | none =>
      if t.kind != .recovery && !(pendingOf s t).isEmpty then sealFault 0 s
      else published (fun s =>
        let l : Loc := .bank s.me true
        if t.kind = .recovery then .left (endRecovery l t s.me false s)
        else if (partnerLoc s t).isSome then .left (memberExits t s)
        else
          let hs := exitSuccs s t
          signalRest t hs (leaveGraph t hs (takeSuccs t s))) s) s

/-- TEXIT. -/
def execTexit (s : State) : Host.Outcome State Fault Refusal := ctl [] texitBody s

end Sys2Proof.Machine
end

