-- ==== Sys2Proof/Machine/Sys.lean ====
section
/-! DEFINITION. The system words (R355 to R363, R404, R416 to R421): privileged, in program order in the control engine. -/

namespace Sys2Proof.Machine

/-! ## Shared -/

/-- A system word (R355): PRIVILEGE in user mode, ILLEGAL in a replayable task. -/
def sysWord (rs : List (Fin 32)) (body : State → Act) (s : State) : Host.Outcome State Fault Refusal :=
  if !s.cx.pr.priv then .next (finish s (.trap cPRIVILEGE s.cx.pc 0 s))
  else if replayable s then .next (finish s (illegal s.cx.pc s))
  else ctl rs body s

/-- `n` bytes of key material or of a descriptor (R355): PAGE_PERM where high bits are set, ILLEGAL outside the task's
part of the local window; behind earlier words that write them (R18). -/
def windowBytes (b : W64) (n : Nat) (wr : Bool) (s : State) : Res (List Byte) :=
  let (lo, hi) := spadPart (ctxSpad s.cx)
  let a := b.toNat
  if 2 ^ 52 ≤ a then .stop (.trap cPERM b 0 s)
  else if a < lo ∨ hi < a + n then .stop (illegal s.cx.pc s)
  else if ctlFenced s || spadHeld s a n wr then .stop (.wait .other s)
  else .ok (s.mem.raw (spadBase s.me + a) n) s

/-- Word `k` of some bytes. -/
def winWord (bs : List Byte) (k : Nat) : W64 := BitVec.ofNat 64 (natOf ((bs.drop (8 * k)).take 8))

/-! ## SRET, SMOVC, SMOVCR (R337, R356) -/

/-- SRET. -/
def execSret (s : State) : Host.Outcome State Fault Refusal := sysWord [] sretBody s

/-- SMOVC (R356): acts as MOVC does, on every assigned number. -/
def execSmovc (a : Fin 32) (n : BitVec 8) (s : State) : Host.Outcome State Fault Refusal :=
  sysWord [a] (fun s =>
    if n = 2 && regPending 2 s then .wait .other s
    else
      let v := sget s.cx a
      if 0x80 ≤ n.toNat then
        match writePriv n.toNat v s with
        | some s => .done s
        | none => illegal s.cx.pc s
      else match writeUser n.toNat v s with
        | some (some s) => .done s
        | _ => illegal s.cx.pc s) s

/-- SMOVCR (R356). -/
def execSmovcr (d : Fin 32) (n : BitVec 8) (s : State) : Host.Outcome State Fault Refusal :=
  sysWord [] (fun s =>
    if 0x80 ≤ n.toNat then
      match readPriv n.toNat s with
      | some v => .done (wr s d v)
      | none => illegal s.cx.pc s
    else if regPending n.toNat s then .wait .other s
    else match readUser n.toNat s with
      | some (v, s) => .done (wr s d v)
      | none => illegal s.cx.pc s) s

/-! ## CTXSAVE and CTXLOAD (R357) -/

/-- The image slot at an address: 4 MiB aligned and in HBM-P; its physical address. -/
def imageSlot (b : W64) (perm : Perm) (s : State) : Res Nat :=
  if b.toNat % 2 ^ 22 ≠ 0 then .stop (.trap cALIGN b 0 s)
  else (access 0 (.ctl 8) perm b.toNat (2 ^ 22) s).andThen fun gs s =>
    match gs.find? (·.ty != 1), gs with
    | some g, _ => .stop (.trap cPERM (BitVec.ofNat 64 g.va) 0 s)
    | none, g :: _ => .ok g.pa s
    | none, [] => .stop (.trap cPERM b 0 s)

/-- CTXSAVE. A lease that the context kept ends, as at any save (R125, R341). The length is below the limit of R342; the layout does not
say which it is. Only a preloaded task that has never started goes back to the deque. -/
def ctxsaveBody (a b : Fin 32) (s : State) : Act :=
  (imageSlot (sget s.cx b) .wr s).bind fun pa s =>
    match s.co.standby with
    | none => .done (wr s a 0)
    | some c =>
      if (match c.task with | some t => t.started.isNone | none => false) then .done (wr (unloadStandby s.me s) a 0)
      else
        let s := leaveLease s.me c false s
        let c := s.co.standby.getD c
        let c := { c with task := c.task.map fun t => { t with preload := false } }
        let (_, s) := writeImage s c s.me pa true
        let (k, s) := takeFree s
        .done (wr { s with co := { s.co with standby := none } } a (BitVec.ofNat 64 (2 + Config.imageLength k % (2 ^ 22 - 1))))

/-- CTXSAVE. -/
def execCtxsave (a b : Fin 32) (s : State) : Host.Outcome State Fault Refusal := sysWord [b] (ctxsaveBody a b) s

/-- CTXLOAD: an image is restored only once; what waits for its restore elsewhere goes. The context then waits in the standby bank to be
selected (R126). The image of an ASID that is not BOUND fails its task (R422). Into a bank out of service nothing is read (log 109). -/
def ctxloadBody (a b : Fin 32) (s : State) : Act :=
  (imageSlot (sget s.cx b) .rd s).bind fun pa s =>
    if s.co.standby.isSome || bankOut s s.me (!s.co.bank) then .done (wr s a 1)
    else match s.dist.images.find? (·.addr == pa) with
      | none => .done (wr s a 2)
      | some i =>
        let s := purgeWaiting (fun w => w.image != some i.id) s
        if !versionKnown s i.addr then .done (wr (imageLost i.id s) a 2)
        else if !imageReadable s i.id then .done (wr (imageLost i.id s) a 3)
        else if !asidBound s i.ctx.pr.asid then
          let (k, s) := takeFree s
          .done (wr (match i.ctx.task with
            | some t => failRun (.image i.id) (killRec t cASID 0) s
            | none => s) a (Config.unstated k))
        else if !restorable i.ctx s then .wait .other s
        else
          let s := { s with dist := { s.dist with images := s.dist.images.filter (·.id != i.id) } }
          let s := putSpad s.me i.spad (ctxSpad i.ctx) s
          let (c, s) := reissue (deliverAll i.ctx) s
          let c := { c with task := c.task.map fun t => { t with preload := true } }
          .done (wr { s with co := { s.co with standby := some (refresh c s.mem) } } a 0)

/-- CTXLOAD. -/
def execCtxload (a b : Fin 32) (s : State) : Host.Outcome State Fault Refusal := sysWord [b] (ctxloadBody a b) s

/-! ## TLBINV (R358, R416) -/

/-- Drops the cached translations of an ASID that meet a range of bytes, with the pointers on the range's path, or all of them, from every
cache of the device (R416). -/
def dropTlb (asid : BitVec 16) (range : Option (Nat × Nat)) (s : State) : State :=
  let leaf (e : TlbEnt) : Bool := e.asid == asid && (match range with
    | none => true
    | some (b, c) => e.page ≤ (b + c - 1) / 2 ^ 16 && b / 2 ^ 16 < e.page + e.pages)
  let ptr (p : PtrEnt) : Bool := p.asid == asid && (match range with
    | none => true
    | some (b, c) => ptrIx p.lvl b ≤ p.ix && p.ix ≤ ptrIx p.lvl (b + c - 1))
  { s with xl := { s.xl with tlb := s.xl.tlb.filter (!leaf ·), ptrs := s.xl.ptrs.filter (!ptr ·) } }

/-- Whether a context of an ASID has an access to another device or a host that is not answered, or one that has ended left some. -/
def farAccess (s : State) (asid : BitVec 16) : Bool :=
  s.xl.orphans.any (·.1 == asid) || ((banks s).map (·.2.2) ++ s.dist.images.map (·.ctx)).any fun c =>
    c.pr.asid == asid && (!c.fl.unacked.isEmpty || c.fl.reqs.any (·.err.isNone) || c.fl.loads.any (·.got.isNone))

/-- The other devices of an ASID's holder mask that are not lost (R421). -/
def holders (s : State) (b : AsidEnt) : List Nat :=
  (List.range 1024).filter fun d => b.mask.getLsbD d && d != s.dev.val && !devLost s d

/-- Sends a shootdown to holders, and counts their acknowledgements as outstanding: of a range of bytes, or at ASIDRET. -/
def shootdown (asid : BitVec 16) (range : Option (Nat × Nat)) (ds : List Nat) (s : State) : State :=
  let ws : List W64 := [asid.setWidth 64, match range with | some (b, _) => BitVec.ofNat 64 b | none => 0,
    match range with | some (_, c) => BitVec.ofNat 64 c | none => 0]
  let s := ds.foldl (fun s d => send (.words 6 d ws) s) s
  { s with xl := { s.xl with asids := s.xl.asids.map fun b => if b.asid = asid then { b with acks := b.acks ++ ds } else b } }

/-- An access that its task has left behind has been performed, or will not be. -/
def dropOrphan (tag : Nat) (s : State) : State :=
  { s with xl := { s.xl with orphans := s.xl.orphans.filter (·.2 != tag) } }

/-- TLBINV: it completes once every access under the dropped translations has been answered, and with POD once the
holders have acknowledged. -/
def tlbinvBody (a b c : Fin 32) (all pod : Bool) (s : State) : Act :=
  let x := sget s.cx a; let va := (sget s.cx b).toNat; let n := (sget s.cx c).toNat
  if 2 ^ 16 ≤ x.toNat ∨ (!all && (n == 0 || 2 ^ 52 < n || 2 ^ 52 < va + n)) then illegal s.cx.pc s
  else
    let asid : BitVec 16 := x.setWidth 16
    let range := if all then none else some (va, n)
    let s := dropTlb asid range s
    let own : State → Act := fun s => if farAccess s asid then .wait s.cx.fl.wait s else .done s
    match bindOf s.xl asid, s.cx.fl.wait with
    | some e, .shard u =>
      if !e.acks.isEmpty || farAccess s asid then .wait (.shard u) s else .done s
    | some e, _ =>
      let ds := holders s e
      if pod && !ds.isEmpty && !chanUp s 6 then starved s
      else if pod && !ds.isEmpty then
        let (u, s) := takeUid s
        .wait (.shard u) (shootdown asid (some (range.getD (0, 2 ^ 52))) ds s)
      else own s
    | none, _ => own s

/-- TLBINV. -/
def execTlbinv (a b c : Fin 32) (all pod : Bool) (s : State) : Host.Outcome State Fault Refusal :=
  sysWord [a, b, c] (tlbinvBody a b c all pod) s

/-! ## ASIDBIND and ASIDRET (R362, R420, R421) -/

/-- ASIDBIND. -/
def asidbindBody (a b : Fin 32) (s : State) : Act :=
  let asid : BitVec 16 := (sget s.cx a).setWidth 16
  if asid = 0 then illegal s.cx.pc s
  else (windowBytes (sget s.cx b) 32 false s).bind fun bs s =>
    let root := winWord bs 0; let tv := winWord bs 1; let hm := winWord bs 2
    let p := root.toNat
    if 2 ^ 44 ≤ p ∨ 2 ^ 52 ≤ tv.toNat ∨ bits hm 62 52 ≠ 0 ∨ winWord bs 3 ≠ 0 ∨ p % 8192 ≠ 0
        ∨ !(inHbm s.mem.partU p || inHbmP s.mem.partU p) then illegal s.cx.pc s
    else (windowBytes (BitVec.ofNat 64 (bits hm 51 0)) 128 false s).bind fun ms s =>
      if (bindOf s.xl asid).isSome then .trap cASID s.cx.pc 0 s
      else
        let e : AsidEnt := ⟨asid, false, p, BitVec.ofNat 1024 (natOf ms), tv, hm.getLsbD 63, [], 0⟩
        .done { s with xl := { s.xl with asids := e :: s.xl.asids } }

/-- ASIDBIND. -/
def execAsidbind (a b : Fin 32) (s : State) : Host.Outcome State Fault Refusal := sysWord [a, b] (asidbindBody a b) s

/-- The fault queue: its address, TAIL, HEAD and capacity; none where FQCFG names none or a bad descriptor (R418). -/
def faultQueue (s : State) : Option (Nat × Nat × Nat × Nat) :=
  let pa := bits s.mmio.fqcfg 43 4 * 16
  let hi := if inHbm s.mem.partU pa then (120 - s.mem.partU) * gib4
    else if inHbmP s.mem.partU pa then 2 ^ 40 + s.mem.partU * gib4 / 8 * 7
    else if inCommons pa then 0x20010000000 else 0
  if pa = 0 then none
  else match unitRead s.mem none pa 16 with
    | .inr _ => none
    | .inl d => (queueDesc d pa hi).map fun q => (pa, q)

/-- The unread records of an ASID leave the fault queue (R421); the others keep their order. -/
def purgeRecords (asid : BitVec 16) (s : State) : State :=
  match faultQueue s with
  | none => s
  | some (pa, tail, head, cap) =>
    let at_ (i : Nat) : Nat := pa + 16 + 8 * (i % cap)
    let n := Nat.min cap ((tail + 2 ^ 32 - head) % 2 ^ 32)
    let recs := (List.range n).map fun i => natOf (s.mem.read none (at_ (head + i)) 8)
    let kept := recs.filter fun r => r / 2 ^ 48 != asid.toNat
    if kept.length = n then s
    else
      let m := kept.zipIdx.foldl (fun m x => m.write none (at_ (head + x.2)) (bytesOf 8 x.1)) s.mem
      { s with mem := m.write none (pa + 4) (bytesOf 4 ((head + kept.length) % 2 ^ 32)) }

/-- A retiring ASID whose holders have all acknowledged becomes FREE (R421). -/
def freeAsid (asid : BitVec 16) (s : State) : State :=
  { s with xl := { s.xl with asids := s.xl.asids.filter fun b => !(b.asid == asid && b.retiring && b.acks.isEmpty) } }

/-- ASIDRET's effect. -/
def retireAsid (asid : BitVec 16) (s : State) : State :=
  match bindOf s.xl asid with
  | none => s
  | some b =>
    let s := dropTlb asid none s
    let ws := s.xl.waiters.filter (·.asid == asid)
    let s := { s with xl := { s.xl with
      waiters := s.xl.waiters.filter (·.asid != asid)
      asids := s.xl.asids.map fun e => if e.asid = asid then { e with retiring := true, since := s.clock } else e } }
    let s := ws.foldl (fun s w => w.who.foldl (fun s x => answerWaiter .refuseAbsent x s) s) s
    let s := purgeRecords asid s
    freeAsid asid (shootdown asid none (holders s b) s)

/-- ASIDRET. -/
def asidretBody (a : Fin 32) (s : State) : Act :=
  let asid : BitVec 16 := (sget s.cx a).setWidth 16
  if asid = 0 then illegal s.cx.pc s
  else match bindOf s.xl asid with
    | none => .trap cASID s.cx.pc 0 s
    | some e =>
      if (banks s).any fun b => b.2.2.pr.asid == asid then .trap cASID s.cx.pc 0 s
      else if !e.retiring && !(holders s e).isEmpty && !chanUp s 6 then starved s
      else .done (if e.retiring then s else retireAsid asid s)

/-- ASIDRET. -/
def execAsidret (a : Fin 32) (s : State) : Host.Outcome State Fault Refusal := sysWord [a] (asidretBody a) s

/-! ## Memory keys, ownership, link keys (R363, R404, R417) -/

/-- KEYLD: an ID that already holds a key is ILLEGAL; the source is zeroed. -/
def keyldBody (a b : Fin 32) (s : State) : Act :=
  let id := (sget s.cx a).toNat
  if 1024 ≤ id ∨ (assoc s.xl.keys id).isSome then illegal s.cx.pc s
  else (windowBytes (sget s.cx b) 64 true s).bind fun bs s =>
    .done { s with
      xl := { s.xl with keys := (id, BitVec.ofNat 512 (natOf bs)) :: s.xl.keys }
      mem := s.mem.write none (spadBase s.me + (sget s.cx b).toNat) (List.replicate 64 0) }

/-- KEYLD. -/
def execKeyld (a b : Fin 32) (s : State) : Host.Outcome State Fault Refusal := sysWord [a, b] (keyldBody a b) s

/-- KEYINV: accesses of this device under the key are performed at once, so none is in flight. -/
def keyinvBody (a : Fin 32) (s : State) : Act :=
  .done { s with xl := { s.xl with keys := s.xl.keys.filter (·.1 != bits (sget s.cx a) 9 0) } }

/-- KEYINV. -/
def execKeyinv (a : Fin 32) (s : State) : Host.Outcome State Fault Refusal := sysWord [a] (keyinvBody a) s

/-- Puts an entry of the ownership table in its place, in the order of the entries' numbers. -/
def artInsert (e : ArtEnt) : List ArtEnt → List ArtEnt
  | [] => [e]
  | x :: r => if e.ix < x.ix then e :: x :: r else if e.ix = x.ix then e :: r else x :: artInsert e r

/-- ARTSET (R417). An entry whose V is 0 covers nothing. -/
def artsetBody (a b : Fin 32) (s : State) : Act :=
  let ix := (sget s.cx a).toNat
  if 4096 ≤ ix then illegal s.cx.pc s
  else (windowBytes (sget s.cx b) 16 false s).bind fun bs s =>
    let x := winWord bs 0; let y := winWord bs 1
    let base := bits x 51 16; let last := bits y 51 16
    if bits x 62 52 ≠ 0 ∨ bits y 53 52 ≠ 0 ∨ bits y 15 0 ≠ 0 ∨ last < base ∨ base < 0x20 then illegal s.cx.pc s
    else
      let e : ArtEnt := ⟨ix, base, last, x.setWidth 16, Fin.ofNat 1024 (bits y 63 54)⟩
      let art := if x.getLsbD 63 then artInsert e s.xl.art else s.xl.art.filter (·.ix != ix)
      .done { s with xl := { s.xl with art := art } }

/-- ARTSET. -/
def execArtset (a b : Fin 32) (s : State) : Host.Outcome State Fault Refusal := sysWord [a, b] (artsetBody a b) s

/-- The next send key of a station; an exhausted station sends again under it (R404, R405). -/
def nextSend (k : BitVec 256) (t : Station) : Station := { t with nextTx := some k, exh := false }

/-- The next receive key of a station: a group of toggled phase that is held for it passes under it (R404). -/
def nextReceive (k : BitVec 256) (t : Station) : Station :=
  if t.heldKey.isSome then { t with rx := some k, nextRx := none, heldKey := none } else { t with nextRx := some k }

/-- LINKKEY (R363, R404): 24 stations. A station that can send again may carry the groups that found no plane (R405). -/
def linkkeyBody (a b : Fin 32) (s : State) : Act :=
  let x := (sget s.cx a).toNat
  if 64 ≤ x ∨ 24 ≤ (x % 32) then illegal s.cx.pc s
  else (windowBytes (sget s.cx b) 32 false s).bind fun bs s =>
    let k : BitVec 256 := BitVec.ofNat 256 (natOf bs)
    match s.fab.st[x % 32]? with
    | some t =>
      .done (retryFrozen { s with fab := { s.fab with st := s.fab.st.set! (x % 32) (if x < 32 then nextSend k t else nextReceive k t) } })
    | none => illegal s.cx.pc s

/-- LINKKEY. -/
def execLinkkey (a b : Fin 32) (s : State) : Host.Outcome State Fault Refusal := sysWord [a, b] (linkkeyBody a b) s

/-! ## QUAR, PWRCAP, IDLE, MCACK (R359 to R361) -/

/-- QUAR (R359, R438): the word has completed before its own core may be vacated (R340). -/
def quarBody (a : Fin 32) (rel : Bool) (s : State) : Act :=
  let u : BitVec 16 := (sget s.cx a).setWidth 16
  if !unitOk u then illegal s.cx.pc s
  else
    let s := event 1 3 u (if rel then 1 else 0) 0 (complete s)
    .left (if rel then unquarantine u s else quarantine u s)

/-- QUAR. -/
def execQuar (a : Fin 32) (rel : Bool) (s : State) : Host.Outcome State Fault Refusal := sysWord [a] (quarBody a rel) s

/-- PWRCAP (R360). -/
def pwrcapBody (a b : Fin 32) (s : State) : Act :=
  let x := sget s.cx a; let y := sget s.cx b
  if 8 ≤ y.toNat then illegal s.cx.pc s
  else
    let w := s.mmio.pwrcfg
    let s := updMmio (fun m => { m with pwrcfg := fields [(clampCap (bits x 15 0), 32), (bits w 21 16, 16), (bits w 7 0, 0)] }) s
    .done { s with pow := s.pow.map fun d => { d with ext := y.toNat } }

/-- PWRCAP. -/
def execPwrcap (a b : Fin 32) (s : State) : Host.Outcome State Fault Refusal := sysWord [a, b] (pwrcapBody a b) s

/-- Whether a core could take or steal a ready task of its die (R361). -/
def couldTake (s : State) (core : Nat) : Bool :=
  (select s core).isSome || (match victimOf s core with | some n => dieOf n == dieOf core | none => false)

/-- What ends an IDLE (R361). -/
def idleOver (s : State) : Bool :=
  s.cx.pr.intpend &&& s.cx.pr.intmask != 0 || couldTake s s.me || s.co.preempt

/-- IDLE (R361). -/
def execIdle (s : State) : Host.Outcome State Fault Refusal :=
  sysWord [] (fun s => if idleOver s then .done s else .wait .idle s) s

/-- MCACK (R361). -/
def execMcack (s : State) : Host.Outcome State Fault Refusal :=
  sysWord [] (fun s =>
    let d := dieOf s.me
    .done { s with mcq := match s.mcq[d]? with
      | some q => s.mcq.set! d { q with recs := q.recs.drop 1 }
      | none => s.mcq }) s

end Sys2Proof.Machine
end

