-- ==== Sys2Proof/Machine/EvCore.lean ====
section
/-! DEFINITION. The events of a core: answers of loads and atomics (R95, R192), streams (R23, R301), page faults and bank
switches (R27, R28, R315), barriers (R11, R87), trap entry and interrupts (R334 to R338, R350), pre-emption and restore
(R340 to R344), machine checks (R354). An event whose occasion has passed has no effect. -/

namespace Sys2Proof.Machine

/-! ## Answers (R95, R192) and streams (R23, R301) -/

/-- Applies an operation to both banks of a core. -/
def onBanks (core : Nat) (f : Ctx → Ctx) (s : State) : State :=
  let (c, k) := coreOf s core
  setCore s core (f c, { k with standby := k.standby.map f })

/-- What came back under a tag reaches the registers of the word that asked. -/
def answered (core tag : Nat) (s : State) : State :=
  onBanks core (fun c => match c.fl.loads.find? fun l => l.tag == tag && !isOpk l.ins with
    | some l => deliverLoad l c
    | none => c) s

/-- LOAD_RESPONSE (R192). -/
def execLoadResponse (s : State) : Host.Outcome State Fault Refusal :=
  match s.now with
  | some (.loadResponse core k) => .next (answered core k s)
  | _ => .next s

/-- ATOMIC_RESPONSE (R95). -/
def execAtomicResponse (s : State) : Host.Outcome State Fault Refusal :=
  match s.now with
  | some (.atomicResponse core k) => .next (answered core k s)
  | _ => .next s

/-- What a fetch has brought of a stream's element before a fault stays: the beats, and what they have read. -/
def keepFetched (q : Fin 8) (s t : State) : State :=
  { s with free := t.free, cx := { s.cx with streams := s.cx.streams.set q t.cx.streams[q], fl := { s.cx.fl with snap := t.cx.fl.snap } } }

/-- A stream in memory fetches one element ahead while its buffer has room; a fault is left to the read (R301). -/
def fetchAhead (q : Fin 8) (s : State) : State :=
  match s.cx.streams[q] with
  | none => s
  | some b =>
    if (b.kind == .scalar || b.kind == .row) && b.fetched < b.count && b.buf.length < bufferSize b.kind then
      match fetchElem q b s with
      | .ok x t => setStream q (some { b with fetched := b.fetched + 1, buf := b.buf ++ [x], part := [] }) t
      | .stop (.wait _ t) => t
      | .stop (.trap _ _ _ t) => keepFetched q s t
      | .stop (.absent _ _ _ t) => keepFetched q s t
      | .stop _ => s
    else s

/-- STREAM_DELIVERY (R23). -/
def execStreamDelivery (s : State) : Host.Outcome State Fault Refusal :=
  match s.now with
  | some (.streamDelivery core q) => .next (onCore core (fetchAhead q) s)
  | _ => .next s

/-! ## Draining (R334) -/

/-- Whether the moving context has drained: the words that have issued or stand before the faulting one have completed, their reads have
answered, and their stores have left the device. -/
def drained (s : State) : Bool :=
  !(s.cx.fl.pend.any fun e => !e.retained && !holdsControl e.ins && drainAllows s e) && s.cx.fl.loads.isEmpty && storesLeft s s.cx

/-- Whether nothing of the moving context is in flight: every word that has issued has completed, as before a bank switch that no fault of
its own brings (R27, R90). -/
def quiet (s : State) : Bool :=
  !(s.cx.fl.pend.any fun e => !e.retained && !holdsControl e.ins && (e.issued || e.begun)) && s.cx.fl.loads.isEmpty && storesLeft s s.cx

/-! ## Page faults and bank switches (R27, R28, R315, R333) -/

/-- The word of the other member of a pair that stands where a faulting one does, at its count: none where the member has not come to it. -/
def sameWord (c : Ctx) (p : PFault) (d : Ctx) : Option (Option Nat) :=
  match p.quid with
  | none => if d.pc = c.pc ∧ d.retired = c.retired then some none else none
  | some u =>
    (c.fl.pend.find? (·.uid == u)).bind fun e =>
      (d.fl.pend.find? fun x => x.pc == e.pc && x.queue == e.queue && !x.retained).map fun x => some x.uid

/-- A refusal that one member of a pair has had holds for the other one too, where that has halted before the same word (R349). -/
def tellMember (c : Ctx) (p : PFault) (d : Ctx) : Ctx :=
  if d.fl.pf.isSome || d.fl.drain.isSome then d
  else match sameWord c p d with
    | some w => { d with fl := { d.fl with pf := some { p with quid := w } } }
    | none => d

/-- An answer reaches the context whose fault it was, and the other member of a pair for its own fault on the page (R349). -/
def answerFault (uid : Nat) (ans : FaultAns) (s : State) : State :=
  let mine := (locsOf s).find? fun l => match (ctxAt s l).bind (·.fl.pf) with | some p => p.uid == uid | none => false
  match mine, mine.bind (ctxAt s) with
  | some l, some c =>
    (match c.fl.pf with
     | none => s
     | some p =>
       let told : PFault := { p with answer := some ans, since := s.clock }
       let s := updLoc l (fun c => { c with fl := { c.fl with pf := some told } }) s
       let other (d : Ctx) : Ctx :=
         match d.fl.pf with
         | some q => if q.asid = p.asid ∧ q.page = p.page then { d with fl := { d.fl with pf := some { q with answer := some ans, since := s.clock } } } else d
         | none => d
       match c.task.bind (partnerLoc s) with
       | some m => updLoc m other s
       | none => s)
  | _, _ => s

/-- FAULT_ANSWER (R333). -/
def execFaultAnswer (s : State) : Host.Outcome State Fault Refusal :=
  match s.now with
  | some (.faultAnswer uid ans) => .next (answerFault uid ans s)
  | _ => .next s

/-- NOPREEMPT-LEASE of a context's task. -/
def keepsLease (c : Ctx) : Bool := match c.task with | some t => pflag t.packet 15 | none => false

/-- The outgoing context's lease at a bank switch (R28): a gang's stays only where all four tasks keep theirs. -/
def switchLease (core : Nat) (c : Ctx) (s : State) : State :=
  let all := (List.range 4).all fun i =>
    let (x, k) := coreOf s (4 * quadOf core + i)
    keepsLease (if x.lease.held then x else k.standby.getD x)
  leaveLease core c (keepsLease c && (!c.lease.gang || all)) s

/-- Whether the other bank of a core is out of service (R359), or holds a PAIR task that has no second core (R39): the core stays in its
bank. -/
def switchBarred (core : Nat) (s : State) : Bool :=
  let k := (coreOf s core).2
  bankOut s core (!k.bank) || (match k.standby with
    | some d => preloaded d && (match d.task with | some t => !standbyMay s core (waitingOf t none) | none => false)
    | none => false)

/-- The active context and the one of the standby bank exchange places (R27); a waiting arrival is withdrawn (R215). A
preloaded task starts. -/
def pageSwitch (core : Nat) (s : State) : State :=
  if switchBarred core s then s else
  let (c, _) := coreOf s core
  let s := switchLease core c s
  let s := match c.fl.wait, c.task with
    | .barrier _, some t => updLoc (.bank core true) (fun c => { c with fl := { c.fl with wait := .none } }) (withdrawArrival t s)
    | _, _ => s
  match (coreOf s core).2.standby with
  | some d => if preloaded d then enterStandby core s else switchBanks core s
  | none => switchBanks core s

/-- Whether a bank switch may be made now: nothing is being drained. -/
def switchable (c : Ctx) : Bool := c.task.isSome && c.fl.drain.isNone && c.fl.pf.isNone

/-- Whether a context is a member of a pair, which its partner's page fault may have put into the standby bank (R349). -/
def paired (c : Ctx) : Bool := match c.task with | some t => t.pair.isSome | none => false

/-- Whether the context in the standby bank of the moving core is to come back: a faulted one 10 µs after its answer (R27), one that has
given way otherwise as soon as it can run. -/
def backDue (s : State) : Bool :=
  match s.co.standby with
  | some d => !preloaded d && resumable s d && switchable s.cx && (match d.fl.pf with
    | some p => p.since + micros 10 ≤ s.clock
    | none => d.fl.wait != .none || paired d)
  | none => false

/-- The standby bank's context comes back, once nothing of the running one is in flight (R27, R90). -/
def switchBack (s : State) : State := if backDue s && quiet s then pageSwitch s.me s else s

/-- FAULT_SWITCH_BACK_TIMEOUT (R27). -/
def execFaultSwitchBackTimeout (s : State) : Host.Outcome State Fault Refusal :=
  match s.now with
  | some (.faultSwitchBackTimeout core) => .next (onCore core switchBack s)
  | _ => .next s

/-- The instruction at the program counter, where it can be read. -/
def peekInstr (s : State) : Option Instr :=
  match fetchLine (s.cx.pc.toNat / 128 * 128) s with
  | .ok l _ => let j := s.cx.pc.toNat % 128 / 4; (decode (lineWord l j) (lineWord l (j + 1)) (lineWord l (j + 2))).toOption
  | .stop _ => none

/-- The microseconds after which the word in which the control engine waits gives way to the standby bank: 10 for TREADV, TREPL.wait and
CWAIT (R311, R315), none at all for a TEXIT one of whose signals is not accepted yet (R119); none for a word that does not. -/
def yieldAfter (s : State) : Option Nat :=
  match s.cx.fl.wait with
  | .treadv _ | .trepl _ | .cwait _ _ => some 10
  | .early _ => (match s.cx.task with | some t => if t.exiting.isSome then some 0 else none | none => none)
  | .shard _ => (match peekInstr s with
    | some (.treadv _ _) | some (.trepl _ true) => some 10
    | some .texit => some 0
    | _ => none)
  | _ => none

/-- Whether the wait of the moving context has lasted so long that the core gives its other bank the turn, and is not over (R119, R311,
R315); nothing of the context is in flight. -/
def yieldsNow (s : State) : Bool :=
  switchable s.cx && (yieldAfter s).any (fun n => s.cx.fl.waitSince + micros n ≤ s.clock) && !waitOver s s.cx && quiet s

/-- WAIT_BANK_SWITCH (R119, R311, R315). -/
def execWaitBankSwitch (s : State) : Host.Outcome State Fault Refusal :=
  match s.now with
  | some (.waitBankSwitch core) =>
    .next (onCore core (fun s => if yieldsNow s then pageSwitch s.me s else s) s)
  | _ => .next s

/-- CWAIT_STARVED_TIMEOUT (R311): 50 µs after the freeze no plane has its station up at every member. -/
def execCwaitStarvedTimeout (s : State) : Host.Outcome State Fault Refusal :=
  match s.now with
  | some (.cwaitStarvedTimeout core) =>
    .next (onCore core (fun s =>
      match s.cx.fl.pend.find? fun e => holdsControl e.ins && !e.retained with
      | some e =>
        (match e.ins with
         | .cwait a _ =>
           (match memberOf s (groupOf e a) with
            | some m => if m.frozen && m.starved && m.frozenAt + micros 50 ≤ s.clock then settleEntry e (starved s, e.done) else s
            | none => s)
         | _ => s)
      | none => s) s)
  | _ => .next s

/-! ## Barriers (R11, R87) -/

/-- The places whose control engine waits in a barrier. -/
def waitersOf (s : State) (k : Nat) : List Loc :=
  (locsOf s).filter fun l => match ctxAt s l with | some c => c.fl.wait == .barrier k | none => false

/-- Every participant has arrived: each one's BAR completes, with the refresh of R90. Of a .pod barrier with other devices the event itself
says that theirs have arrived too. -/
def completeBarrier (k : Nat) (s : State) : State :=
  match s.dist.barriers.find? (·.k == k) with
  | none => s
  | some b =>
    if b.members.all b.arrived.contains then
      let go (c : Ctx) : Ctx :=
        let c := refresh c s.mem
        { c with pc := c.npc, retired := c.retired + 1, fl := { c.fl with wait := .none } }
      (waitersOf s k).foldl (fun s l => updLoc l go s)
        { s with dist := { s.dist with barriers := s.dist.barriers.filter (·.k != k) } }
    else s

/-- BARRIER_COMPLETE (R87). -/
def execBarrierComplete (s : State) : Host.Outcome State Fault Refusal :=
  match s.now with
  | some (.barrierComplete k) => .next (completeBarrier k s)
  | _ => .next s

/-- Whether a barrier has a timeout, which has run out (R11). -/
def barrierOver (s : State) (b : Barrier) : Bool :=
  (b.scope == .die || b.scope == .pkg || b.scope == .pod) && b.since + micros s.dist.barrierMicros ≤ s.clock

/-- BARRIER_TIMEOUT (R11): every waiting participant of a barrier at .die, .pkg or .pod takes QUEUE; the time begins again for those
that arrive later (log 103). -/
def timeoutBarrier (k : Nat) (s : State) : State :=
  match s.dist.barriers.find? (·.k == k) with
  | none => s
  | some b =>
    if barrierOver s b then
      (waitersOf s k).foldl (fun s l => match l with
        | .bank n true => onCore n (fun s =>
            startTrap { cause := cQUEUE, taddr := s.cx.pc, tepc := s.cx.pc, tnpc := s.cx.pc } s) s
        | _ => s) { s with dist := { s.dist with barriers := s.dist.barriers.map fun x => if x.k = k then { x with since := s.clock } else x } }
    else s

/-- BARRIER_TIMEOUT. -/
def execBarrierTimeout (s : State) : Host.Outcome State Fault Refusal :=
  match s.now with
  | some (.barrierTimeout k) => .next (timeoutBarrier k s)
  | _ => .next s

/-! ## Traps and interrupts (R336, R338, R350) -/

/-- The retired count at which a fault stands: a faulting queue word, which was routed, is counted with it (R222, R350). -/
def faultCount (t : TrapInfo) (c : Ctx) : Nat := c.retired.toNat + (if t.quid.isSome then 1 else 0)

/-- Whether two members of a pair have met the same fault (R350): the same cause and TADDR at the same word. -/
def sameFault (t u : TrapInfo) (c p : Ctx) : Bool :=
  t.cause == u.cause && t.taddr == u.taddr && t.tepc == u.tepc && t.quid.isSome == u.quid.isSome
    && (t.quid.isSome || p.retired == c.retired)

/-- Whether the other member of a pair has the word of a fault still before it: the instruction after those that the faulting member has
retired (R350), or a routed word that has not completed. -/
def wordAhead (t : TrapInfo) (c p : Ctx) : Bool :=
  p.retired.toNat ≤ c.retired.toNat
    || (match t.quid.bind fun u => c.fl.pend.find? (·.uid == u) with
        | some e => p.fl.pend.any fun x => x.pc == e.pc && x.queue == e.queue && !x.retained
        | none => false)

/-- The members of a pair have diverged at a fault that only one of them met (R350): an ECC kills both, anything else is a mismatch. -/
def pairApart (cause : BitVec 8) (t : TrapInfo) (r : TaskRun) (s : State) : State :=
  if cause = cECC then killRun (.bank s.me true) [] (trapRec r.handle t 0) s else pairMismatch (.bank s.me true) r s.me s

/-- The entry of a member of a pair whose trap has drained (R350): it waits until the other has come to the same word; the same fault is
entered by both once both have drained; of two different faults the earlier one is the one that the other member did not meet. -/
def pairTrap (t : TrapInfo) (r : TaskRun) (l : Loc) (s : State) : State :=
  match ctxAt s l, l with
  | some p, .bank n true =>
    (match p.fl.drain with
     | some u =>
       if u.cause = 0 || !drained (focus n s) then s
       else if sameFault t u s.cx p then onCore n enterTrap (enterTrap s)
       else pairApart (if faultCount u p < faultCount t s.cx then u.cause else t.cause) t r s
     | none => if p.fl.pf.isSome || wordAhead t s.cx p then s else pairApart t.cause t r s)
  | _, _ => s

/-- A drained trap is entered. -/
def trapNow (s : State) : State :=
  match s.cx.fl.drain, s.cx.task with
  | some t, some r =>
    if !drained s || s.cx.fl.pf.isSome then s
    else match partnerLoc s r with
      | some l => if t.cause = 0 then enterTrap s else pairTrap t r l s
      | none => enterTrap s
  | _, _ => s

/-- TRAP_ENTRY (R336). -/
def execTrapEntry (s : State) : Host.Outcome State Fault Refusal :=
  match s.now with
  | some (.trapEntry core) => .next (onCore core trapNow s)
  | _ => .next s

/-- Whether a routed word cannot complete before the control engine goes on: it pushes into a full CQ or XQ, or its element has no room
in its stream (R15, R22, R23). -/
def drainStuck (s : State) : Bool :=
  s.cx.fl.pend.any fun e => !e.retained && (heldByFull s e
    || (match boundTo e s with | some (_, b) => bufferSize b.kind ≤ b.buf.length | none => false))

/-- Whether the moving context takes an asynchronous interrupt now (R338): one is pending and enabled, no handler runs, no fault is being
taken, and the routed words, of which none may be retained, can complete first. -/
def interruptible (s : State) : Bool :=
  s.cx.task.isSome && s.cx.pr.intpend &&& s.cx.pr.intmask != 0 && !s.cx.pr.intrap && s.cx.fl.drain.isNone && s.cx.fl.pf.isNone
    && !drainStuck s

/-- ASYNC_INTERRUPT (R338). -/
def execAsyncInterrupt (s : State) : Host.Outcome State Fault Refusal :=
  match s.now with
  | some (.asyncInterrupt core) =>
    .next (onCore core (fun s => if interruptible s then startInterrupt s else s) s)
  | _ => .next s

/-- TIMER_EXPIRY (R331): INTPEND.TIMER. -/
def execTimerExpiry (s : State) : Host.Outcome State Fault Refusal :=
  match s.now with
  | some (.timerExpiry core) =>
    .next (onCore core (fun s =>
      if s.cx.pr.expired then updPriv (fun p => { p with expired := false, intpend := p.intpend ||| 1 }) s else s) s)
  | _ => .next s

/-- IDLE_WAKE (R361): the IDLE that waits completes. -/
def execIdleWake (s : State) : Host.Outcome State Fault Refusal :=
  match s.now with
  | some (.idleWake core) =>
    .next (onCore core (fun s => if s.cx.fl.wait == .idle && idleOver s then complete s else s) s)
  | _ => .next s

/-! ## Pre-emption and restore (R340 to R344, R348) -/

/-- Whether a context can halt for a pre-emption: no trap or page fault is being taken (R339), no MMAG runs, which is let complete
(R275, R340), and its stores have left the device (R341). -/
def haltsNow (s : State) (core : Nat) (c : Ctx) : Bool :=
  c.fl.drain.isNone && c.fl.pf.isNone && !(c.lease.gang && c.lease.held && quadMultiplies s (quadOf core)) && storesLeft s c

/-- Whether the other member of a pair has halted where this one halts (R348), at the same count; one in a standby bank has drained when it
gave way. -/
def partnerHalted (s : State) (c : Ctx) : Bool :=
  match c.task.bind (partnerLoc s) with
  | some (.bank n a) => (match ctxAt s (.bank n a) with
    | some p => (!a || haltsNow s n p) && standsAt p == standsAt c
    | none => true)
  | _ => true

/-- Whether a requested pre-emption can halt now; the members of a pair stand at one retired count (R348). -/
def haltable (s : State) (core : Nat) : Bool :=
  let (c, k) := coreOf s core
  k.preempt && c.task.isSome && haltsNow s core c && partnerHalted s c

/-- A pre-emption request whose task is gone (R339). -/
def dropRequest (core : Nat) (s : State) : State :=
  let (c, k) := coreOf s core
  if c.task.isNone then setCore s core (c, { k with preempt := false, toPool := false }) else s

/-- PRE_EMPTION (R340): into a slot, at need the reserve slot of the core (R343); the core selects again when it
moves. -/
def execPreEmption (s : State) : Host.Outcome State Fault Refusal :=
  match s.now with
  | some (.preEmption core) =>
    .next (let s := dropRequest core s
           if haltable s core then preemptCore core s else s)
  | _ => .next s

/-- CONTEXT_RESTORE (R342, R344): the core's selection is the task of this image. -/
def restoreEvent (core img : Nat) (readable : Bool) (s : State) : State :=
  let (c, k) := coreOf s core
  let free := c.task.isNone && !k.gated && !coreOut s core && (match k.standby with | some d => preloaded d | none => true)
  match (if free then select s core else none) with
  | some x =>
    if x.w.image = some img then
      if readable && imagesReadable s img then takeTask core x s else imageLost img (takeCand core x s)
    else s
  | none => s

/-- CONTEXT_RESTORE. -/
def execContextRestore (s : State) : Host.Outcome State Fault Refusal :=
  match s.now with
  | some (.contextRestore core img readable) => .next (restoreEvent core img readable s)
  | _ => .next s

/-! ## Machine checks (R354) -/

/-- The contexts that a machine check in a unit touches: both banks of its core; for a bank that bank; for an array the
contexts that hold its lease. -/
def touchedBy (u : BitVec 16) (s : State) : List Loc :=
  let v := u.toNat
  let k := v / 8 % 16; let q := 24 * (v / 2 ^ 14) + v / 2 ^ 9 % 32; let n := 4 * q + v / 2 ^ 7 % 4
  let started (l : Loc) : Bool := match (ctxAt s l).bind (·.task) with | some t => t.started.isSome | none => false
  (if k = 10 ∨ k = 11 then []
   else if k = 9 then [Loc.bank n ((coreOf s n).2.bank == (v / 4 % 2 == 1))]
   else if k = 2 then (List.range 4).flatMap fun i => [true, false].filterMap fun a =>
     match ctxAt s (.bank (4 * q + i) a) with | some c => if c.lease.held then some (Loc.bank (4 * q + i) a) else none | none => none
   else [.bank n false, .bank n true]).filter started

/-- The record of a machine check (R354). -/
def mcRecord (u : BitVec 16) (count : Nat) (kind : BitVec 8) : W64 :=
  fields [(u.toNat, 48), (Nat.min count 0xFFFF, 32), (kind.toNat, 24)]

/-- The copies that a killed core has stolen are discarded, a bank's too (R116). -/
def dropStolen (u : BitVec 16) (s : State) : State :=
  let n := 96 * (u.toNat / 2 ^ 14) + 4 * (u.toNat / 2 ^ 9 % 32) + u.toNat / 2 ^ 7 % 4
  if u.toNat / 8 % 16 = 9 then let (c, k) := coreOf s n; setCore s n (c, { k with stolen := [] }) else s

/-- A machine check: the contexts are killed, the unit is quarantined, the record is queued, INTPEND.MCHK is set; the events are the unit's
and then the placement ones (R438). -/
def machineCheckAt (u : BitVec 16) (kind : BitVec 8) (s : State) : State :=
  let d := u.toNat / 2 ^ 14
  let quads := (coresOfUnit u).map quadOf
  let s := (touchedBy u s).foldl (fun s l => match (ctxAt s l).bind (·.task) with
    | some t => killRun l quads (killRec t cKILLED u) s
    | none => s) s
  let us := inService s [u]
  let s := dropStolen u (quarantineQuiet u s)
  match s.mcq[d]? with
  | none => s
  | some q =>
    let r := mcRecord u (q.count + 1) kind
    let recs := if q.recs.length < 16 then q.recs ++ [r]
      else q.recs.mapIdx fun i x => if i + 1 = q.recs.length then x ||| 1 else x
    let s := { s with mcq := s.mcq.set! d { q with recs := recs, count := q.count + 1 } }
    raiseInt (mgmtTargets s [d]) 4 (placementEvents us (event 1 2 u r 0 s))

/-- MACHINE_CHECK (R354). -/
def execMachineCheck (s : State) : Host.Outcome State Fault Refusal :=
  match s.now with
  | some (.machineCheck u kind) => .next (if unitOk u then machineCheckAt u kind s else s)
  | _ => .next s

end Sys2Proof.Machine
end

