-- ==== Sys2Proof/Machine/EvSched.lean ====
section
/-! DEFINITION. The events of scheduling and power: selection, preloading, the dispatchers (R26, R41, R112, R126, R127), the walker
(R34, R35, R121), signals and spawns that arrive (R118, R317), steals (R114 to R117), leases (R123, R124), the governor and the
budgets (R128 to R133), thermal requests (R431), power-gating (R117). An event whose occasion has passed has no effect. -/

namespace Sys2Proof.Machine

/-! ## Selection and preloading (R26, R126) -/

/-- TASK_SELECTION (R126). -/
def execTaskSelection (s : State) : Host.Outcome State Fault Refusal :=
  match s.now with
  | some (.taskSelection core) => .next (selectTask core s)
  | _ => .next s

/-- PRELOAD (R26). -/
def execPreload (s : State) : Host.Outcome State Fault Refusal :=
  match s.now with
  | some (.preload core) => .next (preloadTask core s)
  | _ => .next s

/-! ## The dispatchers (R41, R112, R126, R127) -/

/-- The tasks that wait on a die. -/
def waitingOn (s : State) (die : Nat) : List Waiting :=
  ((List.range 96).flatMap fun i => ((coreOf s (96 * die + i)).2.deque.filter (·.cust == .inDeque)).map (·.w))
    ++ (((s.dist.pools[die]?).getD []).filter (·.cust == .inDeque)).map (·.w)

/-- The highest PRIO of some tasks. -/
def topPrio (l : List Waiting) : Nat := (l.map prioW).foldl Nat.max 0

/-- Where the tasks of a die wait: in its pool, and in the deques of its cores, from the thief end. -/
def waitPlaces (s : State) (die : Nat) : List (Option Nat × DqEntry) :=
  let pool : List (Option Nat × DqEntry) := ((s.dist.pools[die]?).getD []).map (none, ·)
  let deques : List (Option Nat × DqEntry) := (List.range 96).flatMap fun i =>
    (coreOf s (96 * die + i)).2.deque.reverse.map (some (96 * die + i), ·)
  (pool ++ deques).filter (·.2.cust == .inDeque)

/-- Takes a waiting task from its place. -/
def takeFrom (die : Nat) (x : Option Nat × DqEntry) (s : State) : State :=
  match x.1 with
  | none => { s with dist := { s.dist with pools := s.dist.pools.set! die (dropFirst x.2.w ((s.dist.pools[die]?).getD [])) } }
  | some n => let (c, k) := coreOf s n; setCore s n (c, { k with deque := dropFirst x.2.w k.deque })

/-- Whether a free core may run a waiting task and sees none of its priority (R126). -/
def lacks (s : State) (w : Waiting) (n : Nat) : Bool :=
  coreFree s n && !((candidates s n).any fun c => prioW w ≤ prioW c.w) && mayRun s n w

/-- A die other than the one where a task waits that has a free core for it. -/
def betterDie (s : State) (die : Nat) (w : Waiting) : Option Nat :=
  (List.range 4).find? fun d => d != die && dieInService s d && (List.range 96).any fun i => lacks s w (96 * d + i)

/-- The first task of a die, of the highest priority first, that another die's free core lacks moves there (R126). -/
def balance (die : Nat) (s : State) : State :=
  let l := (waitPlaces s die).filter fun x => stealable x.2.w
  let l := (List.range 16).reverse.flatMap fun p => l.filter fun x => prioW x.2.w == p
  match l.findSome? fun x => (betterDie s die x.2.w).map (x, ·) with
  | some (x, d) => pushPool d x.2 (takeFrom die x s)
  | none => s

/-- The PINNED tasks of a die pool whose logical number has moved to a core of another die (R113, R122) go back to the master
distributor. -/
def returnPinned (die : Nat) (s : State) : State :=
  let pool := (s.dist.pools[die]?).getD []
  let away (e : DqEntry) : Bool := e.cust == .inDeque && pinnedPkt e.w.packet && e.w.kind != .recovery
    && (match pinDie s e.w.packet with | some d => d != die | none => false)
  (pool.filter away).foldl (fun s e => pushQueue e.w s)
    { s with dist := { s.dist with pools := s.dist.pools.set! die (pool.filter (!away ·)) } }

/-- DISPATCHER_REPORT (R112): the die's report; the master distributor sends and moves what it can. -/
def report (die : Nat) (s : State) : State :=
  let s := returnPinned die s
  let room := 4096 - ((s.dist.pools[die]?).getD []).length
  feed (balance die { s with dist := { s.dist with reports := s.dist.reports.set! die (room, topPrio (waitingOn s die)) } })

/-- DISPATCHER_REPORT. -/
def execDispatcherReport (s : State) : Host.Outcome State Fault Refusal :=
  match s.now with
  | some (.dispatcherReport die) => .next (report die.val s)
  | _ => .next s

/-- A task that has waited 100 µs in a deque goes to its die pool with its age (R41). -/
def ageTask (h : W64) (s : State) : State :=
  match (liveCores s).findSome? fun n =>
      ((coreOf s n).2.deque.find? fun e => e.w.handle == h && e.cust == .inDeque && aged s e.w).map (n, ·) with
  | some (n, e) =>
    let (c, k) := coreOf s n
    pushPool (dieOf n) e (setCore s n (c, { k with deque := dropFirst e.w k.deque }))
  | none => s

/-- AGEING (R41). -/
def execAgeing (s : State) : Host.Outcome State Fault Refusal :=
  match s.now with
  | some (.ageing h) => .next (ageTask h s)
  | _ => .next s

/-- The tasks that wait in standby banks, each with its core (R26). -/
def preloadedTasks (s : State) : List (Option Nat × Waiting) :=
  (banks s).filterMap fun b => if !b.2.1 && preloaded b.2.2 then b.2.2.task.map fun t => (some b.1, waitingOf t none) else none

/-- A ready task that waits on some die, in the master distributor's queue, or in the standby bank of the core that is given with it. -/
def findWaiting (s : State) (h : W64) : Option (Option Nat × Waiting) :=
  ((((List.range 4).flatMap (waitingOn s)) ++ s.dist.queue).map (none, ·) ++ preloadedTasks s).find? (·.2.handle == h)

/-- The running task that gives way to a ready one (R127): of lower PRIO, on an eligible core of any die, or on the one core whose standby
bank holds the ready task; not asked already; the lowest PRIO first, then the latest started. -/
def victimFor (s : State) (at_ : Option Nat) (w : Waiting) : Option Nat :=
  let ok (b : Nat × Bool × Ctx) : Option (Nat × TaskRun) :=
    match b.2.2.task with
    | some t =>
      if b.2.1 && t.started.isSome && prioOf t.packet < prioW w && !(coreOf s b.1).2.preempt && at_.all (· == b.1) && eligibleFor s b.1 w then some (b.1, t) else none
    | none => none
  let l := (banks s).filterMap ok
  (l.find? fun x => l.all fun y => prioOf x.2.packet < prioOf y.2.packet
    || (prioOf x.2.packet == prioOf y.2.packet && y.2.started.getD 0 ≤ x.2.started.getD 0)).map (·.1)

/-- Marks a core's pre-emption as requested. -/
def requestPreempt (n : Nat) (s : State) : State := let (c, k) := coreOf s n; setCore s n (c, { k with preempt := true })

/-- A pre-emption for priority is requested (R127, R343), of both members of a pair. -/
def preemptFor (h : W64) (s : State) : State :=
  match findWaiting s h with
  | none => s
  | some (at_, w) =>
    if s.clock < w.since + 800 || freeSaveSlots s == 0 || (at_.isNone && (List.range 384).any fun n => coreFree s n && mayRun s n w) then s
    else match victimFor s at_ w with
      | none => s
      | some n =>
        let s := requestPreempt n s
        match (coreOf s n).1.task.bind (partnerLoc s) with
        | some (.bank m true) => requestPreempt m s
        | _ => s

/-- PRIORITY_PREEMPTION_REQUEST (R127). -/
def execPriorityPreemptionRequest (s : State) : Host.Outcome State Fault Refusal :=
  match s.now with
  | some (.priorityPreemptionRequest h) => .next (preemptFor h s)
  | _ => .next s

/-! ## The walker (R34, R35, R121) -/

/-- Whether the walker may issue iterations of a record now (R35, R121). -/
def canIssue (n : Nest) : Bool := !n.failed && n.next < n.total && n.live < 4096

/-- PRIO of a record. -/
def nestPrio (s : State) (n : Nest) : Nat :=
  match s.dist.slots.find? (·.num == n.slot) with | some x => prioOf x.packet | none => 0

/-- The record that a turn of the walker serves: one of higher priority than the record whose turn it would be goes first (R121). -/
def walkFirst (n : Nest) (s : State) : Nest :=
  let l := s.dist.nests.filter canIssue
  (l.find? fun m => nestPrio s n < nestPrio s m && l.all fun k => nestPrio s k ≤ nestPrio s m).getD n

/-- One turn of the walker for a record: at most 64 iterations (R121). -/
def issueTurn (n : Nest) (s : State) : State :=
  match s.dist.slots.find? (·.num == n.slot) with
  | some x =>
    let k := Nat.min 64 (Nat.min (n.total - n.next) (4096 - n.live))
    let ws : List Waiting := (List.range k).map fun i =>
      { readyTask s x with idx := nestIndices x.packet (n.next + i) }
    let s := { s with dist := { s.dist with
      queue := s.dist.queue ++ ws
      nests := s.dist.nests.map fun m => if m.slot = n.slot then { m with next := m.next + k, live := m.live + k } else m } }
    let s := feed s
    if n.next + k < n.total ∧ n.live + k < 4096 then raiseDue (.loopNestWalk n.slot) s else s
  | none => s

/-- A turn of the walker that falls to a record (R34, R35, R121): records of equal priority take turns in the order in which theirs
became due. -/
def walkTurn (slot : Nat) (s : State) : State :=
  match s.dist.nests.find? (·.slot == slot) with
  | some n =>
    if nestDone n then
      match closeNest slot s with
      | (true, s) => s
      | (false, s) => { s with held := s.held ++ [.loopNestWalk slot] }
    else if n.failed then s
    else
      let m := walkFirst n s
      let s := issueTurn m s
      if m.slot = n.slot then s else raiseDue (.loopNestWalk slot) s
  | none => s

/-- LOOP_NEST_WALK (R34). -/
def execLoopNestWalk (s : State) : Host.Outcome State Fault Refusal :=
  match s.now with
  | some (.loopNestWalk slot) => .next (walkTurn slot s)
  | _ => .next s

/-! ## What arrives from other devices (R118, R119, R317) -/

/-- A signal to a handle of this device (R118): one that meets a full early table waits, and none is dropped; the device that sent it hears
of its acceptance where it waits for that (R119, R319). -/
def signalArrives (src : Fin 1024) (tag : Nat) (h : W64) (s : State) : State :=
  if bits h 63 54 ≠ s.dev.val then s
  else match signalHere h s with
    | some s => if tag = 0 then s else send (.answer src.val tag .held) s
    | none => { s with held := s.held ++ [.signalArrival src tag h] }

/-- SIGNAL_ARRIVAL (R118); or another device tells that a task of this device's slot, or of a launch of this device, has ended, or that a
launch of its own is complete (R318). -/
def execSignalArrival (s : State) : Host.Outcome State Fault Refusal :=
  match s.now with
  | some (.signalArrival src tag h) => .next (signalArrives src tag h s)
  | some (.taskEnd h idx fail) => .next (slotDone h idx fail s)
  | some (.launchCount key spawned ended exited fail energy) => .next (launchCounted key spawned ended exited fail energy s)
  | some (.launchClosed key) => .next (freeLaunchSlots key s)
  | _ => .next s

/-- REMOTE_SPAWN (R317): a packet under a reserved handle of this device is published and accepted; any other handle is
refused. The launch has been told of the task by the device that spawned it. -/
def acceptSpawn (src : Fin 1024) (tag : Nat) (p : List W64) (job : SpawnInfo) (s : State) : State :=
  let h := pktHandle p
  let ok : Bool := match slotOf s h with | some x => x.st == .reserved | none => false
  send (.answer src.val tag (if ok then .held else .refused)) (if ok then publish h p job none s else s)

/-- REMOTE_SPAWN; or a killed task of this device comes back from the one that ran it (R345). -/
def execRemoteSpawn (s : State) : Host.Outcome State Fault Refusal :=
  match s.now with
  | some (.remoteSpawn src tag p job) => .next (acceptSpawn src tag p job s)
  | some (.taskBack w avoid) => .next (feed (settle (takeBack w avoid s)))
  | _ => .next s

/-! ## Steals (R114 to R117) -/

/-- The custody state that a steal's entry stands in. -/
def entryIn (s : State) (cu : Custody) : Option DqEntry := (allEntries s).find? (·.cust == cu)

/-- A steal is over. -/
def dropSteal (sid : Nat) (s : State) : State := { s with dist := { s.dist with steals := s.dist.steals.filter (·.1 != sid) } }

/-- A task goes back to the thief end of its deque with its age (R115); from the pool of a die out of service it goes on to the
master distributor (R359). -/
def reinstate (cu : Custody) (s : State) : State :=
  let s := mapEntries (fun l => l.filter (·.cust != cu) ++ (l.filter (·.cust == cu)).map fun e => { e with cust := .inDeque }) s
  ((List.range 4).filter (!dieInService s ·)).foldl (fun s d => flushPool d s) s

/-- A steal message to a thief or a victim: on this device, or by the steal channel. -/
def stealMsg (dst : Thief) (here : Nat → Event) (ws : List W64) (s : State) : State :=
  match dst with
  | .core n => raiseDue (here n) s
  | .dev d => if chanUp s 5 then send (.words 5 d.val ws) s else s

/-- Whether a thief may be offered a task: a core that sees no task it may take (R126), or a device that holds the task's ASID. A task
whose save image lies on this device stays on it (log 93). -/
def mayOffer (s : State) (thief : Thief) (victim : Nat) (w : Waiting) : Bool :=
  stealable w && match thief with
    | .core n => n != victim && (candidates s n).isEmpty && mayRun s n w
    | .dev d => d != s.dev && chanUp s 5 && w.image.isNone
        && (match bindOf s.xl w.info.asid with | some b => b.mask.getLsbD d.val | none => false)

/-- STEAL_REQUEST (R114, R115): the victim's entry is offered, and its timer runs. -/
def offerSteal (thief : Thief) (victim : Nat) (s : State) : State :=
  match offerOf s victim with
  | none => s
  | some e =>
    if !mayOffer s thief victim e.w then s
    else
      let (sid, s) := takeUid s
      let (c, k) := coreOf s victim
      let s := setCore s victim (c, { k with deque := k.deque.map fun x => if x = e then { x with cust := .offered sid, at_ := s.clock } else x })
      let s := { s with dist := { s.dist with steals := (sid, thief) :: s.dist.steals } }
      match thief with
      | .core n => raiseDue (.offer n (.core victim) sid e.w) s
      | .dev d => send (.offer d.val sid e.w) s

/-- STEAL_REQUEST. -/
def execStealRequest (s : State) : Host.Outcome State Fault Refusal :=
  match s.now with
  | some (.stealRequest thief victim) => .next (offerSteal thief victim s)
  | _ => .next s

/-- OFFER (R115): the thief keeps a copy, which it may not run yet, and sends TAKE. -/
def takeOffer (core : Nat) (v : Thief) (sid : Nat) (w : Waiting) (s : State) : State :=
  let (c, k) := coreOf s core
  if k.gated || coreOut s core then s
  else
    let s := setCore s core (c, { k with stolen := ⟨sid, v, w⟩ :: k.stolen })
    stealMsg v (fun _ => .take (.core core) sid) [2, BitVec.ofNat 64 sid] s

/-- OFFER. -/
def execOffer (s : State) : Host.Outcome State Fault Refusal :=
  match s.now with
  | some (.offer core v sid w) => .next (takeOffer core v sid w s)
  | _ => .next s

/-- Whether the timer of an offered entry has run out (R115). -/
def offerOver (s : State) (e : DqEntry) : Bool := e.at_ + micros 10 ≤ s.clock

/-- CUSTODY_TIMEOUT (R115): 10 µs after OFFER without TAKE. -/
def offerTimeout (sid : Nat) (s : State) : State :=
  match entryIn s (.offered sid) with
  | some e => if offerOver s e then dropSteal sid (reinstate (.offered sid) s) else s
  | none => s

/-- CUSTODY_TIMEOUT. -/
def execCustodyTimeout (s : State) : Host.Outcome State Fault Refusal :=
  match s.now with
  | some (.custodyTimeout sid) => .next (offerTimeout sid s)
  | _ => .next s

/-- TAKE (R115): before the timer has run out the task passes into ACKING and ACK is sent; after reinstatement the answer is
REFUSE. -/
def takeArrives (thief : Thief) (sid : Nat) (s : State) : State :=
  let s := offerTimeout sid s
  if (entryIn s (.offered sid)).isSome then
    stealMsg thief (fun n => .ack n thief sid) [3, BitVec.ofNat 64 sid]
      (mapEntries (fun l => l.map fun e => if e.cust = .offered sid then { e with cust := .acking sid } else e) s)
  else if (entryIn s (.acking sid)).isSome then s
  else stealMsg thief (fun n => .refuse n thief sid) [4, BitVec.ofNat 64 sid] s

/-- TAKE. -/
def execTake (s : State) : Host.Outcome State Fault Refusal :=
  match s.now with
  | some (.take thief sid) => .next (takeArrives thief sid s)
  | _ => .next s

/-- The victim's dispatcher learns whether the thief's accepted ACK (R115): the shadow entry goes, or the task is
reinstated. -/
def settleSteal (sid : Nat) (accepted : Bool) (s : State) : State :=
  let s := dropSteal sid s
  if accepted then mapEntries (fun l => l.filter (·.cust != .acking sid)) s else reinstate (.acking sid) s

/-- Whether a copy came from where a message comes from: serials of this device's steals are its own. -/
def copyFrom (x : Stolen) (v : Thief) (sid : Nat) : Bool :=
  x.sid == sid && match x.from_, v with | .core _, .core _ => true | .dev d, .dev e => d == e | _, _ => false

/-- ACK (R115): with a copy, the thief may run it, and the shadow entry is deleted; a thief that has reset since its TAKE has
none, and the ACK is refused, which the victim hears. An ACK of a steal whose thief is another device says that its dispatcher
accepted. -/
def ackArrives (core : Nat) (v : Thief) (sid : Nat) (s : State) : State :=
  let (c, k) := coreOf s core
  match k.stolen.find? (copyFrom · v sid) with
  | some x =>
    let s := pushDeque core x.w (setCore s core (c, { k with stolen := k.stolen.filter (· != x) }))
    (match v with
     | .core _ => settleSteal sid true s
     | .dev _ => stealMsg v (fun n => .ack n v sid) [5, BitVec.ofNat 64 sid] s)
  | none =>
    if s.dist.steals.contains (sid, v) then settleSteal sid (match v with | .core _ => false | .dev _ => true) s
    else stealMsg v (fun n => .refuse n v sid) [6, BitVec.ofNat 64 sid] s

/-- ACK. -/
def execAck (s : State) : Host.Outcome State Fault Refusal :=
  match s.now with
  | some (.ack core v sid) => .next (ackArrives core v sid s)
  | _ => .next s

/-- REFUSE (R115): the thief discards its copy. A REFUSE of a steal whose thief is another device says that its dispatcher
refused ACK: the task is reinstated. -/
def refuseArrives (core : Nat) (v : Thief) (sid : Nat) (s : State) : State :=
  let (c, k) := coreOf s core
  if k.stolen.any (copyFrom · v sid) then setCore s core (c, { k with stolen := k.stolen.filter (!copyFrom · v sid) })
  else match v with
    | .dev _ => if s.dist.steals.contains (sid, v) then settleSteal sid false s else s
    | .core _ => s

/-- REFUSE. -/
def execRefuse (s : State) : Host.Outcome State Fault Refusal :=
  match s.now with
  | some (.refuse core v sid) => .next (refuseArrives core v sid s)
  | _ => .next s

/-- The other devices of the holder mask of the ASID that a core ran last, from the one asked last onwards (R114). -/
def stealDevices (s : State) (core : Nat) : List Nat :=
  match (coreOf s core).2.lastAsid.bind (bindOf s.xl) with
  | some b =>
    let first := match s.dist.asked with | some (d, _) => d + 1 | none => 0
    ((List.range 1024).map fun i => (first + i) % 1024).filter fun d => b.mask.getLsbD d && d != s.dev.val && !devLost s d
  | none => []

/-- A core that sees no task it may take steals (R114): from a core of this device, else the next device of the holder mask is asked, at
most once in 10 µs (log 93). -/
def seekTask (core : Nat) (s : State) : State :=
  let mine (e : Event) : Bool := match e with | .stealRequest t _ => t == .core core | _ => false
  let under := !(coreOf s core).2.stolen.isEmpty || s.dist.steals.any (·.2 == .core core) || s.due.any mine
  if under || !(candidates s core).isEmpty then s
  else match victimOf s core, stealDevices s core with
    | some v, _ => raiseDue (.stealRequest (.core core) v) s
    | none, d :: _ =>
      let early := match s.dist.asked with | some (_, t) => s.clock < t + micros 10 | none => false
      if early || !chanUp s 5 then s
      else send (.words 5 d [0, BitVec.ofNat 64 core]) { s with dist := { s.dist with asked := some (d, s.clock) } }
    | none, [] => s

/-! ## Leases (R123, R124) -/

/-- LEASE_GRANT (R124). -/
def execLeaseGrant (s : State) : Host.Outcome State Fault Refusal :=
  match s.now with
  | some (.leaseGrant quad) => .next (grantLease quad s)
  | _ => .next s

/-- Whether the lease of a quad's array is over (R123): 4,096 clocks have passed since the grant, and what has started has completed. -/
def leaseOver (s : State) (quad : Nat) : Bool :=
  match (arrOf s quad).holder with
  | none => false
  | some n =>
    let (c, k) := coreOf s n
    let done (c : Ctx) : Bool := c.lease.held && c.lease.ends ≤ s.clock
    (done c || k.standby.any done) && !quadMultiplies s quad

/-- LEASE_EXPIRY (R123): with the session open the lease is asked for again (R267). -/
def expireLease (quad : Nat) (s : State) : State :=
  match (arrOf s quad).holder with
  | none => s
  | some n => if leaseOver s quad then endRenew n s else s

/-- LEASE_EXPIRY. -/
def execLeaseExpiry (s : State) : Host.Outcome State Fault Refusal :=
  match s.now with
  | some (.leaseExpiry quad) => .next (expireLease quad s)
  | _ => .next s

/-! ## The ramp governor (R132 to R134) -/

/-- The clocks of a list that lie within the last 1 µs. -/
def lastMicro (s : State) (l : List Nat) : List Nat := l.filter fun t => s.clock < t + micros 1

/-- Increments that may still be granted upward, and removed downward, in the 1 µs that ends now (R132). -/
def allowance (s : State) : Nat × Nat :=
  (increments s - (lastMicro s s.gov.up).length, increments s - (lastMicro s s.gov.down).length)

/-- PRIO of an array's leaseholder. -/
def holderPrio (s : State) (q : Nat) : Nat :=
  ((banks s).filterMap fun b => if quadOf b.1 = q ∧ b.2.2.lease.held then some (ctxPrio b.2.2) else none).foldl Nat.max 0

/-- Puts an array before those that were served later than it. -/
def insertTurn (s : State) (q : Nat) : List Nat → List Nat
  | [] => [q]
  | r :: l => if (arrOf s q).turn ≤ (arrOf s r).turn then q :: r :: l else r :: insertTurn s q l

/-- One turn upward: every held array gains an increment, those of the highest PRIO first, and among equals the one that has waited
longest for its turn, as far as the increments go. -/
def raiseTurn (n : Nat) (s : State) : Nat × State :=
  let qs := (List.range 96).filter (heldArray s)
  let ordered := (List.range 16).reverse.flatMap fun p => (qs.filter fun q => holderPrio s q == p).foldr (insertTurn s) []
  let turn := ((List.range 96).map fun q => (arrOf s q).turn).foldl Nat.max 0 + 1
  (ordered.take n).foldl (fun (n, s) q => (n - 1, updArr q (fun a => { a.setDensity s.clock (a.density + 1) with turn := turn }) s)) (n, s)

/-- Whether an array issues with nothing to start: a shadow tail (R134). -/
def tailing (s : State) (q : Nat) : Bool :=
  let a := arrOf s q
  0 < a.density && a.busy ≤ s.clock && !((banks s).any fun b => quadOf b.1 == q && mmaHead b.2.2)

/-- One turn downward: arrays in a shadow tail lose an increment. -/
def lowerTurn (n : Nat) (s : State) : Nat × State :=
  (((List.range 96).filter (tailing s)).take n).foldl (fun (n, s) q =>
    (n - 1, updArr q (fun a => a.setDensity s.clock (a.density - 1)) s)) (n, s)

/-- Turns while increments are left: an array gains or loses at most 8. What is left of them goes with the state. -/
def turns (f : Nat → State → Nat × State) : Nat → Nat × State → Nat × State
  | 0, x => x
  | k + 1, x => turns f k (f x.1 x.2)

/-- GOVERNOR_INTERVAL (R132): the increments that the last 1 µs leaves are granted and removed. -/
def governor (s : State) : State :=
  let (up, down) := allowance s
  let (u, s) := turns raiseTurn 8 (up, s)
  let (d, s) := turns lowerTurn 8 (down, s)
  { s with gov := { s.gov with up := List.replicate (up - u) s.clock ++ lastMicro s s.gov.up
                               down := List.replicate (down - d) s.clock ++ lastMicro s s.gov.down } }

/-- THRTIME (R439): each die's throttle step, summed for every microsecond that has passed. -/
def sumThrottle (s : State) : State :=
  let k := (s.clock - s.gov.summed) / micros 1
  let thr := Vector.ofFn fun d : Fin 4 => s.mmio.thrtime[d] + BitVec.ofNat 64 (k * throttle s d.val)
  { s with mmio := { s.mmio with thrtime := thr }, gov := { s.gov with summed := s.gov.summed + k * micros 1 } }

/-- GOVERNOR_INTERVAL. -/
def execGovernorInterval (s : State) : Host.Outcome State Fault Refusal :=
  match s.now with
  | some .governorInterval => .next (governor s)
  | _ => .next s

/-! ## Budgets (R128, R129) -/

/-- Changes the power state of a die. -/
def updPow (die : Nat) (f : DiePow → DiePow) (s : State) : State := { s with pow := s.pow.set! die (f (powOf s die)) }

/-- The tasks that free cores of a die find first and held by budget (R129). Where the pool is empty, only a core that is not at its start
values has a task. -/
def heldTasks (s : State) (die : Nat) : List (W64 × List W64) :=
  let cores := if ((s.dist.pools[die]?).getD []).isEmpty then (liveCores s).filter (dieOf · == die) else (List.range 96).map (96 * die + ·)
  (cores.filterMap fun n =>
    let (c, k) := coreOf s n
    if c.task.isNone && !k.gated && !coreOut s n && (match k.standby with | some d => preloaded d | none => true) && heldByBudget s n then
      (ordered s n).head?.map fun c => (c.w.handle, c.w.idx)
    else none).eraseDups

/-- Since when each task has been held by budget. -/
def noteHolds (s : State) : State :=
  { s with pow := Vector.ofFn fun i : Fin 4 =>
      let d := s.pow[i]
      { d with heldAt := (heldTasks s i.val).map fun t =>
          (t.1, t.2, ((d.heldAt.find? fun x => x.1 == t.1 && x.2.1 == t.2).map (·.2.2)).getD s.clock) } }

/-- Whether a task has been held by budget for 20 µs, or for 20 µs since the last rise for it. -/
def heldLong (s : State) (x : W64 × List W64 × Nat) : Bool := x.2.2 + micros 20 ≤ s.clock

/-- BUDGET_HOLD_TIMEOUT (R129): a task has been held for 20 µs, or for 20 µs more: the budget step rises. -/
def holdTimeout (die : Nat) (s : State) : State :=
  let now := heldTasks s die
  if (powOf s die).heldAt.any fun x => heldLong s x && now.contains (x.1, x.2.1) then
    updPow die (fun d => { d with budget := Nat.min 7 (d.budget + 1)
                                  heldAt := d.heldAt.map fun x => if heldLong s x then (x.1, x.2.1, s.clock) else x }) s
  else s

/-- BUDGET_HOLD_TIMEOUT. -/
def execBudgetHoldTimeout (s : State) : Host.Outcome State Fault Refusal :=
  match s.now with
  | some (.budgetHoldTimeout die) => .next (holdTimeout die.val s)
  | _ => .next s

/-- BUDGET_STEP_LOWER (R129): the charges at the lower step would fit with one W(7) to spare; at most once in 100 µs. -/
def stepLower (die : Nat) (s : State) : State :=
  let d := powOf s die
  let d' := { d with budget := d.budget - 1 }
  if 0 < d.budget && (d.lowered == 0 || d.lowered + micros 100 ≤ s.clock)
      && chargesAt s die (issueStep s d') + classWeight s 7 ≤ d.dbud then
    updPow die (fun _ => { d' with lowered := s.clock }) s
  else s

/-- BUDGET_STEP_LOWER. -/
def execBudgetStepLower (s : State) : Host.Outcome State Fault Refusal :=
  match s.now with
  | some (.budgetStepLower die) => .next (stepLower die.val s)
  | _ => .next s

/-- Whether every core of a die is power-gated. -/
def dieGated (s : State) (die : Nat) : Bool := (List.range 96).all fun i => (coreOf s (96 * die + i)).2.gated

/-- BUDGET_CALCULATION (R128): DBUD from the package cap, less the measured power of base die, HBM and SerDes, in equal shares. -/
def budgets (s : State) : State :=
  let (k, s) := takeFree s
  let dies := (List.range 4).filter (!dieGated s ·)
  let share := (4 * bits s.mmio.pwrcfg 47 32 - Config.deductedPower k) / Nat.max 1 dies.length
  (List.range 4).foldl (fun s d => updPow d (fun p => { p with dbud := if dies.contains d then share else 0 }) s) s

/-- BUDGET_CALCULATION. -/
def execBudgetCalculation (s : State) : Host.Outcome State Fault Refusal :=
  match s.now with
  | some .budgetCalculation => .next (budgets s)
  | _ => .next s

/-! ## Thermal requests (R431) -/

/-- What another device has sent to this device's switches stays due. -/
def switchesOnly (dev : Fin 1024) (e : Event) : Bool :=
  match e with | .castStamp c => c.src != dev | .red c => c.src != dev | .rel _ d _ => d != dev | _ => false

/-- The device is reset (R426): it loses every key, the lineage SRAM and HBM's contents, and RDCYC restarts at 0. Bobbin, its
flash and its log stand, and so do the hardware, QUARN, which counts from the cold reset (R439), and the switches, which have removed
the device from every group (R445). -/
def deviceReset (s : State) : State :=
  let s := removeMember s.dev s
  { State.reset with
    dev := s.dev
    imgver := s.imgver
    broken := s.broken
    mmio := { quarUnits := s.mmio.quarUnits }
    fab := { groups := s.fab.groups, rslots := s.fab.rslots.map fun r => { r with since := 0 }
             fences := s.fab.fences.map fun f => { f with since := 0 } }
    bob := { s.bob with before := s.bob.before + s.clock, phase := 0, error := 0, pll := false, ports := false,
                        mgmtmap := 0, hosts := [], poolKey := 0 }
    free := s.free
    uid := s.uid
    script := s.script
    due := s.due.filter (switchesOnly s.dev)
    now := s.now
    outbox := s.outbox }

/-- Every main rail falls at once; the device stays off until a cold reset. -/
def trip (die t : Nat) (s : State) : State :=
  let s := deviceReset (event 5 3 (unitId die 31 0 10) (BitVec.ofNat 64 die) (BitVec.ofNat 64 t) s)
  { s with bob := { s.bob with tripped := true, rails := 0 } }

/-- THERMAL_SAMPLE (R431): above TLIM the request rises; a sample that is not below TLIM − HYST begins the 1 ms again. There is no limit
before the configuration block has given it, nor where the boot has failed. -/
def thermal (die t : Nat) (s : State) : State :=
  let lim := bits s.mmio.thermcfg 7 0; let hy := bits s.mmio.thermcfg 15 8
  if 115 ≤ t then trip die t s
  else if s.bob.phase < 5 ∨ s.bob.phase = 15 then s
  else updPow die (fun d => { d with thermal := if lim < t then Nat.min 7 (d.thermal + 1) else d.thermal
                                     cool := if t + hy < lim then d.cool + 1 else 0 }) s

/-- THERMAL_SAMPLE. -/
def execThermalSample (s : State) : Host.Outcome State Fault Refusal :=
  match s.now with
  | some (.thermalSample die t) => .next (thermal die.val t.toNat s)
  | _ => .next s

/-- THERMAL_LOWER (R431): ten samples, 1 ms, all below TLIM − HYST. -/
def execThermalLower (s : State) : Host.Outcome State Fault Refusal :=
  match s.now with
  | some (.thermalLower die) =>
    .next (if 10 ≤ (powOf s die.val).cool then updPow die.val (fun d => { d with thermal := d.thermal - 1, cool := 0 }) s else s)
  | _ => .next s

/-- THERMAL_TRIP (R431): 115 °C on a sensor. -/
def execThermalTrip (s : State) : Host.Outcome State Fault Refusal :=
  match s.now with
  | some (.thermalTrip die t) => .next (if 115 ≤ t.toNat then trip die.val t.toNat s else s)
  | _ => .next s

/-! ## Power-gating (R117) -/

/-- POWER_GATING (R117): the deque moves into the die pool first; a core that holds a task is not gated. -/
def gateCore (core : Nat) (gate : Bool) (s : State) : State :=
  let (c, k) := coreOf s core
  if gate then
    if c.task.isSome || k.standby.any (!preloaded ·) then s
    else
      let s := dequeToPool core (unloadStandby core s)
      let (c, k) := coreOf s core
      setCore s core (c, { k with gated := true, stolen := [] })
  else setCore s core (c, { k with gated := false })

/-- POWER_GATING. -/
def execPowerGating (s : State) : Host.Outcome State Fault Refusal :=
  match s.now with
  | some (.powerGating core gate) => .next (if core < 384 then gateCore core gate s else s)
  | _ => .next s

end Sys2Proof.Machine
end

