-- ==== Sys2Proof/Machine/EvLin.lean ====
section
/-! DEFINITION. The events of lineage and recovery: the 100 µs waits (R53, R58, R72, R318, R320), replicas (R44, R58, R59), other
shards (R54, R60, R63 to R65), the mirror (R55, R56, R63), scrubbing and losses (R61, R439, R444). An event whose occasion has passed has
no effect. -/

namespace Sys2Proof.Machine

/-! ## Waits that end (R53, R58, R318, R320) -/

/-- A wait of the control engine of a core that has lasted 100 µs ends in a fault at its word, after an event. -/
def endWait (w : Wait) (cause : BitVec 8) (note : State → State) (core : Nat) (s : State) : State :=
  onCore core (fun s =>
    if s.cx.fl.wait == w && s.cx.fl.waitSince + micros 100 ≤ s.clock then
      startTrap { cause := cause, taddr := s.cx.pc, tepc := s.cx.pc, tnpc := s.cx.pc } (note s)
    else s) s

/-- The lineage-capacity event. -/
def lineageFull (s : State) : State := event 3 1 wholeDevice (linstat s) 0 s

/-- POOL_WAIT_TIMEOUT (R53). -/
def execPoolWaitTimeout (s : State) : Host.Outcome State Fault Refusal :=
  match s.now with
  | some (.poolWaitTimeout core) => .next (endWait .pool cSEAL lineageFull core s)
  | _ => .next s

/-- RECORD_WAIT_TIMEOUT (R58). -/
def execRecordWaitTimeout (s : State) : Host.Outcome State Fault Refusal :=
  match s.now with
  | some (.recordWaitTimeout core) => .next (endWait .record cSEAL lineageFull core s)
  | _ => .next s

/-- STORAGE_WAIT_TIMEOUT (R320). -/
def execStorageWaitTimeout (s : State) : Host.Outcome State Fault Refusal :=
  match s.now with
  | some (.storageWaitTimeout core) => .next (endWait .storage cSEAL (event 6 2 wholeDevice 1 0) core s)
  | _ => .next s

/-- SLOT_WAIT_TIMEOUT (R318). -/
def execSlotWaitTimeout (s : State) : Host.Outcome State Fault Refusal :=
  match s.now with
  | some (.slotWaitTimeout core) => .next (endWait .slot cQUEUE (event 6 2 wholeDevice 0 0) core s)
  | _ => .next s

/-- Whether storage has been lacking since a clock for 100 µs. -/
def lackedLong (s : State) (since : Nat) : Bool := since + micros 100 ≤ s.clock

/-- The versions that have had no storage for 100 µs (R72): the outputs of a recovery task that waits for nothing else, a REPLICA version
whose primary is to be copied, a LOST version that another shard is to recover, and PENDING versions of an instance that is to run
again (R345). -/
def starvedTiles (s : State) : List W64 :=
  let none_ (r : VRec) : Bool := (recoverPlace s r).1.isNone
  (s.lin.rtasks.filter fun q => !q.queued && !q.running && q.waits.isEmpty && q.asking.isEmpty && lackedLong s q.since).flatMap
    (fun q => q.outs.filter fun t => match recOf s t with | some r => r.st == .recovering && none_ r | none => false)
  ++ (s.lin.recs.filter fun r => ((r.st == .recovering && r.rep.isSome) || (r.st == .lost && r.pkdev != s.dev && r.asked == 0))
      && lackedLong s r.since && none_ r).map (·.tile)
  ++ (s.dist.parked.filter fun x => lackedLong s x.2.2).flatMap fun x => ((x.1.prior.allocs.filterMap (recOf s)).filter fun r =>
      r.st == .pending && none_ r).map (·.tile)

/-- RECOVERY_STORAGE_TIMEOUT (R72): the version becomes FAILED, with the capacity event. -/
def recoveryStarved (tile : W64) (s : State) : State :=
  if (starvedTiles s).contains tile then settle (failVersion tile (event 6 2 wholeDevice 1 0 s)) else s

/-- RECOVERY_STORAGE_TIMEOUT. -/
def execRecoveryStorageTimeout (s : State) : Host.Outcome State Fault Refusal :=
  match s.now with
  | some (.recoveryStorageTimeout tile) => .next (recoveryStarved tile s)
  | _ => .next s

/-! ## Replicas (R44, R58, R59) -/

/-- The SEALED version that retention replicates next: the deepest, the oldest among equals. -/
def retained (s : State) : Option VRec :=
  let l := s.lin.recs.filter (·.st == .sealed)
  l.find? fun r => l.all fun q => q.depth ≤ r.depth

/-- RETENTION_REPLICATION (R58): fewer than 1/16 of the records are free. -/
def execRetentionReplication (s : State) : Host.Outcome State Fault Refusal :=
  match s.now with
  | some .retentionReplication =>
    .next (if 2 ^ 28 - 1 - recordsUsed s < 2 ^ 24 then
        match retained s with
        | some r => settle (startReplica r.tile s)
        | none => s
      else s)
  | _ => .next s

/-- The dies above a primary's, in the order in which a local replica looks for storage (R59). -/
def otherDies (d : Fin 4) : List Nat := [1, 2, 3].map fun i => (d.val + i) % 4

/-- A replica of a REPLICATING version is written: at the buddy's place, or on another die of this device. Its record drops
its input links (R60). -/
def writeReplica (tile : W64) (there : Option Place) (s : State) : State :=
  match recOf s tile with
  | none => s
  | some r =>
    if r.st != .replicating then s
    else
      let fin (p : Place) (s : State) : State :=
        let s := updRec tile (fun r => { r with rep := some p, inputs := [], links := false, chain := [] }) s
        settle (setVState tile .replica s)
      match there with
      | some p =>
        if replicaPlace s != 1 && buddyUp s && p.dev.val == buddyId s && p.ty == .hbmp then fin p s else s
      | none =>
        if replicaPlace s == 1 || (replicaPlace s == 0 && !buddyUp s) then
          match allocOnDies s .hbmp r.size (otherDies r.place.die) with
          | (some p, s) =>
            if r.place.dev = s.dev ∧ (s.mem.poisoned r.place.addr.toNat r.size).isNone then
              fin p { s with mem := s.mem.write none p.addr.toNat (s.mem.raw r.place.addr.toNat r.size) }
            else s
          | (none, s) => s
        else s

/-- REPLICA_WRITTEN (R44). -/
def execReplicaWritten (s : State) : Host.Outcome State Fault Refusal :=
  match s.now with
  | some (.replicaWritten tile p) => .next (writeReplica tile p s)
  | _ => .next s

/-- The primary of a REPLICA version that was lost is copied from the replica (R44), whose bytes another device sends. -/
def rebuildPrimary (tile : W64) (data : List Byte) (s : State) : State :=
  match recOf s tile with
  | none => s
  | some r =>
    match r.st, r.rep with
    | .recovering, some p =>
      let bs := if p.dev = s.dev then s.mem.raw p.addr.toNat r.size else data
      if bs.length ≠ r.size then s
      else match recoverPlace s r with
        | (some q, s) =>
          let s := { s with mem := s.mem.write none q.addr.toNat bs }
          settle (setVState tile .replica (updRec tile (fun r => { r with place := q }) s))
        | (none, s) => s
    | _, _ => s

/-- PRIMARY_REBUILT (R44). -/
def execPrimaryRebuilt (s : State) : Host.Outcome State Fault Refusal :=
  match s.now with
  | some (.primaryRebuilt tile data) => .next (rebuildPrimary tile data s)
  | _ => .next s

/-! ## Other shards (R54, R60, R63 to R65) -/

/-- RECOVER_REQUEST (R64, R69): the version of another shard joins the recovery of this shard's pool entry; asked for again, its priority
rises, and storage chosen anew is taken up. Without the entry it can be rebuilt no more (R53). -/
def recoverAsked (x : FarOut) (pool : Nat) (s : State) : State :=
  let again (y : FarOut) : FarOut := if y.tile = x.tile then { x with prio := Nat.max x.prio y.prio } else y
  match s.lin.pool.find? (·.ix == pool) with
  | none => send (.answer x.src.val 0 (.state x.tile 7)) s
  | some e =>
    match s.lin.rtasks.find? fun q => q.far.any (·.tile == x.tile) with
    | some q =>
      let moved := q.far.any fun y => y.tile == x.tile && y.place != x.place
      let s := updRec? q.id (fun q => { q with far := q.far.map again }) s
      settle (if moved && q.running then killRecovery q x.tile s else s)
    | none =>
      let wants := if e.wants.any (·.tile == x.tile) then e.wants.map again else e.wants ++ [x]
      settle { s with lin := { s.lin with pool := s.lin.pool.map fun p => if p.ix = pool then { p with wants := wants } else p } }

/-- RECOVER_REQUEST. -/
def execRecoverRequest (s : State) : Host.Outcome State Fault Refusal :=
  match s.now with
  | some (.recoverRequest src tile pool outix size prio place inputs) =>
    .next (recoverAsked ⟨src, tile, outix, size, place, inputs, prio⟩ pool s)
  | _ => .next s

/-- The state of a version for a walk elsewhere (R64); where it is not final, that shard hears of it again (R65, R75). -/
def stateAsked (src : Fin 1024) (tag : Nat) (tile : W64) (s : State) : State :=
  let code := match recOf s tile with | some r => r.st.code | none => 0
  let open_ := match recOf s tile with | some r => !r.st.avail && r.st != .failed | none => false
  let s := send (.answer src.val tag (.state tile (Fin.ofNat 16 code))) s
  if open_ && !s.lin.watch.contains (src, tile) then { s with lin := { s.lin with watch := s.lin.watch ++ [(src, tile)] } } else s

/-- A question of another device to this shard (R54, R60, R63, R65): answered, or kept until it can be. -/
def shardAsked (x : Asker) (s : State) : State :=
  match x.q with
  | .ranRec pool kind ds => ranElsewhere x.src pool kind ds s
  | .newv id _ _ _ _ _ _ _ _ _ _ =>
    if servesShard s id then ask s else answerTo x (some .refused) s
  | _ => ask s
where
  ask (s : State) : State :=
    match serve x s with
    | some (a, s) => settle (answerTo x a s)
    | none => settle (beginAsk x { s with lin := { s.lin with asks := s.lin.asks ++ [x] } })

/-- STATE_QUERY (R64), and every other question of the shards. -/
def execStateQuery (s : State) : Host.Outcome State Fault Refusal :=
  match s.now with
  | some (.stateQuery src tag tile) => .next (stateAsked src tag tile s)
  | some (.homeAsk src tag q) => .next (shardAsked ⟨src, tag, q, s.clock⟩ s)
  | _ => .next s

/-- REMOTE_SEAL (R54): a PENDING version homed here is sealed with the inputs' depths that the sealing task sends, and the seal is
acknowledged: that of a task that is not replayable at REPLICA (R48). -/
def sealFrom (src : Fin 1024) (tag : Nat) (tile digest : W64) (rplay : Bool) (inputs : List (W64 × Nat)) (s : State) : State :=
  match recOf s tile with
  | some r =>
    if r.st = .pending then
      let s := recordSeal tile digest rplay (depthOver inputs) s
      if rplay then send (.answer src.val tag .sealed) s
      else shardAsked ⟨src, tag, .repl tile true, s.clock⟩ s
    else send (.answer src.val tag (if r.st = .failed then .state tile 7 else .refused)) s
  | none => send (.answer src.val tag .refused) s

/-- REMOTE_SEAL where the digest is compared (R73, R345): a version trimmed since is not. -/
def compareFrom (src : Fin 1024) (tag : Nat) (tile digest : W64) (s : State) : State :=
  match recOf s tile with
  | some r =>
    if r.st ≠ .pending ∧ r.digest = digest then send (.answer src.val tag .sealed) (resealed tile (some (r.pkdev, r.pool)) s)
    else send (.answer src.val tag .refused) s
  | none => send (.answer src.val tag .sealed) s

/-- REMOTE_SEAL. -/
def execRemoteSeal (s : State) : Host.Outcome State Fault Refusal :=
  match s.now with
  | some (.remoteSeal src tag tile digest rplay compare inputs) =>
    .next (if compare then compareFrom src tag tile digest s else sealFrom src tag tile digest rplay inputs s)
  | _ => .next s

/-- Another shard recovers a LOST version of this one. -/
def recoveredThere (r : VRec) (s : State) : State :=
  if r.st = .lost then updRec r.tile (fun v => { v with asked := r.asked }) (setVState r.tile .recovering s) else s

/-- The state that another shard gives: of a version of this shard that it recovers, 6 that it does and 7 that it cannot (R64); of an input
of recovery tasks here, whether it is there, or never will be (R64, R65, R75). -/
def stateGiven (tile : W64) (code : Nat) (s : State) : State :=
  match recOf s tile with
  | some r =>
    if r.asked = 0 then s
    else if code = 6 then recoveredThere r s
    else if code = 7 then settle (failVersion tile s)
    else s
  | none =>
    let heard (q : RecTask) : RecTask :=
      { q with asking := q.asking.filter (· != tile), waits := if 2 ≤ code ∧ code ≤ 4 then q.waits.filter (· != tile) else q.waits }
    if code = 7 ∨ code = 0 then
      settle ((s.lin.rtasks.filter fun q => q.waits.contains tile || q.asking.contains tile).foldl (fun s q => cancelFailed q s) s)
    else settle { s with lin := { s.lin with rtasks := s.lin.rtasks.map heard } }

/-- Whether a word of some context waits for the answer to a request, or will again once its handler returns (R335). -/
def awaits (s : State) (uid : Nat) : Bool :=
  (locsOf s).any fun l => match ctxAt s l with
    | some c => c.fl.wait == .shard uid || (match c.fl.asked with | some (_, u, _) => u == uid | none => false)
    | none => false

/-- SHARD_ACKNOWLEDGEMENT (R54): an answer for a word is kept for it; a state is heard by the walks. -/
def shardAnswer (uid : Nat) (a : ShardAns) (s : State) : State :=
  if awaits s uid then { s with lin := { s.lin with remote := s.lin.remote ++ [(uid, a)] } }
  else match a with
    | .state tile code => stateGiven tile code.val s
    | _ => s

/-- SHARD_ACKNOWLEDGEMENT. -/
def execShardAcknowledgement (s : State) : Host.Outcome State Fault Refusal :=
  match s.now with
  | some (.shardAcknowledgement uid a) => .next (shardAnswer uid a s)
  | _ => .next s

/-! ## The mirror (R55, R56) -/

/-- What stands in the shard of each version, as the buddy holds it. -/
def imagesOf (s : State) : List (W64 × List (Nat × List W64)) := s.lin.recs.map fun r => (r.tile, recordImage s r)

/-- The records that a step changes: the new words; of one freed, its index with words of zeros. -/
def changedImages (before after : State) : List (W64 × List (Nat × List W64)) :=
  let old := imagesOf before; let new := imagesOf after
  new.filter (!old.contains ·)
    ++ (old.filter fun x => !new.any (·.1 == x.1)).map fun x => (x.1, x.2.map fun y => (y.1, List.replicate 8 (0 : W64)))

/-- Whether the buddy has acknowledged a change. -/
def ackedChange (s : State) (x : W64 × List (Nat × List W64)) : Bool :=
  s.lin.sent.any fun m => m.tile == x.1 && m.image == x.2 && m.acked

/-- Changes are sent to the buddy, each once. -/
def sendChanges (l : List (W64 × List (Nat × List W64))) (s : State) : State :=
  l.foldl (fun s x =>
    if s.lin.sent.any fun m => m.tile == x.1 && m.image == x.2 then s
    else x.2.foldl (fun s y => send (.mirrorRec (buddyId s) y.1 y.2) s)
      { s with lin := { s.lin with sent := s.lin.sent ++ [⟨x.1, x.2, false, s.clock⟩] } }) s

/-- Words of a mirrored record. -/
def mirrorWord (d : BitVec 512) (k : Nat) : W64 := BitVec.ofNat 64 (d.toNat / 2 ^ (64 * k))

/-- First byte of the lineage backing region, and of the buddy mirror region behind it (R430). -/
def lineageBase : Nat := 2 ^ 40
/-- First byte of the buddy mirror region (R430). -/
def mirrorBase : Nat := 2 ^ 40 + 2 ^ 34

/-- The words of changed records go into the lineage backing region, each at its index (R50, R430). -/
def backRecords (l : List (W64 × List (Nat × List W64))) (s : State) : State :=
  l.foldl (fun s x => x.2.foldl (fun s y =>
    poolWrite (lineageBase + 64 * y.1) (match recOf s x.1 with | some r => if r.index = y.1 then recordWords s r else y.2 | none => y.2) s) s) s

/-- MIRROR_CHANGE (R55): a record of another device is kept, in the mirror region too (R430), and acknowledged. -/
def execMirrorChange (s : State) : Host.Outcome State Fault Refusal :=
  match s.now with
  | some (.mirrorChange src index data) =>
    let l := s.lin.mirror.filter fun x => !(x.1 == src.val && x.2.1 == index)
    .next (send (.words 4 src.val [BitVec.ofNat 64 index])
      (poolWrite (mirrorBase + 64 * index) ((List.range 8).map (mirrorWord data))
        { s with lin := { s.lin with mirror := if data = 0 then l else (src.val, index, data) :: l } }))
  | _ => .next s

/-- MIRROR_ACK (R55): the buddy holds the change that was sent first. -/
def mirrorAcked (tile : W64) (s : State) : State :=
  match s.lin.sent.find? fun m => m.tile == tile && !m.acked with
  | none => s
  | some m =>
    { s with lin := { s.lin with
      sent := { m with acked := true } :: s.lin.sent.filter (· != m)
      mirrored := (tile, m.image) :: s.lin.mirrored.filter (·.1 != tile) } }

/-- MIRROR_ACK. -/
def execMirrorAck (s : State) : Host.Outcome State Fault Refusal :=
  match s.now with
  | some (.mirrorAck tile) => .next (mirrorAcked tile s)
  | _ => .next s

/-- Whether the buddy has not acknowledged a change within 50 µs (R56). -/
def mirrorLate (s : State) : Bool := s.lin.sent.any fun m => !m.acked && m.since + micros 50 ≤ s.clock

/-- MIRROR_TIMEOUT (R56). -/
def execMirrorTimeout (s : State) : Host.Outcome State Fault Refusal :=
  match s.now with
  | some .mirrorTimeout =>
    .next (if mirrorLate s then
        event 3 2 wholeDevice (BitVec.ofNat 64 (buddyId s)) 0 { s with lin := { s.lin with unmirr := true, sent := [] } }
      else s)
  | _ => .next s

/-- BUDDY_COPY_COMPLETE (R56): the new buddy holds every record; UNMIRR is cleared. -/
def execBuddyCopyComplete (s : State) : Host.Outcome State Fault Refusal :=
  match s.now with
  | some .buddyCopyComplete =>
    .next (if s.lin.copying then
        let s := (imagesOf s).foldl (fun s x => x.2.foldl (fun s y => send (.mirrorRec (buddyId s) y.1 y.2) s) s) s
        { s with lin := { s.lin with copying := false, unmirr := false, sent := [], mirrored := imagesOf s } }
      else s)
  | _ => .next s

/-! ## Scrubbing and losses (R61, R63, R439, R444) -/

/-- The unit of a stack by its number (R38). -/
def stackUnit (k : Nat) : BitVec 16 := unitId (k / 2) 31 (k % 2) 11

/-- One block that a scrub or a read finds: counted in its stack's health register where it lies in HBM, with the events of R438, which name
the stack; a block of the commons lies in the base die (R437). -/
def scrubBlock (stack : Fin 8) (pa : Nat) (k : EccKind) (s : State) : State :=
  let v := s.mmio.hbmhlth[stack]
  let put (hi lo n : Nat) : State :=
    let w := v - BitVec.ofNat 64 (bits v hi lo * 2 ^ lo) + BitVec.ofNat 64 (n * 2 ^ lo)
    { s with mmio := { s.mmio with hbmhlth := s.mmio.hbmhlth.set stack w } }
  match k with
  | .corrected =>
    let n := Nat.min (2 ^ 32 - 1) (bits v 63 32 + 1)
    let s := put 63 32 n
    if n % 4096 = 0 ∧ n ≠ bits v 63 32 then event 2 1 (stackUnit stack.val) (BitVec.ofNat 64 stack.val) (BitVec.ofNat 64 n) s else s
  | .rebuilt =>
    event 2 2 (stackUnit stack.val) (BitVec.ofNat 64 (pa / 64 * 64)) 1 (put 15 0 (Nat.min 0xFFFF (bits v 15 0 + 1)))
  | .uncorrectable =>
    if pa < 0x20000000000 then poisonBlock (stackUnit stack.val) pa (put 31 16 (Nat.min 0xFFFF (bits v 31 16 + 1)))
    else poisonBlock wholeDevice pa s

/-- SCRUB (R439): a block that is poisoned already is neither reported nor counted again (R444). -/
def execScrub (s : State) : Host.Outcome State Fault Refusal :=
  match s.now with
  | some (.scrub stack found) =>
    .next (found.foldl (fun s x => if s.mem.poison.contains (x.1 / 64) then s else scrubBlock stack x.1 x.2 s) s)
  | _ => .next s

/-- The arrays of a lost die issue nothing: their increments are gone at once, which is not governed (R134). -/
def dropArrays (die : Nat) (s : State) : State :=
  ((List.range 24).map (24 * die + ·)).foldl (fun s q => updArr q (fun a => { a with density := 0, busy := Nat.min a.busy s.clock, slots := 0, run := [] }) s) s

/-- DIE_LOSS (R61): the die leaves service, the instances on it are killed, the versions with bytes in its stacks are marked. -/
def loseDie (die : Nat) (s : State) : State :=
  let u := unitId die 31 0 10
  let first := !quarantined s u
  let s := if first then outOfService u s else s
  let here := (locsOf s).filter fun l => match l with | .bank n _ => dieOf n == die | .image _ => false
  let s := here.reverse.foldl (fun s l => match (ctxAt s l).bind (·.task) with
    | some t => if t.started.isSome then killRun l ((List.range 24).map (24 * die + ·)) (killRec t cKILLED u) s else s
    | none => s) s
  let s := loseStorage (fun p => p.ty != .commons && p.die.val == die) (dropArrays die s)
  settle (if first then clearUnit u s else s)

/-- DIE_LOSS. -/
def execDieLoss (s : State) : Host.Outcome State Fault Refusal :=
  match s.now with
  | some (.dieLoss die) => .next (loseDie die.val s)
  | _ => .next s

/-- A place of a mirrored record; on this device it is storage that the lost one was lent, whose die is known. -/
def mirrorPlace (s : State) (ty : TileTgt) (tile v : W64) : Place :=
  let p : Place := ⟨ty, Fin.ofNat 1024 (bits v 53 44), BitVec.ofNat 44 (bits v 43 0), Config.dieOfAddr (bits v 43 0)⟩
  ((s.lin.lent.find? fun x => x.tile == tile && x.place.dev == p.dev && x.place.addr == p.addr).map (·.place)).getD p

/-- The data of a record of a lost device by its index there. -/
def mirrorAt (l : List (Nat × Nat × BitVec 512)) (i : Nat) : BitVec 512 := ((l.find? (·.2.1 == i)).map (·.2.2)).getD 0

/-- The inputs of a mirrored version, through its continuation records (R51, R52). -/
def mirrorInputs (l : List (Nat × Nat × BitVec 512)) : Nat → Nat → Nat → List W64
  | 0, _, _ => []
  | k + 1, i, n =>
    let d := mirrorAt l i
    ((List.range (Nat.min n 7)).map fun j => mirrorWord d (j + 1)) ++ mirrorInputs l k (bits (mirrorWord d 0) 27 0) (n - 7)

/-- How many versions of a lost device's mirror list a version among their inputs and count for it (R60). -/
def mirrorLinks (l : List (Nat × Nat × BitVec 512)) (u : W64) : Nat :=
  (l.filter fun x =>
    let c := mirrorWord x.2.2 0; let n := bits c 47 40
    let ins := if n = 1 then [mirrorWord x.2.2 7] else mirrorInputs l (chainLen n) (mirrorWord x.2.2 7).toNat n
    c.getLsbD 55 && [1, 2, 3, 5, 6].contains (bits c 63 60) && ins.contains u).length

/-- A version record that the mirror of a lost device holds, in the indices of this shard. Of the mirrored REFCNT what this shard counts
itself is left out: the links of the records that it takes over, and what it had told the lost device of; the device whose task allocated
the version is that of its producer's handle (log 117). -/
def mirroredRec (s : State) (l : List (Nat × Nat × BitVec 512)) (ixs : List Nat) (d : BitVec 512) : Option VRec :=
  let c := mirrorWord d 0; let pk := mirrorWord d 3; let pl := mirrorWord d 4; let rp := mirrorWord d 5
  let st : Option VState := match bits c 63 60 with
    | 1 => some .pending | 2 => some .sealed | 3 => some .replicating | 4 => some .replica | 5 => some .lost
    | 6 => some .recovering | 7 => some .failed | _ => none
  let ty : TileTgt := match bits pl 63 61 with | 0 => .hbm | 1 => .hbmp | _ => .commons
  let n := bits c 47 40
  let inputs := if n = 0 then [] else if n = 1 then [mirrorWord d 7] else mirrorInputs l (chainLen n) (mirrorWord d 7).toNat n
  let tile := mirrorWord d 1
  let mine := ((s.lin.told.find? (·.1 == tile)).map (·.2.1)).getD 0
  st.map fun st => { index := ixs.headD 0, tile := tile, st := st
                     depth := bits c 59 56, rplay := c.getLsbD 55, outix := bits c 39 32, producer := mirrorWord d 2
                     pkdev := Fin.ofNat 1024 (bits pk 63 54), pool := bits pk 27 0, size := 64 * bits pk 53 28
                     place := mirrorPlace s ty tile pl, rep := if rp.getLsbD 63 then some (mirrorPlace s .hbmp tile rp) else none
                     digest := mirrorWord d 6, inputs := inputs, links := c.getLsbD 55 && bits c 63 60 != 4
                     hold := bits c 31 0 - mirrorLinks l tile - mine, chain := ixs.drop 1
                     owner := Fin.ofNat 1024 (bits (mirrorWord d 2) 63 54), since := s.clock }

/-- The records of a lost device enter this shard, each with indices of its own. Whether the lost device changed one while it did not
mirror, and it is FAILED then (R56), is free (log 84). -/
def takeMirror (l : List (Nat × Nat × BitVec 512)) (s : State) : State :=
  l.foldl (fun s x =>
    let c := mirrorWord x.2.2 0
    if bits c 63 60 = 0 ∨ 7 < bits c 63 60 then s
    else
      let (k, s) := takeFree s
      match (freeIndices s (1 + chainLen (bits c 47 40))).bind fun ixs => mirroredRec s l ixs x.2.2 with
      | some r =>
        let b := BitVec.ofNat 64 (r.tile.toNat / 2 ^ 24 * 2 ^ 24)
        let s := { s with lin := { s.lin with
            recs := s.lin.recs ++ [r]
            versions := (b, Nat.max (lastVersion s b) (r.tile.toNat % 2 ^ 24)) :: s.lin.versions.filter (·.1 != b) } }
        if Config.unmirroredChange k && r.st != .failed then setVState r.tile .failed s else s
      | none => s) s

/-- This device acts for the shard of a lost device that named it as its buddy (R63): for each that does. -/
def actFor (dev : Fin 1024) (buddy : Option (Fin 1024)) (s : State) : State :=
  if buddy ≠ some s.dev ∨ s.lin.acting.contains dev = true then s
  else
    let s := takeMirror (s.lin.mirror.filter (·.1 == dev.val)) { s with lin := { s.lin with acting := s.lin.acting ++ [dev] } }
    event 3 5 wholeDevice (BitVec.ofNat 64 dev.val) 0 s

/-- What this device has told a lost one of its references: the device that acts for that shard is told again, and takes it out of the
count that it has from the mirror (R60, R63). -/
def retell (dev : Fin 1024) (acts : Option (Fin 1024)) (s : State) : State :=
  let (there, other) := s.lin.told.partition fun x => homeDev x.1 == dev.val
  match acts with
  | some b =>
    if b = s.dev then { s with lin := { s.lin with told := other } }
    else there.foldl (fun s x => send (.shard b.val 0 (.retell x.1 x.2.1 x.2.2)) s) s
  | none => { s with lin := { s.lin with told := other } }

/-- Storage that a lost device was lent here: a replica goes to the device that acts for it, whose records name it; all else is free
again. -/
def relend (dev : Fin 1024) (acts : Option (Fin 1024)) (s : State) : State :=
  let move (x : Lent) : List Lent :=
    if x.dev != dev then [x]
    else match acts with | some b => if x.replica && b != s.dev then [{ x with dev := b }] else [] | none => []
  { s with lin := { s.lin with lent := s.lin.lent.flatMap move } }

/-- The recovery tasks that a lost device ran are enqueued again (R70). -/
def lostRunner (dev : Fin 1024) (s : State) : State :=
  (s.lin.rtasks.filter (·.runner == some dev)).foldl (fun s q => requeueRec q.id s) s

/-- Requests that a lost device has not answered are forgotten: their words ask again, the device that acts for it where one does (R63). -/
def forgetAsks (dev : Nat) (s : State) : State :=
  let us := (s.lin.reqs.filter (·.2 == dev)).map (·.1)
  let f (c : Ctx) : Ctx :=
    let hit := match c.fl.wait with | .shard u => us.contains u | _ => false
    let old := match c.fl.asked with | some (_, u, _) => us.contains u | none => false
    { c with fl := { c.fl with wait := if hit then .none else c.fl.wait
                               asked := if old then c.fl.asked.map fun x => (x.1, 0, x.2.2) else c.fl.asked } }
  let s := mapBanks f { s with lin := { s.lin with reqs := s.lin.reqs.filter (·.2 != dev) } }
  { s with dist := { s.dist with images := s.dist.images.map fun i => { i with ctx := f i.ctx } } }

/-- What this shard keeps for a lost device is dropped: its references, its questions, what it wanted recovered; a PENDING version of a
task that is not replayable and ran there is FAILED (R44). -/
def dropDevice (dev : Fin 1024) (s : State) : State :=
  let recs := s.lin.recs.map fun r => { r with far := r.far.filter (·.1 != dev) }
  let rtasks := s.lin.rtasks.map fun q => { q with far := q.far.filter (·.src != dev) }
  let kept (e : PoolEnt) : PoolEnt :=
    let wants := e.wants.filter (·.src != dev)
    let outs := e.outs.filter fun o => (shardDev s o.2).isSome
    { e with wants := wants, outs := outs }
  let asks := s.lin.asks.filter (·.src != dev)
  let watch := s.lin.watch.filter (·.1 != dev)
  let pool := s.lin.pool.map kept
  let s := { s with lin := { s.lin with recs := recs, rtasks := rtasks, pool := pool, asks := asks, watch := watch } }
  (s.lin.recs.filter fun r => r.st == .pending && r.owner == dev && !r.rplay).foldl (fun s r => failVersion r.tile s) s

/-- The inputs of recovery tasks whose shard is gone with nobody acting for it are FAILED (R63, R75). -/
def dropShards (s : State) : State :=
  let gone (u : W64) : Bool := (recOf s u).isNone && (shardDev s u).isNone
  (s.lin.rtasks.filter fun q => (q.waits ++ q.asking).any gone).foldl (fun s q => cancelFailed q s) s

/-- Steals from and by a lost device: its copies here run; what it was taking is reinstated (R115, R116). -/
def dropThief (dev : Fin 1024) (s : State) : State :=
  let s := (s.dist.steals.filter (·.2 == .dev dev)).foldl (fun s x => dropSteal x.1 (reinstate (.acking x.1) (reinstate (.offered x.1) s))) s
  (liveCores s).foldl (fun s n =>
    let (c, k) := coreOf s n
    let mine := k.stolen.filter (·.from_ == .dev dev)
    mine.foldl (fun s x => pushDeque n x.w s) (setCore s n (c, { k with stolen := k.stolen.filter (!mine.contains ·) }))) s

/-- DEVICE_LOSS (R61, R63): the versions with bytes there are marked; copies stolen from it run (R116); as a holder it counts
as having acknowledged (R421); it leaves its cast groups (R106) and the .pod barriers; what it acted for is FAILED (R63). -/
def loseDevice (dev : Fin 1024) (buddy : Option (Fin 1024)) (s : State) : State :=
  if dev = s.dev || devLost s dev.val then s
  else
    let acts := buddy.filter fun b => !devLost s b.val
    let s := event 4 3 wholeDevice (BitVec.ofNat 64 dev.val) 0 { s with lin := { s.lin with lostDevs := (dev, acts) :: s.lin.lostDevs } }
    let s := lostRunner dev (dropDevice dev (relend dev acts (retell dev acts (actFor dev acts s))))
    let on (p : Place) : Bool := p.dev == dev
    let lost := s.lin.recs.filterMap fun r =>
      let x := on r.place; let y := match r.rep with | some p => on p | none => false
      if x || y then some (r.tile, x, y) else none
    let (s, ks) := loseAll lost s
    let s := settle (dropShards (forgetAsks dev.val (killProducers ks s)))
    let ack (b : AsidEnt) : AsidEnt := { b with acks := b.acks.filter (· != dev.val) }
    let s := { s with xl := { s.xl with asids := s.xl.asids.map ack } }
    let s := s.xl.asids.foldl (fun s b => freeAsid b.asid s) s
    let s := barrierCheck { s with dist := { s.dist with barriers := s.dist.barriers.map fun b => { b with others := b.others.filter (· != dev.val) } } }
    dropThief dev (removeMember dev s)

/-- DEVICE_LOSS. -/
def execDeviceLoss (s : State) : Host.Outcome State Fault Refusal :=
  match s.now with
  | some (.deviceLoss dev buddy) => .next (loseDevice dev buddy s)
  | _ => .next s

/-- LOSS_REPORT (R61): bytes of a version homed here are lost elsewhere, or of a version that an instance here writes (R44). -/
def lossHeard (tile : W64) (prim rep : Bool) (s : State) : State :=
  if (recOf s tile).isSome then
    let (s, ks) := loseAll [(tile, prim, rep)] s
    killProducers ks s
  else killProducers [tile] s

/-- LOSS_REPORT. -/
def execLossReport (s : State) : Host.Outcome State Fault Refusal :=
  match s.now with
  | some (.lossReport tile p r) => .next (lossHeard tile p r s)
  | _ => .next s

end Sys2Proof.Machine
end

