-- ==== Sys2Proof/Machine/EvFab.lean ====
section
/-! DEFINITION. The events of the fabric: requests of peers and answers to this device's own (R79, R86, R90 to R95, R396, R412), cast
groups (R101 to R107, R445), reductions (R108 to R111, R402), releases (R98), page faults at their home (R418), shootdowns
(R416, R421), stations and their keys (R400, R404 to R406). -/

namespace Sys2Proof.Machine

/-! ## Requests of peers (R79, R93, R396, R412) -/

/-- The memory of this device that holds some bytes, by its type's code (R76); none where they leave it or lie in two ranges. R79 lets
MMIO admit loads and stores of 32 and 64 bits and says that the target's type decides for a REMOTE page, but not whether a peer
reaches the registers: the model refuses it (log 76). -/
def memType (partU pa n : Nat) : Option Nat :=
  [0, 1, 2, 3].find? fun ty => inRange partU ty pa && inRange partU ty (pa + n - 1)
    && (ty != 3 || (pa - spadBase 0) / 0x200000 == (pa + n - 1 - spadBase 0) / 0x200000)

/-- The key of a request (R412): the outer none where its ID holds no key here. Only HBM and HBM-P are encrypted. -/
def peerKey (s : State) (ty : Nat) (key : Option (BitVec 10)) : Option (Option (BitVec 512)) :=
  match key with
  | none => some none
  | some k => match assoc s.xl.keys k.toNat with
    | none => none
    | some v => some (if ty ≤ 1 then some v else none)

/-- Runs an access of a peer where this device's memory admits it (R79): `noSpad` for what a scratchpad does not admit, the operations of
R93 and code fetches. -/
def peerAccess (noSpad : Bool) (pa n : Nat) (key : Option (BitVec 10)) (f : Option (BitVec 512) → (AccStatus × List Byte) × State)
    (s : State) : (AccStatus × List Byte) × State :=
  match memType s.mem.partU pa n with
  | none => ((.pagePerm, []), s)
  | some ty =>
    if noSpad && ty == 3 then ((.pagePerm, []), s)
    else match peerKey s ty key with
      | none => ((.pagePerm, []), s)
      | some k => f k

/-- What a unit's answer becomes; an error carries the failing block (R192, log 91). -/
def unitAnswer (r : UnitAns × Memory) (s : State) : (AccStatus × List Byte) × State :=
  match r with
  | (.inl bs, m) => ((.done, bs), { s with mem := m })
  | (.inr b, m) => ((.ecc, bytesOf 8 b), { s with mem := m })

/-- A peer's read. -/
def peerRead (code : Bool) (pa n : Nat) (key : Option (BitVec 10)) (s : State) : (AccStatus × List Byte) × State :=
  peerAccess code pa n key (fun k => match s.mem.poisoned pa n with
    | some _ => ((.ecc, []), s)
    | none => ((.done, s.mem.read k pa n), s)) s

/-- Performs a request of a peer. -/
def perform (op : RemoteOp) (s : State) : (AccStatus × List Byte) × State :=
  match op with
  | .load pa n key => peerRead false pa n key s
  | .fetch pa n key => peerRead true pa n key s
  | .store pa bs key => peerAccess false pa bs.length key (fun k => ((.done, []), { s with mem := s.mem.write k pa bs })) s
  | .storeSome pa bs key => peerAccess false pa bs.length key (fun k => ((.done, []), { s with mem := s.mem.writeSome k pa bs })) s
  | .amo o dbl pa c e key =>
    let n := if dbl then 8 else 4
    peerAccess true pa n key (fun k => unitAnswer (unitAmo o n pa (c.toNat % 2 ^ (8 * n)) (e.toNat % 2 ^ (8 * n)) k s.mem) s) s
  | .cas2 pa e c key => peerAccess true pa 16 key (fun k => unitAnswer (unitCas2 pa e.toNat c.toNat k s.mem) s) s
  | .lenq pa hi c key => peerAccess true pa 16 key (fun k => unitAnswer (unitLenq pa hi c.toNat k s.mem) s) s
  | .ldeq pa hi key => peerAccess true pa 16 key (fun k => unitAnswer (unitLdeq pa hi k s.mem) s) s
  | .chase pa b lo hi n link key => peerAccess true pa 1 key (fun k => unitAnswer (unitChase pa b lo hi n link k s.mem) s) s
  | .opk pa packet src key =>
    match opPacket (packet.setWidth 64) ((packet >>> 64).setWidth 64) with
    | none => ((.bad, []), s)
    | some p => peerAccess true pa (p.n * p.f.width) key (fun k => unitAnswer (unitOpk p pa src k s.mem) s) s

/-- REMOTE_REQUEST (R93). -/
def execRemoteRequest (s : State) : Host.Outcome State Fault Refusal :=
  match s.now with
  | some (.remoteRequest src tag rq) =>
    .next (let (r, s) := perform rq s
           send (.response src.val tag r.1 r.2) s)
  | _ => .next s

/-! ## Answers to this device's requests (R86, R90, R95, R192) -/

/-- An answer reaches a context: a plain read's data, which are fixed for the phase (R88), or its error, a load's or atomic's data, a
store's acknowledgement; a store that its target refused gives a late error of its word. -/
def answerCtx (tag : Nat) (st : AccStatus) (bs : List Byte) (c : Ctx) : Ctx :=
  let c : Ctx := match c.fl.reqs.find? (·.tag == tag) with
    | some r =>
      if st = AccStatus.done then pinLoad 0 r.loc (bs.take r.len) { c with fl := { c.fl with reqs := c.fl.reqs.filter (·.tag != tag) } }
      else { c with fl := { c.fl with reqs := c.fl.reqs.map fun x => if x.tag = tag then { x with err := some st } else x } }
    | none => c
  let c : Ctx := { c with fl := { c.fl with
    loads := c.fl.loads.map fun l => if l.tag = tag ∧ l.got.isNone = true then { l with got := some (st, bs) } else l } }
  match c.fl.unacked.find? (·.tag == tag) with
  | some u => { c with fl := { c.fl with
      unacked := c.fl.unacked.filter (·.tag != tag)
      late := if st = AccStatus.done then c.fl.late else c.fl.late ++ [⟨statusCause st, u.pc, u.va, []⟩] } }
  | none => c

/-- Whether a context waits for the answer of a request. -/
def asksFor (tag : Nat) (c : Ctx) : Bool := c.fl.reqs.any (·.tag == tag) || c.fl.loads.any (·.tag == tag)

/-- The tag group of an answer that brings data on a station in skid mode is awaited (R45); its time is free (log 83). A copy-engine read
has its data before that (R406). -/
def skidAnswer (tag : Nat) (s : State) : State :=
  let skids (k : Nat) : Bool := match s.fab.st[k]? with | some t => t.mode | none => false
  match s.fab.farOps.find? (·.tag == tag) with
  | some o =>
    if skids o.station then
      let at_ := s.clock + Config.skidClocks s.free
      let early (c : Ctx) : Bool := c.fl.reqs.any fun r => r.tag == tag && r.q == qbit (some .copy)
      mapBanks (fun c => if asksFor tag c then { c with fl := { c.fl with
          skid := Nat.max c.fl.skid at_
          skidTags := (if early c then [tag] else []) ++ (if s.clock < c.fl.skid then c.fl.skidTags else []) } } else c)
        { s with free := s.free + 1 }
    else s
  | none => s

/-- The occurrence that delivers an answer to the registers of the bank that asked. -/
def answerDue (tag : Nat) (s : State) : Option Event :=
  (banks s).findSome? fun (n, _, c) => (c.fl.loads.find? fun l => l.tag == tag && !isOpk l.ins).map fun l =>
    if plainLoad l.ins then Event.loadResponse n tag else Event.atomicResponse n tag

/-- An answer from a peer or a host (R90), also to a packet check that reads a line there (R30). Tag 0 is no request's. -/
def answerArrives (tag : Nat) (st : AccStatus) (bs : List Byte) (s : State) : State :=
  if tag = 0 then s
  else
    let s : State := mapBanks (answerCtx tag st bs) (skidAnswer tag s)
    let images := s.dist.images.map fun i => { i with ctx := answerCtx tag st bs i.ctx }
    let lines := s.dist.lines.map fun l => if l.tag = tag then { l with got := some (st, bs) } else l
    let ops := s.fab.farOps.filter (·.tag != tag)
    let s := { s with dist := { s.dist with images := images, lines := lines }, fab := { s.fab with farOps := ops } }
    let s := match answerDue tag s with | some e => raiseDue e s | none => s
    relCheck (dropOrphan tag s)

/-- REMOTE_RESPONSE (R90). -/
def execRemoteResponse (s : State) : Host.Outcome State Fault Refusal :=
  match s.now with
  | some (.remoteResponse tag st bs) => .next (answerArrives tag st bs s)
  | _ => .next s

/-! ## Cast groups (R101 to R107, R445) -/

/-- Group control of another device (R399): it joins, or tells which planes can carry its groups now, or leaves. A frozen group holds it. -/
def groupControl (src : Fin 1024) (g : Fin 4096) (join : Bool) (size : Nat) (planes : BitVec 24) (s : State) : State :=
  if !join then leaveGroup g src s
  else (joinPeer src g size planes s).getD { s with held := s.held ++ [.groupControl src g join size planes] }

/-- CAST_STAMP (R101): a cast store, or group control, reaches the switch; and any item, as its Caten header says (R401). -/
def execCastStamp (s : State) : Host.Outcome State Fault Refusal :=
  match s.now with
  | some (.castStamp c) => .next (stampStore c s)
  | some (.groupControl src g join size planes) => .next (groupControl src g join size planes s)
  | some (.catenItem plane w0 w1 data) => .next (takeItem plane w0 w1 data s)
  | _ => .next s

/-- STAMPED (R102): the member applies or records the store; its sender sees it stamped. -/
def execStamped (s : State) : Host.Outcome State Fault Refusal :=
  match s.now with
  | some (.stamped n c) => .next (seenStamped n c (receiveStore c.g n c s))
  | _ => .next s

/-- A gap request is answered from the ring (R104): the numbers asked for that it still holds. -/
def answerGap (src : Fin 1024) (g : Fin 4096) (first : BitVec 32) (count : Nat) (s : State) : State :=
  match memberOf s g with
  | none => s
  | some m =>
    let numbers := (List.range (Nat.min count 256)).scanl (fun x _ => seqSucc x) first
    (numbers.take (Nat.min count 256)).foldl (fun s n => match m.ring.find? (·.1 == n) with
      | some (_, c) => send (castMsg src.val 3 n c) s
      | none => s) s

/-- GAPREQ. -/
def execGapreq (s : State) : Host.Outcome State Fault Refusal :=
  match s.now with
  | some (.gapreq src g first count) => .next (answerGap src g first count s)
  | _ => .next s

/-- REPLAY (R104). -/
def execReplay (s : State) : Host.Outcome State Fault Refusal :=
  match s.now with
  | some (.replay n c) => .next (receiveStore c.g n c s)
  | _ => .next s

/-- Whether the gap that a member stands before has not been filled within 50 µs (R104). -/
def gapLate (s : State) (m : Member) : Bool :=
  !m.joining && !m.frozen && (match gapSince m with | some t => t + micros 50 ≤ s.clock | none => false)

/-- GAP_TIMEOUT (R104): the held stores go, and the member is in GAP. -/
def gapOver (g : Fin 4096) (s : State) : State :=
  updMember g (fun m => if gapLate s m then { m with gap := true, kept := [] } else m) s

/-- GAP_TIMEOUT. -/
def execGapTimeout (s : State) : Host.Outcome State Fault Refusal :=
  match s.now with
  | some (.gapTimeout g) => .next (gapOver g s)
  | _ => .next s

/-- PLANE_FAILURE (R105). -/
def execPlaneFailure (s : State) : Host.Outcome State Fault Refusal :=
  match s.now with
  | some (.planeFailure k) => .next (failPlane k.val s)
  | _ => .next s

/-- MEMBER_REMOVAL (R445). -/
def execMemberRemoval (s : State) : Host.Outcome State Fault Refusal :=
  match s.now with
  | some (.memberRemoval dev) => .next (removeMember dev s)
  | _ => .next s

/-! ## Reductions (R108 to R111, R313, R402) -/

/-- RED (R108). -/
def execRed (s : State) : Host.Outcome State Fault Refusal :=
  match s.now with
  | some (.red c) => .next (contribute c s)
  | _ => .next s

/-- REDUCTION_TIMEOUT (R110). -/
def execReductionTimeout (s : State) : Host.Outcome State Fault Refusal :=
  match s.now with
  | some (.reductionTimeout g tag) => .next (slotTimeout g tag s)
  | _ => .next s

/-- Sixteen timeouts after an INCOMPLETE release its fence ends (R110). -/
def fenceOver (g : Fin 4096) (tag : BitVec 16) (s : State) : State :=
  let past (x : RedFence) : Bool := x.g == g && x.tag == tag && x.since + 16 * redTimeout s g ≤ s.clock
  { s with fab := { s.fab with fences := s.fab.fences.filter (!past ·) } }

/-- REDUCTION_FENCE_EXPIRY. -/
def execReductionFenceExpiry (s : State) : Host.Outcome State Fault Refusal :=
  match s.now with
  | some (.reductionFenceExpiry g tag) => .next (fenceOver g tag s)
  | _ => .next s

/-- Changes the contributions of this device to a pair. -/
def updFreds (g : Fin 4096) (tag : BitVec 16) (f : FredRec → FredRec) (s : State) : State :=
  { s with fab := { s.fab with freds := s.fab.freds.map fun x => if x.item.g = g ∧ x.item.tag = tag then f x else x } }

/-- The earliest contribution of this device to a pair that waits to be accepted. -/
def pendingFred (s : State) (g : Fin 4096) (tag : BitVec 16) : Option Nat :=
  (s.fab.freds.find? fun f => f.item.g == g && f.item.tag == tag && !f.counted && f.out.isNone).map (·.id)

/-- REDRES (R313): the result is kept for every contribution that counted. -/
def execRedres (s : State) : Host.Outcome State Fault Refusal :=
  match s.now with
  | some (.redres g tag r) => .next (updFreds g tag (fun f => if f.counted && f.out.isNone then { f with out := some r } else f) s)
  | _ => .next s

/-- A NACK (R402): status 5 asks for the resending of R108; 2 and 3 are outcomes (R111). -/
def nack (g : Fin 4096) (tag : BitVec 16) (st : BitVec 3) (s : State) : State :=
  match pendingFred s g tag with
  | none => s
  | some k => updFreds g tag (fun f =>
      if f.id ≠ k then f
      else if st = 5 then { f with resend := true, since := if f.resend then f.since else s.clock }
      else { f with resend := false, out := some ⟨st, false, 0, 0, 0⟩ }) s

/-- REDNACK. -/
def execRednack (s : State) : Host.Outcome State Fault Refusal :=
  match s.now with
  | some (.rednack g tag st) => .next (nack g tag st s)
  | _ => .next s

/-- FRED_RESEND (R108): after the back-off. -/
def execFredResend (s : State) : Host.Outcome State Fault Refusal :=
  match s.now with
  | some (.fredResend g tag) =>
    .next ((s.fab.freds.filter fun f => f.item.g == g && f.item.tag == tag && f.resend).foldl (fun s f => sendRed f.item s) s)
  | _ => .next s

/-! ## Releases (R98) -/

/-- REL: the marker stands at the switch until the stores that it counts are acknowledged. -/
def execRel (s : State) : Host.Outcome State Fault Refusal :=
  match s.now with
  | some (.rel p src m) => .next (relCheck { s with fab := { s.fab with rels := s.fab.rels ++ [(p.val, src, m)] } })
  | _ => .next s

/-- RELDONE. -/
def execReldone (s : State) : Host.Outcome State Fault Refusal :=
  match s.now with
  | some (.reldone p m) => .next (releaseDone p.val m s)
  | _ => .next s

/-! ## Page faults at their home (R418) -/

/-- KIND of a fault record. -/
def kindCode : AccKind → Nat
  | .read => 0
  | .write => 1
  | .readWrite => 2
  | .fetch => 3

/-- The signal per record (R418); one that meets a full early table waits (R119). -/
def signalPager (s : State) : State :=
  let h := s.mmio.fqsig
  if h = 0 then s else (signal h s).getD { s with held := s.held ++ [.signalArrival s.dev 0 h] }

/-- A fault reaches the fault processor: without a fault queue it is refused, as every fault then is; else it joins its page's list, or
opens one with a record in the queue; a full table or queue holds it. -/
def openFault (src : Fin 1024) (asid : BitVec 16) (page : BitVec 36) (kind : AccKind) (uid : Nat) (s : State) : State :=
  let mine (w : Waiters) : Bool := w.asid == asid && w.page == page
  match faultQueue s with
  | none => answerWaiter .refuseAbsent (src.val, uid) s
  | some (pa, tail, head, cap) =>
      if s.xl.waiters.any mine then
        { s with xl := { s.xl with waiters := s.xl.waiters.map fun w => if mine w then { w with who := w.who ++ [(src.val, uid)] } else w } }
      else if 4096 ≤ s.xl.waiters.length ∨ (tail + 2 ^ 32 - head) % 2 ^ 32 = cap then
        { s with held := s.held ++ [.pageFaultMessage src asid page kind uid] }
      else
        let r := fields [(asid.toNat, 48), (page.toNat, 12), (kindCode kind, 0)]
        let m := (unitLenq pa (pa + 16 + 8 * cap) r.toNat none s.mem).2
        signalPager { s with mem := m, xl := { s.xl with waiters := s.xl.waiters ++ [⟨asid, page, kind, true, [(src.val, uid)]⟩] } }

/-- PAGE_FAULT_MESSAGE. -/
def execPageFaultMessage (s : State) : Host.Outcome State Fault Refusal :=
  match s.now with
  | some (.pageFaultMessage src asid page kind uid) => .next (openFault src asid page kind uid s)
  | _ => .next s

/-! ## Shootdowns (R416, R421) -/

/-- A holder removes its translations; it acknowledges once what it translated has been performed and, at an ASIDRET, the
ASID is not BOUND here. Until then the message waits. -/
def holderDrops (src : Fin 1024) (asid : BitVec 16) (range : Option (W64 × Nat)) (s : State) : State :=
  let s := dropTlb asid (range.map fun r => (r.1.toNat, r.2)) s
  if farAccess s asid || (range.isNone && asidBound s asid) then { s with held := s.held ++ [.tlbShootdown src asid range] }
  else send (.words 6 src.val [asid.setWidth 64]) s

/-- TLB_SHOOTDOWN. -/
def execTlbShootdown (s : State) : Host.Outcome State Fault Refusal :=
  match s.now with
  | some (.tlbShootdown src asid range) => .next (holderDrops src asid range s)
  | _ => .next s

/-- SHOOTDOWN_ACK: one acknowledgement of a holder; a retiring ASID with none outstanding becomes FREE. -/
def execShootdownAck (s : State) : Host.Outcome State Fault Refusal :=
  match s.now with
  | some (.shootdownAck src asid) =>
    .next (freeAsid asid { s with xl := { s.xl with asids := s.xl.asids.map fun b =>
      if b.asid = asid then { b with acks := b.acks.erase src.val } else b } })
  | _ => .next s

/-- Whether holders of a retiring ASID have not acknowledged for 1 ms, or for 1 ms more (R421). -/
def holdersLate (s : State) (b : AsidEnt) : Bool := b.retiring && !b.acks.isEmpty && b.since + micros 1000 ≤ s.clock

/-- HOLDERS_OUTSTANDING (R421): after 1 ms, and once every 1 ms after that. -/
def execHoldersOutstanding (s : State) : Host.Outcome State Fault Refusal :=
  match s.now with
  | some (.holdersOutstanding asid) =>
    .next (match bindOf s.xl asid with
      | some b =>
        if holdersLate s b then
          let again (e : AsidEnt) : AsidEnt := if e.asid = asid then { e with since := s.clock } else e
          event 4 5 wholeDevice (asid.setWidth 64) (BitVec.ofNat 64 b.acks.eraseDups.length)
            { s with xl := { s.xl with asids := s.xl.asids.map again } }
        else s
      | none => s)
  | _ => .next s

/-! ## Stations (R400, R404 to R406) -/

/-- Changes a station. -/
def updStation (k : Fin 24) (f : Station → Station) (s : State) : State :=
  { s with fab := { s.fab with st := s.fab.st.set k (f s.fab.st[k]) } }

/-- Flits of a station's receive buffer (R399): 512 for each active lane. -/
def bufferFlits (width : Fin 4) : Nat := match width with | 0 => 0 | 1 => 512 | 2 => 1024 | _ => 2048

/-- The reserve of a virtual channel (R399). -/
def reserve (ch : Nat) : Nat := [256, 256, 128, 64, 128, 64, 64, 32].getD ch 0

/-- The reserves of the channels that a parking mask leaves. -/
def reserves (parked : BitVec 8) : Nat := ((List.range 8).map fun c => if parked.getLsbD c then 0 else reserve c).foldl (· + ·) 0

/-- The channels parked at a width: in the table's order until the reserves fit (R399, R400). -/
def parkedAt (width : Fin 4) : BitVec 8 :=
  if width = 0 then 0
  else [5, 2, 3, 0].foldl (fun (m : BitVec 8) c => if reserves m ≤ bufferFlits width then m else m ||| BitVec.ofNat 8 (2 ^ c)) 0

/-- The event of a station (R438). -/
def stationEvent (k : Fin 24) (s : State) : State :=
  event 4 1 wholeDevice (BitVec.ofNat 64 k.val) (stcfgWord s.fab.st[k]) s

/-- A release that counts stores of a failed station waits for the stations that carry them now in its place (R98): the markers of
its new planes go out. -/
def moveRelease (k : Nat) (lost : List FarOp) (f : FrelRec) (s : State) : State :=
  if !f.planes.contains k then s
  else
    let now (o : FarOp) : Nat := stationOf s ((o.dev * 2 ^ 44 + opAddress o.op) / 64)
    let new := (((lost.filter fun o => f.tags.contains o.tag).map now).eraseDups).filter fun p => !f.planes.contains p
    let frels := s.fab.frels.map fun x => if x.marker = f.marker then { x with planes := x.planes ++ new } else x
    let s := { s with fab := { s.fab with frels := frels } }
    let s := new.foldl (fun s p => match s.fab.st[p]? with
      | some t => if t.dorvia then sendRel (Fin.ofNat 24 p) f.marker s else s
      | none => s) s
    relCheck (releaseDone k f.marker s)

/-- A station has failed: the stores that it carried and that are not acknowledged are resent on other stations, which have carried
stores of their contexts from then on (R98). -/
def resendStores (k : Fin 24) (s : State) : State :=
  let lost := s.fab.farOps.filter fun o => farStore o && o.station == k.val
  let now (o : FarOp) : Nat := stationOf s ((o.dev * 2 ^ 44 + opAddress o.op) / 64)
  let ops := s.fab.farOps.map fun o => if lost.contains o then { o with station := now o } else o
  let carry (c : Ctx) : Ctx :=
    let mine := lost.filter fun o => c.fl.unacked.any (·.tag == o.tag)
    { c with fl := { c.fl with carried := mine.foldl (fun m o => m ||| BitVec.ofNat 24 (2 ^ now o)) c.fl.carried } }
  let s := mapBanks carry { s with fab := { s.fab with farOps := ops } }
  let images := s.dist.images.map fun i => { i with ctx := carry i.ctx }
  let s := lost.foldl (fun s o => send (.remote o.dev o.tag o.op) s) { s with dist := { s.dist with images := images } }
  s.fab.frels.foldl (fun s f => moveRelease k.val lost f s) s

/-- What a change of a station means to cast groups: those of a plane that can carry them no longer are formed again, and
those that found no plane are tried again (R105, R400). -/
def planesChanged (k : Fin 24) (s : State) : State :=
  let s := if (s.fab.st[k]).width = 0 then resendStores k s else s
  retryFrozen (if planeUp s k.val then s else failPlane k.val s)

/-- STATION_RETRAIN (R400): the station has trained at a width, and has learned whether its switch is one of Dorvia's (R397). -/
def execStationRetrain (s : State) : Host.Outcome State Fault Refusal :=
  match s.now with
  | some (.stationRetrain k width dorvia) =>
    .next (planesChanged k (stationEvent k (updStation k (fun t =>
      { t with width := width, parked := parkedAt width, dorvia := dorvia, tagFails := 0 }) s)))
  | _ => .next s

/-- A link retrains, at the width that it has (R404, R406): a lane lost is an occurrence of its own. -/
def retrainLink (k : Fin 24) (s : State) : State := raiseDue (.stationRetrain k (s.fab.st[k]).width (s.fab.st[k]).dorvia) s

/-- A tag group that was held fails its check (R406): it is discarded and resent; the fourth failure one after the other retrains the
link. -/
def heldGroupFails (k : Fin 24) (s : State) : State :=
  let n := (s.fab.st[k]).tagFails + 1
  if n < 4 then updStation k (fun t => { t with tagFails := n }) s
  else retrainLink k (updStation k (fun t => { t with tagFails := 0 }) s)

/-- A tag group fails its check (R406). Of a group that skid mode released before the check, the versions that it carried are marked, the
instances that received its data are killed (R61), and the link retrains. -/
def tagFails (k : Fin 24) (skid : Bool) (tiles : List W64) (tags : List Nat) (s : State) : State :=
  if !skid || !(s.fab.st[k]).mode then heldGroupFails k s
  else
    let s := loseTiles tiles s
    let hit (c : Ctx) : Bool := (s.clock < c.fl.skid && c.fl.skidTags.any tags.contains)
      || c.fl.reqs.any fun r => r.q == qbit (some .copy) && tags.contains r.tag
    let s := (locsOf s).foldl (fun s l => match ctxAt s l with
      | some c => (match c.task with
        | some t => if hit c then killRun l [] (killRec t cKILLED 0) s else s
        | none => s)
      | none => s) s
    retrainLink k s

/-- TAG_FAILURE; also that a group passes, which ends a row of failures. -/
def execTagFailure (s : State) : Host.Outcome State Fault Refusal :=
  match s.now with
  | some (.tagFailure k skid tiles tags) => .next (tagFails k skid tiles tags s)
  | some (.tagPass k) => .next (updStation k (fun t => { t with tagFails := 0 }) s)
  | _ => .next s

/-- A group of toggled phase arrives (R404): it uses the next receive key, and once it has passed the old key is discarded; without a next
key it is held for one. -/
def toggledGroup (passed : Bool) (clock : Nat) (t : Station) : Station :=
  if t.nextRx.isNone then { t with heldKey := t.heldKey.or (some clock) }
  else if passed then { t with rx := t.nextRx, nextRx := none, tagFails := 0 }
  else t

/-- KEY_CHANGEOVER (R404). -/
def execKeyChangeover (s : State) : Host.Outcome State Fault Refusal :=
  match s.now with
  | some (.keyChangeover k passed) => .next (updStation k (toggledGroup passed s.clock) s)
  | _ => .next s

/-- Whether a group has been held for a receive key for 100 µs (R404). -/
def keyHeldOver (s : State) (t : Station) : Bool := match t.heldKey with | some c => c + micros 100 ≤ s.clock | none => false

/-- KEY_HOLD_TIMEOUT (R404): the link retrains, with a link event. -/
def execKeyHoldTimeout (s : State) : Host.Outcome State Fault Refusal :=
  match s.now with
  | some (.keyHoldTimeout k) =>
    .next (if keyHeldOver s s.fab.st[k] then retrainLink k (updStation k (fun t => { t with heldKey := none }) s) else s)
  | _ => .next s

/-- KEY_EXHAUSTED (R405): the station stops, and its traffic moves as if all its channels were parked. -/
def execKeyExhausted (s : State) : Host.Outcome State Fault Refusal :=
  match s.now with
  | some (.keyExhausted k) =>
    .next (if spent s.fab.st[k] then
        planesChanged k (event 4 2 wholeDevice (BitVec.ofNat 64 k.val) 0 (updStation k (fun t => { t with exh := true }) s))
      else s)
  | _ => .next s

end Sys2Proof.Machine
end

