-- ==== Sys2Proof/Machine/EvHost.lean ====
section
/-! DEFINITION. The events of the host port: sessions, sequencing and acknowledgement (R381 to R386), launches (R387 to R390), READ
and WRITE (R391 to R393), MGMT (R394), and accesses to the MMIO registers as operations of their own (R443). -/

namespace Sys2Proof.Machine

/-! ## Sessions (R383 to R385) -/

/-- A session that is open. -/
def sessionOf (s : State) (n : Nat) : Option Session := s.port.sessions.find? (·.num == n)

/-- Changes a session. -/
def updSession (n : Nat) (f : Session → Session) (s : State) : State :=
  { s with port := { s.port with sessions := s.port.sessions.map fun x => if x.num = n then f x else x } }

/-- The window of PSNs that a receiver accepts, and the CREDIT that the device offers (R384). -/
def psnWindow : Nat := 256

/-- The header of an ACK (R382): AV 1, no payload, ACKPSN, CREDIT, and SACK, whose bit i marks PSN ACKPSN + 1 + i. -/
def ackWords (x : Session) : List W64 :=
  let sack := x.early.foldl (fun m e =>
    let d := (e.1 - x.rx).toNat
    if 1 ≤ d ∧ d ≤ 64 then m ||| BitVec.ofNat 64 (2 ^ (d - 1)) else m) (0 : W64)
  [farporHead x.num 0 false true 0, fields [(x.rx.toNat, 32), (psnWindow, 16)], sack]

/-- The device acknowledges what it has received on a session. -/
def sendAck (n : Nat) (s : State) : State :=
  match sessionOf s n with
  | some x => send (.farpor n (wordBytes (ackWords x))) s
  | none => s

/-- A session ends: its windows are set no longer, its launches have it no longer for their COMPLETE, and what the device asked of the host
comes back refused, its stores discarded, counted, and taken as acknowledged (R385). -/
def endSession (n : Nat) (s : State) : State :=
  match sessionOf s n with
  | none => s
  | some x =>
    let s := { s with port := { s.port with sessions := s.port.sessions.filter (·.num != n)
                                            windows := s.port.windows.filter (·.2.1 != n) } }
    let s := { s with dist := { s.dist with launches := s.dist.launches.map fun l => if l.sess = n then { l with sess := 0 } else l } }
    x.asked.foldl (fun s (t, _, isStore) =>
      if isStore then answerArrives t .done [] { s with port := { s.port with hostDrops := s.port.hostDrops + 1 } }
      else answerArrives t .pagePerm [] s) s

/-- A session fails (R385), with an event on those that remain. -/
def failSession (n : Nat) (s : State) : State :=
  match sessionOf s n with
  | none => s
  | some _ => event 4 4 wholeDevice (BitVec.ofNat 64 n) 0 (endSession n s)

/-- A session that is closing ends once its packets are acknowledged (R394). -/
def closeIfDone (n : Nat) (s : State) : State :=
  match sessionOf s n with
  | some x => if x.closing && x.kept.isEmpty then endSession n s else s
  | none => s

/-- Packets that have not left yet leave as the credit admits them (R384). -/
def flush (n : Nat) (s : State) : State :=
  match sessionOf s n with
  | none => s
  | some x =>
    let ready (k : Kept) : Bool := k.sent == 0 && inCredit x k.psn
    let out := x.kept.filter ready
    out.foldl (fun s k => send k.msg s)
      (updSession n (fun x => { x with kept := x.kept.map fun k => if ready k then { k with sent := 1, last := s.clock } else k }) s)

/-- Sends a kept packet again (R384, R385): within the credit, and at most once per timeout. One that a mark has overtaken does not wait for
the timeout of its first sending. The 32nd sending without an acknowledgement fails the session. -/
def resend (overtaken : Bool) (n : Nat) (psn : BitVec 32) (s : State) : State :=
  match sessionOf s n with
  | none => s
  | some x =>
    match x.kept.find? (·.psn == psn) with
    | none => s
    | some k =>
      if k.sent = 0 ∨ (s.clock < k.last + micros x.rto ∧ (overtaken && k.sent == 1) = false) then s
      else if 32 ≤ k.sent then failSession n s
      else if !inCredit x psn then s
      else send k.msg (updSession n (fun x => { x with
        kept := x.kept.map fun y => if y.psn = psn then { y with sent := y.sent + 1, last := s.clock } else y }) s)

/-- An acknowledgement (R384): what it passes or marks is kept no longer, its CREDIT holds, what a later mark has overtaken is
sent again. -/
def takeAck (n : Nat) (ackpsn : BitVec 32) (credit : BitVec 16) (sack : W64) (s : State) : State :=
  match sessionOf s n with
  | none => s
  | some x =>
    if 2 ^ 31 ≤ (ackpsn - x.ackd).toNat then s
    else
      let marked (p : BitVec 32) : Bool := let d := (p - ackpsn).toNat; 1 ≤ d && d ≤ 64 && sack.getLsbD (d - 1)
      let passed (p : BitVec 32) : Bool := 2 ^ 31 ≤ (p - ackpsn).toNat
      let overtaken := (x.kept.filter fun k => !passed k.psn && !marked k.psn && k.sent != 0
        && x.kept.any fun y => marked y.psn && (y.psn - ackpsn).toNat > (k.psn - ackpsn).toNat).map (·.psn)
      let s := updSession n (fun x => { x with
        ackd := ackpsn, credit := Nat.min psnWindow credit.toNat
        kept := x.kept.filter fun k => !passed k.psn && !marked k.psn }) s
      let s := overtaken.foldl (fun s p => resend true n p s) s
      closeIfDone n (flush n s)

/-- FARPOR_ACK (R384). -/
def execFarporAck (s : State) : Host.Outcome State Fault Refusal :=
  match s.now with
  | some (.farporAck sess ackpsn credit sack) => .next (takeAck sess.val ackpsn credit sack s)
  | _ => .next s

/-- RETRANSMISSION_TIMEOUT (R384). -/
def execRetransmissionTimeout (s : State) : Host.Outcome State Fault Refusal :=
  match s.now with
  | some (.retransmissionTimeout sess psn) => .next (resend false sess.val psn s)
  | _ => .next s

/-- A dropped frame or packet is counted. -/
def dropOne (s : State) : State := { s with port := { s.port with drops := s.port.drops + 1 } }

/-! ## Launches (R387, R388) -/

/-- The packets of a payload, as their LEN fields tile it; none where they do not tile it exactly. -/
def tilePackets : Nat → List W64 → Option (List (List W64))
  | 0, ws => if ws.isEmpty then some [] else none
  | n + 1, ws =>
    let len := pktWords ws
    if ws.isEmpty || ws.length < len then none else (tilePackets n (ws.drop len)).map (ws.take len :: ·)

/-- Whether a LAUNCH may name a handle: none, or one that MGMT RESERVE issued and that is not published (R388). -/
def launchHandleOk (s : State) (used : List W64) (h : W64) : Bool :=
  h == 0 || (!used.contains h && match slotOf s h with | some x => x.st == .reserved && x.owner.isNone | none => false)

/-- What the checks of a launch found: the packets accepted, the handles that they name, how many are rejected, and the offset and the rule
of the first of those, and whether an entry's line is still on its way from another device (R30). -/
structure LaunchChecks where
  accepted : List (List W64) := []
  used : List W64 := []
  nrej : Nat := 0
  rejoff : Nat := 0
  rejrule : Nat := 0
  waits : Bool := false

/-- Checks the packets in order (R30, R34, R388, R390); `off` is the first one's byte offset in the payload. -/
def checkPackets (asid : BitVec 16) : List (List W64) → Nat → LaunchChecks → State → LaunchChecks × State
  | [], _, c, s => (c, s)
  | p :: r, off, c, s =>
    let (found, s) := packetRule s asid p
    let rule := (found.getD none).or (if launchHandleOk s c.used (pktHandle p) then none else some 14)
    let c := match rule with
      | none => { c with accepted := c.accepted ++ [p], used := pktHandle p :: c.used }
      | some k => { c with nrej := c.nrej + 1, rejoff := if c.nrej = 0 then off else c.rejoff, rejrule := if c.nrej = 0 then k else c.rejrule }
    checkPackets asid r (off + 8 * p.length) { c with waits := c.waits || found.isNone } s

/-- Whether the master distributor can hold some more packets (R112, R318, R388): a packet with a null handle takes a new slot, one with a
reserved handle has its slot. -/
def canHold (s : State) (ps : List (List W64)) : Bool :=
  s.dist.queue.length + ps.length ≤ 2 ^ 20
    && (s.dist.slots.filter (·.st != .exited)).length + (ps.filter fun p => pktHandle p == 0).length ≤ slotCount

/-- A LAUNCH: BAD, then the checks, BUSY, and the publication of every accepted packet at once; a launch that publishes
nothing is answered at once. The flag says that it waits for the line of an entry on another device; nothing has happened then. The spec
gives no outcome for a payload of more than 8,160 bytes of packets: that it is then a launch like any other is the model's choice
(log 118). -/
def launch (sess : Nat) (ws : List W64) (s : State) : Bool × State :=
  match sessionOf s sess with
  | none => (false, s)
  | some x =>
    let w3 := ws.getD 3 0
    let asid : BitVec 16 := BitVec.ofNat 16 (bits w3 63 48); let npkt := bits w3 47 40
    let (u, s) := takeUid s
    let key : W64 := fields [(s.dev.val, 54), (u % 2 ^ 54, 0)]
    let l : Launch := { key := key, id := ws.headD 0, sess := sess, host := x.host, asid := asid }
    let refuse (status : Nat) (l : Launch) (s : State) : Bool × State := (false, farporSend sess 4 false (completion status l) s)
    match tilePackets npkt (ws.drop 4) with
    | none => refuse 3 l s
    | some ps =>
      if npkt = 0 || !asidBound s asid || bits w3 39 0 != 0 || ws.length < 4 then refuse 3 l s
      else
        let (c, s) := checkPackets asid ps 32 {} s
        if c.waits then (true, s)
        else
          let s := dropLines s
          let l := { l with nrej := c.nrej, rejoff := c.rejoff, rejrule := c.rejrule }
          if !canHold s c.accepted then refuse 2 l s
          else
            let info : SpawnInfo := ⟨key, asid, cat128 (ws.getD 2 0) (ws.getD 1 0), ws.headD 0⟩
            let l := { l with live := c.accepted.length }
            let s := { s with dist := { s.dist with launches := l :: s.dist.launches } }
            let s := c.accepted.foldl (fun s p =>
              if pktHandle p = 0 then
                (match reserveSlot (some key) s with
                 | (some h, s) => publish h p info none s
                 | (none, s) => s)
              else publish (pktHandle p) p info none s) s
            (false, closeLaunch key (feed s))

/-! ## READ and WRITE of the host (R391, R392) -/

/-- STATUS of an access (R391). -/
def statusCode : AccStatus → Nat
  | .done => 0
  | .pageAbsent => 1
  | .pagePerm => 2
  | .ecc => 3
  | .straddle => 4
  | .bad => 5

/-- The checks of a host request (R392): under the named ASID, in the mode in which its tasks start (log 31); it has no local window. -/
def hostSegs (perm : Perm) (addr : W64) (asid : BitVec 16) (n : Nat) (s : State) : Sum AccStatus (List Seg) × State :=
  if n = 0 || 8176 < n || !asidBound s asid then (.inl .bad, s)
  else if addr.toNat < 0x180000 then (.inl .pagePerm, s)
  else
    match check [] s asid (asid == 0) 0 (.host (asid == 0 && addr.toNat % 4 == 0 && n % 4 == 0)) perm addr.toNat n with
    | (.ok gs, s) => (.inr gs, s)
    | (.trap c _, s) =>
      if c = cECC then
        (.inl .ecc, match unreadableAt s asid addr.toNat n with
          | some ea => event 2 4 wholeDevice (BitVec.ofNat 64 ea) (asid.setWidth 64) s
          | none => s)
      else (.inl (if c = cSTRADDLE then .straddle else .pagePerm), s)
    | (.absent _ _, s) => (.inl .pageAbsent, s)

/-- The register parts that a run of MMIO bytes covers: whole registers where it covers them, halves at its ends. -/
def mmioParts : Nat → Nat → Nat → List (Nat × Nat)
  | 0, _, _ => []
  | k + 1, pa, n =>
    if n = 0 then []
    else if pa % 8 = 0 ∧ 8 ≤ n then (pa, 8) :: mmioParts k (pa + 8) (n - 8)
    else (pa, 4) :: mmioParts k (pa + 4) (n - 4)

/-- Reads one segment for the host; none for an uncorrectable error. -/
def hostReadSeg (g : Seg) (s : State) : Option (List Byte) × State :=
  if g.ty = 6 then
    let (bs, s) := (mmioParts g.len g.pa g.len).foldl (fun (bs, s) (pa, n) =>
      let (v, s) := mmioReadOp pa (halfAt pa n) s
      (bs ++ bytesOf n v.toNat, s)) ([], s)
    (some bs, s)
  else match s.mem.poisoned g.pa g.len with
    | some _ => (none, s)
    | none => (some (s.mem.read g.key g.pa g.len), s)

/-- Reads the segments of a host request. -/
def hostReadSegs : List Seg → State → Option (List Byte) × State
  | [], s => (some [], s)
  | g :: r, s =>
    match hostReadSeg g s with
    | (none, s) => (none, s)
    | (some bs, s) =>
      match hostReadSegs r s with
      | (none, s) => (none, s)
      | (some cs, s) => (some (bs ++ cs), s)

/-- Writes the segments of a host request. -/
def hostWriteSegs : List Seg → List Byte → State → State
  | [], _, s => s
  | g :: r, bs, s =>
    let mine := bs.take g.len
    let s := if g.ty = 6 then
        (mmioParts g.len g.pa g.len).foldl (fun s (pa, n) =>
          mmioWriteOp pa (halfAt pa n) (BitVec.ofNat 64 (natOf ((mine.drop (pa - g.pa)).take n))) s) s
      else { s with mem := s.mem.write g.key g.pa mine }
    hostWriteSegs r (bs.drop g.len) s

/-- Bytes as the 8-byte words of a payload, the last filled with zeros. -/
def payloadWords (bs : List Byte) : List W64 :=
  (List.range ((bs.length + 7) / 8)).map fun k => BitVec.ofNat 64 (natOf ((bs.drop (8 * k)).take 8))

/-- The response to an access of the host (R391). -/
def answerAccess (sess ty : Nat) (addr : W64) (asid : BitVec 16) (st : AccStatus) (len : BitVec 32) (data : List Byte) (s : State) : State :=
  sessSend sess ty true none (wordBytes (accessHead addr asid.toNat (statusCode st) len.toNat) ++ data) s

/-- A host READ is served (R392). -/
def serveRead (sess : Nat) (addr : W64) (asid : BitVec 16) (len : BitVec 32) (s : State) : State :=
  match hostSegs .rd addr asid len.toNat s with
  | (.inl st, s) => answerAccess sess 2 addr asid st len [] s
  | (.inr gs, s) =>
    match hostReadSegs gs s with
    | (none, s) => answerAccess sess 2 addr asid .ecc len [] s
    | (some bs, s) => answerAccess sess 2 addr asid .done len bs s

/-- A host WRITE is performed and then answered (R91, R392). -/
def serveWrite (sess : Nat) (addr : W64) (asid : BitVec 16) (len : BitVec 32) (bs : List Byte) (s : State) : State :=
  if bs.length ≠ len.toNat then answerAccess sess 3 addr asid .bad len [] s
  else match hostSegs .wr addr asid len.toNat s with
    | (.inl st, s) => answerAccess sess 3 addr asid st len [] s
    | (.inr gs, s) => answerAccess sess 3 addr asid .done len [] (hostWriteSegs gs bs s)

/-! ## MGMT (R394) -/

/-- The response to a MGMT request: its operation word with the status, and what it returns. -/
def mgmtAnswer (sess op : Nat) (ok : Bool) (ws : List W64) (s : State) : State :=
  farporSend sess 5 true (fields [(op, 56), (if ok then 0 else 1, 0)] :: ws) s

/-- Runs an operation that only management addresses may order; none is a refusal. -/
def managed (sess op : Nat) (f : State → Option (List W64 × State)) (s : State) : State :=
  match sessionOf s sess with
  | none => s
  | some x =>
    match if x.mgmt then f s else none with
    | some (ws, s) => mgmtAnswer sess op true ws s
    | none => mgmtAnswer sess op false [] s

/-- OPEN (R383, R394): on session 0, which is not sequenced; from an address that the boot image lists, while the device is
READY; refused for a session that is open or that does not exist. -/
def openSession (host n : Nat) (rx tx : BitVec 32) (s : State) : State :=
  match assoc s.bob.hosts host with
  | none => s
  | some mgmt =>
    if s.bob.phase ≠ 6 then s
    else
      let ok := 1 ≤ n && n ≤ 64 && (sessionOf s n).isNone
      let x : Session := { num := n, host := host, mgmt := mgmt, rx := rx, tx := tx, ackd := tx }
      let s := if ok then { s with port := { s.port with sessions := x :: s.port.sessions } } else s
      send (farporPacket 0 5 true 0 (wordBytes [fields [(1, 56), (if ok then 0 else 1, 0)]])) s

/-- OPEN. -/
def execMgmtOpen (s : State) : Host.Outcome State Fault Refusal :=
  match s.now with
  | some (.mgmtOpen host n rx tx) => .next (openSession host n.val rx tx s)
  | _ => .next s

/-- CLOSE: the session ends once its packets, the answer among them, are acknowledged. -/
def closeSession (n : Nat) (s : State) : State := updSession n (fun x => { x with closing := true }) (mgmtAnswer n 2 true [] s)

/-- RESERVE: handles that the host may publish under. -/
def reserveMany : Nat → State → Option (List W64 × State)
  | 0, s => some ([], s)
  | k + 1, s =>
    match reserveSlot none s with
    | (some h, s) => (reserveMany k s).map fun r => (h :: r.1, r.2)
    | (none, _) => none

/-- RELEASE: refused, without effect, unless every handle is one that the host reserved and nothing has published. -/
def releaseMany (hs : List W64) (s : State) : Option (List W64 × State) :=
  if hs.all fun h => h != 0 && launchHandleOk s [] h then some ([], hs.foldl (fun s h => freeReserved h s) s) else none

/-- WINDOW: refused for a session that is not open. -/
def setWindow (w : Nat) (onSess : Nat) (base : W64) (s : State) : Option (List W64 × State) :=
  if (sessionOf s onSess).isNone then none
  else some ([], { s with port := { s.port with windows := (w, onSess, base) :: s.port.windows.filter (·.1 != w) } })

/-- RTO: 2 to 1,000 µs. -/
def setRto (n us : Nat) (s : State) : Option (List W64 × State) :=
  if us < 2 ∨ 1000 < us then none else some ([], updSession n (fun x => { x with rto := us }) s)

/-! ## Sequenced packets (R384, R386) -/

/-- The host answers a request of the device. -/
def hostAnswer (n tag : Nat) (st : AccStatus) (bs : List Byte) (s : State) : State :=
  answerArrives tag st bs (updSession n (fun x => { x with asked := x.asked.filter (·.1 != tag) }) s)

/-- A packet other than a LAUNCH is processed in its turn. A MGMT request that is none of the table's, or whose operands are out of range,
is refused; what else has no meaning at the device takes its turn without effect (log 119). -/
def processPacket (e : Event) (s : State) : State :=
  match e with
  | .hostRead n _ addr asid len => serveRead n.val addr asid len s
  | .hostWrite n _ addr asid len bs => serveWrite n.val addr asid len bs s
  | .hostReadResponse n _ tag st bs => hostAnswer n.val tag st bs s
  | .hostWriteResponse n _ tag st => hostAnswer n.val tag st [] s
  | .mgmtClose n _ => closeSession n.val s
  | .mgmtReserve n _ k => managed n.val 3 (fun s => if k < 1 ∨ 64 < k then none else reserveMany k s) s
  | .mgmtRelease n _ hs => managed n.val 4 (releaseMany hs) s
  | .mgmtWindow n _ w on_ base => managed n.val 5 (setWindow w.val on_.val base) s
  | .mgmtRto n _ us => managed n.val 6 (setRto n.val us) s
  | .frame f =>
    let w0 := natOf (f.payload.take 8)
    if w0 / 2 ^ 55 % 32 = 10 then mgmtAnswer (w0 / 2 ^ 32 % 2 ^ 16) (natOf (f.payload.drop 24 |>.take 8) / 2 ^ 56) false [] s else s
  | _ => s

/-- The packets whose turn has come, in PSN order. A LAUNCH that waits for a line keeps its turn, and is tried again. -/
def processReady (n : Nat) : Nat → State → State
  | 0, s => s
  | k + 1, s =>
    match sessionOf s n with
    | none => s
    | some x =>
      match x.early.find? (·.1 == x.rx) with
      | none => s
      | some (p, e) =>
        let taken (s : State) : State := updSession n (fun x => { x with rx := x.rx + 1, early := x.early.filter (·.1 != p) }) s
        match e with
        | .launch _ _ ws =>
          (match launch n ws s with
           | (false, s) => processReady n k (taken s)
           | (true, s) => { s with held := s.held ++ [e] })
        | e => processReady n k (processPacket e (taken s))

/-- A sequenced packet arrives (R384): in the window it is kept for its turn, once; below it is acknowledged again; above it is
dropped. A packet of a session that is not open is dropped. -/
def packetIn (n : Nat) (psn : BitVec 32) (e : Event) (s : State) : State :=
  match sessionOf s n with
  | none => s
  | some x =>
    let d := (psn - x.rx).toNat
    if d < psnWindow then
      let s := if x.early.any (·.1 == psn) then s else updSession n (fun x => { x with early := x.early ++ [(psn, e)] }) s
      sendAck n (processReady n (psnWindow + 1) s)
    else if 2 ^ 31 ≤ d then sendAck n s
    else s

/-! ## Frames (R381, R382) -/

/-- Whether the table of R381 admits a frame; the EtherType of IPv6 and the next header of UDP are the standards' (log 119). -/
def frameOk (s : State) (f : Frame) : Bool :=
  f.bytes ≤ 9216 && f.tags ≤ 1 && f.ethertype == 0x86DD && f.nextHeader == 17 && f.port == s.port.udp && f.sumOk

/-- Whether a Farpor header is one that R382 admits. -/
def headerOk (packet : List Byte) : Bool :=
  let w0 : W64 := BitVec.ofNat 64 (natOf (packet.take 8)); let w1 : W64 := BitVec.ofNat 64 (natOf (packet.drop 8 |>.take 8))
  24 ≤ packet.length && bits w0 63 60 == 1 && bits w0 59 56 ≤ 6 && bits w0 53 48 == 0 && bits w1 15 0 == packet.length - 24

/-- STATUS of an access, read (R391). -/
def statusOf (n : Nat) : AccStatus := match n with | 0 => .done | 1 => .pageAbsent | 3 => .ecc | 4 => .straddle | 5 => .bad | _ => .pagePerm

/-- The oldest request of the device on a session for a host address: a READ or a WRITE (log 119); 0 where there is none. -/
def askedTag (x : Session) (addr : W64) (store : Bool) : Nat :=
  ((x.asked.find? fun t => t.2.1 == addr && t.2.2 == store).map (·.1)).getD 0

/-- What a packet of an open session asks for, by its header and its payload (R382, R387, R391, R394); the frame itself where that is
nothing that the tables give. Each operand of a MGMT request is an 8-byte word (log 119). -/
def packetEvent (x : Session) (n : Fin 65) (f : Frame) : Event :=
  let w (k : Nat) : W64 := BitVec.ofNat 64 (natOf (f.payload.drop (8 * k) |>.take 8))
  let body := f.payload.drop 24; let psn : BitVec 32 := (w 0).setWidth 32
  let addr := w 3; let acc := w 4; let data := body.drop 16
  let resp := (w 0).getLsbD 55
  match bits (w 0) 59 56, resp with
  | 1, false => .launch n psn (payloadWords body)
  | 2, false => .hostRead n psn addr (BitVec.ofNat 16 (bits acc 63 48)) (acc.setWidth 32)
  | 2, true => .hostReadResponse n psn (askedTag x addr false) (statusOf (bits acc 47 32)) data
  | 3, false => .hostWrite n psn addr (BitVec.ofNat 16 (bits acc 63 48)) (acc.setWidth 32) data
  | 3, true => .hostWriteResponse n psn (askedTag x addr true) (statusOf (bits acc 47 32))
  | 5, false =>
    let ops := payloadWords (body.drop 8)
    let a := (ops.getD 0 0).toNat; let b := (ops.getD 1 0).toNat
    match bits (w 3) 63 56 with
    | 2 => .mgmtClose n psn
    | 3 => .mgmtReserve n psn a
    | 4 => .mgmtRelease n psn ops
    | 5 => if a < 64 ∧ b < 65 then .mgmtWindow n psn (Fin.ofNat 64 a) (Fin.ofNat 65 b) (ops.getD 2 0) else .frame f
    | 6 => .mgmtRto n psn a
    | _ => .frame f
  | _, _ => .frame f

/-- A packet arrives. Session 0 carries OPEN only (R383); a packet of another host than its session's is dropped (log 119). -/
def packetArrives (f : Frame) (s : State) : State :=
  let w (k : Nat) : W64 := BitVec.ofNat 64 (natOf (f.payload.drop (8 * k) |>.take 8))
  let num := bits (w 0) 47 32
  if num = 0 then
    if bits (w 0) 59 55 = 10 ∧ bits (w 3) 63 56 = 1 then
      (if (w 4).toNat ≤ 64 then openSession f.host (w 4).toNat ((w 5).setWidth 32) ((w 6).setWidth 32) s else openSession f.host 0 0 0 s)
    else s
  else match sessionOf s num with
    | none => s
    | some x =>
      if num > 64 ∨ x.host ≠ f.host then s
      else
        let s := if (w 0).getLsbD 54 then takeAck num (BitVec.ofNat 32 (bits (w 1) 63 32)) (BitVec.ofNat 16 (bits (w 1) 31 16)) (w 2) s else s
        if bits (w 0) 59 56 = 0 then s
        else packetIn num ((w 0).setWidth 32) (packetEvent x (Fin.ofNat 65 num) f) s

/-- A frame arrives (R381, R382): what the tables do not admit is dropped and counted. -/
def frameArrives (f : Frame) (s : State) : State :=
  if !frameOk s f || !headerOk f.payload then dropOne s else packetArrives f s

/-- FRAME_DROP (R381). -/
def execFrameDrop (s : State) : Host.Outcome State Fault Refusal :=
  match s.now with
  | some .frameDrop => .next (dropOne s)
  | some (.frame f) => .next (frameArrives f s)
  | _ => .next s

/-- HEADER_DROP (R382). -/
def execHeaderDrop (s : State) : Host.Outcome State Fault Refusal :=
  match s.now with
  | some .headerDrop => .next (dropOne s)
  | _ => .next s

/-- LAUNCH (R388). -/
def execLaunch (s : State) : Host.Outcome State Fault Refusal :=
  match s.now with
  | some (.launch n psn ws) => .next (packetIn n.val psn (.launch n psn ws) s)
  | _ => .next s

/-- READ (R392). -/
def execHostRead (s : State) : Host.Outcome State Fault Refusal :=
  match s.now with
  | some (.hostRead n psn a i l) => .next (packetIn n.val psn (.hostRead n psn a i l) s)
  | _ => .next s

/-- WRITE (R392). -/
def execHostWrite (s : State) : Host.Outcome State Fault Refusal :=
  match s.now with
  | some (.hostWrite n psn a i l bs) => .next (packetIn n.val psn (.hostWrite n psn a i l bs) s)
  | _ => .next s

/-- HOST_READ_RESPONSE (R393). -/
def execHostReadResponse (s : State) : Host.Outcome State Fault Refusal :=
  match s.now with
  | some (.hostReadResponse n psn t st bs) => .next (packetIn n.val psn (.hostReadResponse n psn t st bs) s)
  | _ => .next s

/-- HOST_WRITE_RESPONSE (R91). -/
def execHostWriteResponse (s : State) : Host.Outcome State Fault Refusal :=
  match s.now with
  | some (.hostWriteResponse n psn t st) => .next (packetIn n.val psn (.hostWriteResponse n psn t st) s)
  | _ => .next s

/-- CLOSE (R394). -/
def execMgmtClose (s : State) : Host.Outcome State Fault Refusal :=
  match s.now with
  | some (.mgmtClose n psn) => .next (packetIn n.val psn (.mgmtClose n psn) s)
  | _ => .next s

/-- RESERVE (R394). -/
def execMgmtReserve (s : State) : Host.Outcome State Fault Refusal :=
  match s.now with
  | some (.mgmtReserve n psn k) => .next (packetIn n.val psn (.mgmtReserve n psn k) s)
  | _ => .next s

/-- RELEASE (R394). -/
def execMgmtRelease (s : State) : Host.Outcome State Fault Refusal :=
  match s.now with
  | some (.mgmtRelease n psn hs) => .next (packetIn n.val psn (.mgmtRelease n psn hs) s)
  | _ => .next s

/-- WINDOW (R393). -/
def execMgmtWindow (s : State) : Host.Outcome State Fault Refusal :=
  match s.now with
  | some (.mgmtWindow n psn w o b) => .next (packetIn n.val psn (.mgmtWindow n psn w o b) s)
  | _ => .next s

/-- RTO (R384). -/
def execMgmtRto (s : State) : Host.Outcome State Fault Refusal :=
  match s.now with
  | some (.mgmtRto n psn us) => .next (packetIn n.val psn (.mgmtRto n psn us) s)
  | _ => .next s

/-! ## MMIO accesses as operations (R443) -/

/-- MMIO_WRITE. -/
def execMmioWrite (s : State) : Host.Outcome State Fault Refusal :=
  match s.now with
  | some (.mmioWrite pa h v) => .next (plainMmioWriteOp pa h v s)
  | _ => .next s

/-- LINCFG_WRITE (R56). -/
def execLincfgWrite (s : State) : Host.Outcome State Fault Refusal :=
  match s.now with
  | some (.lincfgWrite h v) => .next (lincfgWriteOp h v s)
  | _ => .next s

/-- LINSTAT_READ (R57). -/
def execLinstatRead (s : State) : Host.Outcome State Fault Refusal :=
  match s.now with
  | some (.linstatRead h) => .next (linstatReadOp h s).2
  | _ => .next s

/-- PWRCFG_WRITE (R135). -/
def execPwrcfgWrite (s : State) : Host.Outcome State Fault Refusal :=
  match s.now with
  | some (.pwrcfgWrite h v) => .next (pwrcfgWriteOp h v s)
  | _ => .next s

/-- ECWT_WRITE (R129). -/
def execEcwtWrite (s : State) : Host.Outcome State Fault Refusal :=
  match s.now with
  | some (.ecwtWrite h v) => .next (ecwtWriteOp h v s)
  | _ => .next s

/-- THERMCFG_WRITE (R431). -/
def execThermcfgWrite (s : State) : Host.Outcome State Fault Refusal :=
  match s.now with
  | some (.thermcfgWrite h v) => .next (thermcfgWriteOp h v s)
  | _ => .next s

/-- CORE_MAP_WRITE (R122). -/
def execCoreMapWrite (s : State) : Host.Outcome State Fault Refusal :=
  match s.now with
  | some (.coreMapWrite n h v) => .next (coreMapWriteOp n.val h v s)
  | _ => .next s

/-- FANS_WRITE (R419). -/
def execFansWrite (s : State) : Host.Outcome State Fault Refusal :=
  match s.now with
  | some (.fansWrite h v) => .next (fansWriteOp h v s)
  | _ => .next s

/-- FSTAT_READ (R419). -/
def execFstatRead (s : State) : Host.Outcome State Fault Refusal :=
  match s.now with
  | some (.fstatRead h) => .next (fstatReadOp h s).2
  | _ => .next s

/-- STCFG_WRITE (R407). -/
def execStcfgWrite (s : State) : Host.Outcome State Fault Refusal :=
  match s.now with
  | some (.stcfgWrite k h v) => .next (stcfgWriteOp k.val h v s)
  | _ => .next s

/-- HBMHLTH_READ (R439). -/
def execHbmhlthRead (s : State) : Host.Outcome State Fault Refusal :=
  match s.now with
  | some (.hbmhlthRead k h) => .next (hbmhlthReadOp k.val h s).2
  | _ => .next s

end Sys2Proof.Machine
end

