-- ==== Sys2Proof/Machine/EvBoot.lean ====
section
/-! DEFINITION. The events of Bobbin: rails and clocks (R423 to R425), the two resets (R426), images (R427), the boot's phases
(R428 to R430), the registers on I3C and updates (R434 to R436), quarantine that persists (R440). -/

namespace Sys2Proof.Machine

/-- Changes Bobbin. -/
def updBob (f : Bobbin → Bobbin) (s : State) : State := { s with bob := f s.bob }

/-! ## The flash and its images (R427) -/

/-- 2 MiB. -/
def mib2 : Nat := 0x200000

/-- Bytes of a slot. -/
def slotBytes : Nat := 12 * mib2

/-- `n` bytes of flash; what nothing has written reads as 0xFF (log 15). -/
def flashBytes (b : Bobbin) (a n : Nat) : List Byte := (List.range n).map fun i => cellsGet 0xFF b.flash (a + i)

/-- A little-endian number in flash. -/
def flashNat (b : Bobbin) (a n : Nat) : Nat := natOf (flashBytes b a n)

/-- Where an image of a kind (1 Bobbin, 2 device) stands in a slot (false A, true B). -/
def imageBase (slot : Bool) (kind : Nat) : Nat :=
  (if slot then slotBytes else 0) + (if kind = 2 then mib2 else 0)

/-- The greatest LENGTH of a kind. -/
def bodyLimit (kind : Nat) : Nat := (if kind = 2 then 11 * mib2 else mib2) - 288

/-- SVN of an image. -/
def imageSvn (b : Bobbin) (slot : Bool) (kind : Nat) : Nat := flashNat b (imageBase slot kind + 12) 4

/-- Whether an image is valid (R427); the numbers of the key and of the signature stand most significant byte first (log 11). -/
def imageValid (b : Bobbin) (slot : Bool) (kind : Nat) : Bool :=
  let a := imageBase slot kind
  let len := flashNat b (a + 16) 8
  let key := flashBytes b (a + 96) 96
  flashNat b a 8 == 0x5A39365F49544143 && flashNat b (a + 8) 4 == kind && len ≤ bodyLimit kind
    && flashNat b (a + 24) 72 == 0 && sha384 key == Config.fusedKeyHash.toNat
    && ecdsaP384 (bigNat (key.take 48)) (bigNat (key.drop 48)) (sha384 (flashBytes b a 96 ++ flashBytes b (a + 288) len))
        (bigNat (flashBytes b (a + 192) 48)) (bigNat (flashBytes b (a + 240) 48))
    && b.fuses ≤ imageSvn b slot kind

/-- The slot that Bobbin boots an image of a kind from: the valid one of the higher SVN, A when they are equal. -/
def chooseSlot (b : Bobbin) (kind : Nat) : Option Bool :=
  match imageValid b false kind, imageValid b true kind with
  | true, true => some (imageSvn b false kind < imageSvn b true kind)
  | true, false => some false
  | false, true => some true
  | false, false => none

/-- The slot in use for a kind; the other one is inactive (R436). -/
def activeSlot (b : Bobbin) (kind : Nat) : Bool := if kind = 2 then b.deviceSlot else b.bobbinSlot

/-! ## Boot failure, rails and clocks (R423 to R425, R428) -/

/-- BOOTSTAT (R434). -/
def bootstat (b : Bobbin) : BitVec 32 := BitVec.ofNat 32 (b.phase * 2 ^ 28 + b.error.toNat)

/-- A boot phase fails (R428): FAILED, with an error code that no rule gives (log 24), and an event. -/
def bootFail (s : State) : State :=
  let (k, s) := takeFree s
  let s := updBob (fun b => { b with phase := 15, error := (Config.unstated k).setWidth 16 }) s
  event 7 1 wholeDevice ((bootstat s.bob).setWidth 64) 0 s

/-- The next rail to raise, by its place in R423's table from 0: VDD_SRAM, VDD_CORE, VDD_SER, VDD_HBM, VDDQ_HBM. -/
def nextRail (b : Bobbin) : Option Nat := [2, 1, 3, 4, 5][b.rails]?

/-- Whether Bobbin may bring the device up: its rail is up, and no thermal trip holds the device off (R431). -/
def bobbinUp (b : Bobbin) : Bool := b.power && !b.tripped

/-- Bobbin starts, from the image that R427 chooses; without one it has not started. -/
def startBobbin (b : Bobbin) : Bobbin :=
  match chooseSlot b 1 with
  | some slot => { b with bobbinSlot := slot, svn := imageSvn b slot 1, booted := true }
  | none => { b with booted := false }

/-- RAIL_ENABLE (R424): the rail before has held its range for 1 ms. Bobbin runs from its own image, without which the boot has failed
(R427). -/
def railUp (rail : Nat) (s : State) : State :=
  if bobbinUp s.bob ∧ (s.bob.phase = 0 ∨ s.bob.phase = 1) ∧ nextRail s.bob = some rail then
    let b := if s.bob.booted then s.bob else startBobbin s.bob
    if b.booted then { s with bob := { b with phase := 1, rails := b.rails + 1 } }
    else bootFail (updBob (fun b => { b with phase := 1 }) s)
  else s

/-- RAIL_ENABLE. -/
def execRailEnable (s : State) : Host.Outcome State Fault Refusal :=
  match s.now with
  | some (.railEnable rail) => .next (railUp rail.val s)
  | _ => .next s

/-- PLL_LOCK (R425): with every rail up, phase RAILS ends; where a PLL does not lock, the boot has failed (R428). -/
def execPllLock (s : State) : Host.Outcome State Fault Refusal :=
  match s.now with
  | some (.pllLock ok) =>
    .next (if bobbinUp s.bob ∧ s.bob.phase = 1 ∧ nextRail s.bob = none then
             (if ok then updBob (fun b => { b with pll := true, phase := 2 }) s else bootFail s)
           else s)
  | _ => .next s

/-- A warm reset (R426): Bobbin, its log and CAPSTEP stand. The device starts its boot again, in phase RAILS, where its
rails are up already. -/
def warmReset (s : State) : State :=
  if bobbinUp s.bob then
    let s := deviceReset s
    updBob (fun b => { b with phase := if b.rails = 0 then 0 else 1 }) s
  else s

/-- WARM_RESET (R426). -/
def execWarmReset (s : State) : Host.Outcome State Fault Refusal :=
  match s.now with
  | some .warmReset => .next (warmReset s)
  | _ => .next s

/-- RAIL_FAULT (R423, R426): an event, and the device is held in reset, AUX alone powered; in a boot phase the boot has
failed (R428). -/
def railFails (rail : Nat) (s : State) : State :=
  if s.bob.power then
    let booting := 1 ≤ s.bob.phase ∧ s.bob.phase ≤ 5
    let s := event 5 1 wholeDevice (BitVec.ofNat 64 rail) 0 s
    let s := updBob (fun b => { b with rails := 0 }) (deviceReset s)
    if booting then bootFail s else s
  else s

/-- RAIL_FAULT. -/
def execRailFault (s : State) : Host.Outcome State Fault Refusal :=
  match s.now with
  | some (.railFault rail) => .next (railFails rail.val s)
  | _ => .next s

/-- CLOCK_LOCK_LOSS (R425): a clock event and a warm reset. -/
def execClockLockLoss (s : State) : Host.Outcome State Fault Refusal :=
  match s.now with
  | some (.clockLockLoss ser) =>
    .next (if s.bob.pll then warmReset (event 5 2 wholeDevice (if ser then 1 else 0) 0 s) else s)
  | _ => .next s

/-! ## Cold reset and loss of power (R426, R436) -/

/-- A cold reset: Bobbin and the device are reset. The flash, the fuses and the quarantine list stand (R427, R440); the
event log starts again. Bobbin starts from its image, and the device's image is the one that R427 chooses. -/
def coldReset (s : State) : State :=
  let t := deviceReset s
  let b : Bobbin := { flash := s.bob.flash, fuses := s.bob.fuses, quarList := s.bob.quarList }
  { t with mmio := {}, bob := startBobbin { b with deviceSlot := (chooseSlot b 2).getD false } }

/-- COLD_RESET (R426). -/
def execColdReset (s : State) : Host.Outcome State Fault Refusal :=
  match s.now with
  | some .coldReset => .next (coldReset s)
  | _ => .next s

/-- POWER_LOSS (R424, R436): the rails fall, VDD_AUX last, and nothing runs until the next cold reset; the flash stands. -/
def execPowerLoss (s : State) : Host.Outcome State Fault Refusal :=
  match s.now with
  | some .powerLoss => .next (updBob (fun b => { b with rails := 0, power := false, updopen := false }) (deviceReset s))
  | _ => .next s

/-! ## The boot's phases (R428 to R430) -/

/-- IMAGE (R427): the device image is chosen and loaded. -/
def loadImage (s : State) : State :=
  if bobbinUp s.bob ∧ s.bob.phase = 2 then
    match chooseSlot s.bob 2 with
    | none => bootFail s
    | some slot => updBob (fun b => { b with phase := 3, deviceSlot := slot, running := imageSvn b slot 2 }) s
  else s

/-- IMAGE. -/
def execBootImage (s : State) : Host.Outcome State Fault Refusal :=
  match s.now with
  | some .bootImage => .next (loadImage s)
  | _ => .next s

/-- MEMORY (R428, R440): HBM is trained and zero; what failed and what the list names is quarantined. -/
def trainMemory (failed : List Nat) (dies : List Nat) (s : State) : State :=
  if bobbinUp s.bob ∧ s.bob.phase = 3 then
    let s := { s with mem := { cells := s.mem.cells.filter fun c => !(c.1 < 0x20000000000) } }
    let s := failed.foldl (fun s k => quarantine (stackUnit k) (event 2 3 (stackUnit k) (BitVec.ofNat 64 k) 0 s)) s
    let s := dies.foldl (fun s d =>
      quarantine (stackUnit (2 * d + 1)) (quarantine (stackUnit (2 * d)) (quarantine (unitId d 31 0 10) s))) s
    let s := s.bob.quarList.foldl (fun s u => quarantine u s) s
    updBob (fun b => { b with phase := 4 }) s
  else s

/-- The phase that the boot stands in fails (R428). -/
def phaseFails (phase : Nat) (s : State) : State := if bobbinUp s.bob ∧ s.bob.phase = phase then bootFail s else s

/-- MEMORY. -/
def execBootMemory (s : State) : Host.Outcome State Fault Refusal :=
  match s.now with
  | some (.bootMemory true failed dies) => .next (trainMemory (failed.map (·.val)) (dies.map (·.val)) s)
  | some (.bootMemory false _ _) => .next (phaseFails 3 s)
  | _ => .next s

/-- The configuration block of the device image in use (R429). -/
def configBlock (b : Bobbin) : List Byte := flashBytes b (imageBase b.deviceSlot 2 + 288) 128

/-- A little-endian field of the block. -/
def blockNat (l : List Byte) (off n : Nat) : Nat := natOf ((l.drop off).take n)

/-- Whether ASID 0's descriptor is one that R420 admits. -/
def asid0Ok (l : List Byte) : Bool :=
  let w (i : Nat) : W64 := BitVec.ofNat 64 (blockNat l (8 * i) 8)
  let root := bits (w 0) 43 0
  bits (w 0) 63 44 == 0 && bits (w 1) 63 52 == 0 && bits (w 2) 62 52 == 0 && w 3 == 0
    && root % 8192 == 0 && (inHbm (blockNat l 32 1) root || inHbmP (blockNat l 32 1) root)

/-- Whether the block keeps the limits of R429. -/
def configOk (l : List Byte) : Bool :=
  let n := blockNat l
  let map : W64 := BitVec.ofNat 64 (n 48 8)
  asid0Ok l && 12 ≤ n 32 1 && n 32 1 ≤ 120 && 70 ≤ n 33 1 && n 33 1 ≤ 105 && 512 ≤ n 36 4 && n 36 4 ≤ 4096
    && 2 ^ 16 ≤ n 40 4 && n 40 4 ≤ 2 ^ 24 && n 44 2 / 2 ^ 10 % 32 == 0 && n 46 2 == 0
    && (List.range 4).all (fun d => bits map (16 * d + 8) (16 * d) / 96 == d) && n 62 2 == 0

/-- Bytes of the regions of R430, each aligned to 2 MiB: lineage backing, buddy mirror, the distributor's queue, the packet
pool, the save pool. -/
def poolBytes (l : List Byte) : Nat :=
  2 ^ 34 + 2 ^ 34 + 2 ^ 28 + up2M (blockNat l 40 4 * 256) + blockNat l 36 4 * 2 ^ 22

/-- Whether the regions fit in 7/8 of the partition. -/
def poolsFit (l : List Byte) : Bool := poolBytes l ≤ blockNat l 32 1 * gib4 / 8 * 7

/-- The hosts that the block lists: index into the host table, and whether it is a management address. -/
def hostList (l : List Byte) : List (Nat × Bool) :=
  (List.range 16).map fun i => let v := blockNat l (80 + 3 * i) 3; (v % 2 ^ 23, v / 2 ^ 23 == 1)

/-- What a good block sets (R428 to R430). -/
def applyConfig (l : List Byte) (s : State) : State :=
  let n := blockNat l
  let w (i : Nat) : W64 := BitVec.ofNat 64 (n (8 * i) 8)
  let entry : AsidEnt := { asid := 0, root := bits (w 0) 43 0, mask := BitVec.ofNat 1024 (2 ^ s.dev.val)
                           tvec := BitVec.ofNat 64 (bits (w 1) 51 0), twen := (w 2).getLsbD 63 }
  { s with
    mem := { s.mem with partU := n 32 1 }
    mmio := { s.mmio with thermcfg := fields [(5, 8), (n 33 1, 0)] }
    xl := { s.xl with asids := entry :: s.xl.asids.filter (·.asid != 0) }
    dist := { s.dist with saveSlots := n 36 4 }
    lin := { s.lin with poolSize := n 40 4 }
    port := { s.port with udp := if n 34 2 = 0 then 47120 else n 34 2
                          mac := BitVec.ofNat 48 (n 56 6)
                          ipv6 := BitVec.ofNat 128 (n 64 16) }
    bob := { s.bob with phase := 5, mgmtmap := BitVec.ofNat 64 (n 48 8), poolKey := BitVec.ofNat 16 (n 44 2)
                        hosts := hostList l } }

/-- CONFIG (R429, R430). -/
def configure (s : State) : State :=
  if bobbinUp s.bob ∧ s.bob.phase = 4 then
    let l := configBlock s.bob
    if configOk l && poolsFit l then applyConfig l s else bootFail s
  else s

/-- CONFIG. -/
def execBootConfig (s : State) : Host.Outcome State Fault Refusal :=
  match s.now with
  | some .bootConfig => .next (configure s)
  | _ => .next s

/-- PORTS (R397, R400, R428): each station has trained at a width, and knows whether its switch is a Dorvia switch. -/
def portsUp (dorvia : BitVec 24) (widths : List (Fin 4)) (s : State) : State :=
  if bobbinUp s.bob ∧ s.bob.phase = 5 then
    let up (k : Fin 24) (t : Station) : Station :=
      let w := widths.getD k.val 0
      { t with width := w, dorvia := dorvia.getLsbD k.val, parked := parkedAt w }
    let s := { s with fab := { s.fab with st := Vector.ofFn fun k => up k s.fab.st[k] } }
    updBob (fun b => { b with ports := true }) s
  else s

/-- PORTS. -/
def execBootPorts (s : State) : Host.Outcome State Fault Refusal :=
  match s.now with
  | some (.bootPorts true dorvia widths) => .next (portsUp dorvia widths s)
  | some (.bootPorts false _ _) => .next (phaseFails 5 s)
  | _ => .next s

/-- READY (R427, R428): OPEN is accepted from now on, and fuse bits are set up to the SVN of the device image. -/
def execBootReady (s : State) : Host.Outcome State Fault Refusal :=
  match s.now with
  | some .bootReady =>
    .next (if bobbinUp s.bob ∧ s.bob.phase = 5 ∧ s.bob.ports then
             updBob (fun b => { b with phase := 6, fuses := Nat.max b.fuses (Nat.min 64 b.running) }) s
           else s)
  | _ => .next s

/-! ## Bobbin's registers on I3C (R434) -/

/-- RESETCTL: 0x5A orders a warm reset. -/
def resetctl (v : BitVec 32) (s : State) : State := if v = 0x5A then warmReset s else s

/-- CAPSTEP (R433): the step request; reserved bits read zero. -/
def capstep (v : BitVec 32) (s : State) : State := updBob (fun b => { b with capstep := v &&& 7 }) s

/-- The flash region of a kind in its inactive slot: first byte, length. -/
def inactive (b : Bobbin) (kind : Nat) : Nat × Nat :=
  (imageBase (!activeSlot b kind) kind, if kind = 2 then slotBytes - mib2 else mib2)

/-- The inactive slot is erased (R436). -/
def updErase (s : State) : State :=
  let out (a : Nat) : Bool := [1, 2].any fun k => let r := inactive s.bob k; r.1 ≤ a && a < r.1 + r.2
  updBob (fun b => { b with flash := b.flash.filter (fun c => !out c.1), updst := 1, updopen := false }) s

/-- The inactive slot takes writes through UPDDATA, until the next command. -/
def updOpen (s : State) : State := updBob (fun b => { b with updst := 1, updopen := true }) s

/-- A verify (R436): both images of the inactive slot; when both are valid, each is reported, and Bobbin starts again from the image
that R427 chooses. The device goes on. -/
def updVerify (s : State) : State :=
  let good (k : Nat) : Bool := imageValid s.bob (!activeSlot s.bob k) k
  let svn (k : Nat) : W64 := BitVec.ofNat 64 (imageSvn s.bob (!activeSlot s.bob k) k)
  if good 1 && good 2 then
    let s := event 7 2 wholeDevice 2 (svn 2) (event 7 2 wholeDevice 1 (svn 1) s)
    updBob (fun b => { startBobbin b with updst := 1, updopen := false }) s
  else updBob (fun b => { b with updst := 2, updopen := false }) s

/-- The flash byte that an offset of the inactive slot names, by the kind whose image stands there. -/
def updPlace (b : Bobbin) (off : Nat) : Option Nat :=
  if off < mib2 then some (imageBase (!activeSlot b 1) 1 + off)
  else if off < slotBytes then some (imageBase (!activeSlot b 2) 2 + (off - mib2))
  else none

/-- UPDDATA: stores 4 bytes at UPDADDR while the slot is open, and adds 4; a write outside the inactive slot is
refused (R436). -/
def upddata (v : BitVec 32) (s : State) : State :=
  let s := updBob (fun b => { b with updlast := v }) s
  match s.bob.updopen, updPlace s.bob s.bob.updaddr.toNat with
  | true, some a =>
    updBob (fun b => { b with flash := ((bytesOf 4 v.toNat).mapIdx fun i x => (a + i, x)).foldl (fun f c => cellsSet 0xFF f c.1 c.2) b.flash
                              updaddr := b.updaddr + 4 }) s
  | _, _ => s

/-- UPDCTL: a word with reserved bits set is refused. -/
def updctl (v : BitVec 32) (s : State) : State :=
  if v &&& 0xCFFFFFF0 ≠ 0 then updBob (fun b => { b with updst := 2 }) s
  else match v.toNat / 2 ^ 28 % 4 with
    | 1 => updErase s
    | 2 => updOpen s
    | 3 => updVerify s
    | _ => s

/-- The offset that a private write sends. -/
def bobOffset (off : BitVec 8) (s : State) : State := updBob (fun b => { b with reg := off }) s

/-- A private write of one register. -/
def bobWrite (off : Nat) (v : BitVec 32) (s : State) : State :=
  let s := bobOffset (BitVec.ofNat 8 off) s
  match off with
  | 0x08 => resetctl v s
  | 0x0C => capstep v s
  | 0x20 => updBob (fun b => { b with logidx := v &&& 0xFFF }) s
  | 0x24 => updctl v s
  | 0x28 => updBob (fun b => { b with updaddr := v &&& 0xFFFFFFFC }) s
  | 0x2C => upddata v s
  | _ => s

/-- The record at a ring index: its number modulo 4,096 is the index (R434, R435). -/
def logRecord (b : Bobbin) (ix : Nat) : List W64 :=
  (b.log.find? fun r => (r.headD 0).toNat % 4096 == ix).getD []

/-- What a private read of one register returns (R434), before its pointer advances by 4; what a sensor gives is free (log 5), and 0 while
the device is off, which is the registers' reset value. -/
def bobRead (off : Nat) (s : State) : BitVec 32 × State :=
  let b := s.bob
  let next (s : State) : State := updBob (fun b => { b with reg := BitVec.ofNat 8 (off + 4) }) s
  let sensor : BitVec 32 × State := if b.phase = 0 then (0, next s) else let (k, s) := takeFree s; (Config.sensorWord off k, next s)
  match off with
  | 0x00 => (BitVec.ofNat 32 (0x2960 * 2 ^ 16 + (Config.sensorWord 0 0).toNat % 256 * 2 ^ 8 + b.svn % 256), next s)
  | 0x04 => (bootstat b, next s)
  | 0x0C => (b.capstep, next s)
  | 0x10 | 0x18 => sensor
  | 0x14 => sensor
  | 0x1C => (b.loghead, next s)
  | 0x20 => (b.logidx, next s)
  | 0x24 => (BitVec.ofNat 32 b.updst, next s)
  | 0x28 => (b.updaddr, next s)
  | 0x2C => (b.updlast, next s)
  | _ =>
    if 0x40 ≤ off ∧ off ≤ 0x5C ∧ off % 4 = 0 then
      let w := (logRecord b b.logidx.toNat).getD ((off - 0x40) / 8) 0
      (if off % 8 = 0 then w.setWidth 32 else (w >>> 32).setWidth 32, next s)
    else (0, next s)

/-- What the bus does to Bobbin, which takes it while VDD_AUX is up. -/
def onBus (f : State → State) (s : State) : State := if s.bob.power then f s else s

/-- I3C_REGISTER_WRITE; or a write of the offset alone, or a private read of the register at the last offset written. -/
def execI3cRegisterWrite (s : State) : Host.Outcome State Fault Refusal :=
  match s.now with
  | some (.i3cRegisterWrite off v) => .next (onBus (bobWrite off.toNat v) s)
  | some (.i3cOffset off) => .next (onBus (bobOffset off) s)
  | some .i3cRegisterRead => .next (onBus (fun s => let (v, s) := bobRead s.bob.reg.toNat s; send (.i3c v) s) s)
  | _ => .next s

/-- RESETCTL. -/
def execResetctl (s : State) : Host.Outcome State Fault Refusal :=
  match s.now with
  | some (.resetctl v) => .next (onBus (bobWrite 0x08 v) s)
  | _ => .next s

/-- CAPSTEP_WRITE. -/
def execCapstepWrite (s : State) : Host.Outcome State Fault Refusal :=
  match s.now with
  | some (.capstepWrite v) => .next (onBus (bobWrite 0x0C v) s)
  | _ => .next s

/-- UPDATE_ERASE. -/
def execUpdateErase (s : State) : Host.Outcome State Fault Refusal :=
  match s.now with
  | some .updateErase => .next (onBus (bobWrite 0x24 0x10000000) s)
  | _ => .next s

/-- UPDATE_OPEN. -/
def execUpdateOpen (s : State) : Host.Outcome State Fault Refusal :=
  match s.now with
  | some .updateOpen => .next (onBus (bobWrite 0x24 0x20000000) s)
  | _ => .next s

/-- UPDATE_VERIFY. -/
def execUpdateVerify (s : State) : Host.Outcome State Fault Refusal :=
  match s.now with
  | some .updateVerify => .next (onBus (bobWrite 0x24 0x30000000) s)
  | _ => .next s

/-- UPDDATA_WRITE. -/
def execUpddataWrite (s : State) : Host.Outcome State Fault Refusal :=
  match s.now with
  | some (.upddataWrite v) => .next (onBus (bobWrite 0x2C v) s)
  | _ => .next s

/-! ## Addresses on the bus (R434) -/

/-- SETDASA (R434): from the static address 0x4C. -/
def execSetdasa (s : State) : Host.Outcome State Fault Refusal :=
  match s.now with
  | some (.setdasa st dyn) => .next (if s.bob.power ∧ st = 0x4C then updBob (fun b => { b with dyn := some dyn }) s else s)
  | _ => .next s

/-- ENTDAA (R434): of a target that has no dynamic address yet. -/
def execEntdaa (s : State) : Host.Outcome State Fault Refusal :=
  match s.now with
  | some (.entdaa dyn) => .next (if s.bob.power ∧ s.bob.dyn.isNone then updBob (fun b => { b with dyn := some dyn }) s else s)
  | _ => .next s

end Sys2Proof.Machine
end

