-- ==== Sys2Proof/Machine/Dispatch.lean ====
section
/-! DEFINITION. Which meaning each instruction, operation and event of the opcode table has. -/

namespace Sys2Proof.Machine

/-- Executes a row of the opcode table. -/
def exec (i : Instr) (s : State) : Host.Outcome State Fault Refusal :=
  match i with
  | .nop => Sys2Proof.Machine.execNop s
  | .add d a b => Sys2Proof.Machine.execAdd d a b s
  | .sub d a b => Sys2Proof.Machine.execSub d a b s
  | .and d a b => Sys2Proof.Machine.execAnd d a b s
  | .or d a b => Sys2Proof.Machine.execOr d a b s
  | .xor d a b => Sys2Proof.Machine.execXor d a b s
  | .shl d a b => Sys2Proof.Machine.execShl d a b s
  | .shr d a b => Sys2Proof.Machine.execShr d a b s
  | .sar d a b => Sys2Proof.Machine.execSar d a b s
  | .mul d a b => Sys2Proof.Machine.execMul d a b s
  | .mulh d a b => Sys2Proof.Machine.execMulh d a b s
  | .mulhu d a b => Sys2Proof.Machine.execMulhu d a b s
  | .div d a b => Sys2Proof.Machine.execDiv d a b s
  | .divu d a b => Sys2Proof.Machine.execDivu d a b s
  | .rem d a b => Sys2Proof.Machine.execRem d a b s
  | .remu d a b => Sys2Proof.Machine.execRemu d a b s
  | .min d a b => Sys2Proof.Machine.execMin d a b s
  | .max d a b => Sys2Proof.Machine.execMax d a b s
  | .minu d a b => Sys2Proof.Machine.execMinu d a b s
  | .maxu d a b => Sys2Proof.Machine.execMaxu d a b s
  | .slt d a b => Sys2Proof.Machine.execSlt d a b s
  | .sltu d a b => Sys2Proof.Machine.execSltu d a b s
  | .seq d a b => Sys2Proof.Machine.execSeq d a b s
  | .clz d a => Sys2Proof.Machine.execClz d a s
  | .popc d a => Sys2Proof.Machine.execPopc d a s
  | .addi d a im => Sys2Proof.Machine.execAddi d a im s
  | .andi d a im => Sys2Proof.Machine.execAndi d a im s
  | .ori d a im => Sys2Proof.Machine.execOri d a im s
  | .xori d a im => Sys2Proof.Machine.execXori d a im s
  | .shli d a im => Sys2Proof.Machine.execShli d a im s
  | .shri d a im => Sys2Proof.Machine.execShri d a im s
  | .sari d a im => Sys2Proof.Machine.execSari d a im s
  | .li d im => Sys2Proof.Machine.execLi d im s
  | .lix d x => Sys2Proof.Machine.execLix d x s
  | .lix64 d lo hi => Sys2Proof.Machine.execLix64 d lo hi s
  | .ld8 d a im => Sys2Proof.Machine.execLd8 d a im s
  | .ld16 d a im => Sys2Proof.Machine.execLd16 d a im s
  | .ld32 d a im => Sys2Proof.Machine.execLd32 d a im s
  | .ld64 d a im => Sys2Proof.Machine.execLd64 d a im s
  | .lds8 d a im => Sys2Proof.Machine.execLds8 d a im s
  | .lds16 d a im => Sys2Proof.Machine.execLds16 d a im s
  | .lds32 d a im => Sys2Proof.Machine.execLds32 d a im s
  | .st8 d a im => Sys2Proof.Machine.execSt8 d a im s
  | .st16 d a im => Sys2Proof.Machine.execSt16 d a im s
  | .st32 d a im => Sys2Proof.Machine.execSt32 d a im s
  | .st64 d a im => Sys2Proof.Machine.execSt64 d a im s
  | .amoadd a b c dbl => Sys2Proof.Machine.execAmoadd a b c dbl s
  | .amoswp a b c dbl => Sys2Proof.Machine.execAmoswp a b c dbl s
  | .amocas a b c dbl => Sys2Proof.Machine.execAmocas a b c dbl s
  | .amomin a b c dbl u => Sys2Proof.Machine.execAmomin a b c dbl u s
  | .amomax a b c dbl u => Sys2Proof.Machine.execAmomax a b c dbl u s
  | .amoand a b c dbl => Sys2Proof.Machine.execAmoand a b c dbl s
  | .amoor a b c dbl => Sys2Proof.Machine.execAmoor a b c dbl s
  | .amoxor a b c dbl => Sys2Proof.Machine.execAmoxor a b c dbl s
  | .amocas2 a b c => Sys2Proof.Machine.execAmocas2 a b c s
  | .lenq a b c => Sys2Proof.Machine.execLenq a b c s
  | .ldeq a b c => Sys2Proof.Machine.execLdeq a b c s
  | .pchase a b c f => Sys2Proof.Machine.execPchase a b c f s
  | .b disp slot => Sys2Proof.Machine.execB disp slot s
  | .bz x disp slot => Sys2Proof.Machine.execBz x disp slot s
  | .bnz x disp slot => Sys2Proof.Machine.execBnz x disp slot s
  | .bcq disp slot => Sys2Proof.Machine.execBcq disp slot s
  | .bcqn disp slot => Sys2Proof.Machine.execBcqn disp slot s
  | .call disp slot => Sys2Proof.Machine.execCall disp slot s
  | .callr d a => Sys2Proof.Machine.execCallr d a s
  | .jr a => Sys2Proof.Machine.execJr a s
  | .ret a => Sys2Proof.Machine.execRet a s
  | .loop op k => Sys2Proof.Machine.execLoop op k s
  | .loopi op k => Sys2Proof.Machine.execLoopi op k s
  | .cqpop d => Sys2Proof.Machine.execCqpop d s
  | .xqpop d => Sys2Proof.Machine.execXqpop d s
  | .movc a n => Sys2Proof.Machine.execMovc a n s
  | .movcr d n => Sys2Proof.Machine.execMovcr d n s
  | .bar sc => Sys2Proof.Machine.execBar sc s
  | .fence => Sys2Proof.Machine.execFence s
  | .phase sc => Sys2Proof.Machine.execPhase sc s
  | .qfence m => Sys2Proof.Machine.execQfence m s
  | .rkey a b => Sys2Proof.Machine.execRkey a b s
  | .rctr a b => Sys2Proof.Machine.execRctr a b s
  | .rskip a b => Sys2Proof.Machine.execRskip a b s
  | .rnext d => Sys2Proof.Machine.execRnext d s
  | .rden d => Sys2Proof.Machine.execRden d s
  | .rdpwr d => Sys2Proof.Machine.execRdpwr d s
  | .rdcyc d => Sys2Proof.Machine.execRdcyc d s
  | .rdret d => Sys2Proof.Machine.execRdret d s
  | .trap code => Sys2Proof.Machine.execTrap code s
  | .vadd d a b m => Sys2Proof.Machine.execVadd d a b m s
  | .vsub d a b m => Sys2Proof.Machine.execVsub d a b m s
  | .vmul d a b m => Sys2Proof.Machine.execVmul d a b m s
  | .vfma d a b m => Sys2Proof.Machine.execVfma d a b m s
  | .vfms d a b m => Sys2Proof.Machine.execVfms d a b m s
  | .vfnma d a b m => Sys2Proof.Machine.execVfnma d a b m s
  | .vmin d a b m => Sys2Proof.Machine.execVmin d a b m s
  | .vmax d a b m => Sys2Proof.Machine.execVmax d a b m s
  | .vabs d a m => Sys2Proof.Machine.execVabs d a m s
  | .vneg d a m => Sys2Proof.Machine.execVneg d a m s
  | .vand d a b m => Sys2Proof.Machine.execVand d a b m s
  | .vor d a b m => Sys2Proof.Machine.execVor d a b m s
  | .vxor d a b m => Sys2Proof.Machine.execVxor d a b m s
  | .vshl d a b m => Sys2Proof.Machine.execVshl d a b m s
  | .vshr d a b m => Sys2Proof.Machine.execVshr d a b m s
  | .vsar d a b m => Sys2Proof.Machine.execVsar d a b m s
  | .vmov d a m => Sys2Proof.Machine.execVmov d a m s
  | .vsel d a b m => Sys2Proof.Machine.execVsel d a b m s
  | .vbcast d a b m => Sys2Proof.Machine.execVbcast d a b m s
  | .viota d a m => Sys2Proof.Machine.execViota d a m s
  | .vcmp p d a b m => Sys2Proof.Machine.execVcmp p d a b m s
  | .vclass d a m => Sys2Proof.Machine.execVclass d a m s
  | .vcvt d a df part m => Sys2Proof.Machine.execVcvt d a df part m s
  | .vquant d a df m => Sys2Proof.Machine.execVquant d a df m s
  | .vdeq d a df m => Sys2Proof.Machine.execVdeq d a df m s
  | .vrcp d a m => Sys2Proof.Machine.execVrcp d a m s
  | .vrsq d a m => Sys2Proof.Machine.execVrsq d a m s
  | .vsqrt d a m => Sys2Proof.Machine.execVsqrt d a m s
  | .vexp2f d a m => Sys2Proof.Machine.execVexp2f d a m s
  | .vlog2f d a m => Sys2Proof.Machine.execVlog2f d a m s
  | .vrint d a m => Sys2Proof.Machine.execVrint d a m s
  | .vfint d a m => Sys2Proof.Machine.execVfint d a m s
  | .vexpi d a b m => Sys2Proof.Machine.execVexpi d a b m s
  | .vgetexp d a m => Sys2Proof.Machine.execVgetexp d a m s
  | .vgetmant d a m => Sys2Proof.Machine.execVgetmant d a m s
  | .vredadd d a m => Sys2Proof.Machine.execVredadd d a m s
  | .vredmax d a m => Sys2Proof.Machine.execVredmax d a m s
  | .vredamax d a m => Sys2Proof.Machine.execVredamax d a m s
  | .vredmin d a m => Sys2Proof.Machine.execVredmin d a m s
  | .vscan d a m => Sys2Proof.Machine.execVscan d a m s
  | .vperm d a b m => Sys2Proof.Machine.execVperm d a b m s
  | .vshuf d a b pat m => Sys2Proof.Machine.execVshuf d a b pat m s
  | .vrot d a b m => Sys2Proof.Machine.execVrot d a b m s
  | .vslide d a b m => Sys2Proof.Machine.execVslide d a b m s
  | .vcomp d a k m => Sys2Proof.Machine.execVcomp d a k m s
  | .vrng d m => Sys2Proof.Machine.execVrng d m s
  | .vld d a m => Sys2Proof.Machine.execVld d a m s
  | .vst d a m => Sys2Proof.Machine.execVst d a m s
  | .vlds d a b m => Sys2Proof.Machine.execVlds d a b m s
  | .vsts d a b m => Sys2Proof.Machine.execVsts d a b m s
  | .vgath d a b m => Sys2Proof.Machine.execVgath d a b m s
  | .vscat d a b m => Sys2Proof.Machine.execVscat d a b m s
  | .mand d a b m => Sys2Proof.Machine.execMand d a b m s
  | .mor d a b m => Sys2Proof.Machine.execMor d a b m s
  | .mxor d a b m => Sys2Proof.Machine.execMxor d a b m s
  | .mnot d a m => Sys2Proof.Machine.execMnot d a m s
  | .mpop a m => Sys2Proof.Machine.execMpop a m s
  | .mfirst d a m => Sys2Proof.Machine.execMfirst d a m s
  | .vanyq a m => Sys2Proof.Machine.execVanyq a m s
  | .vallq a m => Sys2Proof.Machine.execVallq a m s
  | .vxq a b m => Sys2Proof.Machine.execVxq a b m s
  | .mlease gang => Sys2Proof.Machine.execMlease gang s
  | .mrel => Sys2Proof.Machine.execMrel s
  | .mldt a b c t => Sys2Proof.Machine.execMldt a b c t s
  | .mstt a b c t => Sys2Proof.Machine.execMstt a b c t s
  | .mcvt d a sf df rm sat => Sys2Proof.Machine.execMcvt d a sf df rm sat s
  | .mtrn d a => Sys2Proof.Machine.execMtrn d a s
  | .mzero d n => Sys2Proof.Machine.execMzero d n s
  | .mzeroT t => Sys2Proof.Machine.execMzeroT t s
  | .mma d a b f acc zc => Sys2Proof.Machine.execMma d a b f acc zc s
  | .mmag a b f acc => Sys2Proof.Machine.execMmag a b f acc s
  | .mdrain d a df tr rm sat rows cols => Sys2Proof.Machine.execMdrain d a df tr rm sat rows cols s
  | .mfmt n code => Sys2Proof.Machine.execMfmt n code s
  | .mchkn a => Sys2Proof.Machine.execMchkn a s
  | .mkat a b disp slot => Sys2Proof.Machine.execMkat a b disp slot s
  | .mwait z gang => Sys2Proof.Machine.execMwait z gang s
  | .copy a b c => Sys2Proof.Machine.execCopy a b c s
  | .copy2 a b c len rows => Sys2Proof.Machine.execCopy2 a b c len rows s
  | .gather a b c q esz count => Sys2Proof.Machine.execGather a b c q esz count s
  | .scatter a b c esz count => Sys2Proof.Machine.execScatter a b c esz count s
  | .sbind a b c kind q => Sys2Proof.Machine.execSbind a b c kind q s
  | .sunbind q => Sys2Proof.Machine.execSunbind q s
  | .sout a b c f => Sys2Proof.Machine.execSout a b c f s
  | .pref a b => Sys2Proof.Machine.execPref a b s
  | .opk a b c q => Sys2Proof.Machine.execOpk a b c q s
  | .cjoin a b c q => Sys2Proof.Machine.execCjoin a b c q s
  | .cleave a => Sys2Proof.Machine.execCleave a s
  | .cstore a b c q => Sys2Proof.Machine.execCstore a b c q s
  | .cwait a b => Sys2Proof.Machine.execCwait a b s
  | .fred a b c op int nanskip => Sys2Proof.Machine.execFred a b c op int nanskip s
  | .fredw a b c q => Sys2Proof.Machine.execFredw a b c q s
  | .frel => Sys2Proof.Machine.execFrel s
  | .gcfg k bw f => Sys2Proof.Machine.execGcfg k bw f s
  | .gplane a b => Sys2Proof.Machine.execGplane a b s
  | .ghash d a => Sys2Proof.Machine.execGhash d a s
  | .grep d a t rule => Sys2Proof.Machine.execGrep d a t rule s
  | .gpack d a b => Sys2Proof.Machine.execGpack d a b s
  | .gscat d a b => Sys2Proof.Machine.execGscat d a b s
  | .gmap a m => Sys2Proof.Machine.execGmap a m s
  | .glmap a m => Sys2Proof.Machine.execGlmap a m s
  | .ggsum d a b => Sys2Proof.Machine.execGgsum d a b s
  | .tspawn a b res => Sys2Proof.Machine.execTspawn a b res s
  | .tspawnl a b res => Sys2Proof.Machine.execTspawnl a b res s
  | .tsig a => Sys2Proof.Machine.execTsig a s
  | .tnewv a b c tt dsel die => Sys2Proof.Machine.execTnewv a b c tt dsel die s
  | .tdecl a => Sys2Proof.Machine.execTdecl a s
  | .treadv a b => Sys2Proof.Machine.execTreadv a b s
  | .tseal a => Sys2Proof.Machine.execTseal a s
  | .trepl a wait => Sys2Proof.Machine.execTrepl a wait s
  | .tpin a rel => Sys2Proof.Machine.execTpin a rel s
  | .tyield => Sys2Proof.Machine.execTyield s
  | .texit => Sys2Proof.Machine.execTexit s
  | .tstat a b task => Sys2Proof.Machine.execTstat a b task s
  | .sret => Sys2Proof.Machine.execSret s
  | .ctxsave a b => Sys2Proof.Machine.execCtxsave a b s
  | .ctxload a b => Sys2Proof.Machine.execCtxload a b s
  | .tlbinv a b c all pod => Sys2Proof.Machine.execTlbinv a b c all pod s
  | .asidbind a b => Sys2Proof.Machine.execAsidbind a b s
  | .asidret a => Sys2Proof.Machine.execAsidret a s
  | .keyld a b => Sys2Proof.Machine.execKeyld a b s
  | .keyinv a => Sys2Proof.Machine.execKeyinv a s
  | .quar a rel => Sys2Proof.Machine.execQuar a rel s
  | .pwrcap a b => Sys2Proof.Machine.execPwrcap a b s
  | .idle => Sys2Proof.Machine.execIdle s
  | .mcack => Sys2Proof.Machine.execMcack s
  | .smovc a n => Sys2Proof.Machine.execSmovc a n s
  | .smovcr d n => Sys2Proof.Machine.execSmovcr d n s
  | .artset a b => Sys2Proof.Machine.execArtset a b s
  | .linkkey a b => Sys2Proof.Machine.execLinkkey a b s
  | .loadResponse => Sys2Proof.Machine.execLoadResponse s
  | .atomicResponse => Sys2Proof.Machine.execAtomicResponse s
  | .streamDelivery => Sys2Proof.Machine.execStreamDelivery s
  | .faultAnswer => Sys2Proof.Machine.execFaultAnswer s
  | .faultSwitchBackTimeout => Sys2Proof.Machine.execFaultSwitchBackTimeout s
  | .waitBankSwitch => Sys2Proof.Machine.execWaitBankSwitch s
  | .cwaitStarvedTimeout => Sys2Proof.Machine.execCwaitStarvedTimeout s
  | .barrierComplete => Sys2Proof.Machine.execBarrierComplete s
  | .barrierTimeout => Sys2Proof.Machine.execBarrierTimeout s
  | .trapEntry => Sys2Proof.Machine.execTrapEntry s
  | .asyncInterrupt => Sys2Proof.Machine.execAsyncInterrupt s
  | .timerExpiry => Sys2Proof.Machine.execTimerExpiry s
  | .idleWake => Sys2Proof.Machine.execIdleWake s
  | .preEmption => Sys2Proof.Machine.execPreEmption s
  | .contextRestore => Sys2Proof.Machine.execContextRestore s
  | .machineCheck => Sys2Proof.Machine.execMachineCheck s
  | .taskSelection => Sys2Proof.Machine.execTaskSelection s
  | .preload => Sys2Proof.Machine.execPreload s
  | .dispatcherReport => Sys2Proof.Machine.execDispatcherReport s
  | .ageing => Sys2Proof.Machine.execAgeing s
  | .priorityPreemptionRequest => Sys2Proof.Machine.execPriorityPreemptionRequest s
  | .loopNestWalk => Sys2Proof.Machine.execLoopNestWalk s
  | .signalArrival => Sys2Proof.Machine.execSignalArrival s
  | .remoteSpawn => Sys2Proof.Machine.execRemoteSpawn s
  | .stealRequest => Sys2Proof.Machine.execStealRequest s
  | .offer => Sys2Proof.Machine.execOffer s
  | .take => Sys2Proof.Machine.execTake s
  | .ack => Sys2Proof.Machine.execAck s
  | .refuse => Sys2Proof.Machine.execRefuse s
  | .custodyTimeout => Sys2Proof.Machine.execCustodyTimeout s
  | .leaseGrant => Sys2Proof.Machine.execLeaseGrant s
  | .leaseExpiry => Sys2Proof.Machine.execLeaseExpiry s
  | .governorInterval => Sys2Proof.Machine.execGovernorInterval s
  | .budgetHoldTimeout => Sys2Proof.Machine.execBudgetHoldTimeout s
  | .budgetStepLower => Sys2Proof.Machine.execBudgetStepLower s
  | .thermalSample => Sys2Proof.Machine.execThermalSample s
  | .thermalLower => Sys2Proof.Machine.execThermalLower s
  | .thermalTrip => Sys2Proof.Machine.execThermalTrip s
  | .poolWaitTimeout => Sys2Proof.Machine.execPoolWaitTimeout s
  | .recordWaitTimeout => Sys2Proof.Machine.execRecordWaitTimeout s
  | .storageWaitTimeout => Sys2Proof.Machine.execStorageWaitTimeout s
  | .slotWaitTimeout => Sys2Proof.Machine.execSlotWaitTimeout s
  | .recoveryStorageTimeout => Sys2Proof.Machine.execRecoveryStorageTimeout s
  | .retentionReplication => Sys2Proof.Machine.execRetentionReplication s
  | .replicaWritten => Sys2Proof.Machine.execReplicaWritten s
  | .primaryRebuilt => Sys2Proof.Machine.execPrimaryRebuilt s
  | .recoverRequest => Sys2Proof.Machine.execRecoverRequest s
  | .stateQuery => Sys2Proof.Machine.execStateQuery s
  | .remoteSeal => Sys2Proof.Machine.execRemoteSeal s
  | .mirrorChange => Sys2Proof.Machine.execMirrorChange s
  | .mirrorAck => Sys2Proof.Machine.execMirrorAck s
  | .mirrorTimeout => Sys2Proof.Machine.execMirrorTimeout s
  | .buddyCopyComplete => Sys2Proof.Machine.execBuddyCopyComplete s
  | .scrub => Sys2Proof.Machine.execScrub s
  | .dieLoss => Sys2Proof.Machine.execDieLoss s
  | .deviceLoss => Sys2Proof.Machine.execDeviceLoss s
  | .remoteRequest => Sys2Proof.Machine.execRemoteRequest s
  | .remoteResponse => Sys2Proof.Machine.execRemoteResponse s
  | .castStamp => Sys2Proof.Machine.execCastStamp s
  | .stamped => Sys2Proof.Machine.execStamped s
  | .gapreq => Sys2Proof.Machine.execGapreq s
  | .replay => Sys2Proof.Machine.execReplay s
  | .gapTimeout => Sys2Proof.Machine.execGapTimeout s
  | .planeFailure => Sys2Proof.Machine.execPlaneFailure s
  | .memberRemoval => Sys2Proof.Machine.execMemberRemoval s
  | .red => Sys2Proof.Machine.execRed s
  | .reductionTimeout => Sys2Proof.Machine.execReductionTimeout s
  | .reductionFenceExpiry => Sys2Proof.Machine.execReductionFenceExpiry s
  | .redres => Sys2Proof.Machine.execRedres s
  | .rednack => Sys2Proof.Machine.execRednack s
  | .fredResend => Sys2Proof.Machine.execFredResend s
  | .rel => Sys2Proof.Machine.execRel s
  | .reldone => Sys2Proof.Machine.execReldone s
  | .pageFaultMessage => Sys2Proof.Machine.execPageFaultMessage s
  | .tlbShootdown => Sys2Proof.Machine.execTlbShootdown s
  | .shootdownAck => Sys2Proof.Machine.execShootdownAck s
  | .holdersOutstanding => Sys2Proof.Machine.execHoldersOutstanding s
  | .stationRetrain => Sys2Proof.Machine.execStationRetrain s
  | .tagFailure => Sys2Proof.Machine.execTagFailure s
  | .keyChangeover => Sys2Proof.Machine.execKeyChangeover s
  | .keyHoldTimeout => Sys2Proof.Machine.execKeyHoldTimeout s
  | .keyExhausted => Sys2Proof.Machine.execKeyExhausted s
  | .launch => Sys2Proof.Machine.execLaunch s
  | .hostRead => Sys2Proof.Machine.execHostRead s
  | .hostWrite => Sys2Proof.Machine.execHostWrite s
  | .farporAck => Sys2Proof.Machine.execFarporAck s
  | .hostReadResponse => Sys2Proof.Machine.execHostReadResponse s
  | .hostWriteResponse => Sys2Proof.Machine.execHostWriteResponse s
  | .mgmtOpen => Sys2Proof.Machine.execMgmtOpen s
  | .mgmtClose => Sys2Proof.Machine.execMgmtClose s
  | .mgmtReserve => Sys2Proof.Machine.execMgmtReserve s
  | .mgmtRelease => Sys2Proof.Machine.execMgmtRelease s
  | .mgmtWindow => Sys2Proof.Machine.execMgmtWindow s
  | .mgmtRto => Sys2Proof.Machine.execMgmtRto s
  | .retransmissionTimeout => Sys2Proof.Machine.execRetransmissionTimeout s
  | .frameDrop => Sys2Proof.Machine.execFrameDrop s
  | .headerDrop => Sys2Proof.Machine.execHeaderDrop s
  | .mmioWrite => Sys2Proof.Machine.execMmioWrite s
  | .lincfgWrite => Sys2Proof.Machine.execLincfgWrite s
  | .linstatRead => Sys2Proof.Machine.execLinstatRead s
  | .pwrcfgWrite => Sys2Proof.Machine.execPwrcfgWrite s
  | .ecwtWrite => Sys2Proof.Machine.execEcwtWrite s
  | .thermcfgWrite => Sys2Proof.Machine.execThermcfgWrite s
  | .coreMapWrite => Sys2Proof.Machine.execCoreMapWrite s
  | .fansWrite => Sys2Proof.Machine.execFansWrite s
  | .fstatRead => Sys2Proof.Machine.execFstatRead s
  | .stcfgWrite => Sys2Proof.Machine.execStcfgWrite s
  | .hbmhlthRead => Sys2Proof.Machine.execHbmhlthRead s
  | .resetctl => Sys2Proof.Machine.execResetctl s
  | .capstepWrite => Sys2Proof.Machine.execCapstepWrite s
  | .updateErase => Sys2Proof.Machine.execUpdateErase s
  | .updateOpen => Sys2Proof.Machine.execUpdateOpen s
  | .updateVerify => Sys2Proof.Machine.execUpdateVerify s
  | .upddataWrite => Sys2Proof.Machine.execUpddataWrite s
  | .i3cRegisterWrite => Sys2Proof.Machine.execI3cRegisterWrite s
  | .setdasa => Sys2Proof.Machine.execSetdasa s
  | .entdaa => Sys2Proof.Machine.execEntdaa s
  | .coldReset => Sys2Proof.Machine.execColdReset s
  | .warmReset => Sys2Proof.Machine.execWarmReset s
  | .railFault => Sys2Proof.Machine.execRailFault s
  | .railEnable => Sys2Proof.Machine.execRailEnable s
  | .pllLock => Sys2Proof.Machine.execPllLock s
  | .clockLockLoss => Sys2Proof.Machine.execClockLockLoss s
  | .bootImage => Sys2Proof.Machine.execBootImage s
  | .bootMemory => Sys2Proof.Machine.execBootMemory s
  | .bootConfig => Sys2Proof.Machine.execBootConfig s
  | .bootPorts => Sys2Proof.Machine.execBootPorts s
  | .bootReady => Sys2Proof.Machine.execBootReady s
  | .powerGating => Sys2Proof.Machine.execPowerGating s
  | .budgetCalculation => Sys2Proof.Machine.execBudgetCalculation s
  | .shardAcknowledgement => Sys2Proof.Machine.execShardAcknowledgement s
  | .lossReport => Sys2Proof.Machine.execLossReport s
  | .powerLoss => Sys2Proof.Machine.execPowerLoss s

end Sys2Proof.Machine
end

