-- ==== Sys2Proof/Machine/Queues.lean ====
section
/-! DEFINITION. The words of the engine queues by their instruction, and the attempts that a context makes at the words that wait (R14). -/

namespace Sys2Proof.Machine

/-- One attempt at a word of an engine queue. The words of the control engine are never queued. -/
def queueBody (i : Instr) : QEntry → State → QAct :=
  match i with
  | .vadd d a b m => bodyVadd d a b m
  | .vsub d a b m => bodyVsub d a b m
  | .vmul d a b m => bodyVmul d a b m
  | .vfma d a b m => bodyVfma d a b m
  | .vfms d a b m => bodyVfms d a b m
  | .vfnma d a b m => bodyVfnma d a b m
  | .vmin d a b m => bodyVmin d a b m
  | .vmax d a b m => bodyVmax d a b m
  | .vabs d a m => bodyVabs d a m
  | .vneg d a m => bodyVneg d a m
  | .vand d a b m => bodyVand d a b m
  | .vor d a b m => bodyVor d a b m
  | .vxor d a b m => bodyVxor d a b m
  | .vshl d a b m => bodyVshl d a b m
  | .vshr d a b m => bodyVshr d a b m
  | .vsar d a b m => bodyVsar d a b m
  | .vmov d a m => bodyVmov d a m
  | .vsel d a b m => bodyVsel d a b m
  | .vbcast d a b m => bodyVbcast d a b m
  | .viota d a m => bodyViota d a m
  | .vcmp p d a b m => bodyVcmp p d a b m
  | .vclass d a m => bodyVclass d a m
  | .vcvt d a df part m => bodyVcvt d a df part m
  | .vquant d a df m => bodyVquant d a df m
  | .vdeq d a df m => bodyVdeq d a df m
  | .vrcp d a m => bodyVrcp d a m
  | .vrsq d a m => bodyVrsq d a m
  | .vsqrt d a m => bodyVsqrt d a m
  | .vexp2f d a m => bodyVexp2f d a m
  | .vlog2f d a m => bodyVlog2f d a m
  | .vrint d a m => bodyVrint d a m
  | .vfint d a m => bodyVfint d a m
  | .vexpi d a b m => bodyVexpi d a b m
  | .vgetexp d a m => bodyVgetexp d a m
  | .vgetmant d a m => bodyVgetmant d a m
  | .vredadd d a m => bodyVredadd d a m
  | .vredmax d a m => bodyVredmax d a m
  | .vredamax d a m => bodyVredamax d a m
  | .vredmin d a m => bodyVredmin d a m
  | .vscan d a m => bodyVscan d a m
  | .vperm d a b m => bodyVperm d a b m
  | .vshuf d a b pat m => bodyVshuf d a b pat m
  | .vrot d a b m => bodyVrot d a b m
  | .vslide d a b m => bodyVslide d a b m
  | .vcomp d a k m => bodyVcomp d a k m
  | .vrng d m => bodyVrng d m
  | .vld d a m => bodyVld d a m
  | .vst d a m => bodyVst d a m
  | .vlds d a b m => bodyVlds d a b m
  | .vsts d a b m => bodyVsts d a b m
  | .vgath d a b m => bodyVgath d a b m
  | .vscat d a b m => bodyVscat d a b m
  | .mand d a b m => bodyMand d a b m
  | .mor d a b m => bodyMor d a b m
  | .mxor d a b m => bodyMxor d a b m
  | .mnot d a m => bodyMnot d a m
  | .mpop a m => bodyMpop a m
  | .mfirst d a m => bodyMfirst d a m
  | .vanyq a m => bodyVanyq a m
  | .vallq a m => bodyVallq a m
  | .vxq a b m => bodyVxq a b m
  | .mlease gang => bodyMlease gang
  | .mrel => bodyMrel
  | .mldt a b c t => bodyMldt a b c t
  | .mstt a b c t => bodyMstt a b c t
  | .mcvt d a sf df rm sat => bodyMcvt d a sf df rm sat
  | .mtrn d a => bodyMtrn d a
  | .mzero d n => bodyMzero d n
  | .mzeroT t => bodyMzeroT t
  | .mma d a b f acc zc => bodyMma d a b f acc zc
  | .mmag a b f acc => bodyMmag a b f acc
  | .mdrain d a df tr rm sat rows cols => bodyMdrain d a df tr rm sat rows cols
  | .mfmt _ _ => bodyMfmt
  | .mchkn a => bodyMchkn a
  | .mkat a b disp slot => bodyMkat a b disp slot
  | .mwait _ gang => bodyMwait gang
  | .copy a b c => bodyCopy a b c
  | .copy2 a b c len rows => bodyCopy2 a b c len rows
  | .gather a b c q esz count => bodyGather a b c q esz count
  | .scatter a b c esz count => bodyScatter a b c esz count
  | .sbind _ _ _ _ _ => bodySbind
  | .sunbind _ => bodySunbind
  | .sout a b c f => bodySout a b c f
  | .pref a b => bodyPref a b
  | .opk a b c q => bodyOpk a b c q
  | .cjoin a b c _ => bodyCjoin a b c
  | .cleave a => bodyCleave a
  | .cstore a b c q => bodyCstore a b c q
  | .cwait a b => bodyCwait a b
  | .fred a b c op int nanskip => bodyFred a b c op int nanskip
  | .fredw a b c _ => bodyFredw a b c
  | .frel => bodyFrel
  | .gcfg _ _ _ => bodyGcfg
  | .gplane a b => bodyGplane a b
  | .ghash d a => bodyGhash d a
  | .grep d a t rule => bodyGrep d a t rule
  | .gpack d a b => bodyGpack d a b
  | .gscat d a b => bodyGscat d a b
  | .gmap a m => bodyGmap a m
  | .glmap a m => bodyGlmap a m
  | .ggsum d a b => bodyGgsum d a b
  | _ => fun _ s => (.done s, 0)

/-- One attempt at a routed word that still waits, where nothing holds it. -/
def attempt (s : State) (u : Nat) : State :=
  match s.cx.fl.pend.find? (·.uid == u) with
  | some e => if canStart s e then settleEntry e (queueBody e.ins e (countEntry e s)) else s
  | none => s

/-- One attempt at every routed word that waits, in program order. -/
def pump (s : State) : State := (s.cx.fl.pend.map (·.uid)).foldl attempt s

end Sys2Proof.Machine
end

