-- ==== Sys2Proof/Machine/Turn.lean ====
section
/-! DEFINITION. What a step does around the meaning that it runs (log 3): the fetch of an instruction (R169, R176 to R179), what
a core does when it has none to issue (R27, R333 to R340, R348 to R350, R357), the passing of time (R131, R136, R331), and the
occurrences whose time has come. -/

namespace Sys2Proof.Machine

/-! ## Fetch (R169, R176 to R179) -/

/-- The instruction at the program counter, with the address after it; none where the line holds constants or pads, which
the fetch passes over. A malformed line, an address that starts no instruction and a failed decode are ILLEGAL; a SYS form's
field is checked after the mode (R169). -/
def fetchInstr (s : State) : Res (Option Instr) :=
  let line := s.cx.pc.toNat / 128 * 128
  (fetchLine line s).andThen fun l s =>
    let j := s.cx.pc.toNat % 128 / 4
    if lineKind l = 1 ∨ lineKind l = 2 then
      let next := BitVec.ofNat 64 (line + 136)
      .ok none { s with cx := { s.cx with pc := next, npc := next } }
    else if !lineOk l || s.cx.pc.toNat % 4 != 0 || j < 2 || !lineStart l j then .stop (illegal s.cx.pc s)
    else match decode (lineWord l j) (lineWord l (j + 1)) (lineWord l (j + 2)) with
      | .ok i => .ok (some i) { s with cx := { s.cx with npc := nextPc line l j } }
      | .error (.field true) => .stop (if s.cx.pr.priv then illegal s.cx.pc s else .trap cPRIVILEGE s.cx.pc 0 s)
      | .error _ => .stop (illegal s.cx.pc s)

/-! ## A turn without an instruction -/

/-- Whether the standby bank's context can run now. -/
def standbyReady (s : State) : Bool :=
  (match s.co.standby with | some d => preloaded d || resumable s d | none => false) && !switchBarred s.me s

/-- A core out of service, or whose standby bank is, gives up what that bank holds (R359). A member of a pair that stands behind the other
one comes back into the active bank, to run forward to its count and leave with it (R348). -/
def giveUpStandby (s : State) : State :=
  let t := vacateStandby s.me (unloadStandby s.me s)
  match t.co.standby with
  | some d => if t.cx.task.isNone && resumable t d && !preloaded d then requestLeave t.me (switchBanks t.me t) else t
  | none => t

/-- The turn of a core whose active bank is empty: a pre-emption request falls away (R339), a core out of service gives up its standby
bank (R359), a faulted context comes back (R27), or a task is selected (R126) or looked for elsewhere (R114). -/
def emptyTurn (s : State) : State :=
  if s.co.preempt then raiseDue (.preEmption s.me) s
  else if coreOut s s.me || (s.co.standby.isSome && bankOut s s.me (!s.co.bank)) then
    (if s.co.standby.isSome then giveUpStandby s else s)
  else if s.co.gated then s
  else match s.co.standby with
    | some d => if preloaded d then pick s else if resumable s d then raiseDue (.taskSelection s.me) s else s
    | none => pick s
where
  pick (s : State) : State := if (select s s.me).isSome then raiseDue (.taskSelection s.me) s else seekTask s.me s

/-- TINFO of the page fault of a routed word (R331): its completed beats or rows, or the lowest faulting lane. -/
def doneInfo (e : QEntry) (addr : W64) : Nat :=
  match e.ins with
  | .scatter _ _ _ _ _ => e.done % 2 ^ 32
  | .fredw _ _ c _ => (addr - qs e c).toNat / 64
  | .opk _ _ _ _ | .cjoin _ _ _ _ => 0
  | _ => e.done

/-- A page fault that has been answered REFUSE is delivered as a trap of its word (R333); at the entry of a handler there is then no
handler (R336). -/
def refusedFault (p : PFault) (cause : BitVec 8) (s : State) : State :=
  let e := p.quid.bind fun u => s.cx.fl.pend.find? (·.uid == u)
  let s := { s with cx := { s.cx with fl := { s.cx.fl with pf := none } } }
  match s.cx.fl.drain, e with
  | some t, _ => noHandler (trapRec (curHandle s) t 0) (clearDrain s)
  | none, some e => startTrap { cause := cause, taddr := p.addr, tinfo := BitVec.ofNat 64 (doneInfo e p.addr), tepc := e.pc, tnpc := s.cx.pc,
                                queue := qbit (some e.queue), quid := some e.uid } s
  | none, none => startTrap { cause := cause, taddr := p.addr, tepc := s.cx.pc, tnpc := s.cx.pc } s

/-- The other member of a pair, with its core and whether it is in the active bank there; a save image has no core. -/
def partner (s : State) : Option (Ctx × Option (Nat × Bool)) :=
  (s.cx.task.bind (partnerLoc s)).bind fun l => (ctxAt s l).map fun c => (c, match l with | .bank n a => some (n, a) | .image _ => none)

/-- A refusal is taken once the other member of the pair has come to the word's count, and it holds for that one too (R349). -/
def refusedPair (p : PFault) (cause : BitVec 8) (s : State) : State :=
  match partner s with
  | some (d, _) =>
    if standsAt d < standsAt s.cx then s
    else refusedFault p cause (match s.cx.task.bind (partnerLoc s) with | some l => updLoc l (tellMember s.cx p) s | none => s)
  | none => refusedFault p cause s

/-- The turn of a context that has taken a page fault (R27, R333): once drained it gives way to the standby bank, and moves there where
a pre-emption has been requested (R339); answered, its word is issued again or traps. -/
def faultTurn (p : PFault) (s : State) : State :=
  let gives := standbyReady s || (s.co.standby.isNone && (s.co.preempt || coreOut s s.me))
  match p.answer with
  | none => if drained s && gives then pageSwitch s.me s else s
  | some .retry => if resumable s s.cx then { s with cx := resumeCtx s s.cx } else s
  | some .refuseAbsent => refusedPair p cABSENT s
  | some .refusePerm => refusedPair p cPERM s

/-- The turn of a context that drains for a trap or an interrupt (R334, R338): once drained it is entered; an interrupt that the routed
words cannot let through is put off. A trap behind a word that pushes into a full queue or stream waits, without end where only the
control engine could empty that: the spec is silent, and that is the model's choice (log 115). -/
def drainTurn (t : TrapInfo) (s : State) : State :=
  if drained s then raiseDue (.trapEntry s.me) s
  else if t.cause = 0 && drainStuck s then clearDrain s
  else s

/-- What the other member of a pair makes a member do before its next instruction: nothing, or its turn's end. A member
1,024 instructions ahead stalls (R346); one ahead of the other waits for it where a pre-emption or the other's trap is
to be settled (R348, R350); one that has come to the count of the other's page fault switches banks (R349). -/
def pairTurn (s : State) : Option State :=
  match partner s with
  | none => none
  | some (p, at_) =>
    let ahead := s.cx.retired.toNat - p.retired.toNat
    let other := match at_ with | some (n, true) => if (coreOf s n).2.preempt then some n else none | _ => none
    let asked := s.co.preempt || other.isSome
    let faulted := match p.fl.pf with | some f => f.answer != some .retry | none => false
    let trapped := match p.fl.drain with | some t => t.cause != 0 | none => false
    if 1024 ≤ ahead then some s
    else if faulted && standsAt p ≤ standsAt s.cx then some (if standbyReady s && quiet s then pageSwitch s.me s else s)
    else if (asked && standsAt p < standsAt s.cx) || (trapped && 0 < ahead) then some s
    else match other with
      | some n => if haltable s n then some (raiseDue (.preEmption n) s) else none
      | none => none

/-- The turn of a core that issues no instruction now; none where it may issue one. -/
def heldTurn (s : State) : Option State :=
  if s.cx.task.isNone then some (emptyTurn s)
  else if s.co.standby.isSome && bankOut s s.me (!s.co.bank) && (giveUpStandby s).co.standby.isNone then some (giveUpStandby s)
  else if s.cx.fl.wait == .idle && idleOver s then some (raiseDue (.idleWake s.me) s)
  else match s.cx.fl.pf, s.cx.fl.drain with
    | some p, _ => some (faultTurn p s)
    | none, some t => some (drainTurn t s)
    | none, none =>
      if haltable s s.me then some (raiseDue (.preEmption s.me) s)
      else if s.co.preempt && !haltsNow s s.me s.cx then some s
      else if interruptible s then some (raiseDue (.asyncInterrupt s.me) s)
      else if s.cx.fl.pend.any (fun e => holdsControl e.ins && !e.retained) || (backDue s && !quiet s) then some s
      else pairTurn s

/-! ## Time -/

/-- A context's share of `n` clocks: TIMER counts down while it is active, and stops at 0 (R331). -/
def tickCtx (n : Nat) (c : Ctx) : Ctx :=
  if c.task.isSome && c.pr.timer != 0 then
    let left := c.pr.timer.toNat - n
    { c with pr := { c.pr with timer := BitVec.ofNat 64 left, expired := c.pr.expired || left == 0 } }
  else c

/-- ENERGY of the moving context, which saturates (R136). -/
def addEnergy (n : Nat) (c : Ctx) : Ctx :=
  if c.task.isSome then { c with energy := BitVec.ofNat 64 (Nat.min (2 ^ 64 - 1) (c.energy.toNat + n)) } else c

/-- Time passes: `own` is 1 where a core has had its turn. The clocks and the energy are free (log 4, log 5). -/
def tick (own : Nat) (s : State) : State :=
  let n := own + Config.stepClocks s.free
  let cx := addEnergy (Config.stepEnergy s.free) (tickCtx n s.cx)
  -- what no task is charged, the shadow tails (R134) among it, counts in IDLEEN (R439)
  let idle := s.mmio.idleen + BitVec.ofNat 64 (Config.stepEnergy (s.free + 1))
  let others := s.others.map fun x => (x.1, tickCtx n x.2.1, x.2.2)
  sumThrottle { s with clock := s.clock + n, free := s.free + 2, cx := cx, others := others, mmio := { s.mmio with idleen := idle } }

/-- What the waits of the moving core's active bank come to in time: R53, R58, R318 and R320 after 100 µs, the bank switches of R119,
R311 and R315 after 10 µs, a CWAIT whose group finds no plane after 50 µs (R311). -/
def waitTimers (s : State) : List Event :=
  let since (n : Nat) : Bool := s.cx.fl.waitSince + micros n ≤ s.clock
  let starves : Bool := match s.cx.fl.wait with
    | .cwait g _ => (match s.fab.members.find? (·.g.val == g) with
      | some m => m.frozen && m.starved && m.frozenAt + micros 50 ≤ s.clock
      | none => false)
    | _ => false
  match s.cx.fl.wait with
  | .pool => if since 100 then [.poolWaitTimeout s.me] else []
  | .record => if since 100 then [.recordWaitTimeout s.me] else []
  | .storage => if since 100 then [.storageWaitTimeout s.me] else []
  | .slot => if since 100 then [.slotWaitTimeout s.me] else []
  | .none => []
  | _ => (if starves then [.cwaitStarvedTimeout s.me] else [])
    ++ (if yieldsNow s then [.waitBankSwitch s.me] else [])

/-- What the banks, the timers and the array of the moving core come to in time: the context in the standby bank comes back (R27), TIMER
(R331), the ramp of its quad's array (R132), the preload (R26). -/
def coreTimers (s : State) : List Event :=
  let q := quadOf s.me
  let back : List Event := if backDue s && quiet s then [.faultSwitchBackTimeout s.me] else []
  let timers := (liveCores s).filterMap fun n => if (coreOf s n).1.pr.expired then some (Event.timerExpiry n) else none
  let (up, down) := allowance s
  let ramp : List Event := if (heldArray s q && 0 < up) || (tailing s q && 0 < down) then [.governorInterval] else []
  let pre : List Event := if (nextPreload s.me s).isSome then [.preload s.me] else []
  back ++ timers ++ ramp ++ pre

/-- What the device comes to in time: an OFFER without TAKE (R115), a barrier's timeout (R11), a task held by budget (R129), storage that recovery lacks (R72), the
mirror (R56), a gap (R104), reductions and their fences (R108, R110), holders that do not acknowledge (R421), a group
held for a key (R404). -/
def deviceTimers (s : State) : List Event :=
  let offers := (allEntries s).filterMap fun e => match e.cust with
    | .offered sid => if offerOver s e then some (Event.custodyTimeout sid) else none
    | _ => none
  let holds := ((List.range 4).filter fun d => (powOf s d).heldAt.any (heldLong s)).map fun d => Event.budgetHoldTimeout (Fin.ofNat 4 d)
  let leases := ((List.range 96).filter (leaseOver s)).map Event.leaseExpiry
  let starve := (starvedTiles s).map Event.recoveryStorageTimeout
  let mirror : List Event := if mirrorLate s then [.mirrorTimeout] else []
  let gaps := (s.fab.members.filter (gapLate s)).map fun m => Event.gapTimeout m.g
  let slots := (s.fab.rslots.filter fun r => r.since + redTimeout s r.g ≤ s.clock).map fun r => Event.reductionTimeout r.g r.tag
  let lacking := s.fab.freds.filter (·.resend)
  let noSlot := (lacking.filter fun f => f.since + redTimeout s f.item.g ≤ s.clock).map fun f => Event.reductionTimeout f.item.g f.item.tag
  let again := lacking.map fun f => Event.fredResend f.item.g f.item.tag
  let fences := (s.fab.fences.filter fun x => x.since + 16 * redTimeout s x.g ≤ s.clock).map fun x => Event.reductionFenceExpiry x.g x.tag
  let barriers := (s.dist.barriers.filter (barrierOver s ·)).map fun b => Event.barrierTimeout b.k
  let late := (s.xl.asids.filter (holdersLate s ·)).map fun b => Event.holdersOutstanding b.asid
  let keys := ((List.finRange 24).filter fun k => keyHeldOver s s.fab.st[k]).map Event.keyHoldTimeout
  offers ++ barriers ++ holds ++ leases ++ starve ++ mirror ++ gaps ++ slots ++ noSlot ++ again ++ fences ++ late ++ keys

/-- The occurrences that the passing of time brings. -/
def timely (s : State) : List Event := waitTimers s ++ coreTimers s ++ deviceTimers s

/-- Time passes at a core's turn: what time brings becomes due, what no station carried leaves where one does now (R400), and the
occurrences that a full table keeps waiting are tried again (R119, R418). -/
def passTurn (s : State) : State :=
  let s := sendWithheld (noteRamp (noteHolds (tick 1 s)))
  let s := (timely s).foldl (fun s e => raiseDue e s) s
  { s with due := s.due ++ s.held, held := [] }

/-- What follows a core's turn: the shards of other devices that wait are answered where they can be (R54), and time passes. -/
def afterTurn (s : State) : State := passTurn (if s.lin.asks.isEmpty then s else serveAsks s)

/-- What follows an occurrence. -/
def afterEvent (s : State) : State := tick 0 { s with now := none }

/-! ## The mirror (R55) -/

/-- A change of records becomes visible once the buddy has acknowledged it (R55): until then what changed is sent, once, and what the
device was about to do, a turn or an occurrence, is put off by `later`. -/
def mirrorGate (before : State) (later : State → State) (after : State) : State :=
  let ch := changedImages before after
  if !mirroring before || !mirroring after || ch.isEmpty then backRecords ch after
  else if ch.all (ackedChange after) then
    backRecords ch { after with lin := { after.lin with sent := after.lin.sent.filter fun m => !ch.any (·.1 == m.tile) } }
  else later (sendChanges ch before)

/-- An occurrence that is put off. -/
def putOff (e : Event) (s : State) : State := afterEvent { s with held := s.held ++ [e] }

/-! ## A word placed for the fetch (log 14) -/

/-- Bytes put into memory from outside: readable, and not encrypted. -/
def placed (a : Nat) (bs : List Byte) (m : Memory) : Memory :=
  let hit (b : Nat) : Bool := a / 64 ≤ b && b ≤ (a + bs.length - 1) / 64
  { m.setAll a bs with poison := m.poison.filter (!hit ·), ckey := m.ckey.filter (!hit ·.1) }

/-- The virtual address, and the physical one, of the line that holds the placed word. -/
def placedLine : Nat := 0x200000

/-- The bytes of a line that holds one instruction, from word 2 on. -/
def lineBytes (v : Nat) : List Byte :=
  bytesOf 128 (2 ^ 30 + 1 + v * 2 ^ 64)

/-- The tables that map the line's 2 MiB page: root at 0, level 2 at 0x10000, level 1 at 0x20000. -/
def placedTables (m : Memory) : Memory :=
  placed 0 (bytesOf 8 0x10001) (placed 0x10000 (bytesOf 8 0x20001) (placed 0x20008 (bytesOf 8 (0x20 * 2 ^ 10 + 63)) m))

/-- The task that runs the placed word: of the management ASID, with the whole scratchpad. -/
def placedTask (s : State) : TaskRun :=
  { handle := 0, packet := [0x0000080000000101, 0, BitVec.ofNat 64 (placedLine + 8), 0]
    info := ⟨0, 0, 0, 0⟩, started := some s.clock, since := s.clock }

/-- A state whose next step fetches and runs the instruction with the value `v`. -/
def placeWord (v : Nat) (s : State) : State :=
  let pc := BitVec.ofNat 64 (placedLine + 8)
  { s with
    script := [], due := [], held := [], now := none
    bob := { s.bob with phase := 6 }
    mem := placed placedLine (lineBytes v) (placedTables s.mem)
    xl := { s.xl with asids := [{ asid := 0, root := 0, mask := 0, tvec := 0, twen := false }]
                      art := [⟨0, 0, 2 ^ 36 - 1, 0, s.dev⟩], tlb := [], ptrs := [] }
    co := { s.co with standby := none, gated := false, preempt := false, toPool := false }
    cx := { s.cx with pc := pc, npc := pc, fl := {}, task := some (placedTask s)
                      pr := { s.cx.pr with priv := true, intrap := false, asid := 0, intmask := 0 } } }

end Sys2Proof.Machine
end

