-- ==== Sys2Proof/Machine/Step.lean ====
section
/-! DEFINITION. One step of the machine (log 3): the head of the script, else the occurrence that is due first, else the turn of
the core that moves. -/

namespace Sys2Proof.Machine

/-- What follows the next state of an outcome. -/
def thenDo (f : State → State) (o : Host.Outcome State Fault Refusal) : Host.Outcome State Fault Refusal :=
  match o with
  | .next s => .next (f s)
  | .fault e => .fault e
  | .refused e => .refused e

/-- One operation or event of the table takes place. -/
def occur (e : Event) (s : State) : Host.Outcome State Fault Refusal :=
  thenDo (fun t => mirrorGate s (putOff e) (afterEvent t)) (exec e.row { s with now := some e })

/-- The control engine issues the instruction at the program counter. -/
def issue (s : State) : Host.Outcome State Fault Refusal :=
  match fetchInstr s with
  | .ok (some i) s => exec i s
  | .ok none s => .next s
  | .stop a => .next (finish s a)

/-- The turn of the core that moves: its queues' waiting words, then one instruction, or what keeps it from one. -/
def coreTurn (s : State) : Host.Outcome State Fault Refusal :=
  let t := pump (gangAgain s)
  thenDo (fun u => mirrorGate s passTurn (afterTurn u)) (match heldTurn t with
    | some t => .next t
    | none => issue t)

/-- One step. -/
def step (s : State) : Host.Outcome State Fault Refusal :=
  match s.script, s.due with
  | .core n :: r, _ =>
    let s := { s with script := r }
    if n < 384 then coreTurn (focus n s) else .fault (.noSuchCore n)
  | .input e :: r, _ => occur e { s with script := r }
  | .due k :: r, d =>
    let s := { s with script := r, due := d.eraseIdx k }
    (match d[k]? with | some e => occur e s | none => .next (afterEvent s))
  | .found k pa :: r, _ => occur (.scrub k [(pa, .uncorrectable)]) { s with script := r }
  | .breaks u :: r, _ => .next (afterEvent { s with script := r, broken := u :: s.broken })
  | [], e :: r => occur e { s with due := r }
  | [], [] => coreTurn s

/-- `s` with an instruction stored where the next step fetches it. -/
def State.withFetchWord (s : State) (nbits w : Nat) : State := placeWord (w % 2 ^ Nat.min nbits 96) s

end Sys2Proof.Machine
end

