-- ==== Sys2Proof/Safety.lean ====
section
/-! DEFINITION. The terms in which claims speak of a run that goes well: what a word needs of the state before it completes,
what it captures, and which parts of the state two states share. -/

namespace Sys2Proof.Machine

/-! ## What a word needs -/

/-- The S registers of a word have been delivered, and no error of an earlier load or atomic stands for them (R191, R192). -/
def Ready (rs : List (Fin 32)) (s : State) : Prop :=
  lateOf (some (rs.filter (· != 0))) s = none ∧ rs.any (regBusy s) = false

/-- What a queue word needs to be placed: its operands, and room in its queue (R12, R15). -/
def Routable (q : Queue) (rs : List (Fin 32)) (s : State) : Prop := Ready rs s ∧ slip s q < s.cx.qdepth.toNat

/-- Nothing holds a newly placed word: no word is queued, no QFENCE stands, no stream is bound, no trap or page fault drains, no gang lease
claims the tiles, the arithmetic queue has issued nothing in this clock. -/
structure Quiet (s : State) : Prop where
  pend : s.cx.fl.pend = []
  fences : s.cx.fl.fences = []
  streams : s.cx.streams.toList.all (·.isNone) = true
  drain : s.cx.fl.drain = none
  pf : s.cx.fl.pf = none
  gang : (s.cx.lease.held && s.cx.lease.gang && !s.cx.lease.holder) = false
  arith : s.cx.fl.arith ≠ some s.clock

/-! ## What a word captures, and the state that places it (R12 to R14, R213) -/

/-- The entry that a word is placed as. -/
def entryOf (q : Queue) (i : Instr) (s : State) : QEntry :=
  { uid := s.uid, queue := q, ins := i, pc := s.cx.pc, s := s.cx.s, cfg := s.cx.cfg, note := feedId i s.cx }

/-- The state in which the control engine has gone on past a word that it has placed, after what the word did at its routing. -/
def placedWord (q : Queue) (i : Instr) (atRoute : State → State) (s : State) : State :=
  let t := complete (atRoute { s with uid := s.uid + 1 })
  { t with cx := { t.cx with fl := { t.cx.fl with pend := t.cx.fl.pend ++ [entryOf q i s] } } }

/-! ## What two states share -/

/-- Every byte of device memory reads the same, and the same blocks are unreadable. -/
def SameMemory (s t : State) : Prop := (∀ a, t.mem.get a = s.mem.get a) ∧ t.mem.poison = s.mem.poison

/-- The S registers other than those of a list read the same. -/
def SameS (ds : List (Fin 32)) (s t : State) : Prop := ∀ r, r ∉ ds → sget t.cx r = sget s.cx r

/-- The vector, mask and tile registers stand. -/
def SameVector (s t : State) : Prop := t.cx.v = s.cx.v ∧ t.cx.m = s.cx.m ∧ t.cx.t = s.cx.t

/-- The captured control registers, FLAGS and QDEPTH stand. -/
def SameControl (s t : State) : Prop := t.cx.cfg = s.cx.cfg ∧ t.cx.flags = s.cx.flags ∧ t.cx.qdepth = s.cx.qdepth

/-- The mode and the privileged registers stand. -/
def SamePriv (s t : State) : Prop := t.cx.pr = s.cx.pr

/-- Everything outside the moving core stands: the other cores, device memory, MMIO registers, the distributor, the arrays, the
power state, lineage, translation, fabric, host port and Bobbin. -/
structure SameDevice (s t : State) : Prop where
  others : t.others = s.others
  core : t.me = s.me ∧ t.co = s.co
  mem : t.mem = s.mem
  mmio : t.mmio = s.mmio
  dist : t.dist = s.dist
  arrays : t.arrays = s.arrays
  pow : t.pow = s.pow ∧ t.gov = s.gov
  lin : t.lin = s.lin
  xl : t.xl = s.xl
  fab : t.fab = s.fab
  port : t.port = s.port
  bob : t.bob = s.bob
  quar : t.quar = s.quar ∧ t.mcq = s.mcq ∧ t.broken = s.broken
  clock : t.clock = s.clock

/-! ## Forms that compute a register -/

/-- A form D = f(a, b) completes with D written, whatever its sources are (R193, R194). -/
def ComputesTwo (mk : Fin 32 → Src → Src → Instr) (f : W64 → W64 → W64) : Prop :=
  ∀ (d : Fin 32) (a b : Src) (s s' : State) (x y : W64), Ready (srcRegs [a, b]) s → readSrc2 a b s = .ok (x, y) s' →
    exec (mk d a b) s = .next (complete (wr s' d (f x y)))

/-- A form D = f(a). -/
def ComputesOne (mk : Fin 32 → Src → Instr) (f : W64 → W64) : Prop :=
  ∀ (d : Fin 32) (a : Src) (s s' : State) (x : W64), Ready (srcRegs [a]) s → readSrc a s = .ok x s' →
    exec (mk d a) s = .next (complete (wr s' d (f x)))

/-- A form that reads the state into D and otherwise only goes on. -/
def ReadsInto (mk : Fin 32 → Instr) (f : State → W64) : Prop :=
  ∀ (d : Fin 32) (s : State), exec (mk d) s = .next (complete (wr s d (f s)))

/-- The value of bytes in memory as an S register holds it after a load (R198). -/
def extended (n : Nat) (signed : Bool) (bs : List Byte) : W64 :=
  if signed then (BitVec.ofNat (8 * n) (natOf bs)).signExtend 64 else BitVec.ofNat 64 (natOf bs)

/-- A load of `n` bytes from local memory completes with D written (R198, R199): `g` is where its checked address lies, `bs` what a plain
read finds there. -/
def LoadsLocal (mk : Fin 32 → Src → BitVec 8 → Instr) (n : Nat) (signed : Bool) : Prop :=
  ∀ (d : Fin 32) (a : Src) (i : BitVec 8) (s s1 s2 s3 : State) (base : W64) (g : Seg) (bs : List Byte),
    Ready (srcRegs [a]) s → readSrc a s = .ok base s1 →
    (base + i.signExtend 64 * BitVec.ofNat 64 n).toNat % n = 0 →
    access 0 (if signed then .ctlSigned else .ctl n) .rd (base + i.signExtend 64 * BitVec.ofNat 64 n).toNat n s1 = .ok [g] s2 → g.ty ≤ 3 →
    ctlFenced s2 = false → (g.own = true → spadHeld s2 (base + i.signExtend 64 * BitVec.ofNat 64 n).toNat n false = false) →
    (g.own = false → s2.mem.poisoned g.pa n = none) → readSeg 0 g s2 = .ok bs s3 →
    exec (mk d a i) s = .next (complete (wr s3 d (extended n signed bs)))

/-- A store of `n` bytes to local memory completes with the bytes written at its checked address (R198, R199). -/
def StoresLocal (mk : Src → Src → BitVec 8 → Instr) (n : Nat) : Prop :=
  ∀ (d a : Src) (i : BitVec 8) (s s1 s2 s3 : State) (base v : W64) (g : Seg),
    Ready (srcRegs [a, d]) s → readSrc a s = .ok base s1 → readSrc d s1 = .ok v s2 →
    (base + i.signExtend 64 * BitVec.ofNat 64 n).toNat % n = 0 →
    access 0 (.ctl n) .wr (base + i.signExtend 64 * BitVec.ofNat 64 n).toNat n s2 = .ok [g] s3 → g.ty ≤ 3 →
    ctlFenced s3 = false → (g.own = true → spadHeld s3 (base + i.signExtend 64 * BitVec.ofNat 64 n).toNat n true = false) →
    exec (mk d a i) s = .next (complete (writeSeg 0 g (bytesOf n v.toNat) s3))

/-- An atomic of 4 or 8 bytes on this device completes: A gets the old value, the new one is written (R200, R201). -/
def AtomicLocal (mk : Fin 32 → Fin 32 → Fin 32 → Bool → Instr) (f : (w : Nat) → BitVec w → BitVec w → BitVec w) : Prop :=
  ∀ (a b c : Fin 32) (dbl : Bool) (s s' : State) (g : Seg), Ready [b, c] s → replayable s = false →
    let n := if dbl then 8 else 4
    (sget s.cx b).toNat % n = 0 → access 0 .atomic .rw (sget s.cx b).toNat n s = .ok [g] s' → g.ty ≤ 2 →
    ctlFenced s' = false → s'.mem.poisoned g.pa n = none →
    let old := natOf (s'.mem.read g.key g.pa n)
    let new := f (8 * n) (BitVec.ofNat (8 * n) old) (BitVec.ofNat (8 * n) (sget s.cx c).toNat)
    let after : State := { s' with mem := s'.mem.write g.key g.pa (bytesOf n new.toNat) }
    exec (mk a b c dbl) s = .next (complete (wr after a (BitVec.ofNat 64 (natOf (bytesOf n old)))))

/-! ## Vector words -/

/-- What a VEC word does to the generator when it is routed (R155, R254). -/
def drawn (i : Instr) (s : State) : State := takeDraws (drawBlocks i s.cx.cfg) s

/-- The conditions under which a queue word is attempted as soon as it is routed. -/
structure Starts (q : Queue) (i : Instr) (rs : List (Fin 32)) (atRoute : State → State) (s : State) : Prop where
  routable : Routable q rs s
  start : canStart (placedWord q i atRoute s) (entryOf q i s) = true

/-- A word of the arithmetic queue runs: routed with its operands ready and its format allowed, started because nothing holds it, with
no source in a shadow and no full queue before it, it reads its sources in order and writes what `out` gives under its lane environment,
with latency `late`. -/
def VecRuns (i : Instr) (m : VMod) (srcs : List VSrc) (extra : List VReg) (late : LaneEnv → Nat)
    (out : LaneEnv → List Nat → Ctx → VOut) : Prop :=
  ∀ (s p' : State) (rows : List Nat), Starts .varith i (vsrcRegs srcs) (drawn i) s → vecOk (vecFmt m s.cx.cfg) i = true →
    let e := entryOf .varith i s
    let p := placedWord .varith i (drawn i) s
    let env := vecEnv m e p.cx
    inShadow (srcReads m srcs ++ extra) p = false → (∀ x, pushesTo i = some x → queueFull p.cx x = false) →
    Res.mapM (readVSrc env.f e) srcs p = .ok rows p' →
    exec i s = .next (noteArith (dropEntry s.uid (writeOut (out env rows p'.cx) (late env) p')))

/-- A form with one source and a row as its result. -/
def RowOfOne (mk : Fin 128 → VSrc → VMod → Instr) (late : LaneEnv → Nat) (f : VMod → LaneEnv → Nat → Nat × Flg) : Prop :=
  ∀ d a m, VecRuns (mk d a m) m [a] [] late fun env l _ =>
    { v := some (d, (f m env (l.getD 0 0)).1), fl := (f m env (l.getD 0 0)).2 }

/-- A form with two sources and a row as its result. -/
def RowOfTwo (mk : Fin 128 → VSrc → VSrc → VMod → Instr) (late : LaneEnv → Nat) (f : VMod → LaneEnv → Nat → Nat → Nat × Flg) : Prop :=
  ∀ d a b m, VecRuns (mk d a b m) m [a, b] [] late fun env l _ =>
    { v := some (d, (f m env (l.getD 0 0) (l.getD 1 0)).1), fl := (f m env (l.getD 0 0) (l.getD 1 0)).2 }

/-- A form with two sources that also reads its destination. -/
def RowOfThree (mk : Fin 128 → VSrc → VSrc → VMod → Instr) (late : LaneEnv → Nat) (f : LaneEnv → Nat → Nat → Nat → Nat × Flg) : Prop :=
  ∀ d a b m, VecRuns (mk d a b m) m [a, b] [(false, d.val)] late fun env l c =>
    let r := f env (l.getD 0 0) (l.getD 1 0) (c.v[d]).toNat; { v := some (d, r.1), fl := r.2 }

/-- The queue of a VEC word (R12). -/
def vecQueue : Instr → Queue
  | .vld _ _ _ | .vlds _ _ _ _ | .vgath _ _ _ _ => .vload
  | .vst _ _ _ | .vsts _ _ _ _ | .vscat _ _ _ _ => .vstore
  | _ => .varith

/-- The S registers that a VEC word reads at its routing. -/
def vecRegs (srcs : List VSrc) : Instr → List (Fin 32)
  | .vld _ a _ | .vst _ a _ | .vgath _ a _ _ | .vscat _ a _ _ => [a]
  | .vlds _ a b _ | .vsts _ a b _ => [a, b]
  | _ => vsrcRegs srcs

/-! ## Other queue words -/

/-- A word of another queue than the arithmetic one runs: started at its routing in a state with `ok`, it leaves its queue with the effect `after` on the state that placed it. -/
def RunsTo (q : Queue) (i : Instr) (rs : State → List (Fin 32)) (atRoute : State → State) (ok : State → QEntry → State → Prop)
    (after : QEntry → State → State) : Prop :=
  ∀ s : State, Starts q i (rs s) atRoute s → ok s (entryOf q i s) (placedWord q i atRoute s) →
    exec i s = .next (dropEntry s.uid (after (entryOf q i s) (placedWord q i atRoute s)))

/-- A word of another queue than the arithmetic one whose attempt comes to `t` leaves its queue in that state. -/
def RunsAs (q : Queue) (i : Instr) (rs : State → List (Fin 32)) (atRoute : State → State) (ok : State → Prop)
    (body : QEntry → State → QAct) : Prop :=
  ∀ (s t : State) (n : Nat), Starts q i (rs s) atRoute s → ok s → body (entryOf q i s) (placedWord q i atRoute s) = (.done t, n) →
    exec i s = .next (dropEntry s.uid t)

/-- What a multiply needs when it starts, but for the shapes (R123, R132, R267, R269, R282): the session, the held lease with multiplies
and clocks left, an array that runs no operation and has increments, no self-check, and time for the operation in the lease. -/
def MultiplyReady (gang : Bool) (slots : Nat) (s : State) : Prop :=
  let arr := arrOf s (quadOf s.me)
  s.me < 384 ∧ s.cx.lease.session = some gang ∧ s.cx.lease.held = true ∧ s.cx.lease.mmas ≠ 0 ∧ arr.busy ≤ s.clock
  ∧ quadMultiplies s (quadOf s.me) = false ∧ arr.density ≠ 0 ∧ s.clock < s.cx.lease.ends
  ∧ s.cx.mchkPeriod = 0 ∧ s.cx.mchkCount.toNat < 65535 ∧ arr.ring.length < 1024
  ∧ (s.cx.lease.fresh = true ∨ s.clock + slotClocks s.clock slots (Nat.min arr.density (maxDensity s (dieOf s.me))) ≤ s.cx.lease.ends)

/-! ## Moves within the local window (R32) -/

/-- `n` bytes from an address of the local window lie in the task's part of it. -/
def InWindow (a n : Nat) (s : State) : Prop := (spadPart (ctxSpad s.cx)).1 ≤ a ∧ a + n ≤ (spadPart (ctxSpad s.cx)).2

/-- The bytes of the local window at an address. -/
def windowRaw (u : State) (a n : Nat) : List Byte := u.mem.raw (spadBase u.me + a) n

/-- Bytes put into the local window at an address. -/
def windowPut (a : Nat) (bs : List Byte) (u : State) : State := { u with mem := u.mem.write none (spadBase u.me + a) bs }

/-- Listed bytes put into the local window at an address, the others left as they are. -/
def windowSome (a : Nat) (bs : List (Option Byte)) (u : State) : State :=
  writeMasked 5 [{ ty := 3, own := true, rdev := 0, pa := spadBase u.me + a, len := bs.length, key := none, rkey := none, va := a }] bs u

/-- The beats of one row of a move within the local window, each read and then written, in order (R83, R298). -/
def windowMove (dst src : W64) (n : Nat) (u : State) : State :=
  (beatParts dst n).foldl (fun u p => windowPut p.1.toNat (windowRaw u (src + (p.1 - dst)).toNat p.2) u) u

/-! ## Encodings -/

/-- Every well-formed instruction of one engine, with any two words after it, decodes to itself. -/
def DecodesBack (words : Instr → List Nat) : Prop :=
  ∀ (i : Instr) (x y : Nat), words i ≠ [] → i.WellFormed → x < 2 ^ 32 → y < 2 ^ 32 →
    ∃ a b c r, encode i ++ [x, y] = a :: b :: c :: r ∧ decode a b c = .ok i

end Sys2Proof.Machine
end

