-- ==== Sys2Proof/Certificates/Slice0/Obligations.lean ====
section
/-! DEFINITION. The statements for the provers. First the parts, each with the rules that it formalises in its docstring; then, at the end, the
obligations: each is a part, or the conjunction of several parts about one group of instructions. -/

open Sys2Proof Sys2Proof.Machine

/-! ## The control engine: arithmetic (R193 to R197, R225) -/

/-- What a scalar source reads and what a write to an S register does (R23, R24, R193): S0 reads zero and discards a write; a
bound scalar stream gives its oldest element and loses it; an unbound one is QUEUE. -/
def Sys2Proof.Parts.ScalarOperands : Prop :=
  (∀ (r : Fin 32) (s : State), readSrc (.s r) s = .ok (if r = 0 then 0 else s.cx.s[r]) s)
  ∧ (∀ (s : State) (v : W64), wr s 0 v = s)
  ∧ (∀ (r : Fin 32) (s : State) (v : W64), r ≠ 0 → sget (wr s r v).cx r = v ∧ SameS [r] s (wr s r v))
  ∧ (∀ (q : Fin 8) (s : State) (b : Stream) (x : Row) (rest : List Row), s.cx.streams[q] = some b →
      (b.kind = .scalar ∨ b.kind = .result) → b.buf = x :: rest →
      readSrc (.q q) s = .ok (x.setWidth 64) (setStream q (some { b with buf := rest }) s))
  ∧ (∀ (q : Fin 8) (s : State), s.cx.streams[q] = none → readSrc (.q q) s = .stop (.trap cQUEUE s.cx.pc 0 s))

/-- The register forms ADD to POPC compute D = f(a, b) with the functions of R194's table, a zero divisor as R195 says. -/
def Sys2Proof.Parts.RegisterArithmetic : Prop :=
  ComputesTwo .add (· + ·) ∧ ComputesTwo .sub (· - ·) ∧ ComputesTwo .and (· &&& ·) ∧ ComputesTwo .or (· ||| ·)
  ∧ ComputesTwo .xor (· ^^^ ·)
  ∧ ComputesTwo .shl (fun x y => x <<< (y.toNat % 64)) ∧ ComputesTwo .shr (fun x y => x >>> (y.toNat % 64))
  ∧ ComputesTwo .sar (fun x y => x.sshiftRight (y.toNat % 64))
  ∧ ComputesTwo .mul (· * ·)
  ∧ ComputesTwo .mulh (fun x y => BitVec.ofInt 64 (x.toInt * y.toInt / 2 ^ 64))
  ∧ ComputesTwo .mulhu (fun x y => BitVec.ofNat 64 (x.toNat * y.toNat / 2 ^ 64))
  ∧ ComputesTwo .div (fun x y => if y = 0 then BitVec.allOnes 64 else BitVec.ofInt 64 (x.toInt.tdiv y.toInt))
  ∧ ComputesTwo .divu (fun x y => if y = 0 then BitVec.allOnes 64 else x / y)
  ∧ ComputesTwo .rem (fun x y => if y = 0 then BitVec.allOnes 64 else BitVec.ofInt 64 (x.toInt.tmod y.toInt))
  ∧ ComputesTwo .remu (fun x y => if y = 0 then BitVec.allOnes 64 else x % y)
  ∧ ComputesTwo .min (fun x y => if y.toInt < x.toInt then y else x)
  ∧ ComputesTwo .max (fun x y => if x.toInt < y.toInt then y else x)
  ∧ ComputesTwo .minu (fun x y => if y.toNat < x.toNat then y else x)
  ∧ ComputesTwo .maxu (fun x y => if x.toNat < y.toNat then y else x)
  ∧ ComputesTwo .slt (fun x y => if x.toInt < y.toInt then 1 else 0)
  ∧ ComputesTwo .sltu (fun x y => if x.toNat < y.toNat then 1 else 0)
  ∧ ComputesTwo .seq (fun x y => if x = y then 1 else 0)
  ∧ ComputesOne .clz (fun x => BitVec.ofNat 64 (if x = 0 then 64 else 63 - Nat.log2 x.toNat))
  ∧ ComputesOne .popc (fun x => BitVec.ofNat 64 ((List.range 64).filter fun k => x.getLsbD k).length)

/-- Division never traps (R195): a zero divisor gives all ones, and the overflowing quotient wraps. -/
def Sys2Proof.Parts.DivisionNeverTraps : Prop :=
  ∀ (d : Fin 32) (a b : Src) (s s' : State) (x y : W64), Ready (srcRegs [a, b]) s → readSrc2 a b s = .ok (x, y) s' →
    (y = 0 → exec (.div d a b) s = .next (complete (wr s' d 0xFFFFFFFFFFFFFFFF))
      ∧ exec (.divu d a b) s = .next (complete (wr s' d 0xFFFFFFFFFFFFFFFF))
      ∧ exec (.rem d a b) s = .next (complete (wr s' d 0xFFFFFFFFFFFFFFFF))
      ∧ exec (.remu d a b) s = .next (complete (wr s' d 0xFFFFFFFFFFFFFFFF)))
    ∧ (x.toInt = -2 ^ 63 → y.toInt = -1 → exec (.div d a b) s = .next (complete (wr s' d x))
      ∧ exec (.rem d a b) s = .next (complete (wr s' d 0)))

/-- The immediate forms compute with the sign-extended immediate or the amount I[5:0] (R196), and bits 7 and 6 of a shift's I that
are not zero are no instruction; the constant forms write D (R197); NOP only goes on (R225). -/
def Sys2Proof.Parts.ImmediateAndConstantForms : Prop :=
  (∀ i : BitVec 8, ComputesOne (fun d a => .addi d a i) (· + i.signExtend 64))
  ∧ (∀ i : BitVec 8, ComputesOne (fun d a => .andi d a i) (· &&& i.signExtend 64))
  ∧ (∀ i : BitVec 8, ComputesOne (fun d a => .ori d a i) (· ||| i.signExtend 64))
  ∧ (∀ i : BitVec 8, ComputesOne (fun d a => .xori d a i) (· ^^^ i.signExtend 64))
  ∧ (∀ i : BitVec 6, ComputesOne (fun d a => .shli d a i) (· <<< i.toNat))
  ∧ (∀ i : BitVec 6, ComputesOne (fun d a => .shri d a i) (· >>> i.toNat))
  ∧ (∀ i : BitVec 6, ComputesOne (fun d a => .sari d a i) (·.sshiftRight i.toNat))
  ∧ (∀ w x y : Nat, fld w 29 3 = 0 → 29 ≤ fld w 22 7 → fld w 22 7 ≤ 31 → fld w 6 2 ≠ 0 → decode w x y = .error (.field false))
  ∧ (∀ i : BitVec 15, ReadsInto (fun d => .li d i) fun _ => i.signExtend 64)
  ∧ (∀ x : BitVec 32, ReadsInto (fun d => .lix d x) fun _ => x.signExtend 64)
  ∧ (∀ lo hi : BitVec 32, ReadsInto (fun d => .lix64 d lo hi) fun _ => hi ++ lo)
  ∧ (∀ s : State, exec .nop s = .next (complete s))

/-- The frame of scalar arithmetic, immediate and constant forms and the counter reads RDEN, RDCYC and RDRET, whatever they come to:
only D can change of the S registers; the vector, mask and tile registers, the control registers and FLAGS, the mode and the
privileged registers, and everything outside the core stand, every byte of memory among it; a page fault that is waited for may leave
the fault processor's lists where an earlier word's error is taken (R335). Sources are S registers here. -/
def Sys2Proof.Parts.ScalarFrame : Prop :=
  ∀ (d ra rb : Fin 32) (k : BitVec 8) (sh : BitVec 6) (c : BitVec 15) (x y : BitVec 32) (i : Instr) (s t : State),
    i ∈ [.nop, .add d (.s ra) (.s rb), .sub d (.s ra) (.s rb), .and d (.s ra) (.s rb), .or d (.s ra) (.s rb),
      .xor d (.s ra) (.s rb), .shl d (.s ra) (.s rb), .shr d (.s ra) (.s rb), .sar d (.s ra) (.s rb), .mul d (.s ra) (.s rb),
      .mulh d (.s ra) (.s rb), .mulhu d (.s ra) (.s rb), .div d (.s ra) (.s rb), .divu d (.s ra) (.s rb),
      .rem d (.s ra) (.s rb), .remu d (.s ra) (.s rb), .min d (.s ra) (.s rb), .max d (.s ra) (.s rb),
      .minu d (.s ra) (.s rb), .maxu d (.s ra) (.s rb), .slt d (.s ra) (.s rb), .sltu d (.s ra) (.s rb),
      .seq d (.s ra) (.s rb), .clz d (.s ra), .popc d (.s ra), .addi d (.s ra) k, .andi d (.s ra) k, .ori d (.s ra) k,
      .xori d (.s ra) k, .shli d (.s ra) sh, .shri d (.s ra) sh, .sari d (.s ra) sh, .li d c, .lix d x, .lix64 d x y,
      .rden d, .rdcyc d, .rdret d] →
    exec i s = .next t → s.cx.fl.wait = .none → (∀ e ∈ s.cx.fl.pend, holdsControl e.ins = true → e.retained = true) →
    SameS [d] s t ∧ SameVector s t ∧ SameControl s t ∧ SamePriv s t ∧ SameMemory s t ∧ SameDevice { s with xl := t.xl } t
      ∧ (s.cx.fl.pf = none → t.xl = s.xl)

/-! ## Loads, stores and atomics (R84, R88, R192, R198 to R205) -/

/-- Loads and stores of local memory complete with the bytes of their checked address moved, extended as R198's table says. -/
def Sys2Proof.Parts.LoadsAndStores : Prop :=
  LoadsLocal .ld8 1 false ∧ LoadsLocal .ld16 2 false ∧ LoadsLocal .ld32 4 false ∧ LoadsLocal .ld64 8 false
  ∧ LoadsLocal .lds8 1 true ∧ LoadsLocal .lds16 2 true ∧ LoadsLocal .lds32 4 true
  ∧ StoresLocal .st8 1 ∧ StoresLocal .st16 2 ∧ StoresLocal .st32 4 ∧ StoresLocal .st64 8

/-- The address of a load or store that is no multiple of its size is ALIGN, before any other check (R82, R199). -/
def Sys2Proof.Parts.MisalignedAccess : Prop :=
  ∀ (d : Fin 32) (v a : Src) (i : BitVec 8) (s s1 s2 : State) (base x : W64),
    Ready (srcRegs [a]) s → Ready (srcRegs [a, v]) s → readSrc a s = .ok base s1 → readSrc v s1 = .ok x s2 →
    let trap (n : Nat) (s' : State) : Host.Outcome State Fault Refusal :=
      .next (finish s (.trap cALIGN (base + i.signExtend 64 * BitVec.ofNat 64 n) 0 s'))
    ((base + i.signExtend 64 * 2).toNat % 2 ≠ 0 → exec (.ld16 d a i) s = trap 2 s1 ∧ exec (.lds16 d a i) s = trap 2 s1
      ∧ exec (.st16 v a i) s = trap 2 s2)
    ∧ ((base + i.signExtend 64 * 4).toNat % 4 ≠ 0 → exec (.ld32 d a i) s = trap 4 s1 ∧ exec (.lds32 d a i) s = trap 4 s1
      ∧ exec (.st32 v a i) s = trap 4 s2)
    ∧ ((base + i.signExtend 64 * 8).toNat % 8 ≠ 0 → exec (.ld64 d a i) s = trap 8 s1 ∧ exec (.st64 v a i) s = trap 8 s2)

/-- A write of bytes under the key of the blocks that it touches puts each byte at its address and leaves every other byte of
memory; bytes read back are those written (R84, R412). -/
def Sys2Proof.Parts.MemoryReadAfterWrite : Prop :=
  ∀ (m : Memory) (key : Option (BitVec 512)) (a : Nat) (bs : List Byte),
    (∀ x, a / 64 ≤ x → x ≤ (a + bs.length - 1) / 64 → m.keyOf (64 * x) = key) →
    (m.write key a bs).read key a bs.length = bs
    ∧ (∀ x, x < a ∨ a + bs.length ≤ x → (m.write key a bs).get x = m.get x)
    ∧ (∀ x, x / 64 < a / 64 ∨ (a + bs.length - 1) / 64 < x / 64 → (m.write key a bs).keyOf x = m.keyOf x)

/-- The frame of a store to local memory: as read under the key of its page, every byte outside the `n` bytes at the address that
the checks give is as it was; the registers stand, and so does the rest of the device but for its memory. -/
def Sys2Proof.Parts.StoreFrame : Prop :=
  ∀ (q : Nat) (g : Seg) (bs : List Byte) (s : State), g.ty ≤ 3 → bs.length = g.len → (g.own = true → g.key = none) →
    let t := complete (writeSeg q g bs s)
    (∀ x, x < g.pa ∨ g.pa + g.len ≤ x → t.mem.read1 g.key x = s.mem.read1 g.key x)
    ∧ SameS [] s t ∧ SameVector s t ∧ SameControl s t ∧ SamePriv s t
    ∧ t.lin = s.lin ∧ t.dist = s.dist ∧ t.xl = s.xl ∧ t.fab = s.fab ∧ t.port = s.port ∧ t.bob = s.bob ∧ t.mmio = s.mmio
    ∧ t.others = s.others ∧ t.mem.partU = s.mem.partU

/-- The atomics of 4 and 8 bytes on this device give A the old value and write the new one (R200, R201). -/
def Sys2Proof.Parts.Atomics : Prop :=
  AtomicLocal .amoadd (fun _ x y => x + y) ∧ AtomicLocal .amoswp (fun _ _ y => y)
  ∧ AtomicLocal .amoand (fun _ x y => x &&& y) ∧ AtomicLocal .amoor (fun _ x y => x ||| y)
  ∧ AtomicLocal .amoxor (fun _ x y => x ^^^ y)
  ∧ AtomicLocal (fun a b c dbl => .amomin a b c dbl false) (fun _ x y => if y.toInt < x.toInt then y else x)
  ∧ AtomicLocal (fun a b c dbl => .amomin a b c dbl true) (fun _ x y => if y.toNat < x.toNat then y else x)
  ∧ AtomicLocal (fun a b c dbl => .amomax a b c dbl false) (fun _ x y => if x.toInt < y.toInt then y else x)
  ∧ AtomicLocal (fun a b c dbl => .amomax a b c dbl true) (fun _ x y => if x.toNat < y.toNat then y else x)
  ∧ (∀ (a b c : Fin 32) (dbl : Bool) (s : State), Ready [b, c] s → replayable s = true →
      exec (.amoadd a b c dbl) s = .next (finish s (illegal s.cx.pc s)))

/-- The compare-and-swaps and the near-memory operations on this device (R201 to R203, R205): AMOCAS writes c where memory holds
the old value of A; AMOCAS2 does so on 16 bytes; LENQ, LDEQ and PCHASE give what the memory unit answers. -/
def Sys2Proof.Parts.CompareSwapAndQueues : Prop :=
  (∀ (a b c : Fin 32) (dbl : Bool) (s s' : State) (g : Seg), Ready [b, c, a] s → replayable s = false →
    let n := if dbl then 8 else 4
    (sget s.cx b).toNat % n = 0 → access 0 .atomic .rw (sget s.cx b).toNat n s = .ok [g] s' → g.ty ≤ 2 →
    ctlFenced s' = false → s'.mem.poisoned g.pa n = none →
    let old := natOf (s'.mem.read g.key g.pa n)
    let new := s'.mem.write g.key g.pa (bytesOf n (BitVec.ofNat (8 * n) (sget s.cx c).toNat).toNat)
    let same : Bool := BitVec.ofNat (8 * n) old == BitVec.ofNat (8 * n) (sget s.cx a).toNat
    let after : State := { s' with mem := if same then new else s'.mem }
    exec (.amocas a b c dbl) s = .next (complete (wr after a (BitVec.ofNat 64 (natOf (bytesOf n old))))))
  ∧ (∀ (a b c : Fin 32) (s s' : State) (g : Seg) (bs : List Byte) (m : Memory), Ready [a, oddOf a, b, c, oddOf c] s →
    replayable s = false → (sget s.cx b).toNat % 16 = 0 → access 0 .atomic .rw (sget s.cx b).toNat 16 s = .ok [g] s' →
    g.ty ≤ 2 → ctlFenced s' = false →
    unitCas2 g.pa (sget s.cx (oddOf a) ++ sget s.cx a).toNat (sget s.cx (oddOf c) ++ sget s.cx c).toNat g.key s'.mem = (.inl bs, m) →
    exec (.amocas2 a b c) s = .next (complete (wrAll (answerRegs bs [a, oddOf a]) { s' with mem := m })))
  ∧ (∀ (a b c : Fin 32) (s s' : State) (g : Seg) (bs : List Byte) (m : Memory), Ready [b, c] s → replayable s = false →
    (sget s.cx b).toNat % 16 = 0 → access 0 .atomic .rw (sget s.cx b).toNat 16 s = .ok [g] s' → g.ty ≤ 2 →
    ctlFenced s' = false → unitLenq g.pa (pageEnd s g) (sget s.cx c).toNat g.key s'.mem = (.inl bs, m) →
    exec (.lenq a b c) s = .next (complete (wrAll (answerRegs bs [a]) { s' with mem := m })))
  ∧ (∀ (a b c : Fin 32) (s s' : State) (g : Seg) (bs : List Byte) (m : Memory), Ready [b] s → replayable s = false →
    (sget s.cx b).toNat % 16 = 0 → access 0 .atomic .rw (sget s.cx b).toNat 16 s = .ok [g] s' → g.ty ≤ 2 →
    ctlFenced s' = false → unitLdeq g.pa (pageEnd s g) g.key s'.mem = (.inl bs, m) →
    exec (.ldeq a b c) s = .next (complete (wrAll (answerRegs bs [a, c]) { s' with mem := m })))
  ∧ (∀ (a b c : Fin 32) (f : BitVec 7) (s s' : State) (g : Seg) (bs : List Byte) (m : Memory), Ready [b, c] s →
    replayable s = false → access 0 .atomic .rw (sget s.cx b).toNat 1 s = .ok [g] s' → g.ty ≤ 2 → ctlFenced s' = false →
    unitChase g.pa g.va (pageSpan s g.va).1 (pageSpan s g.va).2 (Nat.min (sget s.cx c).toNat 256) (8 * f.toNat) g.key s'.mem
      = (.inl bs, m) →
    exec (.pchase a b c f) s = .next (complete (wrAll (answerRegs bs [a]) { s' with mem := m })))

/-- The atomics of 4 and 8 bytes complete on this device, under conditions on the state alone (R95, R200, R201): the registers delivered,
the task not replayable, the address aligned and its page one of HBM, HBM-P or COMMONS that may be read and written, no QFENCE ahead, the
bytes readable. A gets the old value, and memory the new one. -/
def Sys2Proof.Parts.AtomicsComplete : Prop :=
  ∀ (a b c : Fin 32) (dbl : Bool) (s : State) (g : Seg),
    let n := if dbl then 8 else 4
    let s' := (checkAcc 0 s .atomic .rw (sget s.cx b).toNat n).2
    let old : BitVec (8 * n) := BitVec.ofNat (8 * n) (natOf (s.mem.read g.key g.pa n))
    let new : BitVec (8 * n) := BitVec.ofNat (8 * n) (sget s.cx c).toNat
    let store (v : BitVec (8 * n)) : State := { s' with mem := s.mem.write g.key g.pa (bytesOf n v.toNat) }
    let gives (t : State) : Host.Outcome State Fault Refusal := .next (complete (wr t a (BitVec.ofNat 64 old.toNat)))
    Ready [b, c, a] s → replayable s = false → (sget s.cx b).toNat % n = 0 →
    (checkAcc 0 s .atomic .rw (sget s.cx b).toNat n).1 = .ok [g] → g.ty ≤ 2 → ctlFenced s = false → s.mem.poisoned g.pa n = none →
    exec (.amoadd a b c dbl) s = gives (store (old + new))
    ∧ exec (.amoswp a b c dbl) s = gives (store new)
    ∧ exec (.amoand a b c dbl) s = gives (store (old &&& new))
    ∧ exec (.amoor a b c dbl) s = gives (store (old ||| new))
    ∧ exec (.amoxor a b c dbl) s = gives (store (old ^^^ new))
    ∧ exec (.amomin a b c dbl false) s = gives (store (if new.toInt < old.toInt then new else old))
    ∧ exec (.amomin a b c dbl true) s = gives (store (if new.toNat < old.toNat then new else old))
    ∧ exec (.amomax a b c dbl false) s = gives (store (if old.toInt < new.toInt then new else old))
    ∧ exec (.amomax a b c dbl true) s = gives (store (if old.toNat < new.toNat then new else old))
    ∧ exec (.amocas a b c dbl) s = gives (if old = BitVec.ofNat (8 * n) (sget s.cx a).toNat then store new else s')

/-- AMOCAS2, LENQ, LDEQ and PCHASE complete on this device, under conditions on the state alone (R95, R200, R202, R203, R205): as for
the other atomics, with no unreadable block in the page. AMOCAS2 gives A and A + 1 the old 16 bytes; the other three give what the
memory unit answers, which changes memory as it does. -/
def Sys2Proof.Parts.NearMemoryComplete : Prop :=
  ∀ (a b c : Fin 32) (f : BitVec 7) (s : State) (g : Seg),
    Ready [a, oddOf a, b, c, oddOf c] s → replayable s = false → ctlFenced s = false → g.ty ≤ 2 →
    (∀ x, (pageSpan s g.va).1 ≤ x → x + 8 ≤ (pageSpan s g.va).2 → s.mem.poisoned (g.pa + x - g.va) 8 = none) →
    (∀ x, g.pa + 16 ≤ x → x + 8 ≤ pageEnd s g → s.mem.poisoned x 8 = none) → s.mem.poisoned g.pa 16 = none →
    ((sget s.cx b).toNat % 16 = 0 → (checkAcc 0 s .atomic .rw (sget s.cx b).toNat 16).1 = .ok [g] →
      let s' := (checkAcc 0 s .atomic .rw (sget s.cx b).toNat 16).2
      let old : BitVec 128 := BitVec.ofNat 128 (natOf (s.mem.read g.key g.pa 16))
      let m := if old = sget s.cx (oddOf a) ++ sget s.cx a then s.mem.write g.key g.pa (bytesOf 16 (sget s.cx (oddOf c) ++ sget s.cx c).toNat)
        else s.mem
      exec (.amocas2 a b c) s
        = .next (complete (wr (wr { s' with mem := m } a (old.setWidth 64)) (oddOf a) ((old >>> 64).setWidth 64)))
      ∧ (∃ bs m, unitLenq g.pa (pageEnd s g) (sget s.cx c).toNat g.key s.mem = (.inl bs, m)
          ∧ exec (.lenq a b c) s = .next (complete (wrAll (answerRegs bs [a]) { s' with mem := m })))
      ∧ (∃ bs m, unitLdeq g.pa (pageEnd s g) g.key s.mem = (.inl bs, m)
          ∧ exec (.ldeq a b c) s = .next (complete (wrAll (answerRegs bs [a, c]) { s' with mem := m }))))
    ∧ ((checkAcc 0 s .atomic .rw (sget s.cx b).toNat 1).1 = .ok [g] →
      let s' := (checkAcc 0 s .atomic .rw (sget s.cx b).toNat 1).2
      ∃ bs, unitChase g.pa g.va (pageSpan s g.va).1 (pageSpan s g.va).2 (Nat.min (sget s.cx c).toNat 256) (8 * f.toNat) g.key s.mem
            = (.inl bs, s.mem)
          ∧ exec (.pchase a b c f) s = .next (complete (wrAll (answerRegs bs [a]) s')))

/-- A queue in memory (R203): LENQ at a full queue changes nothing and answers all ones; otherwise it puts the entry in the slot of
TAIL, answers TAIL and advances it; LDEQ at an empty queue answers two zeros; otherwise it gives the entry of HEAD and a one. -/
def Sys2Proof.Parts.MemoryQueue : Prop :=
  ∀ (m : Memory) (key : Option (BitVec 512)) (pa hi c d tail head cap : Nat), unitRead m key pa 16 = .inl d →
    queueDesc d pa hi = some (tail, head, cap) →
    ((tail + 2 ^ 32 - head) % 2 ^ 32 = cap → unitLenq pa hi c key m = (.inl (List.replicate 8 0xFF), m))
    ∧ ((tail + 2 ^ 32 - head) % 2 ^ 32 ≠ cap → unitLenq pa hi c key m = (.inl (bytesOf 8 tail),
        (m.write key (pa + 16 + 8 * (tail % cap)) (bytesOf 8 c)).write key (pa + 4) (bytesOf 4 ((tail + 1) % 2 ^ 32))))
    ∧ (tail = head → unitLdeq pa hi key m = (.inl (List.replicate 16 0), m))
    ∧ (∀ v, tail ≠ head → unitRead m key (pa + 16 + 8 * (head % cap)) 8 = .inl v →
        unitLdeq pa hi key m = (.inl (bytesOf 8 v ++ [1, 0, 0, 0, 0, 0, 0, 0]), m.write key pa (bytesOf 4 ((head + 1) % 2 ^ 32))))

/-! ## Control flow and the other words of the control engine (R179, R206 to R224) -/

/-- The target of a branch (R179): the word in SLOT of the line DISP lines from the branch's own line, as the branch's meaning
computes it; B, BZ, BNZ and CALL go there when they are taken, and the rest go on. CALL writes the return address to S31. -/
def Sys2Proof.Parts.Branches : Prop :=
  (∀ (pc disp : W64) (slot : Fin 32),
    branchTarget pc disp slot = BitVec.ofNat 64 (pc.toNat / 128 * 128) + disp * 128 + BitVec.ofNat 64 (4 * slot.val))
  ∧ (∀ (disp : BitVec 17) (slot : Fin 32) (s s' : State), checkTarget (branchTarget s.cx.pc (disp.signExtend 64) slot) s = .ok () s' →
      exec (.b disp slot) s = .next (complete (goto (branchTarget s.cx.pc (disp.signExtend 64) slot) s'))
      ∧ exec (.call disp slot) s = .next (complete (goto (branchTarget s.cx.pc (disp.signExtend 64) slot) (wr s' 31 s'.cx.npc))))
  ∧ (∀ (r : Fin 32) (disp : BitVec 12) (slot : Fin 32) (s s' : State), Ready [r] s →
      (sget s.cx r = 0 → exec (.bnz r disp slot) s = .next (complete s))
      ∧ (sget s.cx r ≠ 0 → exec (.bz r disp slot) s = .next (complete s))
      ∧ (sget s.cx r = 0 → checkTarget (branchTarget s.cx.pc (disp.signExtend 64) slot) s = .ok () s' →
          exec (.bz r disp slot) s = .next (complete (goto (branchTarget s.cx.pc (disp.signExtend 64) slot) s')))
      ∧ (sget s.cx r ≠ 0 → checkTarget (branchTarget s.cx.pc (disp.signExtend 64) slot) s = .ok () s' →
          exec (.bnz r disp slot) s = .next (complete (goto (branchTarget s.cx.pc (disp.signExtend 64) slot) s'))))
  ∧ (∀ (d : Fin 32) (a : Src) (s s1 s2 : State) (t : W64), Ready (srcRegs [a]) s → readSrc a s = .ok t s1 → checkTarget t s1 = .ok () s2 →
      exec (.callr d a) s = .next (complete (goto t (wr s2 d s2.cx.npc)))
      ∧ exec (.jr a) s = .next (complete (goto t s2)) ∧ exec (.ret a) s = .next (complete (goto t s2)))

/-- A jump to an address that is no START word of a code line with its TARGET bit set is TARGET (R179). -/
def Sys2Proof.Parts.BadTarget : Prop :=
  ∀ (a : Src) (s s1 s2 : State) (t : W64) (l : Nat), Ready (srcRegs [a]) s → readSrc a s = .ok t s1 →
    fetchLine (t.toNat / 128 * 128) s1 = .ok l s2 →
    (t.toNat % 4 ≠ 0 ∨ t.toNat % 128 / 4 < 2 ∨ lineKind l = 1 ∨ lineKind l = 2 ∨ lineTarget l (t.toNat % 128 / 4) = false) →
    exec (.jr a) s = .next (finish s (.trap cTARGET t 0 s2)) ∧ exec (.ret a) s = .next (finish s (.trap cTARGET t 0 s2))

/-- BCQ and BCQN pop the head of CQ and branch where it is 1 or 0; CQPOP and XQPOP move the head to D (R207, R212). -/
def Sys2Proof.Parts.QueuePops : Prop :=
  (∀ (x : Bool) (l : List Bool) (disp : BitVec 12) (slot : Fin 32) (d : Fin 32) (s s' : State), s.cx.cq = x :: l →
    let popped : State := { s with cx := { s.cx with cq := l } }
    let t := branchTarget s.cx.pc (disp.signExtend 64) slot
    exec (.cqpop d) s = .next (complete (wr popped d (if x then 1 else 0)))
    ∧ (x = false → exec (.bcq disp slot) s = .next (complete popped))
    ∧ (x = true → exec (.bcqn disp slot) s = .next (complete popped))
    ∧ (checkTarget t s = .ok () s' →
        (x = true → exec (.bcq disp slot) s = .next (complete (goto t (dropCq s'))))
        ∧ (x = false → exec (.bcqn disp slot) s = .next (complete (goto t (dropCq s'))))))
  ∧ (∀ (x : W64) (l : List W64) (d : Fin 32) (s : State), s.cx.xq = x :: l →
    exec (.xqpop d) s = .next (complete (wr { s with cx := { s.cx with xq := l } } d x)))

/-- LOOP and LOOPI by their modes (R211). -/
def Sys2Proof.Parts.HardwareLoops : Prop :=
  (∀ (r : Fin 32) (k : Fin 4) (disp : BitVec 12) (slot : Fin 32) (s s' : State), Ready [r] s →
    let n := s.cx.cfg.l[k] + 1
    let t := branchTarget s.cx.pc (disp.signExtend 64) slot
    (n.toNat < (sget s.cx r).toNat → checkTarget t s = .ok () s' →
      exec (.loop (.close r disp slot) k) s = .next (complete (goto t (setL k n s'))))
    ∧ (¬ n.toNat < (sget s.cx r).toNat → exec (.loop (.close r disp slot) k) s = .next (complete (setL k 0 s)))
    ∧ exec (.loop (.set r) k) s = .next (complete (setL k (sget s.cx r) s)))
  ∧ (∀ (c : BitVec 28) (k : Fin 4) (disp : BitVec 12) (slot : Fin 32) (s s' : State),
    let n := s.cx.cfg.l[k] + 1
    let t := branchTarget s.cx.pc (disp.signExtend 64) slot
    (n.toNat < c.toNat → checkTarget t s = .ok () s' →
      exec (.loopi (.close c disp slot) k) s = .next (complete (goto t (setL k n s'))))
    ∧ (¬ n.toNat < c.toNat → exec (.loopi (.close c disp slot) k) s = .next (complete (setL k 0 s)))
    ∧ exec (.loopi (.set c) k) s = .next (complete (setL k (c.setWidth 64) s)))
  ∧ (∀ (d : Fin 32) (k : Fin 4) (s : State), exec (.loop (.get d) k) s = .next (complete (wr s d s.cx.cfg.l[k])))
  ∧ (∀ (k j : Fin 4) (v : W64) (s : State), (setL k v s).cx.cfg.l[j] = if j = k then v else s.cx.cfg.l[j])

/-- The generator's words (R220): RKEY, RCTR and RSKIP set the key and the counter; RNEXT gives the low 64 bits of F and advances the
counter by one. -/
def Sys2Proof.Parts.Generator : Prop :=
  (∀ (a b : Src) (s s' : State) (x y : W64), Ready (srcRegs [a, b]) s → readSrc2 a b s = .ok (x, y) s' →
    let cfg := s'.cx.cfg
    exec (.rkey a b) s = .next (complete { s' with cx := { s'.cx with cfg := { cfg with key := y ++ x } } })
    ∧ exec (.rctr a b) s = .next (complete { s' with cx := { s'.cx with cfg := { cfg with ctr := y ++ x } } })
    ∧ exec (.rskip a b) s = .next (complete { s' with cx := { s'.cx with cfg := { cfg with ctr := cfg.ctr + (y ++ x) } } }))
  ∧ (∀ (d : Fin 32) (s : State),
    let g := s.cx.cfg
    exec (.rnext d) s = .next (complete (wr { s with cx := { s.cx with cfg := { g with ctr := g.ctr + 1 } } } d
      (BitVec.ofNat 64 (rngF g.key.toNat g.ctr.toNat)))))

/-- The counter reads (R221): ENERGY, the device clock count and the retired count go to D; RDPWR gives PWRSTAT and clears RAMPHOLD. -/
def Sys2Proof.Parts.CounterReads : Prop :=
  ReadsInto .rden (fun s => s.cx.energy) ∧ ReadsInto .rdcyc (fun s => BitVec.ofNat 64 s.clock)
  ∧ ReadsInto .rdret (fun s => s.cx.retired)
  ∧ (∀ (d : Fin 32) (s : State), exec (.rdpwr d) s = .next (complete (wr (readPwrstat s).2 d (readPwrstat s).1))
      ∧ (readPwrstat s).2.cx.ramphold = false)

/-- MOVC and MOVCR (R183, R213): a user register is written or read; a read waits for earlier words that can write it; an unassigned
number is ILLEGAL; a number of a privileged register is PRIVILEGE in user mode and ILLEGAL in privileged mode. -/
def Sys2Proof.Parts.ControlRegisterMoves : Prop :=
  (∀ (a : Src) (n : BitVec 8) (s s1 s2 : State) (v : W64), Ready (srcRegs [a]) s → n.toNat < 0x80 → regPending n.toNat s = false →
    readSrc a s = .ok v s1 →
    (writeUser n.toNat v s1 = some (some s2) → exec (.movc a n) s = .next (complete s2))
    ∧ (writeUser n.toNat v s1 = none → exec (.movc a n) s = .next (finish s (illegal s1.cx.pc s1))))
  ∧ (∀ (d : Fin 32) (n : BitVec 8) (s s1 : State) (v : W64), n.toNat < 0x80 → regPending n.toNat s = false →
    (readUser n.toNat s = some (v, s1) → exec (.movcr d n) s = .next (complete (wr s1 d v)))
    ∧ (readUser n.toNat s = none → exec (.movcr d n) s = .next (finish s (illegal s.cx.pc s))))
  ∧ (∀ (a : Src) (d : Fin 32) (n : BitVec 8) (s : State), Ready (srcRegs [a]) s → 0x80 ≤ n.toNat →
    let c := if s.cx.pr.priv then cILLEGAL else cPRIVILEGE
    exec (.movc a n) s = .next (finish s (.trap c s.cx.pc 0 s)) ∧ exec (.movcr d n) s = .next (finish s (.trap c s.cx.pc 0 s)))
  ∧ (∀ (n : Nat) (v : W64) (s : State), n < 0x80 → (writeUser n v s = none ↔ readUser n s = none))

/-- Boundaries and fences (R86, R90, R214, R216, R217): PHASE, and BAR.core, complete once nothing is unpublished, and drop the
snapshot; a wider BAR arrives and completes when every participant has; FENCE completes once atomics and operation packets have answered;
QFENCE leaves its group behind. -/
def Sys2Proof.Parts.BoundariesAndFences : Prop :=
  (∀ (sc : Scope) (s : State), unpublished (sc == .pod) s = none →
    exec (.phase sc) s = .next (complete { s with cx := refresh s.cx s.mem })
    ∧ (refresh s.cx s.mem).fl.snap = [] ∧ (refresh s.cx s.mem).fl.since = s.mem.wlog.length)
  ∧ (∀ s : State, (∀ k, s.cx.fl.wait ≠ .barrier k) → unpublished false s = none →
    exec (.bar .core) s = .next (complete { s with cx := refresh s.cx s.mem }))
  ∧ (∀ (sc : Scope) (s : State) (t : TaskRun), sc ≠ .core → (∀ k, s.cx.fl.wait ≠ .barrier k) → unpublished (sc == .pod) s = none →
    s.cx.task = some t → exec (.bar sc) s = .next (finish s (arrive sc t s)))
  ∧ (∀ s : State, lateOf none s = none → s.cx.fl.loads.all (fun l => plainLoad l.ins) = true →
    s.cx.fl.pend.all (fun e => e.retained || !isOpk e.ins) = true → exec .fence s = .next (complete s))
  ∧ (∀ (m : BitVec 7) (s : State), (m.getLsbD 0 = true → s.cx.fl.loads.all (fun l => isOpk l.ins) = true) →
    ∃ t, exec (.qfence m) s = .next (complete t) ∧ t.cx.fl.fences =
        (if s.cx.fl.pend.isEmpty && s.cx.fl.unacked.isEmpty then s.cx.fl.fences else s.cx.fl.fences ++ [(m, s.uid)])
      ∧ SameS [] s t ∧ SameVector s t ∧ SameControl s t ∧ SamePriv s t ∧ SameDevice s t)

/-- TRAP takes the exception USER with its code (R224, R335): the drain begins with TEPC at the word and TNPC at the next one. -/
def Sys2Proof.Parts.TrapWord : Prop :=
  ∀ (code : BitVec 15) (s : State), s.cx.fl.drain = none → s.cx.fl.pf = none → s.cx.fl.wait = .none →
    (∀ e ∈ s.cx.fl.pend, holdsControl e.ins = true → e.retained = true) →
    let info : TrapInfo :=
      { cause := cUSER, taddr := s.cx.pc, tepc := s.cx.pc, tnpc := s.cx.npc, ucode := code, tile := s.cx.fl.tile }
    ∃ t, exec (.trap code) s = .next t ∧ t.cx.fl.drain = some info
      ∧ t.cx.pc = s.cx.pc ∧ t.cx.retired = s.cx.retired
      ∧ SameS [] s t ∧ SameVector s t ∧ SameControl s t ∧ SamePriv s t ∧ SameDevice s t

/-! ## Exceptions (R331, R336 to R338) -/

/-- The entry of a drained trap writes TEPC, TNPC, TCAUSE, TADDR and TINFO, clears TRET, sets INTRAP and privileged mode and goes on at
TVEC; retained entries stay queued (R334, R336). -/
def Sys2Proof.Parts.TrapEntry : Prop :=
  ∀ (s s' : State) (t : TrapInfo), s.cx.fl.drain = some t → ¬ (t.cause = cECC ∧ inputLost s = true) → s.cx.pr.intrap = false → s.cx.pr.tvec ≠ 0 →
    checkHandler s = .ok () s' → s'.cx = s.cx →
    let u := enterTrap s
    u.cx.pr.tepc = t.tepc ∧ u.cx.pr.tnpc = t.tnpc ∧ u.cx.pr.taddr = t.taddr ∧ u.cx.pr.tinfo = t.tinfo ∧ u.cx.pr.tret = 0
    ∧ u.cx.pr.tcause = tcauseWord t.cause s.cx.pr.priv t.queue t.ucode ∧ u.cx.pr.intrap = true ∧ u.cx.pr.priv = true
    ∧ u.cx.pc = s.cx.pr.tvec ∧ u.cx.fl.drain = none ∧ u.cx.fl.tq = t.quid
    ∧ u.cx.fl.pend = s.cx.fl.pend.map (fun e => { e with retained := true })
    ∧ u.cx.pr.asid = s.cx.pr.asid ∧ u.cx.pr.tvec = s.cx.pr.tvec ∧ u.cx.pr.intpend = s.cx.pr.intpend
    ∧ u.cx.pr.intmask = s.cx.pr.intmask ∧ u.cx.pr.timer = s.cx.pr.timer
    ∧ u.cx.s = s.cx.s ∧ SameVector s u ∧ SameControl s u

/-- SRET returns (R337): with ACTION 0 the control engine goes on at TNPC in the mode that TCAUSE saved, with INTRAP clear and the
retained entries released; outside a handler, in privileged mode, it is ILLEGAL. -/
def Sys2Proof.Parts.ReturnFromException : Prop :=
  (∀ s : State, s.cx.pr.priv = true → s.cx.pr.intrap = false → exec .sret s = .next (finish s (illegal s.cx.pc s)))
  ∧ (∀ s : State, s.cx.pr.priv = true → replayable s = false → s.cx.pr.intrap = true → pairReturned s = true → sretAction s = 0 →
    ∃ t, exec .sret s = .next t ∧ t.cx.pc = s.cx.pr.tnpc ∧ t.cx.pr.intrap = false
      ∧ t.cx.pr.priv = (s.cx.pr.tcause.getLsbD 30) ∧ t.cx.retired = s.cx.retired + 1
      ∧ t.cx.fl.pend = s.cx.fl.pend.map (fun e => { e with retained := false })
      ∧ t.cx.s = s.cx.s ∧ SameVector s t ∧ SameControl s t ∧ SameDevice s t)
  ∧ (∀ s : State, otherMember s = none → pairReturned s = true ∧ sretAction s = bits s.cx.pr.tret 1 0)
/-! ## The vector engine (R226 to R259) -/

/-- The elementwise arithmetic of R233 to R236 completes with each active lane computed once from its sources and, for the multiply-adds,
from D, each inactive lane zero, and its flags; floats round once, integers wrap or clamp. -/
def Sys2Proof.Parts.VectorArithmetic : Prop :=
  let lane2 (fop : Rm → XVal → XVal → XVal → Option XVal) (iop : Int → Int → Int → Int) (_ : VMod) (e : LaneEnv) (x y : Nat) :=
    mapLanes e fun i => arithLane e fop iop false (laneOf e.f.width x i) (laneOf e.f.width y i) 0 i
  let lane3 (fop : Rm → XVal → XVal → XVal → Option XVal) (iop : Int → Int → Int → Int) (e : LaneEnv) (x y z : Nat) :=
    mapLanes e fun i => arithLane e fop iop true (laneOf e.f.width x i) (laneOf e.f.width y i) (laneOf e.f.width z i) i
  let late (e : LaneEnv) : Nat := if e.f.isF then 6 else 4
  RowOfTwo .vadd late (lane2 opAdd fun x y _ => x + y) ∧ RowOfTwo .vsub late (lane2 opSub fun x y _ => x - y)
  ∧ RowOfTwo .vmul late (lane2 opMul fun x y _ => x * y)
  ∧ RowOfThree .vfma late (lane3 opFma fun x y z => x * y + z) ∧ RowOfThree .vfms late (lane3 opFms fun x y z => x * y - z)
  ∧ RowOfThree .vfnma late (lane3 opFnma fun x y z => z - x * y)

/-- One lane of integer arithmetic (R157, R158, R233): the exact result reduced modulo 2^w, or clamped to the format with SAT. -/
def Sys2Proof.Parts.IntegerLanes : Prop :=
  ∀ (e : LaneEnv) (fop : Rm → XVal → XVal → XVal → Option XVal) (iop : Int → Int → Int → Int) (third : Bool) (a b c i : Nat),
    e.f.isI = true →
    let exact := iop (ival e.f a) (ival e.f b) (ival e.f c)
    (e.sat = false → (((arithLane e fop iop third a b c i).1 : Int) = exact % 2 ^ (8 * e.f.width)
      ∧ (arithLane e fop iop third a b c i).2 = 0))
    ∧ (e.sat = true → (ibounds e.f).1 ≤ exact → exact ≤ (ibounds e.f).2 → ival e.f (arithLane e fop iop third a b c i).1 = exact
      ∧ (arithLane e fop iop third a b c i).2 = 0)
    ∧ (e.sat = true → exact < (ibounds e.f).1 → ival e.f (arithLane e fop iop third a b c i).1 = (ibounds e.f).1
      ∧ (arithLane e fop iop third a b c i).2 = fSAT)
    ∧ (e.sat = true → (ibounds e.f).2 < exact → ival e.f (arithLane e fop iop third a b c i).1 = (ibounds e.f).2
      ∧ (arithLane e fop iop third a b c i).2 = fSAT)

/-- Masks and rows (R227, R229): lane i of a packed row is element i, and an inactive lane of a result is zero. -/
def Sys2Proof.Parts.LanesOfRows : Prop :=
  (∀ (w : Nat) (l : List Nat) (i : Nat), 0 < w → laneOf w (packLanes w l) i = (l.getD i 0) % 2 ^ (8 * w))
  ∧ (∀ (e : LaneEnv) (g : Nat → Nat × Flg) (i : Nat), i < e.n → e.f.width ≠ 0 →
      laneOf e.f.width (mapLanes e g).1 i = if e.act i then (g i).1 % 2 ^ (8 * e.f.width) else 0)
  ∧ (∀ (e : LaneEnv) (g : Nat → Nat × Flg), (∀ i, e.act i = false) → (mapLanes e g).2 = 0)

/-- The other lane by lane forms, moves and selection complete (R234 to R236, R238). -/
def Sys2Proof.Parts.VectorElementwise : Prop :=
  let one (g : LaneEnv → Nat → Nat → Nat × Flg) (_ : VMod) (e : LaneEnv) (x : Nat) := mapLanes e fun i => g e i (laneOf e.f.width x i)
  let two (g : LaneEnv → Nat → Nat → Nat × Flg) (_ : VMod) (e : LaneEnv) (x y : Nat) :=
    mapLanes e fun i => g e (laneOf e.f.width x i) (laneOf e.f.width y i)
  let four (_ : LaneEnv) : Nat := 4
  RowOfTwo .vmin four (two fun e x y => minmaxLane e.f false x y) ∧ RowOfTwo .vmax four (two fun e x y => minmaxLane e.f true x y)
  ∧ RowOfOne .vabs four (one fun e _ x => absLane e.f e.sat x) ∧ RowOfOne .vneg four (one fun e _ x => negLane e.f e.sat x)
  ∧ RowOfTwo .vand four (two fun _ x y => (x &&& y, 0)) ∧ RowOfTwo .vor four (two fun _ x y => (x ||| y, 0))
  ∧ RowOfTwo .vxor four (two fun _ x y => (x ^^^ y, 0))
  ∧ RowOfTwo .vshl four (two fun e x y => intResult e.f e.sat (ival e.f x * 2 ^ Nat.min y 64))
  ∧ RowOfTwo .vshr four (two fun e x y => (x / 2 ^ Nat.min y (8 * e.f.width), 0))
  ∧ RowOfTwo .vsar four (two fun e x y => sarLane e.f x y)
  ∧ RowOfOne .vmov four (one fun _ _ x => (x, 0))
  ∧ RowOfTwo .vsel four (fun _ e x y =>
      collect e.f.width e.n fun i => (if e.act i then laneOf e.f.width x i else laneOf e.f.width y i, 0))
  ∧ RowOfOne .viota four (fun _ e x => iotaRow e x)
  ∧ RowOfOne .vclass four (one fun e _ x => (classLane e.f x, 0))

/-- The conversions complete (R239 to R241). -/
def Sys2Proof.Parts.VectorConversions : Prop :=
  (∀ (df : Fmt) (part : Fin 4), RowOfOne (fun d a m => .vcvt d a df part m) (fun _ => 6) fun _ e x => cvtRow e df part.val x)
  ∧ (∀ df : Fmt, RowOfOne (fun d a m => .vquant d a df m) (fun _ => 14) fun _ e x =>
      if df = .bs8 then quantRowBs8 e.f e.rm e.draw x else quantRowQ4n e.f e.rm e.draw x)
  ∧ (∀ df : Fmt, RowOfOne (fun d a m => .vdeq d a df m) (fun _ => 14) fun _ e x =>
      if e.f = .bs8 then deqRowBs8 df e.rm e.draw x else deqRowQ4n df e.rm e.draw x)

/-- The functions complete (R242 to R245). -/
def Sys2Proof.Parts.VectorFunctions : Prop :=
  let one (g : LaneEnv → Nat → Nat → Nat × Flg) (_ : VMod) (e : LaneEnv) (x : Nat) := mapLanes e fun i => g e i (laneOf e.f.width x i)
  RowOfOne .vrcp (fun _ => 10) (one fun _ _ x => rcpLane x) ∧ RowOfOne .vrsq (fun _ => 10) (one fun _ _ x => rsqLane x)
  ∧ RowOfOne .vsqrt (fun _ => 12) (one fun e i x => sqrtLane e.f e.rm (e.draw i) x)
  ∧ RowOfOne .vexp2f (fun _ => 12) (one fun _ _ x => exp2Lane x) ∧ RowOfOne .vlog2f (fun _ => 12) (one fun _ _ x => log2Lane x)
  ∧ RowOfOne .vrint (fun _ => 6) (one fun e i x => rintLane e.f e.rm (e.draw i) x)
  ∧ RowOfOne .vfint (fun _ => 6) (one fun e i x => fintLane e.f e.rm (e.draw i) x)
  ∧ RowOfTwo .vexpi (fun _ => 6) (fun _ e x y =>
      mapLanes e fun i => expiLane e.f e.rm (e.draw i) (laneOf e.f.width x i) (laneOf e.f.width y i))
  ∧ RowOfOne .vgetexp (fun _ => 6) (one fun e _ x => getExpLane e.f x)
  ∧ RowOfOne .vgetmant (fun _ => 6) (one fun e _ x => getMantLane e.f x)

/-- The reductions, the scan, the cross-lane forms and VRNG complete (R247 to R254). -/
def Sys2Proof.Parts.VectorCrossLane : Prop :=
  let tree (leaf : LaneEnv → Nat → Nat × Flg) (comb : LaneEnv → Nat → Nat → Nat → Nat × Flg) (m : VMod) (e : LaneEnv) (x : Nat) :=
    reduceRow e (redGroup e.f m.gsz.val) (leaf e) (comb e) x
  let cross (g : LaneEnv → Nat → Nat → Nat → Nat) (m : VMod) (e : LaneEnv) (x y : Nat) : Nat × Flg :=
    (g e (crossGroup e.f m.gsz.val) x y, 0)
  RowOfOne .vredadd (fun _ => 14) (tree (fun e => leafLane e.f) combAdd)
  ∧ RowOfOne .vredmax (fun _ => 14) (tree (fun e => leafLane e.f) fun e _ y z => minmaxLane e.f true y z)
  ∧ RowOfOne .vredamax (fun _ => 14) (tree (fun _ v => (v, 0)) fun e _ y z => (combAmax e.f y z, 0))
  ∧ RowOfOne .vredmin (fun _ => 14) (tree (fun e => leafLane e.f) fun e _ y z => minmaxLane e.f false y z)
  ∧ RowOfOne .vscan (fun _ => 14) (fun m e x => scanRow e (redGroup e.f m.gsz.val) x)
  ∧ RowOfTwo .vperm (fun _ => 8) (cross permRow) ∧ RowOfTwo .vbcast (fun _ => 8) (cross bcastRow)
  ∧ (∀ pat, RowOfTwo (fun d a b m => .vshuf d a b pat m) (fun _ => 8) (cross fun e g x y => shufRow e g pat x y))
  ∧ RowOfTwo .vrot (fun _ => 8) (cross rotRow) ∧ RowOfTwo .vslide (fun _ => 8) (cross slideRow)
  ∧ (∀ k, RowOfOne (fun d a m => .vcomp d a k m) (fun _ => 16) fun m e x => (compRow e (redGroup e.f m.gsz.val) k.toNat x, 0))
  ∧ (∀ d m, VecRuns (.vrng d m) m [] [] (fun _ => 6) fun e _ _ => { v := some (d, (rngRow e).1) })

/-- Compares, mask forms and the pushes into CQ and XQ complete (R237, R258, R259). -/
def Sys2Proof.Parts.MaskForms : Prop :=
  let reads (l : List (Fin 8)) : List VReg := l.filterMap fun r => if r = 0 then none else some (true, r.val)
  let four (_ : LaneEnv) : Nat := 4
  (∀ p d a b m, VecRuns (.vcmp p d a b m) m [a, b] [] four fun e l _ =>
    let rs := (List.range e.n).map fun i =>
      if e.act i then cmpLane e.f p (laneOf e.f.width (l.getD 0 0) i) (laneOf e.f.width (l.getD 1 0) i) else (false, 0)
    { mask := some (d, rs.foldr (fun x acc => 2 * acc + x.1.toNat) 0), fl := rs.foldl (fun fl x => fl ||| x.2) 0 })
  ∧ (∀ d a b m, VecRuns (.mand d a b m) m [] (reads [a, b]) four fun _ _ c => { mask := some (d, (mget c a &&& mget c b).toNat) })
  ∧ (∀ d a b m, VecRuns (.mor d a b m) m [] (reads [a, b]) four fun _ _ c => { mask := some (d, (mget c a ||| mget c b).toNat) })
  ∧ (∀ d a b m, VecRuns (.mxor d a b m) m [] (reads [a, b]) four fun _ _ c => { mask := some (d, (mget c a ^^^ mget c b).toNat) })
  ∧ (∀ d a m, VecRuns (.mnot d a m) m [] (reads [a, a]) four fun _ _ c => { mask := some (d, (~~~ mget c a).toNat) })
  ∧ (∀ d a m, VecRuns (.mfirst d a m) m [] (reads [a]) four fun e _ c =>
      { mask := some (d, match maskLanes e c a with | i :: _ => 2 ^ i | [] => 0) })
  ∧ (∀ a m, VecRuns (.mpop a m) m [] (reads [a]) four fun e _ c => { xq := some (BitVec.ofNat 64 (maskLanes e c a).length) })
  ∧ (∀ a m, VecRuns (.vanyq a m) m [] (reads [a]) four fun e _ c => { cq := some !(maskLanes e c a).isEmpty })
  ∧ (∀ a m, VecRuns (.vallq a m) m [] (reads [a]) four fun e _ c =>
      { cq := some ((maskLanes e c a).length == ((List.range e.n).filter e.act).length) })
  ∧ (∀ a b m, VecRuns (.vxq a b m) m [a, b] [] (fun _ => 8) fun e l _ =>
      let j := laneOf e.f.width (l.getD 1 0) 0
      let v := if j < e.n && e.act j then laneOf e.f.width (l.getD 0 0) j else 0
      { xq := some (if e.f.isI then BitVec.ofInt 64 (ival e.f v) else BitVec.ofNat 64 v) })

/-- Vector loads and stores complete with every piece of their access checked, and read or written (R255 to R257); the twelve blocks of a
strided access lie at A + j · B (R256). -/
def Sys2Proof.Parts.VectorMemory : Prop :=
  (∀ (a b : W64) (j : Nat), j < 12 → (strided a b)[j]? = some (a + BitVec.ofNat 64 j * b, 0)) ∧
  (∀ (d : Fin 128) (a : Fin 32) (m : VMod) (s p' : State) (l : List (List Byte)),
    let e := entryOf .vload (.vld d a m) s
    let p := placedWord .vload (.vld d a m) (drawn (.vld d a m)) s
    Starts .vload (.vld d a m) [a] (drawn (.vld d a m)) s → vecOk (vecFmt m s.cx.cfg) (.vld d a m) = true →
    readPieces 64 768 [(qs e a, 0)] p = .ok l p' →
    exec (.vld d a m) s = .next (dropEntry s.uid { p' with cx := setV d (maskRow (vecEnv m e p'.cx) (natOf l.flatten)) p'.cx }))
  ∧ (∀ (d : Fin 128) (a b : Fin 32) (m : VMod) (s p' : State) (l : List (List Byte)),
    let e := entryOf .vload (.vlds d a b m) s
    let p := placedWord .vload (.vlds d a b m) (drawn (.vlds d a b m)) s
    Starts .vload (.vlds d a b m) [a, b] (drawn (.vlds d a b m)) s → vecOk (vecFmt m s.cx.cfg) (.vlds d a b m) = true →
    readPieces 64 64 (strided (qs e a) (qs e b)) p ((qs e b).slt 0) = .ok l p' →
    exec (.vlds d a b m) s = .next (dropEntry s.uid { p' with cx := setV d (maskRow (vecEnv m e p'.cx) (natOf l.flatten)) p'.cx }))
  ∧ (∀ (d : Fin 128) (a : Fin 32) (b : Fin 128) (m : VMod) (s p' : State) (l : List (List Byte)),
    let e := entryOf .vload (.vgath d a b m) s
    let p := placedWord .vload (.vgath d a b m) (drawn (.vgath d a b m)) s
    let env := vecEnv m e p.cx
    Starts .vload (.vgath d a b m) [a] (drawn (.vgath d a b m)) s → vecOk (vecFmt m s.cx.cfg) (.vgath d a b m) = true →
    readPieces env.f.width env.f.width ((activeLanes env).map (elemAddr e p.cx a b)) p = .ok l p' →
    let row := ((activeLanes env).zip l).foldl (fun row (i, bs) => row + natOf bs * 2 ^ (8 * env.f.width * i)) 0
    exec (.vgath d a b m) s = .next (dropEntry s.uid { p' with cx := setV d row p'.cx }))
  ∧ (∀ (d : Fin 128) (a : Fin 32) (m : VMod) (s p' : State) (l : List (List Seg)),
    let e := entryOf .vstore (.vst d a m) s
    let p := placedWord .vstore (.vst d a m) (drawn (.vst d a m)) s
    Starts .vstore (.vst d a m) [a] (drawn (.vst d a m)) s → vecOk (vecFmt m s.cx.cfg) (.vst d a m) = true →
    checkPieces 64 768 [(qs e a, 0)] p = .ok l p' → piecesHeld s.uid l p' = false →
    exec (.vst d a m) s = .next (dropEntry s.uid (writePieces l [activeBytes (vecEnv m e p'.cx) (p'.cx.v[d]) 0 768] p')))
  ∧ (∀ (d : Fin 128) (a b : Fin 32) (m : VMod) (s p' : State) (l : List (List Seg)),
    let e := entryOf .vstore (.vsts d a b m) s
    let p := placedWord .vstore (.vsts d a b m) (drawn (.vsts d a b m)) s
    Starts .vstore (.vsts d a b m) [a, b] (drawn (.vsts d a b m)) s → vecOk (vecFmt m s.cx.cfg) (.vsts d a b m) = true →
    checkPieces 64 64 (strided (qs e a) (qs e b)) p ((qs e b).slt 0) = .ok l p' →
    piecesHeld s.uid l p' = false →
    exec (.vsts d a b m) s = .next (dropEntry s.uid
      (writePieces l ((List.range 12).map fun j => activeBytes (vecEnv m e p'.cx) (p'.cx.v[d]) (64 * j) 64) p')))
  ∧ (∀ (d : Fin 128) (a : Fin 32) (b : Fin 128) (m : VMod) (s p' : State) (l : List (List Seg)),
    let e := entryOf .vstore (.vscat d a b m) s
    let p := placedWord .vstore (.vscat d a b m) (drawn (.vscat d a b m)) s
    let env := vecEnv m e p.cx
    Starts .vstore (.vscat d a b m) [a] (drawn (.vscat d a b m)) s → vecOk (vecFmt m s.cx.cfg) (.vscat d a b m) = true →
    checkPieces env.f.width env.f.width ((activeLanes env).map (elemAddr e p.cx a b)) p = .ok l p' →
    piecesHeld s.uid l p' = false →
    exec (.vscat d a b m) s = .next (dropEntry s.uid (writePieces l
      ((activeLanes env).map fun i => (bytesOf env.f.width (laneOf env.f.width (p'.cx.v[d]).toNat i)).map some) p')))

/-- The frame of a word of the arithmetic queue: what it writes besides its result are FLAGS, which only gather bits, and the
shadows; the queue's word that leaves and the counter that its routing advances are all else that changes. -/
def Sys2Proof.Parts.VectorFrame : Prop :=
  (∀ (o : VOut) (n u : Nat) (p : State),
    let t := noteArith (dropEntry u (writeOut o n p))
    (∀ r : Fin 128, (∀ x, o.v ≠ some (r, x)) → t.cx.v[r] = p.cx.v[r])
    ∧ (∀ r : Fin 8, (∀ x, o.mask ≠ some (r, x)) → t.cx.m[r] = p.cx.m[r])
    ∧ (∀ (r : Fin 128) (x : Nat), o.v = some (r, x) → t.cx.v[r] = BitVec.ofNat 6144 x)
    ∧ (∀ (r : Fin 8) (x : Nat), o.mask = some (r, x) → t.cx.m[r] = BitVec.ofNat 768 x)
    ∧ (∀ k : Nat, k < 64 → p.cx.flags.getLsbD k = true → t.cx.flags.getLsbD k = true)
    ∧ (o.fl = 0 → t.cx.flags = p.cx.flags)
    ∧ (o.cq = none → t.cx.cq = p.cx.cq) ∧ (o.xq = none → t.cx.xq = p.cx.xq)
    ∧ t.cx.s = p.cx.s ∧ t.cx.t = p.cx.t ∧ t.cx.cfg = p.cx.cfg ∧ t.cx.qdepth = p.cx.qdepth ∧ t.cx.pr = p.cx.pr ∧ t.cx.pc = p.cx.pc
    ∧ t.cx.retired = p.cx.retired ∧ SameDevice p t)
  ∧ (∀ (i : Instr) (s : State),
    let p := placedWord .varith i (drawn i) s
    p.cx.s = s.cx.s ∧ SameVector s p ∧ p.cx.flags = s.cx.flags ∧ p.cx.cq = s.cx.cq ∧ p.cx.xq = s.cx.xq ∧ p.cx.pr = s.cx.pr
    ∧ p.cx.cfg = { s.cx.cfg with ctr := s.cx.cfg.ctr + BitVec.ofNat 128 (drawBlocks i s.cx.cfg) }
    ∧ p.cx.pc = s.cx.npc ∧ p.cx.retired = s.cx.retired + 1 ∧ SameDevice s p)

/-- A pattern of fields that the effective format does not allow is ILLEGAL before the word is routed, with none of its effect (R169, R174). -/
def Sys2Proof.Parts.FormatNotAllowed : Prop :=
  ∀ (i : Instr) (vi : VecForm) (m : VMod) (srcs : List VSrc) (s : State), vecInfo i = some (vi, m, srcs) →
    vecOk (vecFmt m s.cx.cfg) i = false →
    exec i s = .next (finish s (illegal s.cx.pc s))

/-! ## The matrix engine (R260 to R284) -/

/-- Leases (R267, R268): MLEASE opens a session and requests the array, and completes once the lease is held; within a session of its
kind it has no effect, in one of the other kind it is LEASE. MREL closes a session and gives the array back, of a gang in all its members
and only by the member that holds the lease. -/
def Sys2Proof.Parts.Leases : Prop :=
  (∀ g : Bool, RunsTo .matrix (.mlease g) (fun _ => []) id (fun _ _ p => p.cx.lease.session = some g) fun _ p => p)
  ∧ (∀ (g : Bool) (s : State), Starts .matrix (.mlease g) [] id s → s.cx.lease.session = none →
      ∃ t, exec (.mlease g) s = .next t ∧ t.cx.lease.session = some g ∧ t.cx.lease.waiting = true ∧ t.cx.lease.gang = g
        ∧ t.cx.lease.held = s.cx.lease.held ∧ SameS [] s t ∧ SameVector s t ∧ SameControl s t ∧ SamePriv s t ∧ t.mem = s.mem
        ∧ (∃ e ∈ t.cx.fl.pend, e.uid = s.uid ∧ e.ins = .mlease g ∧ e.done = 1))
  ∧ (∀ (g : Bool) (e : QEntry) (s : State), e.done ≠ 0 → s.cx.lease.held = true → bodyMlease g e s = (.done s, 1))
  ∧ (∀ (g k : Bool) (e : QEntry) (s : State), e.done = 0 → s.cx.lease.session = some k → k ≠ g →
      bodyMlease g e s = (.trap cLEASE e.pc 0 s, 0))
  ∧ RunsTo .matrix .mrel (fun _ => []) id (fun _ _ p => p.cx.lease.session = none) (fun _ p => p)
  ∧ RunsTo .matrix .mrel (fun _ => []) id (fun _ _ p => p.cx.lease.session = some false ∧ p.cx.lease.held = false) (fun _ p =>
      updLease (fun l => { l with session := none, waiting := false, passed := false, holder := false }) p)
  ∧ RunsTo .matrix .mrel (fun _ => []) id (fun _ _ p => p.cx.lease.session = some false ∧ p.cx.lease.held = true) (fun _ p =>
      updLease (fun l => { l with session := none, waiting := false, passed := false, holder := false }) (endLease p.me p))
  ∧ RunsTo .matrix .mrel (fun _ => []) id (fun _ _ p => p.cx.lease.session = some true ∧ p.cx.lease.holder = false) (fun _ p => p)
  ∧ RunsTo .matrix .mrel (fun _ => []) id (fun _ _ p => p.cx.lease.session = some true ∧ p.cx.lease.holder = true) (fun _ p =>
      mapQuad (quadOf p.me) (fun c => if c.lease.session = some true then
          { c with lease := { c.lease with session := none, waiting := false, passed := false, holder := false } } else c)
        (if p.cx.lease.held then endLease p.me p else p))

/-- Tile moves (R276, R277) complete row by row: each row of MLDT is read whole and written with its ignored scale bits zero, each row
of MSTT is checked whole and then written; after the last row of MLDT the rows at or beyond ROWS are zero. -/
def Sys2Proof.Parts.TileMoves : Prop :=
  (∀ (a b c : Fin 32) (t : Fin 8), RunsAs .matrix (.mldt a b c t) (tileMoveRegs a b c t) id (fun s => tileMoveOk c t s = true)
    (bodyMldt a b c t))
  ∧ (∀ (a b c : Fin 32) (t : Fin 8), RunsAs .matrix (.mstt a b c t) (tileMoveRegs a b c t) id (fun s => tileMoveOk c t s = true)
    (bodyMstt a b c t))
  ∧ (∀ (t : Fin 8) (sh a b c c1 : W64) (r : Nat) (s : State),
      loadRows t sh a b c c1 0 r s = (.done (setT t (tileRows s.cx.t[t] r) s), r)
      ∧ storeRows 0 t sh a b c c1 0 r s = (.done s, r))
  ∧ (∀ (t : Fin 8) (sh a b c c1 : W64) (n r : Nat) (s s1 s2 : State) (gs : List (List Seg)) (l : List (List Byte)),
      Res.mapM (fun x s => access 4 .vec .rd x.1.toNat x.2 s) (rowParts sh a b c c1 r) s = .ok gs s1 →
      Res.mapM (fun g s => readSegs 4 g s) gs s1 = .ok l s2 →
      let side := ((sideArrays sh c c1).zip (l.drop 1)).foldl (fun acc (x, bs) => acc + natOf bs * 2 ^ (8 * x.2.2)) 0
      let tile : Tile := { rows := s2.cx.t[t].rows.set! r (BitVec.ofNat 2048 (natOf (l.headD [])))
                           side := s2.cx.t[t].side.set! r (BitVec.ofNat 256 (cleanSide (shSs sh) side)) }
      loadRows t sh a b c c1 (n + 1) r s
        = loadRows t sh a b c c1 n (r + 1) { s2 with cx := { s2.cx with t := s2.cx.t.set t tile } })
  ∧ (∀ (u : Nat) (t : Fin 8) (sh a b c c1 : W64) (n r : Nat) (s s1 : State) (g : List Seg),
      shSs sh = 0 → access 4 .vec .wr (a + BitVec.ofNat 64 r * b).toNat (shRowBytes sh) s = .ok g s1 → storeHeld u g s1 = false →
      r < 192 →
      storeRows u t sh a b c c1 (n + 1) r s = storeRows u t sh a b c c1 n (r + 1)
        (writeSegs 4 g (bytesOf (shRowBytes sh) (s1.cx.t[t].rows[r]?.getD 0).toNat) s1))

/-- The reshaping words complete (R278, R279, R263): MZERO writes zero rows of Z, MZERO.t a zero tile, MTRN the transposed tile
(with the scales of a Td that has some, the model's choice, log 71), MCVT the converted one with its flags, MFMT the table entry at its routing. -/
def Sys2Proof.Parts.TileReshaping : Prop :=
  (∀ d n : Fin 128, RunsTo .matrix (.mzero d n) (fun _ => []) id (fun _ _ _ => True) fun _ p =>
    { p with cx := setZ d.val (List.replicate (n.val + 1) 0) p.cx })
  ∧ (∀ t : Fin 8, RunsTo .matrix (.mzeroT t) (fun _ => []) id (fun _ _ _ => True) fun _ p => setT t [] p)
  ∧ (∀ d a : Fin 8, RunsTo .matrix (.mtrn d a) (fun _ => []) id (fun s _ _ => mtrnOk d a s.cx.cfg = true) fun e p =>
      setT d (keepScales (shSs (shOf e.cfg d)) (shCols (shOf e.cfg d)) (tileRows p.cx.t[d] (shRows (shOf e.cfg d)))
        (transposeTile (shEw (shOf e.cfg a)) (shCols (shOf e.cfg a)) (tileRows p.cx.t[a] (shRows (shOf e.cfg a))))) p)
  ∧ (∀ (d a : Fin 8) (sf df : MFmt) (rm : RmSel) (sat : Bool) (x y : Fmt),
      RunsTo .matrix (.mcvt d a sf df rm sat) (fun _ => []) (fun s => takeDraws (cvtDraws a rm s.cx.cfg) s)
        (fun s _ _ => cvtFmts d a sf df s.cx.cfg = some (x, y)) fun e p =>
          let r := cvtTile x y (selRm rm e.cfg) sat (drawOf e.cfg.key.toNat e.cfg.ctr.toNat) (shCols (shOf e.cfg a))
            (tileRows p.cx.t[a] (shRows (shOf e.cfg a)))
          let q := setT d r.1 p
          { q with cx := addFlags r.2 q.cx })
  ∧ (∀ (n : Fin 16) (code : Fmt), RunsTo .matrix (.mfmt n code) (fun _ => [])
      (updCfg fun g => { g with fmt := g.fmt.set n (BitVec.ofNat 64 code.code) }) (fun _ _ _ => True) fun _ p => p)
  ∧ (∀ (n k : Fin 16) (v : W64) (s : State), (updCfg (fun g => { g with fmt := g.fmt.set n v }) s).cx.cfg.fmt[k]
      = if k = n then v else s.cx.cfg.fmt[k])

/-- Rows and tiles (R261, R278): MZERO's rows and MZERO.t's tile read zero afterwards, and the others stand. -/
def Sys2Proof.Parts.ZeroedRegisters : Prop :=
  (∀ (d n : Fin 128) (c : Ctx) (r : Fin 128), d.val + n.val ≤ 127 →
    (setZ d.val (List.replicate (n.val + 1) 0) c).v[r] = if d.val ≤ r.val ∧ r.val ≤ d.val + n.val then 0 else c.v[r])
  ∧ (∀ (t u : Fin 8) (s : State), (setT t [] s).cx.t[u] = if u = t then {} else s.cx.t[u])

/-- MLDT and MSTT complete on rows of the local window, under conditions on the state and the operands alone (R32, R276): a shape without
side store, every row within the task's part of the window. MLDT gives the tile the rows' bytes, with zeros beyond; MSTT writes the rows. -/
def Sys2Proof.Parts.TileMovesComplete : Prop :=
  ∀ (a b c : Fin 32) (t : Fin 8) (s : State),
    let sh := shOf s.cx.cfg t
    let row (r : Nat) : Nat := (sget s.cx a + BitVec.ofNat 64 r * sget s.cx b).toNat
    tileMoveOk c t s = true → shSs sh = 0 → (∀ r, r < shRows sh → InWindow (row r) (shRowBytes sh) s) →
    (Starts .matrix (.mldt a b c t) [a, b] id s →
      exec (.mldt a b c t) s = .next (dropEntry s.uid (setT t ((List.range (shRows sh)).map fun r =>
        (natOf (windowRaw s (row r) (shRowBytes sh)), 0)) (placedWord .matrix (.mldt a b c t) id s))))
    ∧ (Starts .matrix (.mstt a b c t) [a, b] id s →
      exec (.mstt a b c t) s = .next (dropEntry s.uid ((List.range (shRows sh)).foldl (fun u r =>
        windowPut (row r) (bytesOf (shRowBytes sh) (s.cx.t[t].rows[r]?.getD 0).toNat) u)
        (placedWord .matrix (.mstt a b c t) id s))))

/-- A multiply without a session of its kind is LEASE, and so is one of a member that is not the gang's holder (R269). One that can
start runs on the array: its entry has issued, the array is busy until its issue slots have passed at its density, and keeps an MMAG's
halves as they stand; the lease and MCHKN have counted it; no register and no memory has changed (R123, R132, R272, R282). -/
def Sys2Proof.Parts.MultiplyStarts : Prop :=
  (∀ (d : Fin 128) (a b : Fin 8) (f : MFmt) (acc : Bool) (zc : BitVec 8) (e : QEntry) (s : State), e.issued = false →
    s.cx.lease.session ≠ some false → bodyMma d a b f acc zc e s = (.trap cLEASE e.pc 0 s, 0))
  ∧ (∀ (a b : Fin 8) (f : MFmt) (acc : Bool) (e : QEntry) (s : State), e.issued = false →
    (s.cx.lease.session ≠ some true ∨ (s.cx.lease.held = true ∧ s.cx.lease.holder = false)) →
    bodyMmag a b f acc e s = (.trap cLEASE e.pc 0 s, 0))
  ∧ (∀ (d : Fin 128) (a b : Fin 8) (m : MFmt) (f : Fmt) (acc : Bool) (zc : BitVec 8) (s : State),
    let i : Instr := .mma d a b m acc zc
    let slots := issueSlots f (shCols (shOf s.cx.cfg a))
    let arr := arrOf s (quadOf s.me)
    let fin := s.clock + slotClocks s.clock slots (Nat.min arr.density (maxDensity s (dieOf s.me)))
    Starts .matrix i [] id s → mmaOk d a b m zc s.cx.cfg = true → mtxFmt s.cx.cfg m = some f →
    (arr.gang && arr.holder.isSome) = false → MultiplyReady false slots s →
    ∃ t, exec i s = .next t
      ∧ { entryOf .matrix i s with issued := true, time := slots + 24, done := 1 } ∈ t.cx.fl.pend
      ∧ (arrOf t (quadOf s.me)).busy = fin ∧ t.cx.lease.mmas = s.cx.lease.mmas - 1 ∧ t.cx.lease.held = true
      ∧ t.cx.mchkCount = s.cx.mchkCount + 1 ∧ t.cx.pc = s.cx.npc ∧ SameS [] s t ∧ SameVector s t ∧ SameControl s t ∧ SamePriv s t
      ∧ t.mem = s.mem)
  ∧ (∀ (a b : Fin 8) (m : MFmt) (f : Fmt) (acc : Bool) (s : State),
    let i : Instr := .mmag a b m acc
    let q := quadOf s.me
    let p := placedWord .matrix i id s
    let h (k : Nat) (t : Fin 8) : W64 := (gangHalf p q k t).1
    let slots := (gangQuads p q a b).length * issueSlots f (shCols (h 0 a))
    let fin := s.clock + slotClocks s.clock slots (Nat.min (arrOf s q).density (maxDensity s (dieOf s.me)))
    Starts .matrix i [] id s → mtxFmt s.cx.cfg m = some f → s.cx.lease.holder = true → gangOk f (h 0 a) (h 2 a) (h 0 b) (h 1 b) = true →
    MultiplyReady true slots s →
    ∃ t, exec i s = .next t
      ∧ { entryOf .matrix i s with issued := true, time := slots + 24, done := 1 } ∈ t.cx.fl.pend
      ∧ (arrOf t q).busy = fin ∧ (arrOf t q).run = gangQuads p q a b ∧ t.cx.lease.mmas = s.cx.lease.mmas - 1 ∧ t.cx.mchkCount = s.cx.mchkCount + 1
      ∧ t.cx.pc = s.cx.npc ∧ SameS [] s t ∧ SameVector s t ∧ SameControl s t ∧ SamePriv s t ∧ t.mem = s.mem)

/-- A multiply that has issued completes at the turn of its core at which the array's clock has come (R123, R273, R274, R283): the products of
the tiles' rows under the captured shapes are added to or written into Z, of MMAG in the four members of the gang; an array that computes rightly
passes its self-check; the lease ends with its last operation, or with one that ran past it. -/
def Sys2Proof.Parts.MultiplyEnds : Prop :=
  let leaves (u : State) : State := if u.cx.lease.held && (u.cx.lease.mmas == 0 || u.cx.lease.ends ≤ u.clock) then endRenew u.me u else u
  let checked (e : QEntry) (u : State) : State := if e.done = 2 then passCheck (quadOf u.me) u else u
  (∀ (e : QEntry) (u : State) (m : MFmt) (f : Fmt) (acc : Bool),
    u.cx.fl.pend.find? (·.uid == e.uid) = some e → e.issued = true → e.counted = true → canStart u e = true →
    (arrOf u (quadOf u.me)).busy ≤ u.clock →
    u.broken.contains (coreUnit u.me 2) = false → e.queue = .matrix → mtxFmt e.cfg m = some f →
    (∀ (d : Fin 128) (a b : Fin 8) (zc : BitVec 8), e.ins = .mma d a b m acc zc →
      let z := multiply f acc d.val zc.toNat (shCols (shOf e.cfg a)) (tileRows u.cx.t[a] (shRows (shOf e.cfg a)))
        (tileRows u.cx.t[b] (shRows (shOf e.cfg b))) u.cx
      attempt u e.uid = dropEntry e.uid (leaves (checked e { u with cx := z })))
    ∧ (∀ a b : Fin 8, e.ins = .mmag a b m acc →
      attempt u e.uid = dropEntry e.uid (leaves (checked e ((mmagOp f acc (quadOf u.me) (arrOf u (quadOf u.me)).run u).run u)))))
    -- an operation whose self-check differs writes no Z: it takes the silent-error path
    ∧ (∀ (o : MmaOp) (x : Loc × Nat × Nat × Nat × Nat) (r : List (Loc × Nat × Nat × Nat × Nat)) (t : TaskRun) (e : QEntry) (u : State),
      o.blocks = x :: r → u.cx.task = some t → (arrOf u (quadOf u.me)).busy ≤ u.clock → e.done = 2 → u.broken.contains (coreUnit u.me 2) = true →
      ∃ w, mmaEnd o e u = .left (selfcheckFail (.bank u.me true) t u.me w) ∧ w.cx = u.cx ∧ w.others = u.others ∧ w.mem = u.mem)

/-- MDRAIN, MCHKN, MKAT and MWAIT complete (R271, R280 to R282, R284). -/
def Sys2Proof.Parts.DrainAndChecks : Prop :=
  (∀ (d : Fin 128) (a : Fin 32) (df : Fmt) (tr : Option DrainT) (rm : RmSel) (sat : Bool) (rows : Fin 128) (cols : BitVec 8),
    let i : Instr := .mdrain d a df tr rm sat rows cols
    let atRoute : State → State := fun s => takeDraws (drainDraws rm tr rows cols s.cx.cfg) s
    ∀ s, Starts .matrix i (a :: (match tr with | some t => [t.b] | none => [])) atRoute s → drainChk d a df tr rows cols s = none →
      ∃ t, bodyMdrain d a df tr rm sat rows cols (entryOf .matrix i s) (placedWord .matrix i atRoute s) = (.done t, 0)
        ∧ exec i s = .next (dropEntry s.uid t) ∧ t.cx.v = s.cx.v ∧ t.cx.t = s.cx.t ∧ SameS [] s t)
  ∧ (∀ a : Fin 32, RunsTo .matrix (.mchkn a) (fun _ => [a]) id (fun s _ _ => (sget s.cx a).toNat ≤ 65535) fun e p =>
      { p with cx := { p.cx with mchkPeriod := (qs e a).setWidth 16, mchkCount := 0 } })
  ∧ (∀ (a b : Fin 32) (disp : BitVec 17) (slot : Fin 32) (s p' : State) (l : Nat),
      let i : Instr := .mkat a b disp slot
      let e := entryOf .matrix i s
      Starts .matrix i [a, b] id s → mkatChk a b s = none →
      fetchLine (mkatLabel e.pc disp).toNat (placedWord .matrix i id s) = .ok l p' → lineKind l = 1 →
      (sealDigest (p'.mem.raw (spadBase p'.me + (qs e a).toNat) (qs e b).toNat)).toNat
        = lineWord l slot.val + lineWord l (slot.val + 1) * 2 ^ 32 →
      exec i s = .next (dropEntry s.uid (passCheck (quadOf p'.me) p')))
  ∧ (∀ z g : Bool, RunsTo .matrix (.mwait z g) (fun _ => []) id
      (fun _ _ p => g = false ∨ p.cx.lease.held = false ∨ p.cx.lease.gang = false) fun _ p => p)

/-! ## The copy queue (R295 to R313) -/

/-- The moves run beat by beat (R83, R298, R299, R300, R303): a beat whose ranges check has its bytes read and then written; a beat that
faults stops the word with its number in TINFO; PREF caches the translation of each page that it names and that the command may
read, and otherwise only leaves its queue (R304, R415). -/
def Sys2Proof.Parts.CopyMoves : Prop :=
  (∀ a b c : Fin 32, RunsAs .copy (.copy a b c) (fun _ => [a, b, c]) id (fun s => (sget s.cx c).toNat ≤ 2 ^ 36) (bodyCopy a b c))
  ∧ (∀ (a b c : Fin 32) (len : BitVec 18) (rows : BitVec 14), RunsAs .copy (.copy2 a b c len rows) (fun _ => [a, b, c]) id (fun _ => True)
      (bodyCopy2 a b c len rows))
  ∧ (∀ (a b c : Fin 32) (q : Option (Fin 8)) (esz : Fin 4) (n : BitVec 24), RunsAs .copy (.gather a b c q esz n) (fun _ => [a, b, c]) id
      (fun s => ∀ k, q = some k → (s.cx.streams[k]).any (·.kind == .feed) = true) (bodyGather a b c q esz n))
  ∧ (∀ (a b c : Fin 32) (esz : Fin 4) (n : BitVec 24), RunsAs .copy (.scatter a b c esz n) (fun _ => [a, b, c]) id (fun _ => True)
      (bodyScatter a b c esz n))
  ∧ (∀ (a b c : Fin 32) (f : Fin 128), RunsAs .copy (.sout a b c f) (fun _ => [a, b, c]) id
      (fun s => 1 ≤ (sget s.cx b).toNat ∧ (sget s.cx b).toNat ≤ 128 ∧ f.val + (sget s.cx b).toNat ≤ 128) (bodySout a b c f))
  ∧ (∀ a b : Fin 32, RunsTo .copy (.pref a b) (fun _ => [a, b]) id (fun _ _ _ => True) fun e p =>
      let va := (qs e a).toNat; let n := Nat.min (qs e b).toNat (2 ^ 36)
      if n = 0 ∨ 2 ^ 52 ≤ va then p
      else (List.range ((va + n - 1) / 2 ^ 16 - va / 2 ^ 16 + 1)).foldl (fun u k =>
        let at_ := (va / 2 ^ 16 + k) * 2 ^ 16
        let may (pte : W64) (base : Nat) : Bool := match checkPage u u.cx.pr.priv .copy .rd at_ 1 (.leaf pte base) with | .ok _ => true | _ => false
        prefetchBy may 5 at_ u) p)
  ∧ (∀ (u : Nat) (cd cs dst src : W64) (n : Nat) (s s1 s2 s3 : State) (gd gs : List Seg) (bs : List Byte),
      beatAccess 5 cd .wr dst n s = .ok gd s1 → beatAccess 5 cs .rd src n s1 = .ok gs s2 → readSegs 5 gs s2 = .ok bs s3 →
      storeHeld u gd s3 = false → moveBeat u cd cs ⟨dst, n, .inl src⟩ s = .done (writeSegs 5 gd bs s3))
  ∧ (∀ (u : Nat) (cd cs dst : W64) (r k n : Nat) (s s1 : State) (gd : List Seg),
      beatAccess 5 cd .wr dst n s = .ok gd s1 → storeHeld u gd s1 = false →
      moveBeat u cd cs ⟨dst, n, .inr (r, k)⟩ s = .done (writeSegs 5 gd (((rowBytes (s1.cx.v[r]?.getD 0)).drop k).take n) s1))

/-- COPY, COPY2 and SOUT complete within the local window, under conditions on the state and the operands alone (R32, R83, R298, R299,
R303): every beat is read, of memory or of its Z row, and then written, in order, and nothing else changes but the queue. -/
def Sys2Proof.Parts.CopyMovesComplete : Prop :=
  (∀ (a b c : Fin 32) (s : State),
    let n := (sget s.cx c).toNat
    Starts .copy (.copy a b c) [a, b, c] id s → InWindow (sget s.cx a).toNat n s → InWindow (sget s.cx b).toNat n s →
    exec (.copy a b c) s = .next (dropEntry s.uid (windowMove (sget s.cx a) (sget s.cx b) n (placedWord .copy (.copy a b c) id s))))
  ∧ (∀ (a b c : Fin 32) (len : BitVec 18) (rows : BitVec 14) (s : State),
    let st := copy2Strides (sget s.cx c)
    let dst (r : Nat) : W64 := sget s.cx a + BitVec.ofNat 64 r * st.1
    let src (r : Nat) : W64 := sget s.cx b + BitVec.ofNat 64 r * st.2
    Starts .copy (.copy2 a b c len rows) [a, b, c] id s →
    (∀ r, r ≤ rows.toNat → InWindow (dst r).toNat len.toNat s ∧ InWindow (src r).toNat len.toNat s) →
    exec (.copy2 a b c len rows) s = .next (dropEntry s.uid ((List.range (rows.toNat + 1)).foldl
      (fun u r => windowMove (dst r) (src r) len.toNat u) (placedWord .copy (.copy2 a b c len rows) id s))))
  ∧ (∀ (a b c : Fin 32) (f : Fin 128) (s : State),
    let n := (sget s.cx b).toNat
    let dst (r : Nat) : W64 := sget s.cx a + BitVec.ofNat 64 r * sget s.cx c
    Starts .copy (.sout a b c f) [a, b, c] id s → 1 ≤ n → n ≤ 128 → f.val + n ≤ 128 → (∀ r, r < n → InWindow (dst r).toNat 768 s) →
    exec (.sout a b c f) s = .next (dropEntry s.uid ((List.range n).foldl (fun u r => (beatParts (dst r) 768).foldl (fun u p =>
      windowPut p.1.toNat (((rowBytes (s.cx.v[f.val + r]?.getD 0)).drop (p.1 - dst r).toNat).take p.2) u) u)
      (placedWord .copy (.sout a b c f) id s))))

/-- GATHER into memory and SCATTER complete within the local window, under conditions on the state and the operands alone (R300): the index
array, every named element and the other side lie in the task's part, and nothing is written over the index array. Elements move in index
order; GATHER reads all elements of a beat of its destination before it writes the beat; one whose index is 0xFFFFFFFF is skipped. -/
def Sys2Proof.Parts.IndexedMovesComplete : Prop :=
  ∀ (a b c : Fin 32) (esz : Fin 4) (count : BitVec 24) (s : State),
    let w := 2 ^ esz.val
    let n := count.toNat
    let A := sget s.cx a
    let B := sget s.cx b
    let C := sget s.cx c
    let ix (k : Nat) : Nat := natOf (windowRaw s (C.toNat + 4 * k) 4)
    InWindow C.toNat (4 * n) s →
    (Starts .copy (.gather a b c none esz count) [a, b, c] id s → InWindow A.toNat (w * n) s →
      (A.toNat + w * n ≤ C.toNat ∨ C.toNat + 4 * n ≤ A.toNat) →
      (∀ k, k < n → ix k ≠ 0xFFFFFFFF → InWindow (elemAt B w (ix k)).toNat w s) →
      exec (.gather a b c none esz count) s = .next (dropEntry s.uid
        ((List.range (if n = 0 then 0 else (A.toNat % 64 + w * n + 63) / 64)).foldl (fun u j =>
          let ks := beatElems (A.toNat % 64) w n j
          windowSome (elemAt A w (ks.headD 0)).toNat (ks.flatMap fun k =>
            if ix k = 0xFFFFFFFF then List.replicate w none else (windowRaw u (elemAt B w (ix k)).toNat w).map some) u)
          (placedWord .copy (.gather a b c none esz count) id s))))
    ∧ (Starts .copy (.scatter a b c esz count) [a, b, c] id s → InWindow B.toNat (w * n) s →
      (∀ k, k < n → ix k ≠ 0xFFFFFFFF → InWindow (elemAt A w (ix k)).toNat w s
        ∧ ((elemAt A w (ix k)).toNat + w ≤ C.toNat ∨ C.toNat + 4 * n ≤ (elemAt A w (ix k)).toNat)) →
      exec (.scatter a b c esz count) s = .next (dropEntry s.uid ((List.range n).foldl (fun u k =>
        if ix k = 0xFFFFFFFF then u else windowMove (elemAt A w (ix k)) (elemAt B w k) w u)
        (placedWord .copy (.scatter a b c esz count) id s))))

/-- The beats of a move (R83): those of one row lie in order, hold 1 to 64 bytes each, cover the row's bytes one after another, and cross
no 64-byte boundary of the destination. -/
def Sys2Proof.Parts.BeatsOfAMove : Prop :=
  ∀ (a : W64) (n : Nat), a.toNat + n ≤ 2 ^ 64 →
    ((beatParts a n).map (·.2)).sum = n
    ∧ (∀ p ∈ beatParts a n, 1 ≤ p.2 ∧ p.2 ≤ 64 ∧ p.1.toNat % 64 + p.2 ≤ 64 ∧ a.toNat ≤ p.1.toNat ∧ p.1.toNat + p.2 ≤ a.toNat + n)
    ∧ (∀ k, k < (beatParts a n).length → ((beatParts a n)[k]?.getD (0, 0)).1.toNat = a.toNat + (((beatParts a n).take k).map (·.2)).sum)

/-- SBIND and SUNBIND take effect at their routing (R301, R302): the register is bound with a new serial, or is free; the others stand. -/
def Sys2Proof.Parts.StreamBinding : Prop :=
  (∀ (a b c : Fin 32) (k : StreamKind) (q : Fin 8), RunsTo .copy (.sbind a b c k q) (fun _ => [a, b, c]) (bindStream a b c k q)
    (fun s _ _ => sbindOk b k q s = true) fun _ p => p)
  ∧ (∀ q : Fin 8, RunsTo .copy (.sunbind q) (fun _ => []) (setStream q none) (fun _ _ _ => True) fun _ p => p)
  ∧ (∀ (a b c : Fin 32) (k : StreamKind) (q j : Fin 8) (s : State),
      (bindStream a b c k q s).cx.streams[j] = if j = q then
        some { id := s.uid, kind := k, addr := sget s.cx a, count := (sget s.cx b).toNat, stride := sget s.cx c } else s.cx.streams[j])
  ∧ (∀ (q j : Fin 8) (s : State), (setStream q none s).cx.streams[j] = if j = q then none else s.cx.streams[j])
  ∧ (∀ (a b c : Fin 32) (k : StreamKind) (q : Fin 8) (s : State), Routable .copy [a, b, c] s → (s.cx.streams[q]).isSome = true →
      exec (.sbind a b c k q) s = .next (finish s (illegal s.cx.pc s)))

/-- An operation packet (R305, R306) runs at the unit of its block: FILL, ADD, MAX and MIN replace each element, SUM changes none, and the
answer is the first element's old value, or the sum. -/
def Sys2Proof.Parts.OperationPackets : Prop :=
  (∀ (a b c : Fin 32) (q : Option (Fin 8)), RunsAs .copy (.opk a b c q) (fun _ => [a, b, c]) id
    (fun s => replayable s = false ∧ (∀ k, q = some k → (s.cx.streams[k]).any (·.kind == .result) = true)
      ∧ (sget s.cx b).toNat % 16 = 0 ∧ inPart (sget s.cx b) 16 s = none) (bodyOpk a b c q))
  ∧ (∀ (p : OpPacket) (pa t : Nat) (src : List Byte) (key : Option (BitVec 512)) (m : Memory), unitRead m key pa (p.n * p.f.width) = .inl t →
      let olds := (List.range p.n).map (laneOf p.f.width t)
      (p.op = 4 → unitOpk p pa src key m = (.inl (bytesOf 8 (opExtend p.f (opSum p olds))), m))
      ∧ (p.op ≠ 4 → unitOpk p pa src key m = (.inl (bytesOf 8 (opExtend p.f (olds.headD 0))),
          m.write key pa (bytesOf (p.n * p.f.width) (packLanes p.f.width (olds.mapIdx fun k o => opElem p o (laneOf p.f.width (natOf src) k)))))))
  ∧ (∀ (p : OpPacket) (old src : Nat), p.f.isI = true →
      (p.op = 0 → opElem p old src = p.imm)
      ∧ (p.op = 1 → (opElem p old src : Int) = (ival p.f old + ival p.f src) % 2 ^ (8 * p.f.width))
      ∧ (p.op = 2 → opElem p old src = if ival p.f old < ival p.f src then src else old)
      ∧ (p.op = 3 → opElem p old src = if ival p.f old < ival p.f src then old else src))

/-- An operation packet for a block of this device completes (R93, R305, R306): with its packet and its source read, its target checked
and readable and room for its element, its unit does what the packet says and the element that the unit answers is delivered. -/
def Sys2Proof.Parts.OperationPacketCompletes : Prop :=
  ∀ (a b c : Fin 32) (q : Option (Fin 8)) (s p1 p2 p3 p4 : State) (gs : List Seg) (bs src v : List Byte) (pk : OpPacket) (g : Seg) (m : Memory),
    let i : Instr := .opk a b c q
    let e := entryOf .copy i s
    let t := (sget s.cx a).toNat
    let n := pk.n * pk.f.width
    Starts .copy i [a, b, c] id s → replayable s = false → (∀ k, q = some k → (s.cx.streams[k]).any (·.kind == .result) = true) →
    (sget s.cx b).toNat % 16 = 0 → inPart (sget s.cx b) 16 s = none →
    access 5 .copy .rd (sget s.cx b).toNat 16 (placedWord .copy i id s) = .ok gs p1 → readSegs 5 gs p1 = .ok bs p2 →
    opPacket (BitVec.ofNat 64 (natOf bs)) (BitVec.ofNat 64 (natOf bs / 2 ^ 64)) = some pk →
    (pk.op = 0 ∨ pk.op = 4 → c = 0) → (pk.op = 4 → q.isSome = true) → t % pk.f.width = 0 → t / 256 = (t + n - 1) / 256 →
    access 5 .atomic .rw t n p2 = .ok [g] p3 → g.ty ≤ 2 → opSource pk (qs e c) p3 = .ok src p4 → canDeliver e p4 = true →
    unitOpk pk g.pa src g.key p4.mem = (.inl v, m) →
    exec i s = .next (dropEntry s.uid (deliver e (BitVec.ofNat 6144 (natOf v)) { p4 with mem := m }))

/-- CJOIN completes where its window is one page's memory, its stream has room, a plane of the group is up and the group is not frozen (R100, R307): a
group that no device belongs to begins with the device and number 1; a member is answered 1 and the next number; a size that differs 2; a new
member of an existing group 0 and the switch's next number. -/
def Sys2Proof.Parts.JoinCompletes : Prop :=
  ∀ (a b c : Fin 32) (q : Fin 8) (s s1 s2 : State) (g : Seg) (gs1 gs2 : List Seg),
    let i : Instr := .cjoin a b c q
    let e := entryOf .copy i s
    let gr := groupOf e a
    let n := (sget s.cx c).toNat
    let done (st : Nat) (num : BitVec 32) (u : State) : Host.Outcome State Fault Refusal :=
      .next (dropEntry s.uid (deliver e (BitVec.ofNat 6144 (st * 2 ^ 32 + num.toNat)) u))
    let join (num : BitVec 32) (u : State) : State := send (.group u.dev.val gr true) { u with fab := { u.fab with members :=
      { g := gr, base := g.pa, key := g.key, size := n, applied := seqPred num, joining := true, first := num } :: u.fab.members } }
    Starts .copy i [a, b, c] id s → replayable s = false → groupOk a s = true → (sget s.cx b).toNat % 64 = 0 → n % 64 = 0 → 64 ≤ n →
    n ≤ 2 ^ 29 → (s.cx.streams[q]).any (·.kind == .result) = true →
    access 5 .cast .rw (sget s.cx b).toNat 1 (placedWord .copy i id s) = .ok gs1 s1 →
    (sget s.cx b).toNat + n ≤ (pageSpan s1 (sget s.cx b).toNat).2 →
    access 5 .cast .rw (sget s.cx b).toNat n s1 = .ok (g :: gs2) s2 → canDeliver e s2 = true → groupPlane s2 gr = true →
    (∀ w, swGroup s2 gr = some w → w.frozen = false) →
    (∀ m, memberOf s2 gr = some m → exec i s = done 1 (seqSucc m.applied) s2)
    ∧ (memberOf s2 gr = none → swGroup s2 gr = none → exec i s = done 0 1 (join 1 { s2 with fab := { s2.fab with
        groups := { g := gr, members := [s2.dev], next := 1, plane := (planeFrom (planeUp s2) (gr.val % 24)).getD 0, size := n } :: s2.fab.groups } }))
    ∧ (∀ w, memberOf s2 gr = none → swGroup s2 gr = some w →
        (w.size ≠ n → exec i s = done 2 0 s2)
        ∧ (w.size = n → ∀ w', swGroup (checkPlane gr (updSw gr (fun w => { w with members := w.members ++ [s2.dev] }) s2)) gr = some w' →
            exec i s = done 0 w'.next
              (join w'.next (checkPlane gr (updSw gr (fun w => { w with members := w.members ++ [s2.dev] }) s2)))))

/-- The words of cast groups complete (R307 to R311): CJOIN delivers the switch's answer, CLEAVE leaves, CSTORE sends its bytes to be
stamped and CWAIT goes on once the recorded stores have been and its number has been applied, with the
snapshot dropped. -/
def Sys2Proof.Parts.CastWords : Prop :=
  (∀ (a b c : Fin 32) (q : Fin 8), RunsAs .copy (.cjoin a b c q) (fun _ => [a, b, c]) id
    (fun s => replayable s = false ∧ groupOk a s = true ∧ (sget s.cx b).toNat % 64 = 0 ∧ (sget s.cx c).toNat % 64 = 0
      ∧ 64 ≤ (sget s.cx c).toNat ∧ (sget s.cx c).toNat ≤ 2 ^ 29 ∧ (s.cx.streams[q]).any (·.kind == .result) = true) (bodyCjoin a b c))
  ∧ (∀ a : Fin 32, RunsTo .copy (.cleave a) (fun _ => [a]) id
      (fun s e p => replayable s = false ∧ groupOk a s = true ∧ memberOf p (groupOf e a) = none) fun _ p => p)
  ∧ (∀ a : Fin 32, RunsTo .copy (.cleave a) (fun _ => [a]) id
      (fun s e p => replayable s = false ∧ groupOk a s = true ∧ (memberOf p (groupOf e a)).isSome = true
        ∧ unstamped p (groupOf e a) = false) fun e p => leaveOwn (groupOf e a) p)
  ∧ (∀ (a b c : Fin 32) (q : Option (Fin 8)) (s p1 p2 : State) (m : Member) (gs : List Seg) (bs : List Byte),
      let i : Instr := .cstore a b c q
      let e := entryOf .copy i s
      let p := placedWord .copy i id s
      let n := 8 * (bits (qs e b) 36 32 + 1)
      let item : CastItem := ⟨groupOf e a, p2.dev, p2.fab.serial, (qs e b).setWidth 32, bs⟩
      let sent := sendCast item { p2 with fab := { p2.fab with
        serial := p2.fab.serial + 1, sends := p2.fab.sends ++ [⟨item, q.isSome, none, false⟩] } }
      Starts .copy i [a, b, c] id s → replayable s = false → groupOk a s = true → bits (sget s.cx b) 63 37 = 0 →
      bits (sget s.cx b) 31 0 % 8 = 0 → (∀ k, q = some k → (s.cx.streams[k]).any (·.kind == .result) = true) →
      memberOf p (groupOf e a) = some m → m.gap = false → ((qs e b).setWidth 32 : BitVec 32).toNat + n ≤ m.size →
      access 5 .copy .rd (qs e c).toNat n p = .ok gs p1 → readSegs 5 gs p1 = .ok bs p2 → frelHolds s.uid p2 = false →
      groupPlane p2 (groupOf e a) = true →
      (q = none → exec i s = .next (dropEntry s.uid sent))
      ∧ (q.isSome = true → exec i s = .next (settleEntry e (.wait .other sent, item.serial.toNat + 1))))
  ∧ (∀ (a b : Fin 32) (s : State) (m : Member),
      let i : Instr := .cwait a b
      let e := entryOf .copy i s
      let p := endJoining (groupOf e a) (placedWord .copy i id s)
      let n : BitVec 32 := (qs e b).setWidth 32
      let t := dropEntry s.uid { p with cx := refresh p.cx p.mem }
      Starts .copy i [a, b] id s → replayable s = false → groupOk a s = true → bits (sget s.cx b) 63 32 = 0 →
      memberOf (placedWord .copy i id s) (groupOf e a) = some m → m.gap = false →
      (∃ m', memberOf p (groupOf e a) = some m' ∧ m'.joining = false ∧ m'.upto = none ∧ (n = 0 ∨ seqLe n m'.applied = true)) →
      exec i s = .next { t with cx := { t.cx with fl := { t.cx.fl with wait := .none } } })

/-- The words of in-network reduction and release complete (R98, R99, R312, R313): FRED sends its contribution and completes once the switch has
accepted it, FREDW delivers the outcome
of its slot, FREL takes a marker number and goes on once the planes that carried the context's stores
have answered. -/
def Sys2Proof.Parts.ReductionWords : Prop :=
  (∀ (a b c : Fin 32) (op : RedOp) (int nan : Bool) (s : State),
      let i : Instr := .fred a b c op int nan
      let e := entryOf .copy i s
      let p := placedWord .copy i id s
      let item : RedItem := ⟨groupOf e a, (qs e b).setWidth 16, s.dev, op, int, nan, (qs e c).setWidth 32⟩
      Starts .copy i [a, b, c] id s → replayable s = false → groupOk a s = true → bits (sget s.cx b) 63 16 = 0 →
      (memberOf p (groupOf e a)).isSome = true → frelHolds s.uid p = false → groupPlane p (groupOf e a) = true →
      ∃ t, exec i s = .next t ∧ t.fab.freds = s.fab.freds ++ [{ id := s.uid, item := item, claimed := collected s.uid p, since := s.clock }]
        ∧ { e with issued := true, done := 1 } ∈ t.cx.fl.pend ∧ Event.red item ∈ t.due
        ∧ t.cx.pc = s.cx.npc ∧ t.cx.s = s.cx.s ∧ SameVector s t ∧ t.mem = s.mem)
  ∧ (∀ (a b c : Fin 32) (op : RedOp) (int nan : Bool) (e : QEntry) (s : State), e.done ≠ 0 →
      (∀ f, s.fab.freds.find? (·.id == e.uid) = some f → f.counted = true ∨ f.out.isSome = true) →
      bodyFred a b c op int nan e s = (.done s, e.done))
  ∧ (∀ (a b c : Fin 32) (q : Fin 8) (s : State) (id_ : Nat) (r : RedOutcome),
      let i : Instr := .fredw a b c q
      let e := entryOf .copy i s
      let p := placedWord .copy i id s
      let claim (p : State) : State := { p with fab := { p.fab with
        freds := p.fab.freds.map fun x => if x.id = id_ then { x with claimed := true } else x } }
      let drop (p : State) : State := { p with fab := { p.fab with freds := p.fab.freds.filter (·.id != id_) } }
      Starts .copy i [a, b, c] id s → replayable s = false → groupOk a s = true → bits (sget s.cx b) 63 16 = 0 →
      (s.cx.streams[q]).any (·.kind == .result) = true → earliestFred (groupOf e a) ((qs e b).setWidth 16) e p = some id_ →
      ((claim p).fab.freds.find? (·.id == id_)).bind (·.out) = some r → canDeliver e (claim p) = true → (r.status ≠ 1 ∨ c = 0) →
      exec i s = .next (dropEntry s.uid (deliver e (redItem r) (drop (claim p)))))
  ∧ RunsTo .copy .frel (fun _ => []) id
      (fun s e p => replayable s = false ∧ storesBefore e p = false ∧ carriedPlanes p = []) (fun _ p => { p with fab := { p.fab with marker := p.fab.marker + 1 } })
  ∧ (∀ (a b c : Fin 32) (op : RedOp) (int nan : Bool) (s : State), Routable .copy [a, b, c] s → replayable s = true →
      exec (.fred a b c op int nan) s = .next (finish s (illegal s.cx.pc s)))

/-! ## The gauge stage (R285 to R294) -/

/-- GCFG writes GCFG0 at its routing and keeps LIVE; GPLANE derives the planes and writes P (R286, R287). -/
def Sys2Proof.Parts.GaugeConfiguration : Prop :=
  (∀ (k bw : BitVec 7) (f : BitVec 4), RunsTo .gauge (.gcfg k bw f) (fun _ => [])
    (fun s => updCfg (fun c => { c with gcfg := c.gcfg.set 0 ((gcfgWord k bw f c.gcfg[0]).getD c.gcfg[0]) }) s)
    (fun s _ _ => (gcfgWord k bw f s.cx.cfg.gcfg[0]).isSome = true) fun _ p => p)
  ∧ (∀ (k bw : BitVec 7) (f : BitVec 4) (old v : W64), gcfgWord k bw f old = some v →
      bits v 4 0 = k.toNat ∧ bits v 11 8 = bw.toNat ∧ bits v 19 12 = bits old 19 12 ∧ bits v 23 20 = f.toNat)
  ∧ (∀ a b : Fin 32, RunsTo .gauge (.gplane a b) (fun _ => [a, b]) id (fun s _ _ => gK s.cx.cfg ≠ 0) fun e p =>
      let pl := planesOf e.cfg.key.toNat (cat128 (qs e b) (qs e a)).toNat
      updCfg (fun c => { c with gcfg := (c.gcfg.set 2 (qs e a)).set 3 (qs e b) })
        { p with cx := { p.cx with plane := Vector.ofFn fun i => BitVec.ofNat 256 (pl.getD i.val 0) } })
  ∧ (∀ (k bw : BitVec 7) (f : BitVec 4) (s : State), Routable .gauge [] s → gcfgWord k bw f s.cx.cfg.gcfg[0] = none →
      exec (.gcfg k bw f) s = .next (finish s (illegal s.cx.pc s)))

/-- The gauge words run where K is not 0 (R285, R288 to R293): GHASH writes the lanes of the rows' hashes, GREP the table and the map,
GPACK the representatives, GSCAT the buckets' rows back to the members, GGSUM the buckets' sums. -/
def Sys2Proof.Parts.GaugeWords : Prop :=
  (∀ (d : Fin 128) (a : Fin 8), RunsTo .gauge (.ghash d a) (fun _ => []) id
    (fun s _ _ => gK s.cx.cfg ≠ 0 ∧ gaugeFits a s = true) fun e p =>
      let sh := shOf e.cfg a
      let live := if gLive e.cfg = 0 then shRows sh else Nat.min (gLive e.cfg) (shRows sh)
      let lane (r : Nat) : Nat := if live ≤ r then 0x80000000
        else hashLane (gK e.cfg) (p.cx.plane.toList.map (·.toNat)) (gRow e.cfg p.cx.t[a] sh r)
      setLanes d.val ((List.range 192).map lane) p)
  ∧ (∀ (d a : Fin 128) (t : Fin 8) (rule : RepRule), RunsTo .gauge (.grep d a t rule) (fun _ => []) id
      (fun s _ _ => gK s.cx.cfg ≠ 0 ∧ gaugeFits t s = true) fun e p =>
        let r := grepRows (gK e.cfg) (gBw e.cfg) rule (lanes32 p.cx.v[a]) (gRow e.cfg p.cx.t[t] (shOf e.cfg t))
        setLanes (d.val + 1) r.2 (setLanes d.val r.1 p))
  ∧ (∀ (d a : Fin 8) (b : Fin 128), RunsTo .gauge (.gpack d a b) (fun _ => []) id
      (fun s e p => gK s.cx.cfg ≠ 0 ∧ b ≠ 0 ∧ gaugeFits a s = true ∧ shOf s.cx.cfg d = shOf s.cx.cfg a
        ∧ packOk (shRows (shOf e.cfg a)) (lanes32 p.cx.v[b]) (liveLanes (p.cx.v[b.val - 1]?.getD 0).toNat) = true) fun e p =>
          let rows := ((lanes32 p.cx.v[b]).take (shRows (shOf e.cfg a))).mapIdx fun j l =>
            packRow e.cfg p.cx.t[a] (shOf e.cfg a) (liveLanes (p.cx.v[b.val - 1]?.getD 0).toNat) l j
          setT d (rows.map fun x => (x.1, 0)) { p with cx := addFlags (rows.foldl (fun fl x => fl ||| x.2) 0) p.cx })
  ∧ (∀ d a b : Fin 128, RunsTo .gauge (.gscat d a b) (fun _ => []) id
      (fun s _ p => gK s.cx.cfg ≠ 0
        ∧ ∀ m ∈ liveLanes (p.cx.v[b]).toNat, d.val + m.1 ≤ 127 ∧ a.val + m.2 ≤ 127) fun _ p =>
          let put (c : Ctx) (m : Nat × Nat) : Ctx := setV (Fin.ofNat 128 (d.val + m.1)) (p.cx.v[a.val + m.2]?.getD 0).toNat c
          { p with cx := (liveLanes (p.cx.v[b]).toNat).foldl put p.cx })
  ∧ (∀ d a b : Fin 128, RunsTo .gauge (.ggsum d a b) (fun _ => []) id
      (fun s _ p => gK s.cx.cfg ≠ 0
        ∧ ∀ m ∈ liveLanes (p.cx.v[b]).toNat, a.val + m.1 ≤ 127 ∧ d.val + m.2 < 128) fun e p =>
          let live := liveLanes (p.cx.v[b]).toNat
          let nb := live.foldl (fun n m => Nat.max n (m.2 + 1)) 0
          let row (j : Nat) : List (Nat × Flg) :=
            let mem := (live.filter (·.2 == j)).map fun m => lanes32 (p.cx.v[a.val + m.1]?.getD 0)
            (List.range 192).map fun c => meanElem .fp32 (gRm e.cfg) 1 (mem.map fun r => fval .fp32 (r.getD c 0))
          let rows := (List.range nb).map row
          let fl := rows.foldl (fun fl r => r.foldl (fun fl x => fl ||| x.2) fl) 0
          { p with cx := setZ d.val (rows.map fun r => packLanes 4 (r.map Prod.fst)) (addFlags fl p.cx) })
  ∧ (∀ (d : Fin 128) (a : Fin 8) (s : State), Routable .gauge [] s → gK s.cx.cfg = 0 →
      exec (.ghash d a) s = .next (finish s (illegal s.cx.pc s)))

/-- GMAP and GLMAP move the 24 blocks of two rows (R294). -/
def Sys2Proof.Parts.GaugeMaps : Prop :=
  (∀ (a : Fin 32) (m : Fin 128), RunsAs .gauge (.gmap a m) (fun _ => [a]) id (fun s => (sget s.cx a).toNat % 64 = 0) (bodyGmap a m))
  ∧ (∀ (a : Fin 32) (m : Fin 128), RunsAs .gauge (.glmap a m) (fun _ => [a]) id (fun s => (sget s.cx a).toNat % 64 = 0) (bodyGlmap a m))
  ∧ (∀ (a : Fin 32) (m : Fin 128) (s : State), Routable .gauge [a] s → (sget s.cx a).toNat % 64 ≠ 0 →
      exec (.gmap a m) s = .next (finish s (.trap cALIGN (sget s.cx a) 0 s))
      ∧ exec (.glmap a m) s = .next (finish s (.trap cALIGN (sget s.cx a) 0 s)))

/-- GMAP and GLMAP complete within the local window, under conditions on the state and the operands alone (R294): the 24 blocks of the two
rows are written to memory, or read from it into the rows, in order. -/
def Sys2Proof.Parts.GaugeMapsComplete : Prop :=
  ∀ (a : Fin 32) (m : Fin 128) (s : State), (sget s.cx a).toNat % 64 = 0 → InWindow (sget s.cx a).toNat 1536 s →
    let at_ (k : Nat) : Nat := (sget s.cx a).toNat + 64 * k
    (Starts .gauge (.gmap a m) [a] id s →
      exec (.gmap a m) s = .next (dropEntry s.uid ((List.range 24).foldl (fun u k =>
        windowPut (at_ k) (((mapBytes s.cx m).drop (64 * k)).take 64) u) (placedWord .gauge (.gmap a m) id s))))
    ∧ (Starts .gauge (.glmap a m) [a] id s →
      exec (.glmap a m) s = .next (dropEntry s.uid ((List.range 24).foldl (fun u k =>
        let r := m.val + k / 12
        { u with cx := setV (Fin.ofNat 128 r) (putBlock (u.cx.v[r]?.getD 0) (k % 12) (windowRaw s (at_ k) 64)).toNat u.cx })
        (placedWord .gauge (.glmap a m) id s))))

/-! ## The task interface (R315 to R329) -/

/-- Spawning and signalling complete (R317 to R319): a reservation gives a new slot's handle; a spawn gives the handle under which its checked
packet was published, and a signal is counted; both are boundaries. What an earlier instance did is not done again (R345); in a recovery
run they have no effect (R49). -/
def Sys2Proof.Parts.SpawnAndSignal : Prop :=
  (∀ (a b : Fin 32) (s s1 : State) (t : TaskRun) (h : W64), Ready [b] s → s.cx.task = some t → t.kind ≠ .recovery →
      t.prior.ress[t.acts.ress.length]? = none → reserveSlot (some t.info.launch) s = (some h, s1) →
      let t1 := addActs (fun x => { x with ress := x.ress ++ [h] }) s1
      exec (.tspawn a b true) s = .next (complete (wr t1 a h)) ∧ exec (.tspawnl a b true) s = .next (complete (wr t1 a h)))
  ∧ (∀ (a b : Fin 32) (s s1 s2 s3 : State) (t : TaskRun) (p : List W64) (h : W64), Ready [b] s → s.cx.task = some t →
      t.kind ≠ .recovery → t.prior.spawns[t.acts.spawns.length]? = none → unpublished true s = none →
      readPacket (sget s.cx b) s = .ok p s1 → packetRule s1 s1.cx.pr.asid p = (some none, s2) → pktHandle p = 0 →
      reserveSlot (some t.info.launch) (dropLines s2) = (some h, s3) →
      let t1 := countSpawn t.info.launch (publish h p ⟨t.info.launch, s2.cx.pr.asid, s2.cx.cfg.key, t.info.id⟩ (some s3.me) s3)
      let t2 := boundaryDone (wr (addActs (fun x => { x with spawns := x.spawns ++ [h] }) t1) a h)
      (pktKind p = 1 → exec (.tspawn a b false) s = .next (complete t2))
      ∧ (pktKind p = 2 → exec (.tspawnl a b false) s = .next (complete t2)))
  ∧ (∀ (a b : Fin 32) (s : State) (t : TaskRun) (h : W64), Ready [b] s → s.cx.task = some t → t.kind ≠ .recovery →
      let again (s : State) : State := wr (addActs (fun x => { x with spawns := x.spawns ++ [h] }) s) a h
      t.prior.spawns[t.acts.spawns.length]? = some h →
      exec (.tspawn a b false) s = .next (complete (again s)) ∧ exec (.tspawnl a b false) s = .next (complete (again s)))
  ∧ (∀ (a b : Fin 32) (res : Bool) (s : State) (t : TaskRun), Ready [b] s → s.cx.task = some t → t.kind = .recovery →
      exec (.tspawn a b res) s = .next (complete (wr s a 0)) ∧ exec (.tspawnl a b res) s = .next (complete (wr s a 0)))
  ∧ (∀ (a : Fin 32) (s s1 : State) (t : TaskRun), Ready [a] s → s.cx.task = some t → sget s.cx a ≠ 0 → t.kind ≠ .recovery →
      (t.prior.sigs.filter (· == sget s.cx a)).length ≤ (t.acts.sigs.filter (· == sget s.cx a)).length → unpublished true s = none →
      bits (sget s.cx a) 63 54 = s.dev.val → signalHere (sget s.cx a) s = some s1 →
      exec (.tsig a) s
        = .next (complete (boundaryDone (addActs (fun x => { x with sigs := x.sigs ++ [sget s.cx a] }) s1))))
  ∧ (∀ (a : Fin 32) (s : State) (t : TaskRun), Ready [a] s → s.cx.task = some t → t.kind = .recovery →
      exec (.tsig a) s = .next (complete s))

/-- Making, declaring and reading versions completes (R320 to R322), here for versions whose records this device keeps: TNEWV gives the
next version of its tile ID with a PENDING record, TDECL notes an input once, TREADV gives the address of an own unsealed version or of a
declared one that is available. -/
def Sys2Proof.Parts.Versions : Prop :=
  (∀ (src : Fin 1024) (id producer : W64) (n die outix : Nat) (ty : TileTgt) (info : SpawnInfo) (idx : List W64) (s s1 : State)
      (ixs : List Nat) (pl : Place),
      let h := id + BitVec.ofNat 64 (lastVersion s id + 1)
      let r : VRec := { index := ixs.headD 0, tile := h, st := .pending, rplay := false, outix := outix, producer := producer
                        pkdev := s.dev, pool := 0, size := n, place := pl, chain := ixs.drop 1, owner := src, since := s1.clock }
      lastVersion s id < 0xFFFFFF → freeIndices s 1 = some ixs → allocStore s ty die n = (some pl, s1) →
      newVersion src id n ty die producer outix [] info idx none [] s = .made h pl none { s1 with lin := { s1.lin with
        recs := s1.lin.recs ++ [r], versions := (id, h.toNat % 2 ^ 24) :: s1.lin.versions.filter (·.1 != id) } })
  ∧ (∀ (a b c : Fin 32) (tt : TileTgt) (dsel : Bool) (die : Fin 4) (s s1 : State) (t : TaskRun) (h : W64) (pl : Place)
      (pool : Option (Fin 1024 × Nat)),
      let id := sget s.cx b
      let n := ((sget s.cx c).toNat + 63) / 64 * 64
      let k := t.acts.allocs.length
      let replay := replayPkt t.packet
      Ready [b, c] s → s.cx.task = some t → bits id 23 0 = 0 → 1 ≤ (sget s.cx c).toNat → (sget s.cx c).toNat ≤ 0xFFFFFFC0 →
      (replay = true → k < 64) → t.kind ≠ .recovery → (actsOf s t).allocs[k]? = none → shadowed t = false → partnerAsks t s = false →
      servesShard s id = true →
      newVersion s.dev id n tt (if dsel then die.val else homeDie id) t.handle k (if replay then retainPacket t.packet t.idx else [])
        t.info t.idx (actsOf s t).pool (if replay then t.decl else []) s = .made h pl pool s1 →
      let t1 := updTask (fun t => { t with acts := { t.acts with allocs := t.acts.allocs ++ [h] } }) (notePool pool s1)
      exec (.tnewv a b c tt dsel die) s = .next (complete (wr t1 a h)))
  ∧ (∀ (a : Fin 32) (s : State) (t : TaskRun), Ready [a] s → s.cx.task = some t → t.decl.contains (sget s.cx a) = true →
      exec (.tdecl a) s = .next (complete s))
  ∧ (∀ (a : Fin 32) (s : State) (t : TaskRun) (r : VRec) (ixs : List Nat),
      let h := sget s.cx a
      let rs := unlisted s t h
      Ready [a] s → s.cx.task = some t → t.decl.contains h = false →
      t.decl.length < (if replayPkt t.packet then 64 else 256) → ownPending t h s = false → freeIndices s (linkCost rs) = some ixs →
      servesShard s h = true → recOf s h = some r → r.st ≠ .failed →
      -- the shards of outputs homed elsewhere have listed the input
      (∀ k, k < (farOutputs t s).length → s.cx.fl.notes[k]? = some .held) →
      exec (.tdecl a) s
        = .next (complete (settle (settled (updTask (fun t => { t with decl := t.decl ++ [h] }) (linkInput h rs ixs s))))))
  ∧ (∀ (a b : Fin 32) (s : State) (t : TaskRun) (e : AsidEnt),
      let h := sget s.cx b
      Ready [b] s → s.cx.task = some t → bindOf s.xl s.cx.pr.asid = some e → e.twen = true →
      (∀ p n, writtenAt t h s = some (p, n) → exec (.treadv a b) s = .next (complete (wr s a (tileVa p))))
      ∧ (∀ r, writtenAt t h s = none → t.decl.contains h = true → servesShard s h = true → recOf s h = some r → r.st ≠ .failed →
          r.st.avail = true →
          exec (.treadv a b) s = .next (complete (wr { s with cx := refreshRange (placeLoc s r.place) r.size s.cx s.mem } a
            (tileVa r.place))))
      ∧ (writtenAt t h s = none → t.decl.contains h = false → replayPkt t.packet = true →
          exec (.treadv a b) s = .next (finish s (sealFault h s))))
  ∧ (∀ (s : State) (t : TaskRun) (h : W64) (r : VRec), t.buffers.find? (·.1 == h) = none → recOf s h = some r →
      ((actsOf s t).allocs.contains h = true → r.st = .pending → writtenAt t h s = some (r.place, r.size))
      ∧ ((actsOf s t).allocs.contains h = false → writtenAt t h s = none))

/-- Sealing, replicas and pins complete (R323 to R326): TSEAL records the digest of the version's bytes and, for a replayable task, goes
on; for any other it goes on at REPLICA; TREPL asks for a replica, TPIN counts a hold. -/
def Sys2Proof.Parts.Seals : Prop :=
  (∀ (a : Fin 32) (s s1 : State) (t : TaskRun) (p : Place) (n : Nat) (bs : List Byte),
      let h := sget s.cx a
      let depths := t.decl.map fun u => (u, ((recOf s1 u).map (·.depth)).getD 0)
      let s2 := settled (recordSeal h (sealDigest bs) (replayPkt t.packet) (depthOver depths) s1)
      let s3 := updTask (fun t => { t with sealing := some h }) (tellPartner h t (noteRings h t s2))
      let fin := boundaryDone (addActs (fun x => { x with seals := x.seals ++ [h] }) (dropBuffer h t (noteRings h t s3)))
      Ready [a] s → s.cx.task = some t → t.sealing ≠ some h → t.pair = none → t.kind ≠ .recovery →
      (actsOf s t).allocs.contains h = true → ownPending t h s = true → unpublished true s = none → s.cx.fl.skid ≤ s.clock →
      writtenAt t h s = some (p, n) → placeBytes p n s = .ok bs s1 → servesShard s1 h = true → servesShard s3 h = true →
      (∀ u ∈ t.decl, (recOf s1 u).isSome = true ∨ servesShard s1 u = true) →
      (replayPkt t.packet = true → exec (.tseal a) s = .next (complete fin))
      ∧ (∀ r', replayPkt t.packet = false → recOf s3 h = some r' → r'.st = .replica → exec (.tseal a) s = .next (complete fin))
      ∧ (∀ r', replayPkt t.packet = false → recOf s3 h = some r' → r'.st ≠ .replica → r'.st ≠ .failed →
          exec (.tseal a) s = .next (finish s (.wait .other s3))))
  ∧ (∀ (a : Fin 32) (s : State) (t : TaskRun), Ready [a] s → s.cx.task = some t → t.sealing = some (sget s.cx a) →
      (replayPkt t.packet = true ∨ servesShard s (sget s.cx a) = false ∨ ∃ r, recOf s (sget s.cx a) = some r ∧ r.st = .replica) →
      exec (.tseal a) s = .next (complete (boundaryDone (addActs (fun x => { x with seals := x.seals ++ [sget s.cx a] })
        (dropBuffer (sget s.cx a) t (noteRings (sget s.cx a) t s))))))
  ∧ (∀ (a : Fin 32) (wait : Bool) (s : State) (t : TaskRun) (r : VRec),
      let h := sget s.cx a
      Ready [a] s → s.cx.task = some t → t.kind ≠ .recovery → servesShard s h = true → recOf s h = some r →
      (r.st = .replica → exec (.trepl a wait) s = .next (complete s))
      ∧ (r.st = .sealed → wait = false → s.cx.fl.wait = .none →
          exec (.trepl a wait) s = .next (complete (settle (requestReplica h s))))
      ∧ (r.st = .pending → exec (.trepl a wait) s = .next (finish s (sealFault h s))))
  ∧ (∀ (a : Fin 32) (rel : Bool) (s : State) (t : TaskRun) (r : VRec),
      let h := sget s.cx a
      Ready [a] s → s.cx.task = some t → t.kind ≠ .recovery → servesShard s h = true → recOf s h = some r →
      let held := settle (updRec h (fun r => { r with hold := if rel then r.hold - 1 else r.hold + 1 }) s)
      ((if rel then 0 < r.hold else r.hold < 65535) → exec (.tpin a rel) s = .next (complete held))
      ∧ ((if rel then r.hold = 0 else 65535 ≤ r.hold) → exec (.tpin a rel) s = .next (finish s (sealFault h s))))

/-- TSTAT gives the status of a task or the control word of a version; TYIELD goes on where no better task waits, and otherwise asks to give
its core away; TEXIT ends the task once it has no pending version, its successors signalled in order (R327 to R329). -/
def Sys2Proof.Parts.StatusAndLeaving : Prop :=
  (∀ (a b : Fin 32) (s : State), Ready [b] s →
      (bits (sget s.cx b) 63 54 = s.dev.val → exec (.tstat a b true) s = .next (complete (wr s a (taskStat s (sget s.cx b)))))
      ∧ (servesShard s (sget s.cx b) = true → exec (.tstat a b false) s = .next (complete (wr s a
          (match recOf s (sget s.cx b) with | some r => ctrlWord s r | none => 0)))))
  ∧ (∀ (s : State) (t : TaskRun), s.cx.task = some t →
      (freeSaveSlots s = 0 ∨ betterTask s s.me (prioOf t.packet) = false → exec .tyield s = .next (complete s))
      ∧ (freeSaveSlots s ≠ 0 → betterTask s s.me (prioOf t.packet) = true →
          exec .tyield s = .next (requestLeave s.me (complete s))))
  ∧ (∀ (s : State) (t : TaskRun), s.cx.task = some t → t.exiting = none → t.kind ≠ .recovery →
      (pendingOf s t).isEmpty = true → unpublished true s = none → partnerLoc s t = none →
      let hs := exitSuccs s t
      let s1 := leaveGraph t hs (takeSuccs t s)
      (hs = [] → exec .texit s = .next (feed (settle (taskEnded t none 0 (dropRun (.bank s1.me true) s1)))))
      ∧ (∀ u, signalRest t hs s1 = .left u → exec .texit s = .next u))
  ∧ (∀ (t : TaskRun) (h : W64) (r : List W64) (s s1 : State), bits h 63 54 = s.dev.val → signalHere h s = some s1 →
      signalRest t (h :: r) s = signalRest t r (settled (updTask (fun t => { t with exiting := some r }) s1)))
  ∧ (∀ (s : State) (t : TaskRun), s.cx.task = some t → t.exiting = none → t.kind ≠ .recovery →
      (pendingOf s t).isEmpty = false → exec .texit s = .next (finish s (sealFault 0 s)))

/-! ## The system words (R355 to R363) -/

/-- A system word is PRIVILEGE in user mode and ILLEGAL in a replayable task, with none of its effect (R169, R355). -/
def Sys2Proof.Parts.SystemGuards : Prop :=
  ∀ (a b c : Fin 32) (n : BitVec 8) (f g : Bool) (i : Instr) (s : State),
    i ∈ [.sret, .ctxsave a b, .ctxload a b, .tlbinv a b c f g, .asidbind a b, .asidret a, .keyld a b, .keyinv a, .quar a f, .pwrcap a b,
      .idle, .mcack, .smovc a n, .smovcr a n, .artset a b, .linkkey a b] →
    (s.cx.pr.priv = false → exec i s = .next (finish s (.trap cPRIVILEGE s.cx.pc 0 s)))
    ∧ (s.cx.pr.priv = true → replayable s = true → exec i s = .next (finish s (illegal s.cx.pc s)))

/-- SMOVC and SMOVCR reach every assigned number (R331, R356): privileged registers by their own rules, user registers as MOVC and MOVCR
do; a write to a read-only register is ignored, and an unassigned number is ILLEGAL. -/
def Sys2Proof.Parts.PrivilegedRegisters : Prop :=
  (∀ (a : Fin 32) (n : BitVec 8) (s s1 : State), Ready [a] s → s.cx.pr.priv = true → replayable s = false → 0x80 ≤ n.toNat →
      writePriv n.toNat (sget s.cx a) s = some s1 → exec (.smovc a n) s = .next (complete s1))
  ∧ (∀ (a : Fin 32) (n : BitVec 8) (s s1 : State), Ready [a] s → s.cx.pr.priv = true → replayable s = false → n.toNat < 0x80 →
      regPending 2 s = false → writeUser n.toNat (sget s.cx a) s = some (some s1) → exec (.smovc a n) s = .next (complete s1))
  ∧ (∀ (d : Fin 32) (n : BitVec 8) (s : State) (v : W64), s.cx.pr.priv = true → replayable s = false → 0x80 ≤ n.toNat →
      readPriv n.toNat s = some v → exec (.smovcr d n) s = .next (complete (wr s d v)))
  ∧ (∀ (d : Fin 32) (n : BitVec 8) (s s1 : State) (v : W64), s.cx.pr.priv = true → replayable s = false → n.toNat < 0x80 →
      regPending n.toNat s = false → readUser n.toNat s = some (v, s1) → exec (.smovcr d n) s = .next (complete (wr s1 d v)))
  ∧ (∀ (a d : Fin 32) (n : BitVec 8) (s : State), Ready [a] s → s.cx.pr.priv = true → replayable s = false → 0x90 ≤ n.toNat →
      exec (.smovc a n) s = .next (finish s (illegal s.cx.pc s)) ∧ exec (.smovcr d n) s = .next (finish s (illegal s.cx.pc s)))
  ∧ (∀ (n : Nat) (v : W64) (s : State), n ∈ [0x80, 0x82, 0x84, 0x85, 0x86, 0x8A, 0x8E, 0x8F] → writePriv n v s = some s)
  ∧ (∀ (n : Nat) (v : W64) (s t : State), n ∈ [0x83, 0x88, 0x89, 0x8D] → writePriv n v s = some t → readPriv n t = some v)

/-- Saving and loading of context images completes (R357): CTXSAVE gives 0 where there is nothing to save and else writes the image and
frees the standby bank, the lease that its context kept first, CTXLOAD gives 1 where the standby bank is in use or out of service (log
109) and 2 where the slot holds no image, and else puts the image's context into the bank, to be selected. -/
def Sys2Proof.Parts.ContextImages : Prop :=
  ∀ (a b : Fin 32) (s s1 : State) (pa : Nat), Ready [b] s → s.cx.pr.priv = true → replayable s = false →
    (imageSlot (sget s.cx b) .wr s = .ok pa s1 →
      (s1.co.standby = none → exec (.ctxsave a b) s = .next (complete (wr s1 a 0)))
      ∧ (∀ c t, s1.co.standby = some c → c.task = some t → t.started = none →
          exec (.ctxsave a b) s = .next (complete (wr (unloadStandby s1.me s1) a 0)))
      ∧ (∀ c d, s1.co.standby = some c → (∀ t, c.task = some t → t.started.isSome = true) →
          let u := leaveLease s1.me c false s1
          u.co.standby = some d →
          let r := takeFree (writeImage u { d with task := d.task.map fun t => { t with preload := false } } s1.me pa true).2
          ∃ len : Nat, 2 ≤ len ∧ len ≤ 2 ^ 22 ∧ exec (.ctxsave a b) s
            = .next (complete (wr { r.2 with co := { r.2.co with standby := none } } a (BitVec.ofNat 64 len)))))
    ∧ (imageSlot (sget s.cx b) .rd s = .ok pa s1 →
      ((s1.co.standby.isSome = true ∨ bankOut s1 s1.me (!s1.co.bank) = true) → exec (.ctxload a b) s = .next (complete (wr s1 a 1)))
      ∧ (s1.co.standby = none → bankOut s1 s1.me (!s1.co.bank) = false → s1.dist.images.find? (·.addr == pa) = none → exec (.ctxload a b) s = .next (complete (wr s1 a 2)))
      ∧ (∀ i, s1.co.standby = none → bankOut s1 s1.me (!s1.co.bank) = false → s1.dist.images.find? (·.addr == pa) = some i →
          let p := purgeWaiting (fun w => w.image != some i.id) s1
          versionKnown p i.addr = true → imageReadable p i.id = true → asidBound p i.ctx.pr.asid = true → restorable i.ctx p = true →
          let q := { p with dist := { p.dist with images := p.dist.images.filter (·.id != i.id) } }
          let r := reissue (deliverAll i.ctx) (putSpad q.me i.spad (ctxSpad i.ctx) q)
          let c := refresh { r.1 with task := (r.1.task.map fun t => { t with preload := true }) } r.2.mem
          exec (.ctxload a b) s = .next (complete (wr { r.2 with co := { r.2.co with standby := some c } } a 0))))

/-- Translation and ASIDs (R358, R362, R416, R420, R421): TLBINV drops the cached translations of its range, ASIDBIND binds what its
descriptor gives, ASIDRET retires; a bound, an unbound or a used ASID is ASID_STATE. -/
def Sys2Proof.Parts.TranslationWords : Prop :=
  (∀ (a b c : Fin 32) (all pod : Bool) (s : State),
      let range := if all then none else some ((sget s.cx b).toNat, (sget s.cx c).toNat)
      let asid : BitVec 16 := (sget s.cx a).setWidth 16
      let t := dropTlb asid range s
      Ready [a, b, c] s → s.cx.pr.priv = true → replayable s = false → (sget s.cx a).toNat < 2 ^ 16 →
      (all = true ∨ ((sget s.cx c).toNat ≠ 0 ∧ (sget s.cx b).toNat + (sget s.cx c).toNat ≤ 2 ^ 52)) →
      s.cx.fl.wait = .none → farAccess t asid = false → (∀ e, bindOf s.xl asid = some e → pod = false ∨ holders t e = []) →
      exec (.tlbinv a b c all pod) s = .next (complete t))
  ∧ (∀ (asid : BitVec 16) (range : Option (Nat × Nat)) (s : State),
      (∀ e ∈ (dropTlb asid range s).xl.tlb, e ∈ s.xl.tlb)
      ∧ (∀ e ∈ (dropTlb asid none s).xl.tlb, e.asid ≠ asid) ∧ (∀ p ∈ (dropTlb asid none s).xl.ptrs, p.asid ≠ asid)
      ∧ (∀ e ∈ s.xl.tlb, e.asid ≠ asid → e ∈ (dropTlb asid range s).xl.tlb)
      ∧ (∀ e ∈ s.xl.tlb, ∀ va n, e.asid = asid → 0 < n → e.page * 2 ^ 16 ≤ va → va < (e.page + e.pages) * 2 ^ 16 →
          e ∉ (dropTlb asid (some (va, n)) s).xl.tlb))
  ∧ (∀ (a b : Fin 32) (s s1 s2 : State) (bs ms : List Byte),
      let asid : BitVec 16 := (sget s.cx a).setWidth 16
      let root := (winWord bs 0).toNat
      let hm := winWord bs 2
      Ready [a, b] s → s.cx.pr.priv = true → replayable s = false → asid ≠ 0 → windowBytes (sget s.cx b) 32 false s = .ok bs s1 →
      root < 2 ^ 44 → (winWord bs 1).toNat < 2 ^ 52 → bits hm 62 52 = 0 → winWord bs 3 = 0 → root % 8192 = 0 →
      (inHbm s1.mem.partU root || inHbmP s1.mem.partU root) = true →
      windowBytes (BitVec.ofNat 64 (bits hm 51 0)) 128 false s1 = .ok ms s2 →
      (bindOf s2.xl asid = none →
        let e : AsidEnt := ⟨asid, false, root, BitVec.ofNat 1024 (natOf ms), winWord bs 1, hm.getLsbD 63, [], 0⟩
        exec (.asidbind a b) s = .next (complete { s2 with xl := { s2.xl with asids := e :: s2.xl.asids } }))
      ∧ ((bindOf s2.xl asid).isSome = true → exec (.asidbind a b) s = .next (finish s (.trap cASID s2.cx.pc 0 s2))))
  ∧ (∀ (a : Fin 32) (s : State) (e : AsidEnt),
      let asid : BitVec 16 := (sget s.cx a).setWidth 16
      Ready [a] s → s.cx.pr.priv = true → replayable s = false → asid ≠ 0 →
      (bindOf s.xl asid = none → exec (.asidret a) s = .next (finish s (.trap cASID s.cx.pc 0 s)))
      ∧ (bindOf s.xl asid = some e → (banks s).any (fun b => b.2.2.pr.asid == asid) = true →
          exec (.asidret a) s = .next (finish s (.trap cASID s.cx.pc 0 s)))
      ∧ (bindOf s.xl asid = some e → (banks s).any (fun b => b.2.2.pr.asid == asid) = false → e.retiring = false →
          (holders s e = [] ∨ chanUp s 6 = true) → exec (.asidret a) s = .next (complete (retireAsid asid s))))

/-- Keys and ownership (R363, R404, R412, R417): KEYLD takes a key and zeroes its source, KEYINV drops one, ARTSET replaces an entry of the
ownership table, LINKKEY loads a station's next key. -/
def Sys2Proof.Parts.KeysAndOwnership : Prop :=
  (∀ (a b : Fin 32) (s s1 : State) (bs : List Byte), Ready [a, b] s → s.cx.pr.priv = true → replayable s = false →
      (sget s.cx a).toNat < 1024 → assoc s.xl.keys (sget s.cx a).toNat = none → windowBytes (sget s.cx b) 64 true s = .ok bs s1 →
      exec (.keyld a b) s = .next (complete { s1 with
        xl := { s1.xl with keys := ((sget s.cx a).toNat, BitVec.ofNat 512 (natOf bs)) :: s1.xl.keys }
        mem := s1.mem.write none (spadBase s1.me + (sget s.cx b).toNat) (List.replicate 64 0) }))
  ∧ (∀ (a b : Fin 32) (s : State), Ready [a, b] s → s.cx.pr.priv = true → replayable s = false →
      (1024 ≤ (sget s.cx a).toNat ∨ (assoc s.xl.keys (sget s.cx a).toNat).isSome = true) →
      exec (.keyld a b) s = .next (finish s (illegal s.cx.pc s)))
  ∧ (∀ (a : Fin 32) (s : State), Ready [a] s → s.cx.pr.priv = true → replayable s = false →
      exec (.keyinv a) s
        = .next (complete { s with xl := { s.xl with keys := s.xl.keys.filter (·.1 != bits (sget s.cx a) 9 0) } }))
  ∧ (∀ (a b : Fin 32) (s s1 : State) (bs : List Byte),
      let ix := (sget s.cx a).toNat
      let x := winWord bs 0
      let y := winWord bs 1
      let e : ArtEnt := ⟨ix, bits x 51 16, bits y 51 16, x.setWidth 16, Fin.ofNat 1024 (bits y 63 54)⟩
      Ready [a, b] s → s.cx.pr.priv = true → replayable s = false → ix < 4096 → windowBytes (sget s.cx b) 16 false s = .ok bs s1 →
      bits x 62 52 = 0 → bits y 53 52 = 0 → bits y 15 0 = 0 → bits x 51 16 ≤ bits y 51 16 → 0x20 ≤ bits x 51 16 →
      let art := if x.getLsbD 63 then artInsert e s1.xl.art else s1.xl.art.filter (·.ix != ix)
      exec (.artset a b) s = .next (complete { s1 with xl := { s1.xl with art := art } }))
  ∧ (∀ (a b : Fin 32) (s s1 : State) (bs : List Byte) (t : Station),
      let x := (sget s.cx a).toNat
      let k : BitVec 256 := BitVec.ofNat 256 (natOf bs)
      Ready [a, b] s → s.cx.pr.priv = true → replayable s = false → x < 64 → x % 32 < 24 →
      windowBytes (sget s.cx b) 32 false s = .ok bs s1 → s1.fab.st[x % 32]? = some t →
      let st := s1.fab.st.set! (x % 32) (if x < 32 then nextSend k t else nextReceive k t)
      exec (.linkkey a b) s = .next (complete (retryFrozen { s1 with fab := { s1.fab with st := st } })))

/-- Units, power and waiting (R359 to R361): QUAR quarantines or releases its unit, PWRCAP sets the cap and the external step of every die,
IDLE goes on at once where something ends it and else waits, MCACK takes the oldest record of the die's machine-check queue away. -/
def Sys2Proof.Parts.UnitsPowerIdle : Prop :=
  (∀ (a : Fin 32) (rel : Bool) (s : State),
      let u : BitVec 16 := (sget s.cx a).setWidth 16
      let t := event 1 3 u (if rel then 1 else 0) 0 (complete s)
      Ready [a] s → s.cx.pr.priv = true → replayable s = false → unitOk u = true →
      exec (.quar a rel) s = .next (if rel then unquarantine u t else quarantine u t))
  ∧ (∀ (a b : Fin 32) (s : State), Ready [a, b] s → s.cx.pr.priv = true → replayable s = false → (sget s.cx b).toNat < 8 →
      ∃ t, exec (.pwrcap a b) s = .next t
        ∧ bits t.mmio.pwrcfg 47 32 = clampCap (bits (sget s.cx a) 15 0) % 2 ^ 16
        ∧ bits t.mmio.pwrcfg 21 16 = bits s.mmio.pwrcfg 21 16 ∧ bits t.mmio.pwrcfg 7 0 = bits s.mmio.pwrcfg 7 0
        ∧ (∀ d : Fin 4, t.pow[d] = { s.pow[d] with ext := (sget s.cx b).toNat }) ∧ t.cx.pc = s.cx.npc ∧ t.mem = s.mem
        ∧ SameS [] s t ∧ SamePriv s t ∧ SameControl s t ∧ SameVector s t)
  ∧ (∀ s : State, s.cx.pr.priv = true → replayable s = false →
      (idleOver s = true → exec .idle s = .next (complete s))
      ∧ (idleOver s = false → ∃ t, exec .idle s = .next t ∧ t.cx.fl.wait = .idle ∧ t.cx.pc = s.cx.pc ∧ t.cx.retired = s.cx.retired))
  ∧ (∀ s : State, s.cx.pr.priv = true → replayable s = false → s.me < 384 →
      ∃ t, exec .mcack s = .next t ∧ t.cx.pc = s.cx.npc ∧ SameS [] s t ∧ t.mem = s.mem
        ∧ (∀ d : Fin 4, t.mcq[d].recs = if d.val = dieOf s.me then s.mcq[d].recs.drop 1 else s.mcq[d].recs))

/-! ## Events of a core (R11, R23, R26 to R28, R87, R95, R192, R311, R315, R331 to R354) -/

/-- What arrives for a core, and what its waits come to (R23, R27, R95, R192, R301, R311, R315, R333): an answer reaches the registers of the word
that asked, a stream fetches an element ahead, a page fault takes its answer, banks exchange places, and a starved CWAIT faults. -/
def Sys2Proof.Parts.CoreAnswers : Prop :=
  (∀ (core k : Nat), (∀ s : State, s.now = some (.loadResponse core k) → exec .loadResponse s = .next (answered core k s))
    ∧ (∀ s : State, s.now = some (.atomicResponse core k) → exec .atomicResponse s = .next (answered core k s)))
  ∧ (∀ (s : State) (k : Nat) (l : OutLoad), s.co.standby = none → s.cx.fl.loads.find? (fun l => l.tag == k && !isOpk l.ins) = some l →
      answered s.me k s = { s with cx := deliverLoad l s.cx })
  ∧ (∀ (core : Nat) (q : Fin 8) (s : State), s.now = some (.streamDelivery core q) →
      exec .streamDelivery s = .next (onCore core (fetchAhead q) s))
  ∧ (∀ (q : Fin 8) (b : Stream) (s t : State) (x : Row), s.cx.streams[q] = some b → (b.kind = .scalar ∨ b.kind = .row) →
      b.fetched < b.count → b.buf.length < bufferSize b.kind → fetchElem q b s = .ok x t →
      fetchAhead q s = setStream q (some { b with fetched := b.fetched + 1, buf := b.buf ++ [x], part := [] }) t)
  ∧ (∀ (uid : Nat) (a : FaultAns) (s : State), s.now = some (.faultAnswer uid a) → exec .faultAnswer s = .next (answerFault uid a s))
  ∧ (∀ (core : Nat) (s : State), s.now = some (.faultSwitchBackTimeout core) → exec .faultSwitchBackTimeout s = .next (onCore core switchBack s))
  ∧ (∀ (core : Nat) (s : State), s.now = some (.waitBankSwitch core) → let u := focus core s
      (yieldsNow u = true → exec .waitBankSwitch s = .next (focus s.me (pageSwitch u.me u)))
      ∧ (yieldsNow u = false → exec .waitBankSwitch s = .next (focus s.me u)))
  ∧ (∀ s : State, switchable s.cx = true → waitOver s s.cx = false → quiet s = true →
      (∀ h : W64, (s.cx.fl.wait = .treadv h ∨ s.cx.fl.wait = .trepl h) → (yieldsNow s = true ↔ s.cx.fl.waitSince + micros 10 ≤ s.clock))
      ∧ (∀ g n : Nat, s.cx.fl.wait = .cwait g n → (yieldsNow s = true ↔ s.cx.fl.waitSince + micros 10 ≤ s.clock))
      ∧ (∀ (h : W64) (t : TaskRun), s.cx.fl.wait = .early h → s.cx.task = some t →
          (yieldsNow s = true ↔ t.exiting.isSome = true ∧ s.cx.fl.waitSince ≤ s.clock)))
  ∧ (∀ s : State, switchBack s = if backDue s = true ∧ quiet s = true then pageSwitch s.me s else s)
  ∧ (∀ (core : Nat) (e : QEntry) (a b : Fin 32) (m : Member) (s : State), s.now = some (.cwaitStarvedTimeout core) →
      let u := focus core s
      u.cx.fl.pend.find? (fun e => holdsControl e.ins && !e.retained) = some e → e.ins = .cwait a b →
      memberOf u (groupOf e a) = some m → m.frozen = true → m.starved = true → m.frozenAt + micros 50 ≤ u.clock →
      exec .cwaitStarvedTimeout s = .next (focus s.me (settleEntry e (starved u, e.done))))

/-- Barriers (R11, R87, R90): the last arrival completes the BAR of every participant that waits, with its snapshot dropped; a timeout gives
the waiting participants of a barrier at .die, .pkg or .pod a QUEUE fault, and one at .quad none; a timeout has no effect before its time. -/
def Sys2Proof.Parts.BarrierEvents : Prop :=
  (∀ k : Nat, (∀ s : State, s.now = some (.barrierComplete k) → exec .barrierComplete s = .next (completeBarrier k s))
    ∧ (∀ s : State, s.now = some (.barrierTimeout k) → exec .barrierTimeout s = .next (timeoutBarrier k s)))
  ∧ (∀ (k : Nat) (b : Barrier) (s : State), s.dist.barriers.find? (·.k == k) = some b → b.members.all b.arrived.contains = true →
      completeBarrier k s = (waitersOf s k).foldl (fun u l => updLoc l (fun c =>
        { refresh c s.mem with pc := c.npc, retired := c.retired + 1, fl := { (refresh c s.mem).fl with wait := .none } }) u)
        { s with dist := { s.dist with barriers := s.dist.barriers.filter (·.k != k) } })
  ∧ (∀ (k : Nat) (b : Barrier) (s : State), s.dist.barriers.find? (·.k == k) = some b → b.members.all b.arrived.contains = false →
      completeBarrier k s = s)
  ∧ (∀ (k : Nat) (b : Barrier) (s : State), s.dist.barriers.find? (·.k == k) = some b → b.scope = .quad ∨ s.clock < b.since + micros s.dist.barrierMicros →
      timeoutBarrier k s = s)
  ∧ (∀ (k n : Nat) (b : Barrier) (s : State), s.dist.barriers.find? (·.k == k) = some b → b.scope = .die ∨ b.scope = .pkg ∨ b.scope = .pod →
      b.since + micros s.dist.barrierMicros ≤ s.clock → waitersOf s k = [.bank n true] →
      timeoutBarrier k s = onCore n (fun u => startTrap { cause := cQUEUE, taddr := u.cx.pc, tepc := u.cx.pc, tnpc := u.cx.pc } u)
        { s with dist := { s.dist with barriers := s.dist.barriers.map fun x => if x.k = k then { x with since := s.clock } else x } })

/-- Traps, interrupts and waking (R331, R336, R338, R361): a drained trap is entered, an interrupt that is pending and enabled outside a handler
stops the routing, and is entered as a trap of cause 0 once what was routed has completed, TIMER's expiry sets its pending bit, and an IDLE that something ends completes. -/
def Sys2Proof.Parts.TrapAndInterruptEvents : Prop :=
  (∀ (core : Nat) (s : State), s.now = some (.trapEntry core) → exec .trapEntry s = .next (onCore core trapNow s))
  ∧ (∀ (s : State) (t : TrapInfo) (r : TaskRun), s.cx.fl.drain = some t → s.cx.task = some r → partnerLoc s r = none → s.cx.fl.pf = none →
      trapNow s = if drained s then enterTrap s else s)
  ∧ (∀ (core : Nat) (s : State), s.now = some (.asyncInterrupt core) →
      exec .asyncInterrupt s = .next (focus s.me (if interruptible (focus core s) then startInterrupt (focus core s) else focus core s)))
  ∧ (∀ s : State, (startInterrupt s).cx.fl.drain
      = some { cause := 0, taddr := 0, tepc := (withdrawWait none s).cx.pc, tnpc := (withdrawWait none s).cx.pc })
  ∧ (∀ (s s' : State), s.cx.fl.drain = some { cause := 0, taddr := 0, tepc := s.cx.pc, tnpc := s.cx.pc } → s.cx.pr.intrap = false →
      s.cx.pr.tvec ≠ 0 → checkHandler s = .ok () s' → s'.cx = s.cx →
      let u := enterTrap s
      u.cx.pr.tcause = tcauseWord 0 s.cx.pr.priv 0 0 ∧ u.cx.pr.tepc = s.cx.pc ∧ u.cx.pr.tnpc = s.cx.pc ∧ u.cx.pr.taddr = 0
      ∧ u.cx.pr.tinfo = 0 ∧ u.cx.pr.tret = 0 ∧ u.cx.pr.intrap = true ∧ u.cx.pr.priv = true ∧ u.cx.pc = s.cx.pr.tvec
      ∧ u.cx.pr.intpend = s.cx.pr.intpend ∧ u.cx.pr.intmask = s.cx.pr.intmask ∧ u.cx.s = s.cx.s ∧ SameVector s u ∧ SameControl s u)
  ∧ (∀ (core : Nat) (s : State), s.now = some (.timerExpiry core) → let u := focus core s
      (u.cx.pr.expired = true → exec .timerExpiry s
        = .next (focus s.me (updPriv (fun p => { p with expired := false, intpend := p.intpend ||| 1 }) u)))
      ∧ (u.cx.pr.expired = false → exec .timerExpiry s = .next (focus s.me u)))
  ∧ (∀ (core : Nat) (s : State), s.now = some (.idleWake core) → let u := focus core s
      (u.cx.fl.wait = .idle → idleOver u = true → exec .idleWake s = .next (focus s.me (complete u)))
      ∧ (idleOver u = false → exec .idleWake s = .next (focus s.me u)))
  -- the core that moves is in focus already
  ∧ (∀ s : State, focus s.me s = s)

/-- Pre-emption, restore and machine checks (R340 to R344, R354): a requested pre-emption saves its core's task, a core that selects an image
restores it, and a machine check queues a record and sets INTPEND.MCHK. -/
def Sys2Proof.Parts.PreemptionAndMachineChecks : Prop :=
  (∀ (core : Nat) (s : State), s.now = some (.preEmption core) → haltable (dropRequest core s) core = true →
      exec .preEmption s = .next (preemptCore core (dropRequest core s)))
  ∧ (∀ (core : Nat) (s : State), s.now = some (.preEmption core) → haltable (dropRequest core s) core = false →
      exec .preEmption s = .next (dropRequest core s))
  ∧ (∀ (core img : Nat) (ok : Bool) (s : State), s.now = some (.contextRestore core img ok) →
      exec .contextRestore s = .next (restoreEvent core img ok s))
  ∧ (∀ (u : BitVec 16) (kind : BitVec 8), (∀ s : State, s.now = some (.machineCheck u kind) → unitOk u = true →
      exec .machineCheck s = .next (machineCheckAt u kind s))
      ∧ (∀ s : State, s.now = some (.machineCheck u kind) → unitOk u = false → exec .machineCheck s = .next s))
  ∧ (∀ (u : BitVec 16) (count : Nat) (kind : BitVec 8), bits (mcRecord u count kind) 63 48 = u.toNat
      ∧ bits (mcRecord u count kind) 47 32 = Nat.min count 0xFFFF ∧ bits (mcRecord u count kind) 31 24 = kind.toNat
      ∧ bits (mcRecord u count kind) 23 0 = 0)
  -- the task goes into an image and back to the owner end of the deque, or into the die pool (R328, R340, R359)
  ∧ (∀ (core : Nat) (w : Waiting) (s u : State), saveOff (.bank core true) s = some (w, u) →
      (∃ (t : TaskRun) (id : Nat), (coreOf s core).1.task = some t ∧ w = waitingOf t (some id))
      ∧ ((coreOf s core).1.task.bind (partnerLoc u) = none →
        preemptCore core s = if ((coreOf s core).2.toPool || coreOut u core) = true then pushPool (dieOf core) { w := w } u else pushDeque core w u))

/-! ## Events of scheduling and power (R26, R34, R35, R41, R112 to R134, R317, R431) -/

/-- Selection, preloading, dispatchers and the walker (R26, R34, R41, R112, R118, R126, R127, R317). A free core takes the first candidate in the
order of R126 that fits, one of the highest priority; the standby bank is filled from the owner end of the deque; a report gives the free entries and
the highest waiting priority, and moves a task that another die's free core lacks; a task that has waited 100 µs goes to its die pool; a ready
task of higher priority asks a running one to give way; the walker puts at most 64 iterations of a record into the queue. -/
def Sys2Proof.Parts.SchedulingEvents : Prop :=
  (∀ core : Nat, (∀ s : State, s.now = some (.taskSelection core) → exec .taskSelection s = .next (selectTask core s))
    ∧ (∀ s : State, s.now = some (.preload core) → exec .preload s = .next (preloadTask core s)))
  ∧ (∀ (d : Fin 4) (s : State), s.now = some (.dispatcherReport d) → exec .dispatcherReport s = .next (report d.val s))
  ∧ (∀ h : W64, (∀ s : State, s.now = some (.ageing h) → exec .ageing s = .next (ageTask h s))
      ∧ (∀ s : State, s.now = some (.priorityPreemptionRequest h) → exec .priorityPreemptionRequest s = .next (preemptFor h s)))
  ∧ (∀ (n : Nat) (s : State), s.now = some (.loopNestWalk n) → exec .loopNestWalk s = .next (walkTurn n s))
  ∧ (∀ (src : Fin 1024) (tag : Nat) (h : W64) (t : State) (s : State), s.now = some (.signalArrival src tag h) →
      (bits h 63 54 = s.dev.val ∧ signalHere h s = some t) →
      exec .signalArrival s = .next ((if tag = 0 then t else send (.answer src.val tag .held) t)))
  ∧ (∀ (src : Fin 1024) (tag : Nat) (h : W64) (s : State), s.now = some (.signalArrival src tag h) → (bits h 63 54 = s.dev.val
      ∧ signalHere h s = none) → exec .signalArrival s = .next ({ s with held := s.held ++ [.signalArrival src tag h] }))
  ∧ (∀ (h : W64) (k : List W64) (b : Option FailRec) (s : State), s.now = some (.taskEnd h k b) → exec .signalArrival s = .next (slotDone h k b s))
  ∧ (∀ (src : Fin 1024) (tag : Nat) (p : List W64) (j : SpawnInfo) (x : Slot) (s : State), s.now = some (.remoteSpawn src tag p j) →
      (slotOf s (pktHandle p) = some x ∧ x.st = .reserved) →
      exec .remoteSpawn s = .next (send (.answer src.val tag .held) (publish (pktHandle p) p j none s)))
  ∧ (∀ (src : Fin 1024) (tag : Nat) (p : List W64) (j : SpawnInfo) (s : State), s.now = some (.remoteSpawn src tag p j) →
      slotOf s (pktHandle p) = none → exec .remoteSpawn s = .next (send (.answer src.val tag .refused) s))
  ∧ (∀ (c : Nat) (s : State) (t : TaskRun), (coreOf s c).1.task = some t → (coreOf s c).2.standby.isSome = true → preloadTask c s = s)
  -- selection
  ∧ (∀ (c : Nat) (s : State), (coreOf s c).1.task = none → (coreOf s c).2.gated = false → coreOut s c = false →
      (∀ d, (coreOf s c).2.standby = some d → preloaded d = true) →
      (∀ x, select s c = some x → selectTask c s = takeTask c x s) ∧ (select s c = none → selectTask c s = s))
  ∧ (∀ (c : Nat) (s : State) (x : Cand), select s c = some x →
      x ∈ candidates s c ∧ (∀ y ∈ candidates s c, prioW y.w ≤ prioW x.w) ∧ candFits s c x = true)
  ∧ (∀ (c : Nat) (s : State) (x : Cand), x.src ≠ .standby → (coreOf (takeCand c x s) c).2.standby = none → x.w.image = none →
      takeTask c x s = failUnbound c (startTask c x.w (takeCand c x s)))
  ∧ (∀ (c : Nat) (w : Waiting) (s : State), (coreOf (takeCand c ⟨.deque, w⟩ s) c).2.deque = dropFirst w (coreOf s c).2.deque)
  ∧ (∀ (c : Nat) (w : Waiting) (s : State), nextPreload c s = some w → w.image = none →
      (coreOf (preloadTask c s) c).2.standby = some (startCtx (takeCand c ⟨.deque, w⟩ s) w)
      ∧ (coreOf (preloadTask c s) c).2.deque = dropFirst w (coreOf s c).2.deque)
  -- the dispatchers' reports
  ∧ (∀ (d : Nat) (s : State), returnPinned d s = s → report d s = feed (balance d { s with dist := { s.dist with
      reports := s.dist.reports.set! d (4096 - ((s.dist.pools[d]?).getD []).length, topPrio (waitingOn s d)) } }))
  ∧ (∀ (d : Nat) (s : State), (∀ x ∈ waitPlaces s d, stealable x.2.w = true → betterDie s d x.2.w = none) → balance d s = s)
  ∧ (∀ (d k : Nat) (x : Option Nat × DqEntry) (s : State), (waitPlaces s d).filter (fun x => stealable x.2.w) = [x] →
      betterDie s d x.2.w = some k → balance d s = pushPool k x.2 (takeFrom d x s))
  -- ageing
  ∧ (∀ (h : W64) (s : State), (∀ n ∈ liveCores s, ∀ e ∈ (coreOf s n).2.deque, e.w.handle = h → aged s e.w = false) → ageTask h s = s)
  ∧ (∀ (h : W64) (n : Nat) (e : DqEntry) (s : State), liveCores s = [n] →
      (coreOf s n).2.deque.find? (fun e => e.w.handle == h && e.cust == .inDeque && aged s e.w) = some e →
      ageTask h s = pushPool (dieOf n) e
        (setCore s n ((coreOf s n).1, { (coreOf s n).2 with deque := dropFirst e.w (coreOf s n).2.deque })))
  -- pre-emption for priority
  ∧ (∀ (h : W64) (w : Waiting) (s : State), findWaiting s h = some (none, w) →
      (s.clock < w.since + 800 ∨ freeSaveSlots s = 0 ∨ (∃ n, n < 384 ∧ coreFree s n = true ∧ mayRun s n w = true)) → preemptFor h s = s)
  ∧ (∀ (h : W64) (n : Nat) (w : Waiting) (s : State), findWaiting s h = some (none, w) → w.since + 800 ≤ s.clock → freeSaveSlots s ≠ 0 →
      (∀ n, n < 384 → coreFree s n = true → mayRun s n w = false) → victimFor s none w = some n →
      (coreOf (requestPreempt n s) n).1.task.bind (partnerLoc (requestPreempt n s)) = none → preemptFor h s = requestPreempt n s)
  ∧ (∀ (k : Option Nat) (n : Nat) (w : Waiting) (s : State), victimFor s k w = some n → eligibleFor s n w = true
      ∧ ∃ (c : Ctx) (t : TaskRun), (n, true, c) ∈ banks s ∧ c.task = some t ∧ prioOf t.packet < prioW w)
  ∧ (∀ (n : Nat) (s : State), (coreOf (requestPreempt n s) n).2.preempt = true)
  -- the walker
  ∧ (∀ (k : Nat) (n : Nest) (s t : State), s.dist.nests.find? (·.slot == k) = some n → nestDone n = true →
      (closeNest k s = (true, t) → walkTurn k s = t)
      ∧ (closeNest k s = (false, t) → walkTurn k s = { t with held := t.held ++ [.loopNestWalk k] }))
  ∧ (∀ (k : Nat) (n : Nest) (s : State), s.dist.nests.find? (·.slot == k) = some n → nestDone n = false →
      (n.failed = true → walkTurn k s = s) ∧ (n.failed = false → walkFirst n s = n → walkTurn k s = issueTurn n s))
  ∧ (∀ (n : Nest) (x : Slot) (s : State), s.dist.slots.find? (·.num == n.slot) = some x →
      let k := Nat.min 64 (Nat.min (n.total - n.next) (4096 - n.live))
      let t := feed { s with dist := { s.dist with
        queue := s.dist.queue ++ (List.range k).map fun i => { readyTask s x with idx := nestIndices x.packet (n.next + i) }
        nests := s.dist.nests.map fun m => if m.slot = n.slot then { m with next := m.next + k, live := m.live + k } else m } }
      issueTurn n s = if n.next + k < n.total ∧ n.live + k < 4096 then raiseDue (.loopNestWalk n.slot) t else t)

/-- Steals (R114 to R117): the five messages and the timer of the custody protocol do what R115 says. The victim offers an entry of the highest
waiting priority and marks it; the thief keeps a copy and sends TAKE; before the timer the entry passes to ACKING and ACK is sent, after it the entry
is back and REFUSE is sent; ACK puts the copy into the thief's deque and ends the victim's custody, or, where the thief has no copy, it is
refused; REFUSE discards the copy. -/
def Sys2Proof.Parts.StealEvents : Prop :=
  (∀ (th : Thief) (v : Nat) (s : State), s.now = some (.stealRequest th v) → exec .stealRequest s = .next (offerSteal th v s))
  ∧ (∀ (core sid : Nat) (v : Thief) (w : Waiting), (∀ s : State, s.now = some (.offer core v sid w) →
      exec .offer s = .next (takeOffer core v sid w s))
      ∧ (∀ s : State, s.now = some (.ack core v sid) → exec .ack s = .next (ackArrives core v sid s))
      ∧ (∀ s : State, s.now = some (.refuse core v sid) → exec .refuse s = .next (refuseArrives core v sid s)))
  ∧ (∀ (th : Thief) (sid : Nat) (s : State), s.now = some (.take th sid) → exec .take s = .next (takeArrives th sid s))
  ∧ (∀ (sid : Nat) (e : DqEntry), (∀ s : State, s.now = some (.custodyTimeout sid) → (entryIn s (.offered sid) = some e
      ∧ e.at_ + micros 10 ≤ s.clock) → exec .custodyTimeout s = .next (dropSteal sid (reinstate (.offered sid) s)))
      ∧ (∀ s : State, s.now = some (.custodyTimeout sid) → (entryIn s (.offered sid) = some e ∧ s.clock < e.at_ + micros 10) →
      exec .custodyTimeout s = .next s))
  ∧ (∀ (core sid : Nat) (v : Thief) (w : Waiting) (s : State), (coreOf s core).2.gated = false → coreOut s core = false →
      takeOffer core v sid w s = stealMsg v (fun _ => .take (.core core) sid) [2, BitVec.ofNat 64 sid] (setCore s core ((coreOf s core).1,
        { (coreOf s core).2 with stolen := ⟨sid, v, w⟩ :: (coreOf s core).2.stolen })))
  ∧ (∀ (sid : Nat) (s : State) (th : Thief) (e : DqEntry), entryIn s (.offered sid) = some e → s.clock < e.at_ + micros 10 →
      takeArrives th sid s = stealMsg th (fun n => .ack n th sid) [3, BitVec.ofNat 64 sid]
        (mapEntries (fun l => l.map fun e => if e.cust = .offered sid then { e with cust := .acking sid } else e) s))
  ∧ (∀ (v : Nat) (th : Thief) (s : State) (e : DqEntry), offerOf s v = some e → stealable e.w = false → offerSteal th v s = s)
  ∧ (∀ (v : Nat) (s : State) (e : DqEntry), offerOf s v = some e → e ∈ (coreOf s v).2.deque ∧ e.cust = .inDeque
      ∧ ∀ d ∈ (coreOf s v).2.deque, d.cust = .inDeque → prioW d.w ≤ prioW e.w)
  ∧ (∀ (v n : Nat) (s : State) (e : DqEntry), offerOf s v = some e → mayOffer s (.core n) v e.w = true →
      (coreOf (offerSteal (.core n) v s) v).2.deque
        = (coreOf s v).2.deque.map (fun x => if x = e then { x with cust := .offered s.uid, at_ := s.clock } else x)
      ∧ (offerSteal (.core n) v s).dist.steals = (s.uid, .core n) :: s.dist.steals
      ∧ Event.offer n (.core v) s.uid e.w ∈ (offerSteal (.core n) v s).due)
  ∧ (∀ (v : Nat) (d : Fin 1024) (s : State) (e : DqEntry), offerOf s v = some e → mayOffer s (.dev d) v e.w = true →
      (offerSteal (.dev d) v s).dist.steals = (s.uid, .dev d) :: s.dist.steals)
  ∧ (∀ (core sid : Nat) (v : Thief) (x : Stolen) (s : State), (coreOf s core).2.stolen.find? (copyFrom · v sid) = some x →
      let t := pushDeque core x.w (setCore s core ((coreOf s core).1,
        { (coreOf s core).2 with stolen := (coreOf s core).2.stolen.filter (· != x) }))
      (∀ n, v = .core n → ackArrives core v sid s = settleSteal sid true t)
      ∧ (∀ d, v = .dev d → ackArrives core v sid s = if chanUp t 5 then send (.words 5 d.val [5, BitVec.ofNat 64 sid]) t else t))
  ∧ (∀ (core sid n : Nat) (s : State), (coreOf s core).2.stolen.find? (copyFrom · (.core n) sid) = none →
      (s.dist.steals.contains (sid, .core n) = true → ackArrives core (.core n) sid s = settleSteal sid false s)
      ∧ (s.dist.steals.contains (sid, .core n) = false → ackArrives core (.core n) sid s = raiseDue (.refuse n (.core n) sid) s))
  ∧ (∀ (sid : Nat) (s : State), settleSteal sid true s = mapEntries (fun l => l.filter (·.cust != .acking sid)) (dropSteal sid s)
      ∧ settleSteal sid false s = reinstate (.acking sid) (dropSteal sid s))
  ∧ (∀ (cu : Custody) (s : State), (∀ d : Nat, d < 4 → dieInService s d = true) → (reinstate cu s).co.deque
      = s.co.deque.filter (·.cust != cu) ++ (s.co.deque.filter (·.cust == cu)).map fun e => { e with cust := .inDeque })
  ∧ (∀ (core sid : Nat) (v : Thief) (s : State), (coreOf s core).2.stolen.any (copyFrom · v sid) = true →
      (coreOf (refuseArrives core v sid s) core).2.stolen = (coreOf s core).2.stolen.filter fun x => !copyFrom x v sid)
  ∧ (∀ (core sid n : Nat) (s : State), (coreOf s core).2.stolen.any (copyFrom · (.core n) sid) = false →
      refuseArrives core (.core n) sid s = s)
  ∧ (∀ (th : Thief) (sid : Nat) (s : State), entryIn s (.offered sid) = none → entryIn s (.acking sid) = none →
      takeArrives th sid s = stealMsg th (fun n => .refuse n th sid) [4, BitVec.ofNat 64 sid] s)

/-- Leases, the governor, budgets and thermal requests (R117, R123, R124, R128 to R134, R431): each event does what its rule says; the requests of a die stay between 0 and 7, and a sensor at
115 °C turns the device off. -/
def Sys2Proof.Parts.PowerEvents : Prop :=
  (∀ q : Nat, (∀ s : State, s.now = some (.leaseGrant q) → exec .leaseGrant s = .next (grantLease q s))
      ∧ (∀ s : State, s.now = some (.leaseExpiry q) → exec .leaseExpiry s = .next (expireLease q s)))
  ∧ (∀ s : State, s.now = some .governorInterval → exec .governorInterval s = .next (governor s))
      ∧ (∀ s : State, s.now = some .budgetCalculation → exec .budgetCalculation s = .next (budgets s))
  ∧ (∀ d : Fin 4, (∀ s : State, s.now = some (.budgetHoldTimeout d) → exec .budgetHoldTimeout s = .next (holdTimeout d.val s))
      ∧ (∀ s : State, s.now = some (.budgetStepLower d) → exec .budgetStepLower s = .next (stepLower d.val s)))
  ∧ (∀ (d : Fin 4) (t : BitVec 8), (∀ s : State, s.now = some (.thermalSample d t) →
      exec .thermalSample s = .next (thermal d.val t.toNat s))
      ∧ (∀ s : State, s.now = some (.thermalTrip d t) → 115 ≤ t.toNat → exec .thermalTrip s = .next (trip d.val t.toNat s))
      ∧ (∀ s : State, s.now = some (.thermalTrip d t) → t.toNat < 115 → exec .thermalTrip s = .next s))
  ∧ (∀ d : Fin 4, (∀ s : State, s.now = some (.thermalLower d) → 10 ≤ (powOf s d.val).cool →
      exec .thermalLower s = .next ((updPow d.val fun p => { p with thermal := p.thermal - 1, cool := 0 }) s))
      ∧ (∀ s : State, s.now = some (.thermalLower d) → (powOf s d.val).cool < 10 → exec .thermalLower s = .next s))
  ∧ (∀ (core : Nat) (g : Bool), (∀ s : State, s.now = some (.powerGating core g) → core < 384 →
      exec .powerGating s = .next (gateCore core g s))
      ∧ (∀ s : State, s.now = some (.powerGating core g) → 384 ≤ core → exec .powerGating s = .next s))
  ∧ (∀ (d : Fin 4) (t : Nat) (s : State), t < 115 → s.bob.phase < 5 ∨ s.bob.phase = 15 → thermal d.val t s = s)
  ∧ (∀ (d : Fin 4) (t : Nat) (s : State), t < 115 → 5 ≤ s.bob.phase → s.bob.phase ≠ 15 →
      (bits s.mmio.thermcfg 7 0 < t → (thermal d.val t s).pow[d].thermal = Nat.min 7 (s.pow[d].thermal + 1))
      ∧ (t ≤ bits s.mmio.thermcfg 7 0 → (thermal d.val t s).pow[d].thermal = s.pow[d].thermal)
      ∧ (t + bits s.mmio.thermcfg 15 8 < bits s.mmio.thermcfg 7 0 → (thermal d.val t s).pow[d].cool = s.pow[d].cool + 1)
      ∧ (bits s.mmio.thermcfg 7 0 ≤ t + bits s.mmio.thermcfg 15 8 → (thermal d.val t s).pow[d].cool = 0))
  ∧ (∀ (core : Nat) (s : State) (t : TaskRun), (coreOf s core).1.task = some t → gateCore core true s = s)
  ∧ (∀ (core : Nat) (s : State), (coreOf s core).1.task = none → (∀ d, (coreOf s core).2.standby = some d → preloaded d = true) →
      (coreOf (gateCore core true s) core).2.gated = true)
  -- the grant of an array, and the end of a lease
  ∧ (∀ (last : Nat) (l : List LeaseReq) (r : LeaseReq), chooseReq last l = some r → r ∈ l
      ∧ ((∃ x ∈ l, x.passed = true) → r.passed = true ∧ ∀ x ∈ l, x.passed = true → r.age ≤ x.age)
      ∧ ((∀ x ∈ l, x.passed = false) → ∀ x ∈ l, x.prio ≤ r.prio))
  ∧ (∀ (q : Nat) (s : State) (r : LeaseReq), q < 96 → (arrOf s q).holder = none → chooseReq (arrOf s q).last (leaseReqs s q) = some r →
      arrOf (grantLease q s) q = { arrOf s q with holder := some r.core, gang := r.gang, last := r.core }
      ∧ (quadOf s.me = q → s.cx.lease.waiting = true → s.cx.lease.gang = r.gang → s.cx.lease.age = r.age →
          let l := (grantLease q s).cx.lease
          l.held = true ∧ l.waiting = false ∧ l.mmas = 16 ∧ l.ends = Nat.max s.clock (arrOf s q).busy + 4096 ∧ l.holder = r.gang))
  ∧ (∀ (q : Nat) (s : State), (arrOf s q).holder.isSome = true → grantLease q s = s)
  ∧ (∀ (q : Nat) (s : State), leaseOver s q = false → expireLease q s = s)
  ∧ (∀ (q n : Nat) (s : State), q < 96 → quadOf n = q → (arrOf s q).holder = some n → leaseOver s q = true →
      (arrOf (expireLease q s) q).holder = none)
  -- the governor: what is held may gain and what is idle may lose, within the limit of an interval
  ∧ (∀ (n q : Nat) (s : State), q < 96 →
      (heldArray s q = false → arrOf (raiseTurn n s).2 q = arrOf s q) ∧ (tailing s q = false → arrOf (lowerTurn n s).2 q = arrOf s q)
      ∧ (raiseTurn n s).1 ≤ n ∧ (lowerTurn n s).1 ≤ n)
  ∧ (∀ s : State, (governor s).gov.up.length ≤ Nat.max (increments s) (lastMicro s s.gov.up).length
      ∧ (governor s).gov.down.length ≤ Nat.max (increments s) (lastMicro s s.gov.down).length)
  -- budgets
  ∧ (∀ (d : Fin 4) (s : State), (budgets s).pow[d].dbud = if dieGated s d.val then 0
      else (4 * bits s.mmio.pwrcfg 47 32 - Config.deductedPower s.free) / Nat.max 1 ((List.range 4).filter (!dieGated s ·)).length)
  ∧ (∀ (d : Fin 4) (s : State),
      let late := (s.pow[d]).heldAt.any fun x => heldLong s x && (heldTasks s d.val).contains (x.1, x.2.1)
      (holdTimeout d.val s).pow[d].budget = if late then Nat.min 7 ((s.pow[d]).budget + 1) else (s.pow[d]).budget)
  ∧ (∀ (d : Fin 4) (s : State),
      let low : DiePow := { s.pow[d] with budget := (s.pow[d]).budget - 1 }
      let fits := chargesAt s d.val (issueStep s low) + classWeight s 7 ≤ (s.pow[d]).dbud
      let t := (stepLower d.val s).pow[d]
      (0 < (s.pow[d]).budget → ((s.pow[d]).lowered = 0 ∨ (s.pow[d]).lowered + micros 100 ≤ s.clock) → fits →
        t.budget = (s.pow[d]).budget - 1 ∧ t.lowered = s.clock)
      ∧ (((s.pow[d]).budget = 0 ∨ ((s.pow[d]).lowered ≠ 0 ∧ s.clock < (s.pow[d]).lowered + micros 100) ∨ ¬ fits) →
        stepLower d.val s = s))

/-! ## Events of lineage and recovery (R44, R53 to R64, R72, R318, R320, R439, R444) -/

/-- The waits of 100 µs end in a fault at the word that waits, after the event of the exhausted resource (R53, R58, R72, R318, R320). -/
def Sys2Proof.Parts.WaitTimeouts : Prop :=
  (∀ (core : Nat) (s : State), s.now = some (.poolWaitTimeout core) → let u := focus core s
    (u.cx.fl.wait = .pool → u.cx.fl.waitSince + micros 100 ≤ u.clock → exec .poolWaitTimeout s
      = .next (focus s.me (startTrap { cause := cSEAL, taddr := u.cx.pc, tepc := u.cx.pc, tnpc := u.cx.pc } (lineageFull u))))
    ∧ ((u.cx.fl.wait ≠ .pool ∨ u.clock < u.cx.fl.waitSince + micros 100) → exec .poolWaitTimeout s = .next (focus s.me u)))
  ∧ (∀ (core : Nat) (s : State), s.now = some (.recordWaitTimeout core) → let u := focus core s
    (u.cx.fl.wait = .record → u.cx.fl.waitSince + micros 100 ≤ u.clock → exec .recordWaitTimeout s
      = .next (focus s.me (startTrap { cause := cSEAL, taddr := u.cx.pc, tepc := u.cx.pc, tnpc := u.cx.pc } (lineageFull u))))
    ∧ ((u.cx.fl.wait ≠ .record ∨ u.clock < u.cx.fl.waitSince + micros 100) → exec .recordWaitTimeout s = .next (focus s.me u)))
  ∧ (∀ (core : Nat) (s : State), s.now = some (.storageWaitTimeout core) → let u := focus core s
    (u.cx.fl.wait = .storage → u.cx.fl.waitSince + micros 100 ≤ u.clock → exec .storageWaitTimeout s
      = .next (focus s.me (startTrap { cause := cSEAL, taddr := u.cx.pc, tepc := u.cx.pc, tnpc := u.cx.pc } (event 6 2 wholeDevice 1 0 u))))
    ∧ ((u.cx.fl.wait ≠ .storage ∨ u.clock < u.cx.fl.waitSince + micros 100) → exec .storageWaitTimeout s = .next (focus s.me u)))
  ∧ (∀ (core : Nat) (s : State), s.now = some (.slotWaitTimeout core) → let u := focus core s
    (u.cx.fl.wait = .slot → u.cx.fl.waitSince + micros 100 ≤ u.clock → exec .slotWaitTimeout s
      = .next (focus s.me (startTrap { cause := cQUEUE, taddr := u.cx.pc, tepc := u.cx.pc, tnpc := u.cx.pc } (event 6 2 wholeDevice 0 0 u))))
    ∧ ((u.cx.fl.wait ≠ .slot ∨ u.clock < u.cx.fl.waitSince + micros 100) → exec .slotWaitTimeout s = .next (focus s.me u)))
  ∧ (∀ (tile : W64) (s : State), s.now = some (.recoveryStorageTimeout tile) →
      exec .recoveryStorageTimeout s = .next (recoveryStarved tile s))

/-- Replicas and the mirror (R44, R55, R56, R58, R59): retention replicates where few records are free, a written replica makes its version REPLICA,
a rebuilt primary too; the buddy's acknowledgement ends a wait, and without it the shard is unmirrored. -/
def Sys2Proof.Parts.ReplicaAndMirrorEvents : Prop :=
  (∀ s : State, s.now = some .retentionReplication → 2 ^ 24 ≤ 2 ^ 28 - 1 - recordsUsed s → exec .retentionReplication s = .next s)
  ∧ (∀ (r : VRec) (s : State), s.now = some .retentionReplication → (2 ^ 28 - 1 - recordsUsed s < 2 ^ 24 ∧ retained s = some r) →
      exec .retentionReplication s = .next (settle (startReplica r.tile s)))
  ∧ (∀ (tile : W64) (p : Option Place) (s : State), s.now = some (.replicaWritten tile p) →
      exec .replicaWritten s = .next (writeReplica tile p s))
  ∧ (∀ (tile : W64) (p : Place) (r : VRec) (s : State), recOf s tile = some r → r.st = .replicating → replicaPlace s ≠ 1 →
      buddyUp s = true → p.dev.val = buddyId s → p.ty = .hbmp →
      writeReplica tile (some p) s = settle (setVState tile .replica
        (updRec tile (fun r => { r with rep := some p, inputs := [], links := false, chain := [] }) s)))
  ∧ (∀ (tile : W64) (bs : List Byte) (s : State), s.now = some (.primaryRebuilt tile bs) →
      exec .primaryRebuilt s = .next (rebuildPrimary tile bs s))
  ∧ (∀ (src : Fin 1024) (ix : Nat) (d : BitVec 512) (s : State), s.now = some (.mirrorChange src ix d) →
      let l := s.lin.mirror.filter fun x => !(x.1 == src.val && x.2.1 == ix)
      exec .mirrorChange s = .next (send (.words 4 src.val [BitVec.ofNat 64 ix])
        (poolWrite (mirrorBase + 64 * ix) ((List.range 8).map (mirrorWord d))
          { s with lin := { s.lin with mirror := if d = 0 then l else (src.val, ix, d) :: l } })))
  ∧ (∀ (tile : W64) (s : State), s.now = some (.mirrorAck tile) → exec .mirrorAck s = .next (mirrorAcked tile s))
  ∧ (∀ (tile : W64) (m : MirSend) (s : State), s.lin.sent.find? (fun m => m.tile == tile && !m.acked) = some m →
      { m with acked := true } ∈ (mirrorAcked tile s).lin.sent)
  ∧ (∀ s : State, s.now = some .mirrorTimeout → mirrorLate s = false → exec .mirrorTimeout s = .next s)
  ∧ (∀ s : State, s.now = some .mirrorTimeout → mirrorLate s = true →
      exec .mirrorTimeout s = .next (event 3 2 wholeDevice (BitVec.ofNat 64 (buddyId s)) 0 { s with lin := { s.lin with unmirr := true, sent := [] } }))
  -- a change of records is not seen before the buddy has acknowledged it (R55)
  ∧ (∀ (b a : State) (later : State → State), mirroring b = true → mirroring a = true → changedImages b a ≠ [] →
      ((changedImages b a).all (ackedChange a) = false → mirrorGate b later a = later (sendChanges (changedImages b a) b))
      ∧ ((changedImages b a).all (ackedChange a) = true →
          mirrorGate b later a = backRecords (changedImages b a) { a with lin := { a.lin with
            sent := a.lin.sent.filter fun m => !(changedImages b a).any (·.1 == m.tile) } }))
  -- the lineage backing region holds the records that a step has changed (R430)
  ∧ (∀ (b a : State) (later : State → State), mirroring b = false → mirrorGate b later a = backRecords (changedImages b a) a)
  ∧ (∀ s : State, s.now = some .buddyCopyComplete → s.lin.copying = false → exec .buddyCopyComplete s = .next s)
  ∧ (∀ s : State, s.now = some .buddyCopyComplete → s.lin.copying = true → ∃ t, exec .buddyCopyComplete s = .next t
      ∧ t.lin.copying = false ∧ t.lin.unmirr = false ∧ t.lin.sent = [] ∧ t.lin.mirrored = imagesOf s ∧ t.lin.recs = s.lin.recs
      ∧ t.mem = s.mem ∧ t.cx = s.cx)

/-- Other shards and losses (R54, R61, R63, R64, R439, R444): a query is answered with the version's state, a seal from another device is recorded and
acknowledged, scrubbing counts what it finds, and the losses mark the versions that they meet. -/
def Sys2Proof.Parts.ShardAndLossEvents : Prop :=
  (∀ (src : Fin 1024) (tile : W64) (pool : Nat) (ox : Fin 16) (n : Nat) (pr : Fin 32) (pl : Place) (ins : List W64) (s : State), s.now = some (.recoverRequest src tile pool ox n pr pl ins) → exec .recoverRequest s = .next (recoverAsked ⟨src, tile, ox, n, pl, ins, pr⟩ pool s))
  ∧ (∀ (x : FarOut) (pool : Nat) (s : State), s.lin.pool.find? (·.ix == pool) = none →
      recoverAsked x pool s = send (.answer x.src.val 0 (.state x.tile 7)) s)
  ∧ (∀ (src : Fin 1024) (tag : Nat) (tile : W64) (s : State), s.now = some (.stateQuery src tag tile) →
      exec .stateQuery s = .next (stateAsked src tag tile s))
  ∧ (∀ (src : Fin 1024) (tag : Nat) (tile : W64) (s : State), recOf s tile = none →
      stateAsked src tag tile s = send (.answer src.val tag (.state tile 0)) s)
  ∧ (∀ (src : Fin 1024) (tag : Nat) (tile d : W64) (rp : Bool) (ins : List (W64 × Nat)),
      (∀ s : State, s.now = some (.remoteSeal src tag tile d rp false ins) →
      exec .remoteSeal s = .next (sealFrom src tag tile d rp ins s))
      ∧ (∀ s : State, s.now = some (.remoteSeal src tag tile d rp true ins) → exec .remoteSeal s = .next (compareFrom src tag tile d s)))
  -- a seal of a replayable task is acknowledged at once, any other as TREPL.wait is (R48)
  ∧ (∀ (src : Fin 1024) (tag : Nat) (tile d : W64) (ins : List (W64 × Nat)) (r : VRec) (s : State), recOf s tile = some r →
      r.st = .pending →
      sealFrom src tag tile d true ins s = send (.answer src.val tag .sealed) (recordSeal tile d true (depthOver ins) s)
      ∧ let u := recordSeal tile d false (depthOver ins) s
        sealFrom src tag tile d false ins s = shardAsked ⟨src, tag, .repl tile true, u.clock⟩ u)
  ∧ (∀ (src : Fin 1024) (tag : Nat) (tile d : W64) (s : State),
      (∀ r, recOf s tile = some r → r.st ≠ .pending → r.digest ≠ d → compareFrom src tag tile d s = send (.answer src.val tag .refused) s)
      ∧ (recOf s tile = none → compareFrom src tag tile d s = send (.answer src.val tag .sealed) s))
  ∧ (∀ (uid : Nat) (a : ShardAns) (s : State), s.now = some (.shardAcknowledgement uid a) →
      exec .shardAcknowledgement s = .next (shardAnswer uid a s))
  ∧ (∀ (uid : Nat) (a : ShardAns) (s : State), s.cx.task.isSome = true → s.cx.fl.wait = .shard uid →
      shardAnswer uid a s = { s with lin := { s.lin with remote := s.lin.remote ++ [(uid, a)] } })
  ∧ (∀ (k : Fin 8) (s : State), s.now = some (.scrub k []) → exec .scrub s = .next s)
  ∧ (∀ (k : Fin 8) (pa : Nat) (e : EccKind), (∀ s : State, s.now = some (.scrub k [(pa, e)]) →
      s.mem.poison.contains (pa / 64) = false → exec .scrub s = .next (scrubBlock k pa e s))
      ∧ (∀ s : State, s.now = some (.scrub k [(pa, e)]) → s.mem.poison.contains (pa / 64) = true → exec .scrub s = .next s))
  ∧ (∀ (d : Fin 4) (s : State), s.now = some (.dieLoss d) → exec .dieLoss s = .next (loseDie d.val s))
  ∧ (∀ (d : Fin 1024) (b : Option (Fin 1024)), (∀ s : State, s.now = some (.deviceLoss d b) →
      exec .deviceLoss s = .next (loseDevice d b s))
      ∧ (∀ s : State, s.now = some (.deviceLoss d b) → devLost s d.val = true → exec .deviceLoss s = .next s))
  ∧ (∀ (tile : W64) (p r : Bool) (s : State), s.now = some (.lossReport tile p r) → exec .lossReport s = .next (lossHeard tile p r s))
  ∧ (∀ (tile : W64) (p r : Bool) (s : State), recOf s tile = none → lossHeard tile p r s = killProducers [tile] s)
  -- what the loss of bytes or of a replica does to a version (R44, R61): `prim` of its bytes, `rep` of its replica
  ∧ (∀ (t : W64) (prim rep : Bool) (r : VRec) (s : State), recOf s t = some r →
      (r.st = .pending → loseVersion t true rep s = if r.rplay then (s, true) else (failVersion t s, false))
      ∧ (r.st = .sealed → loseVersion t true rep s = (setVState t .lost s, false))
      ∧ (r.st = .replicating → loseVersion t true rep s = (if r.rplay && r.links then setVState t .lost s else failVersion t s, false))
      ∧ (r.st = .replica → loseVersion t true true s = (failVersion t s, false) ∧ loseVersion t true false s = (setVState t .recovering s, false)
          ∧ loseVersion t false true s = (setVState t .replicating (updRec t (fun r => { r with rep := none }) s), false))
      ∧ (r.st = .recovering → r.rep.isNone = true → loseVersion t prim rep s = (s, prim))
      ∧ ((r.st = .lost ∨ r.st = .failed) → loseVersion t prim rep s = (s, false))
      ∧ (r.st ≠ .recovering → r.st ≠ .replica → loseVersion t false rep s = (s, false)))
  ∧ (∀ (a n b : Nat) (r : VRec) (s : State), r ∈ s.lin.recs → r.place.dev = s.dev → a ≤ b → b < a + n →
      r.place.addr.toNat ≤ b → b < r.place.addr.toNat + r.size → ∃ x ∈ versionsAt s a n, x.1 = r.tile ∧ x.2.1 = true)

/-! ## Events of the fabric (R79, R86, R90 to R111, R313, R396 to R406, R412, R416 to R421, R445) -/

/-- Requests of peers and answers to this device's own (R79, R86, R90, R93, R396, R412): a load answers with the bytes, a store writes them and is acknowledged,
bytes outside this device's memory or under a key ID without a key answer PAGE_PERM and change nothing, and a
scratchpad serves no peer's code fetch. -/
def Sys2Proof.Parts.PeerRequests : Prop :=
  (∀ (src : Fin 1024) (tag : Nat) (op : RemoteOp) (s : State), s.now = some (.remoteRequest src tag op) →
      exec .remoteRequest s = .next (send (.response src.val tag (perform op s).1.1 (perform op s).1.2) (perform op s).2))
  ∧ (∀ (tag : Nat) (st : AccStatus) (bs : List Byte) (s : State), s.now = some (.remoteResponse tag st bs) →
      exec .remoteResponse s = .next (answerArrives tag st bs s))
  ∧ (∀ (pa n ty : Nat) (s : State), memType s.mem.partU pa n = some ty → s.mem.poisoned pa n = none →
      perform (.load pa n none) s = ((.done, s.mem.read none pa n), s))
  ∧ (∀ (pa ty : Nat) (bs : List Byte) (s : State), memType s.mem.partU pa bs.length = some ty →
      perform (.store pa bs none) s = ((.done, []), { s with mem := s.mem.write none pa bs }))
  ∧ (∀ (pa n : Nat) (bs : List Byte) (key : Option (BitVec 10)) (s : State),
      (memType s.mem.partU pa n = none → perform (.load pa n key) s = ((.pagePerm, []), s))
      ∧ (memType s.mem.partU pa bs.length = none → perform (.store pa bs key) s = ((.pagePerm, []), s)))
  ∧ (∀ (pa n : Nat) (key : Option (BitVec 10)) (s : State), memType s.mem.partU pa n = some 3 →
      perform (.fetch pa n key) s = ((.pagePerm, []), s))
  ∧ (∀ (pa n ty : Nat) (k : BitVec 10) (s : State), memType s.mem.partU pa n = some ty → assoc s.xl.keys k.toNat = none →
      perform (.load pa n (some k)) s = ((.pagePerm, []), s))
  ∧ (∀ (pa n ty : Nat) (k : BitVec 10) (v : BitVec 512) (s : State), memType s.mem.partU pa n = some ty → ty ≤ 1 →
      assoc s.xl.keys k.toNat = some v → s.mem.poisoned pa n = none →
      perform (.load pa n (some k)) s = ((.done, s.mem.read (some v) pa n), s))

/-- Cast groups at the switch and at the member (R101 to R105, R400, R445): a store is stamped, applied in order or recorded, answered from the ring,
and given up at a gap; a failed plane and a removed member change the groups. -/
def Sys2Proof.Parts.CastEvents : Prop :=
  (∀ (c : CastItem) (s : State), s.now = some (.castStamp c) → exec .castStamp s = .next (stampStore c s))
  ∧ (∀ (n : BitVec 32) (c : CastItem), (∀ s : State, s.now = some (.stamped n c) →
      exec .stamped s = .next (seenStamped n c (receiveStore c.g n c s)))
      ∧ (∀ s : State, s.now = some (.replay n c) → exec .replay s = .next (receiveStore c.g n c s)))
  ∧ (∀ (src : Fin 1024) (g : Fin 4096) (first : BitVec 32) (count : Nat) (s : State), s.now = some (.gapreq src g first count) →
      exec .gapreq s = .next (answerGap src g first count s))
  ∧ (∀ (g : Fin 4096) (s : State), s.now = some (.gapTimeout g) → exec .gapTimeout s = .next (gapOver g s))
  ∧ (∀ (k : Fin 24) (s : State), s.now = some (.planeFailure k) → exec .planeFailure s = .next (failPlane k.val s))
  ∧ (∀ (d : Fin 1024) (s : State), s.now = some (.memberRemoval d) → exec .memberRemoval s = .next (removeMember d s))
  ∧ (∀ (g : Fin 4096) (m : Member) (s : State), memberOf s g = some m →
      (gapLate s m = true → memberOf (gapOver g s) g = some { m with gap := true, kept := [] })
      ∧ (gapLate s m = false → memberOf (gapOver g s) g = some m))
  ∧ (∀ (m : Member) (t : Nat) (s : State), m.joining = false → m.frozen = false → gapSince m = some t →
      (gapLate s m = true ↔ t + micros 50 ≤ s.clock))
  -- group control, and items as their Caten headers say, reach the switch by the same row (R399, R401)
  ∧ (∀ (src : Fin 1024) (g : Fin 4096) (j : Bool) (n : Nat) (p : BitVec 24) (s : State), s.now = some (.groupControl src g j n p) →
      exec .castStamp s = .next (groupControl src g j n p s))
  ∧ (∀ (k : Fin 24) (w0 w1 : W64) (d : List Byte) (s : State), s.now = some (.catenItem k w0 w1 d) →
      exec .castStamp s = .next (takeItem k w0 w1 d s))
  -- stamping (R101, R105)
  ∧ (∀ (c0 c : CastItem) (w : SwGroup) (s : State), received c0 s = some c → swGroup s c.g = some w →
      (w.members.contains c.src = true → w.frozen = false → s.dev ∈ w.members →
        swGroup (stampStore c0 s) c.g = some { w with next := seqSucc w.next } ∧ Event.stamped w.next c ∈ (stampStore c0 s).due)
      ∧ (w.members.contains c.src = true → w.frozen = true → stampStore c0 s = s)
      ∧ (w.members.contains c.src = false →
        swGroup (stampStore c0 s) c.g = some w ∧ ∀ x ∈ (stampStore c0 s).fab.sends, x.item ≠ c))
  -- at the member (R102 to R104, R107): in order it is applied; an old one, or one in GAP, has no effect; a joining member records
  ∧ (∀ (g : Fin 4096) (n : BitVec 32) (c : CastItem) (m : Member) (s : State), memberOf s g = some m →
      (m.gap = false → m.joining = false → m.frozen = false → m.kept = [] → n = seqSucc m.applied → seqLe n m.applied = false →
        m.serials.contains (c.src, c.serial) = false →
        (receiveStore g n c s).mem = s.mem.write m.key (m.base + c.off.toNat) c.data
        ∧ (memberOf (receiveStore g n c s) g).map (·.applied) = some n)
      ∧ (m.gap = true → receiveStore g n c s = s)
      ∧ (m.joining = false → seqLe n m.applied = true → receiveStore g n c s = s)
      ∧ (m.gap = false → m.joining = true → m.kept.any (·.1 == n) = false → seqLe m.first n = true → m.kept.length < 256 →
        (receiveStore g n c s).mem = s.mem ∧ memberOf (receiveStore g n c s) g = some { m with kept := m.kept ++ [(n, c, s.clock)] }))
  ∧ (∀ (g : Fin 4096) (n : BitVec 32) (c : CastItem) (s : State), memberOf s g = none → receiveStore g n c s = s)
  -- a gap request (R104)
  ∧ (∀ (src : Fin 1024) (g : Fin 4096) (n : BitVec 32) (m : Member) (s : State), memberOf s g = some m →
      (∀ x, m.ring.find? (·.1 == n) = some x → answerGap src g n 1 s = send (castMsg src.val 3 n x.2) s)
      ∧ (m.ring.find? (·.1 == n) = none → answerGap src g n 1 s = s))
  ∧ (∀ (k : Nat) (s : State), (∀ w ∈ s.fab.groups, w.plane ≠ k) → failPlane k s = s)

/-- Reductions and releases (R98, R108 to R111, R313, R402). -/
def Sys2Proof.Parts.ReductionEvents : Prop :=
  (∀ (c : RedItem) (s : State), s.now = some (.red c) → exec .red s = .next (contribute c s))
  ∧ (∀ (g : Fin 4096) (tag : BitVec 16), (∀ s : State, s.now = some (.reductionTimeout g tag) →
      exec .reductionTimeout s = .next (slotTimeout g tag s))
      ∧ (∀ s : State, s.now = some (.reductionFenceExpiry g tag) → exec .reductionFenceExpiry s = .next (fenceOver g tag s))
      ∧ (∀ s : State, s.now = some (.fredResend g tag) →
      exec .fredResend s = .next ((s.fab.freds.filter fun f => f.item.g == g && f.item.tag == tag && f.resend).foldl (fun s f => sendRed f.item s) s)))
  ∧ (∀ (g : Fin 4096) (tag : BitVec 16) (r : RedOutcome) (s : State), s.now = some (.redres g tag r) →
      exec .redres s = .next ((updFreds g tag fun f => if f.counted && f.out.isNone then { f with out := some r } else f) s))
  ∧ (∀ (g : Fin 4096) (tag : BitVec 16) (s : State) (x : RedFence), x ∈ (fenceOver g tag s).fab.fences ↔
      x ∈ s.fab.fences ∧ (x.g = g → x.tag = tag → s.clock < x.since + 16 * redTimeout s g))
  ∧ (∀ (g : Fin 4096) (tag : BitVec 16) (st : BitVec 3) (s : State), s.now = some (.rednack g tag st) →
      exec .rednack s = .next (nack g tag st s))
  ∧ (∀ (p : Fin 24) (src : Fin 1024) (m : BitVec 32), (∀ s : State, s.now = some (.rel p src m) →
      exec .rel s = .next (relCheck { s with fab := { s.fab with rels := s.fab.rels ++ [(p.val, src, m)] } }))
      ∧ (∀ s : State, s.now = some (.reldone p m) → exec .reldone s = .next (releaseDone p.val m s)))
  -- a contribution (R108 to R111): fenced, first of its slot, without a slot, or a slot that does not take it
  ∧ (∀ (c : RedItem) (s : State), (fencedOf s c.g c.tag).contains c.src = true →
      ∃ t, contribute c s = sendNack c.g c.tag 2 c.src t ∧ t.fab.rslots = s.fab.rslots)
  ∧ (∀ (c : RedItem) (w : SwGroup) (s : State), fencedOf s c.g c.tag = [] →
      s.fab.rslots.find? (fun x => x.g == c.g && x.tag == c.tag) = none → swGroup s c.g = some w →
      (1024 ≤ (s.fab.rslots.filter (·.plane == w.plane)).length → contribute c s = sendNack c.g c.tag 5 c.src s)
      ∧ ((s.fab.rslots.filter (·.plane == w.plane)).length < 1024 → (∃ d ∈ w.members, d ≠ c.src) →
        (contribute c s).fab.rslots
          = ⟨c.g, c.tag, c.op, c.int, c.nanskip, w.members, [(c.src, c.value)], w.plane, s.clock⟩ :: s.fab.rslots))
  ∧ (∀ (c : RedItem) (r : RSlot) (s : State), fencedOf s c.g c.tag = [] →
      s.fab.rslots.find? (fun x => x.g == c.g && x.tag == c.tag) = some r →
      (r.op ≠ c.op ∨ r.int ≠ c.int ∨ r.nanskip ≠ c.nanskip ∨ r.got.any (·.1 == c.src) = true) →
      contribute c s = sendNack c.g c.tag 3 c.src s)
  ∧ (∀ (r : RSlot) (st : BitVec 3) (d : Fin 1024), (redOutcome r st).status = st
      ∧ (redOutcome r st).bitmap.getLsbD d.val = r.got.any (·.1 == d) ∧ (redOutcome r st).ncont ≤ r.got.length)
  ∧ (∀ (r : RSlot) (st : BitVec 3) (s : State) (x : RSlot), x ∈ (releaseSlot r st s).fab.rslots ↔ x ∈ s.fab.rslots ∧ ¬(x.g = r.g ∧ x.tag = r.tag))
  ∧ (∀ (g : Fin 4096) (tag : BitVec 16) (s : State), (∀ x ∈ s.fab.rslots, x.g = g → x.tag = tag → s.clock < x.since + redTimeout s g) →
      (∀ f ∈ s.fab.freds, f.resend = false) → slotTimeout g tag s = s)
  -- a NACK and a release-done (R98, R111, R402)
  ∧ (∀ (g : Fin 4096) (tag : BitVec 16) (st : BitVec 3) (s : State), pendingFred s g tag = none → nack g tag st s = s)
  ∧ (∀ (g : Fin 4096) (tag : BitVec 16) (st : BitVec 3) (f : FredRec) (s : State), pendingFred s g tag = some f.id → f ∈ s.fab.freds →
      f.item.g = g → f.item.tag = tag → st ≠ 5 →
      { f with resend := false, out := some ⟨st, false, 0, 0, 0⟩ } ∈ (nack g tag st s).fab.freds)
  ∧ (∀ (p : Nat) (m : BitVec 32) (s : State), ∀ f ∈ (releaseDone p m s).fab.frels, f.marker = m → p ∉ f.planes)

/-- Page faults at their home and shootdowns (R416, R418, R421): without a fault queue a fault is refused, else it joins its page's waiters or opens a
record; a holder drops its translations
and acknowledges; the last acknowledgement frees a retiring ASID. -/
def Sys2Proof.Parts.TranslationEvents : Prop :=
  (∀ (src : Fin 1024) (asid : BitVec 16) (page : BitVec 36) (k : AccKind) (uid : Nat) (s : State), s.now = some (.pageFaultMessage src asid page k uid) → exec .pageFaultMessage s = .next (openFault src asid page k uid s))
  ∧ (∀ (src : Fin 1024) (asid : BitVec 16) (page : BitVec 36) (k : AccKind) (uid : Nat) (s : State),
      (faultQueue s = none → openFault src asid page k uid s = answerWaiter .refuseAbsent (src.val, uid) s)
      ∧ ((faultQueue s).isSome = true → s.xl.waiters.any (fun w => w.asid == asid && w.page == page) = true →
      (openFault src asid page k uid s).xl.waiters = s.xl.waiters.map (fun w =>
        if w.asid = asid ∧ w.page = page then { w with who := w.who ++ [(src.val, uid)] } else w)
      ∧ (openFault src asid page k uid s).mem = s.mem))
  ∧ (∀ (src : Fin 1024) (asid : BitVec 16) (r : Option (W64 × Nat)),
      (∀ s : State, s.now = some (.tlbShootdown src asid r) → exec .tlbShootdown s = .next (holderDrops src asid r s))
      ∧ (∀ s : State, s.now = some (.shootdownAck src asid) →
      exec .shootdownAck s = .next (let ack (b : AsidEnt) : AsidEnt := if b.asid = asid then { b with acks := b.acks.erase src.val } else b
          freeAsid asid { s with xl := { s.xl with asids := s.xl.asids.map ack } })))
  ∧ (∀ (asid : BitVec 16) (b : AsidEnt) (s : State), s.now = some (.holdersOutstanding asid) → (bindOf s.xl asid = some b
      ∧ b.retiring = true ∧ b.acks ≠ [] ∧ b.since + micros 1000 ≤ s.clock) →
      exec .holdersOutstanding s = .next (event 4 5 wholeDevice (asid.setWidth 64) (BitVec.ofNat 64 b.acks.eraseDups.length)
        { s with xl := { s.xl with asids := s.xl.asids.map fun e => if e.asid = asid then { e with since := s.clock } else e } }))
  ∧ (∀ (asid : BitVec 16) (s : State), s.now = some (.holdersOutstanding asid) → bindOf s.xl asid = none →
      exec .holdersOutstanding s = .next s)
  -- a first fault on a page (R418): a record in the queue, or held while the queue or the table is full
  ∧ (∀ (src : Fin 1024) (asid : BitVec 16) (page : BitVec 36) (k : AccKind) (uid pa tail head cap : Nat) (s : State),
      faultQueue s = some (pa, tail, head, cap) → s.xl.waiters.any (fun w => w.asid == asid && w.page == page) = false →
      (4096 ≤ s.xl.waiters.length ∨ (tail + 2 ^ 32 - head) % 2 ^ 32 = cap →
        openFault src asid page k uid s = { s with held := s.held ++ [.pageFaultMessage src asid page k uid] })
      ∧ (s.xl.waiters.length < 4096 → (tail + 2 ^ 32 - head) % 2 ^ 32 ≠ cap → s.mmio.fqsig = 0 →
        (openFault src asid page k uid s).xl.waiters = s.xl.waiters ++ [⟨asid, page, k, true, [(src.val, uid)]⟩]
        ∧ (openFault src asid page k uid s).mem
          = (unitLenq pa (pa + 16 + 8 * cap) (fields [(asid.toNat, 48), (page.toNat, 12), (kindCode k, 0)]).toNat none s.mem).2))

/-- Stations and link keys (R397, R400, R404 to R406): a retraining sets the width, the parked channels and whether the switch is one of Dorvia's, and
clears the failure count; a failed tag group is counted, the fourth in a row retrains the link, and a group that passes ends the row; a toggled
phase uses the next receive key, and discards the old one once it has passed, or is held for a key; a hold of 100 µs retrains the link; a station
that has no counter value left and no next send key stops. -/
def Sys2Proof.Parts.StationEvents : Prop :=
  (∀ (k : Fin 24) (w : Fin 4) (dv : Bool) (s : State), s.now = some (.stationRetrain k w dv) →
      exec .stationRetrain s = .next (planesChanged k (stationEvent k (updStation k (fun t =>
        { t with width := w, parked := parkedAt w, dorvia := dv, tagFails := 0 }) s))))
  ∧ (∀ (k : Fin 24) (skid : Bool) (tiles : List W64) (tags : List Nat) (s : State), s.now = some (.tagFailure k skid tiles tags) →
      exec .tagFailure s = .next (tagFails k skid tiles tags s))
  ∧ (∀ (k : Fin 24) (tiles : List W64) (tags : List Nat) (s : State) (skid : Bool), skid = false ∨ (s.fab.st[k]).mode = false →
      ((s.fab.st[k]).tagFails + 1 < 4 → tagFails k skid tiles tags s = updStation k (fun t => { t with tagFails := (s.fab.st[k]).tagFails + 1 }) s)
      ∧ (4 ≤ (s.fab.st[k]).tagFails + 1 →
          tagFails k skid tiles tags s = retrainLink k (updStation k (fun t => { t with tagFails := 0 }) s)))
  ∧ (∀ (k : Fin 24) (s : State), s.now = some (.tagPass k) →
      exec .tagFailure s = .next (updStation k (fun t => { t with tagFails := 0 }) s))
  ∧ (∀ (k : Fin 24) (s : State), Event.stationRetrain k (s.fab.st[k]).width (s.fab.st[k]).dorvia ∈ (retrainLink k s).due)
  ∧ (∀ (k : Fin 24) (passed : Bool) (s : State), s.now = some (.keyChangeover k passed) →
      exec .keyChangeover s = .next (updStation k (toggledGroup passed s.clock) s))
  ∧ (∀ (t : Station) (c : Nat) (passed : Bool),
      (t.nextRx = none → toggledGroup passed c t = { t with heldKey := t.heldKey.or (some c) })
      ∧ (t.nextRx.isSome = true → toggledGroup true c t = { t with rx := t.nextRx, nextRx := none, tagFails := 0 }
          ∧ toggledGroup false c t = t))
  ∧ (∀ (k : Fin 24) (c : Nat), (∀ s : State, s.now = some (.keyHoldTimeout k) → (s.fab.st[k]).heldKey = some c → c + micros 100 ≤ s.clock →
      exec .keyHoldTimeout s = .next (retrainLink k (updStation k (fun t => { t with heldKey := none }) s)))
      ∧ (∀ s : State, s.now = some (.keyHoldTimeout k) → (s.fab.st[k]).heldKey = none → exec .keyHoldTimeout s = .next s)
      ∧ (∀ s : State, s.now = some (.keyExhausted k) → spent s.fab.st[k] = true →
      exec .keyExhausted s = .next (planesChanged k (event 4 2 wholeDevice (BitVec.ofNat 64 k.val) 0 (updStation k (fun t => { t with exh := true }) s))))
      ∧ (∀ s : State, s.now = some (.keyExhausted k) → spent s.fab.st[k] = false → exec .keyExhausted s = .next s))
  ∧ (∀ w : Fin 4, w ≠ 0 → reserves (parkedAt w) ≤ bufferFlits w)
/-! ## Events of the host port (R381 to R394) -/

/-- Sequenced packets (R384): every packet of an open session arrives by one operation; the one whose turn it is is processed with the session's
next PSN advanced and is acknowledged; one below the window is acknowledged again and has no other effect; one above it, or of a session
that is not open, has none. -/
def Sys2Proof.Parts.SequencedPackets : Prop :=
  (∀ (n : Fin 65) (psn : BitVec 32) (ws : List W64) (s : State), s.now = some (.launch n psn ws) →
      exec .launch s = .next (packetIn n.val psn (.launch n psn ws) s))
  ∧ (∀ (n : Fin 65) (psn : BitVec 32) (a : W64) (i : BitVec 16) (l : BitVec 32) (bs : List Byte),
      (∀ s : State, s.now = some (.hostRead n psn a i l) → exec .hostRead s = .next (packetIn n.val psn (.hostRead n psn a i l) s))
      ∧ (∀ s : State, s.now = some (.hostWrite n psn a i l bs) →
      exec .hostWrite s = .next (packetIn n.val psn (.hostWrite n psn a i l bs) s)))
  ∧ (∀ (n : Fin 65) (psn : BitVec 32) (t : Nat) (st : AccStatus) (bs : List Byte),
      (∀ s : State, s.now = some (.hostReadResponse n psn t st bs) →
      exec .hostReadResponse s = .next (packetIn n.val psn (.hostReadResponse n psn t st bs) s))
      ∧ (∀ s : State, s.now = some (.hostWriteResponse n psn t st) →
      exec .hostWriteResponse s = .next (packetIn n.val psn (.hostWriteResponse n psn t st) s)))
  ∧ (∀ (n : Fin 65) (psn : BitVec 32) (k : Nat) (hs : List W64) (w : Fin 64) (o : Fin 65) (b : W64),
      (∀ s : State, s.now = some (.mgmtClose n psn) → exec .mgmtClose s = .next (packetIn n.val psn (.mgmtClose n psn) s))
      ∧ (∀ s : State, s.now = some (.mgmtReserve n psn k) → exec .mgmtReserve s = .next (packetIn n.val psn (.mgmtReserve n psn k) s))
      ∧ (∀ s : State, s.now = some (.mgmtRelease n psn hs) → exec .mgmtRelease s = .next (packetIn n.val psn (.mgmtRelease n psn hs) s))
      ∧ (∀ s : State, s.now = some (.mgmtWindow n psn w o b) →
      exec .mgmtWindow s = .next (packetIn n.val psn (.mgmtWindow n psn w o b) s))
      ∧ (∀ s : State, s.now = some (.mgmtRto n psn k) → exec .mgmtRto s = .next (packetIn n.val psn (.mgmtRto n psn k) s)))
  ∧ (∀ (n : Nat) (psn : BitVec 32) (e : Event) (s : State), sessionOf s n = none → packetIn n psn e s = s)
  ∧ (∀ (n : Nat) (psn : BitVec 32) (e : Event) (s : State) (x : Session), sessionOf s n = some x →
      (2 ^ 31 ≤ (psn - x.rx).toNat → packetIn n psn e s = sendAck n s)
      ∧ (256 ≤ (psn - x.rx).toNat → (psn - x.rx).toNat < 2 ^ 31 → packetIn n psn e s = s)
      ∧ (psn = x.rx → x.early = [] → (∀ k p ws, e ≠ .launch k p ws) →
          ∃ s1, packetIn n psn e s = sendAck n (processReady n psnWindow (processPacket e s1))
          ∧ sessionOf s1 n = some { x with rx := x.rx + 1 } ∧ s1.mem = s.mem ∧ s1.cx = s.cx ∧ s1.dist = s.dist ∧ s1.xl = s.xl))
  -- a LAUNCH is processed too, and keeps its turn while it waits for a line of another device
  ∧ (∀ (n : Nat) (psn : BitVec 32) (k : Fin 65) (p : BitVec 32) (ws : List W64) (s t : State) (x : Session) (waits : Bool),
      let e := Event.launch k p ws
      sessionOf s n = some x → psn = x.rx → x.early = [] →
      launch n ws (updSession n (fun x => { x with early := x.early ++ [(psn, e)] }) s) = (waits, t) →
      packetIn n psn e s = sendAck n (if waits then { t with held := t.held ++ [e] }
        else processReady n psnWindow (updSession n (fun y => { y with rx := y.rx + 1, early := y.early.filter (·.1 != psn) }) t)))

/-- Acknowledgement, retransmission and drops (R381, R382, R384): an ACK frees what it passes or marks, a packet is sent again at most once
per timeout, one that a mark has overtaken since its first sending at once, and a frame or header that the tables do not admit is counted
and has no other effect. -/
def Sys2Proof.Parts.AcknowledgementAndDrops : Prop :=
  (∀ (n : Fin 65) (a : BitVec 32) (c : BitVec 16) (k : W64) (s : State), s.now = some (.farporAck n a c k) →
      exec .farporAck s = .next (takeAck n.val a c k s))
  ∧ (∀ (n : Fin 65) (psn : BitVec 32) (s : State), s.now = some (.retransmissionTimeout n psn) →
      exec .retransmissionTimeout s = .next (resend false n.val psn s))
  ∧ (∀ s : State, s.now = some .frameDrop → exec .frameDrop s = .next ({ s with port := { s.port with drops := s.port.drops + 1 } }))
  ∧ (∀ s : State, s.now = some .headerDrop → exec .headerDrop s = .next ({ s with port := { s.port with drops := s.port.drops + 1 } }))
  ∧ (∀ (n : Nat) (psn : BitVec 32) (s : State) (x : Session) (k : Kept), sessionOf s n = some x → x.kept.find? (·.psn == psn) = some k →
      let again := send k.msg (updSession n (fun x => { x with
        kept := x.kept.map fun y => if y.psn = psn then { y with sent := y.sent + 1, last := s.clock } else y }) s)
      (∀ overtaken : Bool, (k.sent = 0 → resend overtaken n psn s = s)
        ∧ (s.clock < k.last + micros x.rto → (overtaken = false ∨ k.sent ≠ 1) → resend overtaken n psn s = s)
        ∧ (k.sent ≠ 0 → k.last + micros x.rto ≤ s.clock → 32 ≤ k.sent → resend overtaken n psn s = failSession n s)
        ∧ (k.sent ≠ 0 → k.last + micros x.rto ≤ s.clock → k.sent < 32 → inCredit x psn = true → resend overtaken n psn s = again))
      ∧ (k.sent = 1 → inCredit x psn = true → resend true n psn s = again))
  -- a frame as it arrives
  ∧ (∀ (f : Frame) (s : State), s.now = some (.frame f) → exec .frameDrop s = .next (frameArrives f s))
  ∧ (∀ (f : Frame) (s : State),
      ((9216 < f.bytes ∨ 1 < f.tags ∨ f.ethertype ≠ 0x86DD ∨ f.nextHeader ≠ 17 ∨ f.port ≠ s.port.udp ∨ f.sumOk = false) →
        frameArrives f s = { s with port := { s.port with drops := s.port.drops + 1 } })
      ∧ (headerOk f.payload = false → frameArrives f s = { s with port := { s.port with drops := s.port.drops + 1 } })
      ∧ (frameOk s f = true → headerOk f.payload = true → frameArrives f s = packetArrives f s))

/-- OPEN (R383, R394): from a listed address while the device is READY it opens a session that exists and is free, with the PSNs given;
from any other address, or before READY, it has no effect. -/
def Sys2Proof.Parts.OpenSession : Prop :=
  (∀ (h : Nat) (n : Fin 65) (rx tx : BitVec 32) (s : State), s.now = some (.mgmtOpen h n rx tx) →
      exec .mgmtOpen s = .next (openSession h n.val rx tx s))
  ∧ (∀ (h n : Nat) (rx tx : BitVec 32) (s : State), (assoc s.bob.hosts h = none ∨ s.bob.phase ≠ 6) → openSession h n rx tx s = s)
  ∧ (∀ (h n : Nat) (rx tx : BitVec 32) (m : Bool) (s : State), assoc s.bob.hosts h = some m → s.bob.phase = 6 → 1 ≤ n → n ≤ 64 →
      sessionOf s n = none →
      ∃ x, sessionOf (openSession h n rx tx s) n = some x ∧ x.rx = rx ∧ x.tx = tx ∧ x.ackd = tx ∧ x.host = h ∧ x.mgmt = m
        ∧ x.kept = [] ∧ x.closing = false)

/-- Host accesses (R391, R392): a WRITE whose range checks is written and answered DONE, one that does not is answered with the reason and
writes nothing; a READ is answered with the bytes. -/
def Sys2Proof.Parts.HostAccesses : Prop :=
  (∀ (n : Nat) (a : W64) (i : BitVec 16) (l : BitVec 32) (bs : List Byte) (s s1 : State) (gs : List Seg), bs.length = l.toNat →
    hostSegs .wr a i l.toNat s = (.inr gs, s1) →
    serveWrite n a i l bs s = answerAccess n 3 a i .done l [] (hostWriteSegs gs bs s1))
  ∧ (∀ (n : Nat) (a : W64) (i : BitVec 16) (l : BitVec 32) (bs : List Byte) (s s1 : State) (st : AccStatus), bs.length = l.toNat →
      hostSegs .wr a i l.toNat s = (.inl st, s1) → serveWrite n a i l bs s = answerAccess n 3 a i st l [] s1)
  ∧ (∀ (n : Nat) (a : W64) (i : BitVec 16) (l : BitVec 32) (s s1 s2 : State) (gs : List Seg) (bs : List Byte),
      hostSegs .rd a i l.toNat s = (.inr gs, s1) → hostReadSegs gs s1 = (some bs, s2) →
      serveRead n a i l s = answerAccess n 2 a i .done l bs s2)
  ∧ (∀ (perm : Perm) (a : W64) (i : BitVec 16) (n : Nat) (s : State), (n = 0 ∨ 8176 < n ∨ asidBound s i = false) →
      hostSegs perm a i n s = (.inl .bad, s))

/-- The MMIO operations (R56, R57, R122, R129, R135, R407, R418, R419, R431, R439, R443): each event acts on its register by that register's rule. -/
def Sys2Proof.Parts.MmioEvents : Prop :=
  (∀ (pa : Nat) (h : Half) (v : W64) (s : State), s.now = some (.mmioWrite pa h v) →
      exec .mmioWrite s = .next (plainMmioWriteOp pa h v s))
  ∧ (∀ (h : Half) (v : W64), (∀ s : State, s.now = some (.lincfgWrite h v) → exec .lincfgWrite s = .next (lincfgWriteOp h v s))
      ∧ (∀ s : State, s.now = some (.pwrcfgWrite h v) → exec .pwrcfgWrite s = .next (pwrcfgWriteOp h v s))
      ∧ (∀ s : State, s.now = some (.ecwtWrite h v) →
      exec .ecwtWrite s = .next ((updMmio fun m => { m with ecwt := mergeHalf m.ecwt v h }) s))
      ∧ (∀ s : State, s.now = some (.thermcfgWrite h v) → exec .thermcfgWrite s = .next (thermcfgWriteOp h v s))
      ∧ (∀ s : State, s.now = some (.fansWrite h v) → exec .fansWrite s = .next (fansWriteOp h v s)))
  ∧ (∀ (n : Fin 384) (h : Half) (v : W64) (s : State), s.now = some (.coreMapWrite n h v) →
      exec .coreMapWrite s = .next (coreMapWriteOp n.val h v s))
  ∧ (∀ (k : Fin 24) (h : Half) (v : W64) (s : State), s.now = some (.stcfgWrite k h v) →
      exec .stcfgWrite s = .next (stcfgWriteOp k.val h v s))
  ∧ (∀ h : Half, (∀ s : State, s.now = some (.linstatRead h) →
      exec .linstatRead s = .next (if h = .high then s else updMmio (fun m => { m with failedn := 0 }) s))
      ∧ (∀ s : State, s.now = some (.fstatRead h) →
      exec .fstatRead s = .next (if h = .low then s else updMmio (fun m => { m with orphan := 0 }) s)))
  ∧ (∀ (k : Fin 8) (h : Half) (s : State), s.now = some (.hbmhlthRead k h) →
      exec .hbmhlthRead s = .next (updMmio (fun m => { m with hbmhlth := m.hbmhlth.set k (m.hbmhlth[k] &&& ~~~ halfMask h) }) s))
  ∧ (∀ (h : Half) (v : W64) (s : State),
      let w := (pwrcfgWriteOp h v s).mmio.pwrcfg
      100 ≤ bits w 47 32 ∧ bits w 47 32 ≤ 1800 ∧ bits w 63 48 = 0 ∧ bits w 31 22 = 0 ∧ bits w 15 8 = 0
      ∧ ((5 ≤ bits w 21 16 ∧ bits w 21 16 ≤ 40) ∨ bits w 21 16 = bits s.mmio.pwrcfg 21 16)
      ∧ ((1 ≤ bits w 7 0 ∧ bits w 7 0 ≤ 200) ∨ bits w 7 0 = bits s.mmio.pwrcfg 7 0))
  ∧ (∀ (h : Half) (v : W64) (s : State), bits (lincfgWriteOp h v s).mmio.lincfg 52 51 = 3 → bits s.mmio.lincfg 52 51 = 3)

/-! ## Events of Bobbin (R423 to R440) -/

/-- Rails, clocks and resets (R423 to R426): the next rail of the order is raised, phase RAILS ends with the PLLs locked, and a reset loses
every key, the lineage records and the contents of HBM, restarts RDCYC at 0 and leaves Bobbin's log and flash; a cold reset and a loss
of power take Bobbin's registers too. -/
def Sys2Proof.Parts.RailsAndResets : Prop :=
  (∀ (r : Fin 6) (s : State), s.now = some (.railEnable r) → (s.bob.power = true ∧ s.bob.tripped = false
      ∧ (s.bob.phase = 0 ∨ s.bob.phase = 1) ∧ nextRail s.bob = some r.val) →
      (s.bob.booted = true → exec .railEnable s = .next (updBob (fun b => { b with phase := 1, rails := b.rails + 1 }) s))
      ∧ (s.bob.booted = false → exec .railEnable s = .next (match chooseSlot s.bob 1 with
        | some slot => updBob (fun b => { b with phase := 1, rails := b.rails + 1, bobbinSlot := slot, svn := imageSvn b slot 1
                                                 booted := true }) s
        | none => bootFail (updBob (fun b => { b with phase := 1, booted := false }) s))))
  ∧ (∀ (r : Fin 6) (s : State), s.now = some (.railEnable r) → nextRail s.bob ≠ some r.val → exec .railEnable s = .next s)
  ∧ (∀ (ok : Bool) (s : State), s.now = some (.pllLock ok) →
      (s.bob.power = true ∧ s.bob.tripped = false ∧ s.bob.phase = 1 ∧ s.bob.rails = 5) →
      exec .pllLock s = .next (if ok then (updBob fun b => { b with pll := true, phase := 2 }) s else bootFail s))
  ∧ (∀ (r : Fin 6) (s : State), s.now = some (.railFault r) → exec .railFault s = .next (railFails r.val s))
  ∧ (∀ b : Bool, (∀ s : State, s.now = some (.clockLockLoss b) → s.bob.pll = true →
      exec .clockLockLoss s = .next (warmReset (event 5 2 wholeDevice (if b then 1 else 0) 0 s)))
      ∧ (∀ s : State, s.now = some (.clockLockLoss b) → s.bob.pll = false → exec .clockLockLoss s = .next s))
  ∧ (∀ s : State, s.now = some .warmReset → bobbinUp s.bob = true → exec .warmReset s = .next (warmReset s))
      ∧ (∀ s : State, s.now = some .coldReset → exec .coldReset s = .next (coldReset s))
  ∧ (∀ s : State, s.now = some .powerLoss →
      exec .powerLoss s = .next (updBob (fun b => { b with rails := 0, power := false, updopen := false }) (deviceReset s)))
  ∧ (∀ s : State, let t := deviceReset s
      t.xl.keys = [] ∧ t.lin = {} ∧ t.mem = {} ∧ t.clock = 0 ∧ (∀ k : Fin 24, (t.fab.st[k]).tx = none ∧ (t.fab.st[k]).rx = none)
      ∧ t.bob.log = s.bob.log ∧ t.bob.capstep = s.bob.capstep ∧ t.bob.flash = s.bob.flash ∧ t.bob.fuses = s.bob.fuses ∧ t.cx = {}
      ∧ t.others = [])
  ∧ (∀ s : State, let t := coldReset s
      t.xl.keys = [] ∧ t.lin = {} ∧ t.mem = {} ∧ t.clock = 0 ∧ t.bob.flash = s.bob.flash ∧ t.bob.fuses = s.bob.fuses
      ∧ t.bob.quarList = s.bob.quarList ∧ t.bob.phase = 0 ∧ t.bob.capstep = 0 ∧ t.bob.loghead = 0
      -- from then on the images in use, and so the inactive ones, are those that R427 chooses
      ∧ (∀ slot, chooseSlot s.bob 2 = some slot → t.bob.deviceSlot = slot)
      ∧ (∀ slot, chooseSlot s.bob 1 = some slot → t.bob.bobbinSlot = slot ∧ t.bob.svn = imageSvn s.bob slot 1 ∧ t.bob.booted = true))

/-- The boot (R427 to R430): each phase ends in the next one, with what it sets, or in FAILED; an event out of its phase has no effect. -/
def Sys2Proof.Parts.BootPhases : Prop :=
  ((∀ s : State, s.now = some .bootImage → (bobbinUp s.bob = true ∧ s.bob.phase = 2) →
      exec .bootImage s = .next (match chooseSlot s.bob 2 with
    | some slot => updBob (fun b => { b with phase := 3, deviceSlot := slot, running := imageSvn b slot 2 }) s
    | none => bootFail s)))
  ∧ (∀ (l : List (Fin 8)) (d : List (Fin 4)), (∀ s : State, s.now = some (.bootMemory true l d) →
      exec .bootMemory s = .next (trainMemory (l.map (·.val)) (d.map (·.val)) s))
      ∧ (∀ s : State, s.now = some (.bootMemory false l d) → bobbinUp s.bob = true → s.bob.phase = 3 →
      exec .bootMemory s = .next (bootFail s))
      ∧ (∀ (ok : Bool) (s : State), s.now = some (.bootMemory ok l d) → s.bob.phase ≠ 3 → exec .bootMemory s = .next s))
  ∧ (∀ s : State, s.now = some .bootConfig → (bobbinUp s.bob = true ∧ s.bob.phase = 4 ∧ configOk (configBlock s.bob) = true
      ∧ poolsFit (configBlock s.bob) = true) → exec .bootConfig s = .next (applyConfig (configBlock s.bob) s))
  ∧ (∀ s : State, s.now = some .bootConfig → (bobbinUp s.bob = true ∧ s.bob.phase = 4 ∧ configOk (configBlock s.bob) = false) →
      exec .bootConfig s = .next (bootFail s))
  ∧ (∀ (m : BitVec 24) (w : List (Fin 4)),
      (∀ s : State, s.now = some (.bootPorts true m w) → exec .bootPorts s = .next (portsUp m w s))
      ∧ (∀ s : State, s.now = some (.bootPorts false m w) → bobbinUp s.bob = true → s.bob.phase = 5 → exec .bootPorts s = .next (bootFail s))
      ∧ (∀ (ok : Bool) (s : State), s.now = some (.bootPorts ok m w) → s.bob.phase ≠ 5 → exec .bootPorts s = .next s))
  ∧ (∀ s : State, s.now = some .bootReady → (bobbinUp s.bob = true ∧ s.bob.phase = 5 ∧ s.bob.ports = true) →
      exec .bootReady s = .next ((updBob fun b => { b with phase := 6, fuses := Nat.max b.fuses (Nat.min 64 b.running) }) s))
  ∧ (∀ s : State, s.now = some .bootReady → s.bob.phase ≠ 5 → exec .bootReady s = .next s)
  ∧ (∀ s : State, (bootFail s).bob.phase = 15)
  ∧ (∀ b : Bobbin, chooseSlot b 2 = none ↔ (imageValid b false 2 = false ∧ imageValid b true 2 = false))

/-- Bobbin's registers and updates (R433, R434, R436): each write sends its offset, which a read then reads at, and has no effect without
power; RESETCTL orders a warm reset by 0x5A alone, CAPSTEP keeps three bits, UPDATE's commands erase, open and verify the inactive slot, and
UPDDATA stores at UPDADDR only while the slot is open. -/
def Sys2Proof.Parts.BobbinRegisters : Prop :=
  let at_ (o : BitVec 8) (s : State) : State := updBob (fun b => { b with reg := o }) s
  (∀ s : State, s.now = some (.resetctl 0x5A) → s.bob.power = true → exec .resetctl s = .next (warmReset (at_ 0x08 s)))
  ∧ (∀ v : BitVec 32, v ≠ 0x5A →
      (∀ s : State, s.now = some (.resetctl v) → s.bob.power = true → exec .resetctl s = .next (at_ 0x08 s)))
  ∧ (∀ (v : BitVec 32) (s : State), s.now = some (.capstepWrite v) → s.bob.power = true →
      exec .capstepWrite s = .next ((updBob fun b => { b with capstep := v &&& 7 }) (at_ 0x0C s)))
  ∧ (∀ s : State, s.now = some .updateErase → s.bob.power = true → exec .updateErase s = .next (updErase (at_ 0x24 s)))
  ∧ (∀ s : State, s.now = some .updateVerify → s.bob.power = true → exec .updateVerify s = .next (updVerify (at_ 0x24 s)))
  ∧ (∀ s : State, s.now = some .updateOpen → s.bob.power = true →
      exec .updateOpen s = .next ((updBob fun b => { b with updst := 1, updopen := true }) (at_ 0x24 s)))
  ∧ (∀ (v : BitVec 32) (s : State), s.now = some (.upddataWrite v) → s.bob.power = true →
      exec .upddataWrite s = .next (upddata v (at_ 0x2C s)))
  ∧ (∀ (o : BitVec 8) (s : State), s.now = some (.i3cOffset o) → s.bob.power = true → exec .i3cRegisterWrite s = .next (at_ o s))
  -- without power nothing of it has an effect
  ∧ (∀ (i : Instr) (s : State), s.bob.power = false →
      i ∈ [.resetctl, .capstepWrite, .updateErase, .updateOpen, .updateVerify, .upddataWrite, .i3cRegisterWrite] → exec i s = .next s)
  ∧ (∀ (o : BitVec 8) (v : BitVec 32), (∀ s : State, s.now = some (.i3cRegisterWrite o v) → s.bob.power = true →
      exec .i3cRegisterWrite s = .next (bobWrite o.toNat v s))
      ∧ (∀ s : State, s.now = some (.i3cRegisterWrite o v) → s.bob.power = false → exec .i3cRegisterWrite s = .next s))
  ∧ (∀ s : State, s.now = some .i3cRegisterRead → s.bob.power = true →
      exec .i3cRegisterWrite s = .next (send (.i3c (bobRead s.bob.reg.toNat s).1) (bobRead s.bob.reg.toNat s).2))
  ∧ (∀ (st d : BitVec 7), (∀ s : State, s.now = some (.setdasa st d) → (s.bob.power = true ∧ st = 0x4C) →
      exec .setdasa s = .next ((updBob fun b => { b with dyn := some d }) s))
      ∧ (∀ s : State, s.now = some (.setdasa st d) → st ≠ 0x4C → exec .setdasa s = .next s)
      ∧ (∀ s : State, s.now = some (.entdaa d) → (s.bob.power = true ∧ s.bob.dyn = none) →
      exec .entdaa s = .next ((updBob fun b => { b with dyn := some d }) s)))
  ∧ (∀ (v : BitVec 32) (s : State), s.bob.updopen = false → (upddata v s).bob.flash = s.bob.flash
      ∧ (upddata v s).bob.updaddr = s.bob.updaddr)
  ∧ (∀ (v : BitVec 32) (s : State), s.bob.updopen = true → s.bob.updaddr.toNat < slotBytes →
      (upddata v s).bob.updaddr = s.bob.updaddr + 4)
  ∧ (∀ s : State, (updErase s).bob.updopen = false ∧ (updErase s).bob.updst = 1 ∧ (updVerify s).bob.updopen = false
      ∧ (imageValid s.bob (!activeSlot s.bob 1) 1 = false → (updVerify s).bob.updst = 2 ∧ (updVerify s).bob.flash = s.bob.flash))

/-! ## Encodings (R168 to R175, R180) -/

/-- Decoding the encoding of a well-formed CTL instruction gives it back, whatever words follow. -/
def Sys2Proof.Parts.DecodeEncodeCtl : Prop := DecodesBack wordsCtl

/-- Decoding the encoding of a well-formed VEC instruction gives it back, modifier word and immediate word among it, whatever words follow. -/
def Sys2Proof.Parts.DecodeEncodeVec : Prop := DecodesBack wordsVec

/-- Decoding the encoding of a well-formed MTX instruction gives it back, whatever words follow. -/
def Sys2Proof.Parts.DecodeEncodeMtx : Prop := DecodesBack wordsMtx

/-- Decoding the encoding of a well-formed CPY instruction gives it back, whatever words follow. -/
def Sys2Proof.Parts.DecodeEncodeCpy : Prop := DecodesBack wordsCpy

/-- Decoding the encoding of a well-formed GAU, TSK or SYS instruction gives it back, whatever words follow. -/
def Sys2Proof.Parts.DecodeEncodeGauTskSys : Prop := DecodesBack wordsGau ∧ DecodesBack wordsTsk ∧ DecodesBack wordsSys

/-- What the decoder accepts passes every check of its fields and begins with its encoding (R169, R171), so that two instructions share no
words; engine 7 and an opcode that the tables do not list are no instruction. -/
def Sys2Proof.Parts.DecodeChecks : Prop :=
  (∀ (w x y : Nat) (i : Instr), decode w x y = .ok i → i.WellFormed ∧ wordsAre i w x y = true)
  ∧ (∀ w x y : Nat, fld w 29 3 = 7 → decode w x y = .error .engine)
  ∧ (∀ w x y : Nat, fld w 29 3 < 7 → [86, 61, 14, 16, 9, 12, 16].getD (fld w 29 3) 0 ≤ fld w 22 7 → decode w x y = .error .opcode)
  ∧ (∀ (i j : Instr) (x y : Nat), i.WellFormed → j.WellFormed → wordsCtl i ≠ [] → wordsCtl j ≠ [] → x < 2 ^ 32 → y < 2 ^ 32 →
      encode i = encode j → i = j)

/-- Words written out from the tables of the encodings decode to their instructions (R168, R180, R231, R264, R297, R316, R355). -/
def Sys2Proof.Parts.DecodeWords : Prop :=
  decode 0x00000000 0 0 = .ok .nop
  ∧ decode (0x00400000 + 3 * 0x8000 + 5 * 0x100 + 7 * 2) 0 0 = .ok (.add 3 (.s 5) (.s 7))
  ∧ decode 0xC0000000 0 0 = .ok .sret
  ∧ decode (0xC0C00000 + 4 * 0x20000 + 5 * 0x1000 + 6 * 0x80 + 2) 0 0 = .ok (.tlbinv 4 5 6 false true)
  ∧ decode (0x60400000 + 2 * 0x20000 + 3 * 0x1000 + 4 * 0x80) 0 0 = .error (.field false)

/-- The length of an instruction, which places the next one, is the length of its encoding (R168, R175). -/
def Sys2Proof.Parts.WordCounts : Prop :=
  ∀ (i : Instr) (x : Nat), fullWords i ≠ [] → i.WellFormed → x < 2 ^ 32 →
    ∃ a r, encode i = a :: r ∧ wordCount a (r.headD x) = (encode i).length ∧ (encode i).length ≤ 3

/-! ## Steps, reset and memory -/

/-- A step runs the decoded instruction (R169, R176 to R178): where the core that moves, its waiting queue words tried first, is held by nothing and
the line at its program counter is a code line whose word there starts an instruction, the step is the instruction's meaning in the state
that fetched it, with the address of the next instruction set, and then time passes; on a device that mirrors its records a change of them
waits for the buddy first (R55). -/
def Sys2Proof.Parts.StepRunsDecoded : Prop :=
  ∀ (s p : State) (l : Nat) (i : Instr),
    let u := pump (gangAgain s)
    let line := u.cx.pc.toNat / 128 * 128
    let j := u.cx.pc.toNat % 128 / 4
    s.script = [] → s.due = [] → heldTurn u = none → fetchLine line u = .ok l p → p.cx.pc = u.cx.pc →
    lineKind l = 0 → lineOk l = true → u.cx.pc.toNat % 4 = 0 → 2 ≤ j → lineStart l j = true →
    decode (lineWord l j) (lineWord l (j + 1)) (lineWord l (j + 2)) = .ok i →
    let run := exec i { p with cx := { p.cx with npc := nextPc line l j } }
    step s = thenDo (fun t => mirrorGate s passTurn (afterTurn t)) run
    ∧ (mirroring s = false → step s = thenDo (fun t => backRecords (changedImages s (afterTurn t)) (afterTurn t)) run)
    ∧ (mirroring s = false → (∀ t, run = .next t → changedImages s (afterTurn t) = []) → step s = thenDo afterTurn run)

/-- A step without a choice of the outside world lets the occurrence that is due first take place, by the meaning of its row. -/
def Sys2Proof.Parts.StepOccurrence : Prop :=
  (∀ (s : State) (e : Event) (r : List Event), s.script = [] → s.due = e :: r →
    step s = occur e { s with due := r })
  ∧ (∀ (s : State) (e : Event) (r : List Turn), s.script = .input e :: r →
      step s = occur e { s with script := r })
  ∧ (∀ (s : State) (e : Event),
      occur e s = thenDo (fun t => mirrorGate s (putOff e) (afterEvent t)) (exec e.row { s with now := some e })
      ∧ (mirroring s = false → occur e s =
          thenDo (fun t => backRecords (changedImages s (afterEvent t)) (afterEvent t)) (exec e.row { s with now := some e })))
  -- a read that finds an uncorrectable block, and a unit of the device that computes wrongly from now on
  ∧ (∀ (s : State) (k : Fin 8) (pa : Nat) (r : List Turn), s.script = .found k pa :: r →
      step s = occur (.scrub k [(pa, .uncorrectable)]) { s with script := r })
  ∧ (∀ (s : State) (u : BitVec 16) (r : List Turn), s.script = .breaks u :: r →
      step s = .next (afterEvent { s with script := r, broken := u :: s.broken }))

/-- A malformed line, an address in the pc that starts no instruction and words that decode to none are ILLEGAL at the fetch, a SYS field
PRIVILEGE in user mode (R169, R177). -/
def Sys2Proof.Parts.FetchChecks : Prop :=
  ∀ (s p : State) (l : Nat),
    let line := s.cx.pc.toNat / 128 * 128
    let j := s.cx.pc.toNat % 128 / 4
    fetchLine line s = .ok l p → p.cx.pc = s.cx.pc → lineKind l ≠ 1 → lineKind l ≠ 2 →
    (lineOk l = false → fetchInstr s = .stop (illegal s.cx.pc p))
    ∧ (lineStart l j = false → fetchInstr s = .stop (illegal s.cx.pc p))
    ∧ (∀ e, lineOk l = true → s.cx.pc.toNat % 4 = 0 → 2 ≤ j → lineStart l j = true →
        decode (lineWord l j) (lineWord l (j + 1)) (lineWord l (j + 2)) = .error e →
        fetchInstr s = .stop (if e = .field true ∧ p.cx.pr.priv = false then .trap cPRIVILEGE s.cx.pc 0 p else illegal s.cx.pc p))

/-- Every instruction, operation and event of the table answers a next state, from every state; a step stops only where the model's own
script names a core that the device does not have. -/
def Sys2Proof.Parts.NothingRefused : Prop :=
  (∀ (i : Instr) (s : State), ∃ t, exec i s = .next t)
  ∧ (∀ s : State, (∃ t, step s = .next t) ∨ (∃ n r, s.script = .core n :: r ∧ 384 ≤ n ∧ step s = .fault (.noSuchCore n)))

/-- The passing of time after a core's turn leaves the registers, the mode, the pc and memory as they are; the clock moves on by one at least,
and TIMER of the moving task counts the clocks down and stops at 0 (R2, R131, R331). -/
def Sys2Proof.Parts.TimePasses : Prop :=
  (∀ s : State, s.lin.asks = [] → afterTurn s = passTurn s)
  ∧ ∀ s : State, let t := passTurn s
    s.clock + 1 ≤ t.clock ∧ SameS [] s t ∧ SameVector s t ∧ SameControl s t ∧ t.cx.pc = s.cx.pc ∧ t.cx.retired = s.cx.retired
    ∧ t.mem = s.mem ∧ t.mmio = { s.mmio with idleen := t.mmio.idleen, thrtime := t.mmio.thrtime } ∧ t.lin = s.lin ∧ t.xl = s.xl
    ∧ t.fab = { s.fab with st := t.fab.st, withheld := t.fab.withheld } ∧ (s.fab.withheld = [] → t.fab = s.fab)
    ∧ t.bob = s.bob ∧ t.me = s.me
    ∧ t.cx.pr.priv = s.cx.pr.priv ∧ t.cx.pr.intrap = s.cx.pr.intrap ∧ t.cx.pr.intpend = s.cx.pr.intpend
    ∧ (s.cx.task.isSome = true → t.cx.pr.timer.toNat = s.cx.pr.timer.toNat - (t.clock - s.clock))
    ∧ (s.cx.task = none → t.cx.pr.timer = s.cx.pr.timer)

/-- Reset (R426, R57, R122, R129, R135, R407, R431, R434, R438, R439): RDCYC is 0, no key is loaded and no station has a link key, the lineage SRAM is empty and HBM has no
contents, and the registers whose reset values the tables give hold them. -/
def Sys2Proof.Parts.ResetValues : Prop :=
  let r := State.reset
  r.clock = 0 ∧ r.xl.keys = [] ∧ (∀ k : Fin 24, (r.fab.st[k]).tx = none ∧ (r.fab.st[k]).rx = none ∧ (r.fab.st[k]).mode = false)
  ∧ r.lin.recs = [] ∧ r.lin.pool = [] ∧ (∀ a, r.mem.get a = 0)
  ∧ r.mmio.lincfg = 0x0000040000000000 ∧ bits r.mmio.pwrcfg 47 32 = 1800 ∧ bits r.mmio.pwrcfg 21 16 = 20 ∧ bits r.mmio.pwrcfg 7 0 = 10
  ∧ r.mmio.ecwt = 0x100E0C0A08060402 ∧ bits r.mmio.thermcfg 15 8 = 5 ∧ (∀ n : Fin 384, r.mmio.coreMap[n].toNat = n.val)
  ∧ r.mmio.fqcfg = 0 ∧ r.mmio.fqsig = 0 ∧ r.mmio.quarUnits = [] ∧ r.mmio.idleen = 0 ∧ r.mmio.recen = 0
  ∧ bootstat r.bob = 0 ∧ r.bob.capstep = 0 ∧ r.bob.loghead = 0 ∧ r.bob.updst = 0 ∧ r.bob.updaddr = 0
  ∧ r.cx.qdepth = 64

/-- The memory of reset has its canonical form: addresses strictly rising, and no entry equal to what an unlisted address reads as. -/
def Sys2Proof.Parts.ResetMemoryForm : Prop := State.reset.mem.wf = true

/-- The canonical form of memory is an invariant of every instruction of the control engine: loads, stores, atomics and queues in memory, and all
that a fault in one of them begins. -/
def Sys2Proof.Parts.ControlKeepsMemoryForm : Prop :=
  ∀ (i : Instr) (s t : State), wordsCtl i ≠ [] → s.mem.wf = true → exec i s = .next t → t.mem.wf = true

/-- Register S0 (R23): no word of the control engine's arithmetic, constants or loads makes S0 read as anything but zero, from any state. -/
def Sys2Proof.Parts.ZeroRegister : Prop := ∀ c : Ctx, sget c 0 = 0

/-- The word placed for the fetch runs first: the placed state holds no script and nothing due, and its core is held by nothing. -/
def Sys2Proof.Parts.PlacedWordRuns : Prop :=
  ∀ (s : State) (nbits w : Nat), let p := s.withFetchWord nbits w
    p.script = [] ∧ p.due = [] ∧ p.cx.task.isSome = true ∧ p.cx.fl.pend = [] ∧ p.cx.fl.drain = none ∧ p.cx.pc = 0x200008
    ∧ p.cx.pr.priv = true ∧ SameS [] s p ∧ SameVector s p ∧ SameControl s p

/-! ## The obligations -/

/-- S0 reads as zero and a write to it is discarded; a write to another S register is what it reads afterwards and changes no other;
a scalar or result stream bound to Qn gives its oldest element and loses it; an unbound stream register as a scalar source is a
QUEUE fault. (From R23, R24, R193.) -/
def Obligations.ScalarSources : Prop := Sys2Proof.Parts.ScalarOperands ∧ Sys2Proof.Parts.ZeroRegister

/-- ADD to POPC complete with D = f(a, b) as the table of register arithmetic gives f, shift amounts taken modulo 64; DIV, DIVU, REM
and REMU by 0 give all ones, DIV of -2^63 by -1 gives -2^63 and REM gives 0, for every source form; ADDI to XORI use the sign-
extended immediate, SHLI to SARI the amount I[5:0], and a word with I[7:6] not zero there decodes to no instruction; LI, LIX and
LIX64 write their constants; NOP only goes on. (States R195.) -/
def Obligations.ScalarArithmetic : Prop := Sys2Proof.Parts.RegisterArithmetic ∧ Sys2Proof.Parts.DivisionNeverTraps ∧ Sys2Proof.Parts.ImmediateAndConstantForms

/-- When one of these answers a next state, whatever it comes to, every S register but D, the vector, mask and tile registers, the
control registers and FLAGS, the mode and privileged registers and everything outside the core, every byte of memory among it,
are as before; only a page fault that is waited for may leave the fault processor's lists, where an earlier word's error is
taken. Sources are S registers here. (From R193, R194, R196, R197, R221, R225.) -/
def Obligations.ScalarFrame : Prop := Sys2Proof.Parts.ScalarFrame

/-- LD8 to LDS32 on this device complete with D the bytes that a plain read of the checked address finds, extended as the form says;
ST8 to ST64 complete with the low bytes of the data source written at the checked address. An address a + sext(I) x n that is no
multiple of n is an ALIGN trap with that address, before any other check. (From R79, R81, R82, R84, R88, R198, R199.) -/
def Obligations.LoadsAndStores : Prop := Sys2Proof.Parts.LoadsAndStores ∧ Sys2Proof.Parts.MisalignedAccess

/-- A write of bytes under the key of the blocks that it touches puts each byte at its address and leaves every other byte, and the
key of every other block; a read of the same range under that key gives the bytes written. (From R3, R84, R412.) -/
def Obligations.MemoryReadAfterWrite : Prop := Sys2Proof.Parts.MemoryReadAfterWrite

/-- Read under the key of its page, every byte outside the n bytes at the address that the checks give reads as before; the
registers stand, and so does the rest of the device but for its memory. (From R84, R85, R199, R412.) -/
def Obligations.StoreFrame : Prop := Sys2Proof.Parts.StoreFrame

/-- Each gives A the old 4 or 8 bytes, zero-extended, and writes the new value; AMOMIN and AMOMAX compare as U says. For a checked
address in a page of HBM, HBM-P or COMMONS whose bytes are readable they, and AMOCAS, complete under conditions on the state
alone. In a replayable task an atomic is ILLEGAL with no other effect. (From R95, R200, R201.) -/
def Obligations.Atomics : Prop := Sys2Proof.Parts.Atomics ∧ Sys2Proof.Parts.AtomicsComplete

/-- AMOCAS writes c where memory holds the old value of A, AMOCAS2 does so on 16 bytes with register pairs; LENQ, LDEQ and PCHASE
deliver what the memory unit answers; each completes under conditions on the state alone. LENQ at a full queue answers all ones
and changes nothing, otherwise stores the entry in the slot of TAIL, answers TAIL and advances it; LDEQ at an empty queue
answers two zeros, otherwise the entry of HEAD and a one, and advances HEAD. (From R95, R200, R201, R202, R203, R205.) -/
def Obligations.CompareSwapAndQueues : Prop := Sys2Proof.Parts.CompareSwapAndQueues ∧ Sys2Proof.Parts.MemoryQueue ∧ Sys2Proof.Parts.NearMemoryComplete

/-- B always branches, BZ branches where S is zero and BNZ where it is not, and otherwise the control engine goes on at the next
instruction; CALL and CALLR write the address of the next instruction to S31 and to D; JR and RET go to the address that they
read. A label's target is word SLOT of the line DISP lines from the branch's own. A jump to a word that is no TARGET of a code
line is a TARGET trap. (States R206.) -/
def Obligations.Branches : Prop := Sys2Proof.Parts.Branches ∧ Sys2Proof.Parts.BadTarget

/-- BCQ and BCQN pop the head of CQ and branch where it is 1 or 0; CQPOP and XQPOP move the head of their queue to D. LOOP and LOOPI
add one to Lk and branch while it is below the count, else clear Lk and go on; .set writes Lk and .get reads it. (States R211.) -/
def Obligations.PopsAndLoops : Prop := Sys2Proof.Parts.QueuePops ∧ Sys2Proof.Parts.HardwareLoops

/-- RKEY and RCTR set the key and the counter, RSKIP adds to the counter modulo 2^128, RNEXT gives Concat(y1, y0) of F(K, C) and
advances C by one. RDEN, RDCYC and RDRET give ENERGY, the device clock count and the retired count, RDPWR gives PWRSTAT and
clears RAMPHOLD. MOVC and MOVCR write and read the assigned user registers; an unassigned number is ILLEGAL, one of 0x80 and up
is PRIVILEGE in user mode and ILLEGAL in privileged mode. (From R183, R213, R218, R220, R221, R223.) -/
def Obligations.ControlRegisterWords : Prop := Sys2Proof.Parts.Generator ∧ Sys2Proof.Parts.CounterReads ∧ Sys2Proof.Parts.ControlRegisterMoves

/-- PHASE, and BAR.core, complete once nothing is unpublished, with the snapshot dropped; a wider BAR arrives at its barrier; FENCE
completes once earlier atomics and operation packets have answered; QFENCE completes and leaves its group behind where words are
queued. (From R86, R87, R89, R90, R97, R214, R215, R216, R217.) -/
def Obligations.BoundariesAndFences : Prop := Sys2Proof.Parts.BoundariesAndFences

/-- TRAP records cause USER with its code, TEPC at itself and TNPC at the next instruction, and changes no register. The entry of a
drained trap writes TEPC, TNPC, TCAUSE, TADDR and TINFO, clears TRET, sets INTRAP and privileged mode and goes on at TVEC; the
words not completed stay retained and the other privileged registers stand. (From R224, R331, R332, R334, R335, R336.) -/
def Obligations.Traps : Prop := Sys2Proof.Parts.TrapWord ∧ Sys2Proof.Parts.TrapEntry

/-- With ACTION 0 (of a pair both members must ask for one action, the model's reading, log 88) the control engine goes on at TNPC
in the mode that TCAUSE saved, INTRAP is clear, the retained words are released and the device and the registers stand. Outside
a handler, in privileged mode, SRET is ILLEGAL. (From R334, R337.) -/
def Obligations.ReturnFromException : Prop := Sys2Proof.Parts.ReturnFromException

/-- VADD to VFNMA compute each active lane once from its sources (and D for the multiply-adds), floats with one rounding and
integers wrapped or clamped; VMIN, VMAX, VABS, VNEG, the logic and shift forms, VMOV, VSEL, VIOTA and VCLASS complete with their
lanes; inactive lanes of a result are zero. That a queue word runs as it is routed where nothing holds it is the model's choice
(log 17). (From R227, R229, R233, R234, R235, R236, R238.) -/
def Obligations.VectorArithmetic : Prop := Sys2Proof.Parts.VectorArithmetic ∧ Sys2Proof.Parts.VectorElementwise

/-- Without saturation the exact integer result is reduced modulo 2^w and sets no flag; with it a result in range is exact, and one
outside is the nearer bound with SAT. Lane i of a packed row is element i, an inactive lane of a result is zero, and a row
without active lanes sets no flag. (From R157, R227, R229, R233.) -/
def Obligations.IntegerLanes : Prop := Sys2Proof.Parts.IntegerLanes ∧ Sys2Proof.Parts.LanesOfRows

/-- VCVT, VQUANT and VDEQ, VRCP to VGETMANT, VREDADD to VREDMIN, VSCAN, VPERM to VCOMP and VRNG complete, each with the row and the
flags that its function gives. That a queue word runs as it is routed where nothing holds it is the model's choice (log 17).
(From R239, R240, R241, R242, R243, R244, R245, R247, R248, R250, R253, R254.) -/
def Obligations.VectorFunctions : Prop := Sys2Proof.Parts.VectorConversions ∧ Sys2Proof.Parts.VectorFunctions ∧ Sys2Proof.Parts.VectorCrossLane

/-- VCMP writes a mask of its active lanes; MAND, MOR, MXOR and MNOT act on all 768 bits; MFIRST keeps the first active set lane;
MPOP pushes the count into XQ; VANYQ and VALLQ push one bit into CQ; VXQ pushes the chosen lane into XQ. That a queue word runs
as it is routed where nothing holds it is the model's choice (log 17). (From R229, R237, R258, R259.) -/
def Obligations.MaskForms : Prop := Sys2Proof.Parts.MaskForms

/-- VLD, VLDS and VGATH complete with the row that the checked pieces of their access hold, inactive lanes zero; VST, VSTS and VSCAT
complete with the bytes of their active lanes written at the checked pieces. That a queue word runs as it is routed where
nothing holds it is the model's choice (log 17). (From R255, R256, R257.) -/
def Obligations.VectorMemory : Prop := Sys2Proof.Parts.VectorMemory

/-- A word of the vector arithmetic queue writes its result register only, gathers bits of FLAGS and never clears one, pushes what
it pushes, and changes neither the S registers, tiles, control registers, privileged registers, pc and retired count nor the
rest of the device; its routing advances only the generator's counter, the pc and the retired count. A pattern of fields that
the effective format does not allow is ILLEGAL at the routing with none of its effect. (From R157, R174, R213, R227, R230.) -/
def Obligations.VectorFrame : Prop := Sys2Proof.Parts.VectorFrame ∧ Sys2Proof.Parts.FormatNotAllowed

/-- MLEASE without a session opens one and requests the array, and completes once the lease is held; within a session of its kind it
has no effect; within one of the other kind it is a LEASE fault. MREL closes a session of kind core and gives the array back
where the lease is held; without a session it has no effect. That a queue word runs as it is routed where nothing holds it is
the model's choice (log 17). (From R123, R125, R267, R268.) -/
def Obligations.Leases : Prop := Sys2Proof.Parts.Leases

/-- Each row of MLDT is read whole and written with its ignored scale bits zero, and after its last row the rows at or beyond ROWS
are zero; each row of MSTT is checked whole before it is written. On rows of the task's part of the local window both complete
under conditions on the state and the operands alone, with the rows' bytes. That a queue word runs as it is routed where nothing
holds it is the model's choice (log 17). (From R32, R276, R277.) -/
def Obligations.TileMoves : Prop := Sys2Proof.Parts.TileMoves ∧ Sys2Proof.Parts.TileMovesComplete

/-- MZERO writes zero rows of Z and leaves the others; MZERO.t clears a tile and its side store and leaves the others; MTRN writes
the transposed tile, and a Td with scales keeps them, the model's choice (log 71); MCVT the converted tile with its flags; MFMT
writes its table entry at its routing. That a queue word runs as it is routed where nothing holds it is the model's choice (log
17). (From R261, R263, R278, R279.) -/
def Obligations.TileReshaping : Prop := Sys2Proof.Parts.TileReshaping ∧ Sys2Proof.Parts.ZeroedRegisters

/-- Without a session of its kind a multiply is a LEASE fault, and so is an MMAG of a member that is not the holder. With session,
lease and a running array with increments it issues: it has been counted for the lease and MCHKN and ends after its issue slots,
and no register and no memory has changed. At the turn of its core at which that clock has come the products of the tiles' rows
are added to or written into Z, of MMAG in the gang's four members, an array that computes rightly passes its self-check, and a
lease whose last or extending operation this was ends. A self-check that differs writes no Z and takes the silent-error path.
That a queue word runs as it is routed where nothing holds it is the model's choice (log 17). (From R123, R132, R265, R266,
R267, R269, R272, R273, R274, R282, R283.) -/
def Obligations.Multiply : Prop := Sys2Proof.Parts.MultiplyStarts ∧ Sys2Proof.Parts.MultiplyEnds

/-- MDRAIN completes with the rows of Z left and no S register or tile changed; MCHKN sets PERIOD and clears COUNT; MKAT whose
digest matches the constant passes the array's check; MWAIT completes where no gang lease makes it wait. That a queue word runs
as it is routed where nothing holds it is the model's choice (log 17). (From R263, R271, R280, R281, R282, R284.) -/
def Obligations.DrainAndChecks : Prop := Sys2Proof.Parts.DrainAndChecks

/-- Each move completes with what its beats write: a beat whose two ranges check has its bytes read and then written, one from V
rows takes them from the row; PREF translates the pages that it names and may read, and leaves its queue. Within the task's part
of the local window COPY, COPY2, GATHER, SCATTER and SOUT complete under conditions on the state and the operands alone. That a
queue word runs as it is routed where nothing holds it is the model's choice (log 17). (From R32, R83, R297, R298, R299, R300,
R303, R304, R415.) -/
def Obligations.CopyMoves : Prop := Sys2Proof.Parts.CopyMoves ∧ Sys2Proof.Parts.CopyMovesComplete ∧ Sys2Proof.Parts.IndexedMovesComplete

/-- The beats of n bytes at a destination address hold 1 to 64 bytes each, cross no 64-byte boundary, lie within the range, follow
one another and sum to n. (From R83.) -/
def Obligations.BeatsOfAMove : Prop := Sys2Proof.Parts.BeatsOfAMove

/-- SBIND binds its register at the routing and SUNBIND frees it, the others standing; SBIND of a bound register is ILLEGAL. An
operation packet runs at the unit of its block: FILL, ADD, MAX and MIN replace each element, SUM changes none, and the answer is
the first element's old value or the sum; with its packet and source read, its target checked and readable and room for the
answer it completes. That a queue word runs as it is routed where nothing holds it is the model's choice (log 17). (From R93,
R301, R302, R305, R306.) -/
def Obligations.StreamsAndOperations : Prop := Sys2Proof.Parts.StreamBinding ∧ Sys2Proof.Parts.OperationPackets ∧ Sys2Proof.Parts.OperationPacketCompletes

/-- CJOIN delivers the switch's answer: 0 and number 1 for a new group, 0 and the next number for a new member, 1 and the next
number for a member, 2 for another size; CLEAVE leaves the group or goes on where there is none, CSTORE sends its bytes to be
stamped, CWAIT goes on at a number that has been applied, the recorded stores being behind it, with the snapshot dropped, FRED
sends its contribution and completes once the switch has accepted it, FREDW delivers the outcome of its slot, FREL goes on once
the planes that carried the context's stores have answered. FRED in a replayable task is ILLEGAL. That a queue word runs as it
is routed where nothing holds it is the model's choice (log 17). (From R98, R99, R100, R307, R308, R309, R310, R311, R312,
R313.) -/
def Obligations.CastsAndReductions : Prop := Sys2Proof.Parts.CastWords ∧ Sys2Proof.Parts.JoinCompletes ∧ Sys2Proof.Parts.ReductionWords

/-- GCFG writes K, BW and FMT of GCFG0 at its routing, keeps LIVE, and is ILLEGAL for values that are refused; GPLANE derives the
planes and writes P; GHASH, GREP, GPACK, GSCAT and GGSUM complete where K is not 0 with the lanes, tables, packed rows,
scattered rows and sums; GHASH with K 0 is ILLEGAL; GMAP and GLMAP move two rows, within the local window under conditions on
the state and the operands alone, and are ALIGN at an address that is no multiple of 64. That a queue word runs as it is routed
where nothing holds it is the model's choice (log 17). (States R286.) -/
def Obligations.Gauge : Prop := Sys2Proof.Parts.GaugeConfiguration ∧ Sys2Proof.Parts.GaugeWords ∧ Sys2Proof.Parts.GaugeMaps ∧ Sys2Proof.Parts.GaugeMapsComplete

/-- A reservation gives a new slot's handle; a spawn whose packet breaks no rule gives the handle under which it was published and
is a boundary; a signal is counted and is a boundary; what an earlier instance did is not done again; in a recovery run they
give 0 or have no effect. Which slot a handle names is free (log 9). (From R30, R49, R317, R318, R319, R345.) -/
def Obligations.SpawnAndSignal : Prop := Sys2Proof.Parts.SpawnAndSignal

/-- TNEWV gives the next version of its tile ID with a PENDING record and storage (free, log 8); TDECL of a declared version has no
effect and of a new one links it as an input; TREADV gives the address of an own unsealed version or of a declared available
one, and is a SEAL fault for an undeclared one in a replayable task. (From R42, R43, R45, R46, R320, R321, R322.) -/
def Obligations.Versions : Prop := Sys2Proof.Parts.Versions

/-- TSEAL records the digest of the version's bytes; for a replayable task it then completes, for any other it goes on, or waits,
until the version is REPLICA. TREPL of a REPLICA version completes, of a SEALED one asks for a replica, of a PENDING one is a
SEAL fault. TPIN and TPIN.rel change the hold count by one within 0 to 65,535 and fault outside. (From R44, R60, R323, R324,
R325, R326.) -/
def Obligations.Seals : Prop := Sys2Proof.Parts.Seals

/-- TSTAT gives the status of a task slot or the control word of a version record; TYIELD goes on where no better task waits or no
save slot is free, and otherwise asks to give its core away; TEXIT ends the task once its versions are sealed, nothing is
unpublished and its successors are signalled in order, and is a SEAL fault with a PENDING version. (From R31, R35, R119, R327,
R328, R329.) -/
def Obligations.StatusAndLeaving : Prop := Sys2Proof.Parts.StatusAndLeaving

/-- Every SYS word is a PRIVILEGE trap in user mode, and in privileged mode ILLEGAL in a replayable task, with none of its effect.
SMOVC and SMOVCR reach the assigned privileged and user registers; a number of 0x90 and up is ILLEGAL; a write of a read-only
register changes nothing, and a plain one reads back as written. (From R169, R331, R355, R356.) -/
def Obligations.PrivilegedWords : Prop := Sys2Proof.Parts.SystemGuards ∧ Sys2Proof.Parts.PrivilegedRegisters

/-- CTXSAVE gives 0 where the standby bank is empty or holds a preloaded task, which it unloads, and else gives up the lease that
the context kept, writes the image and frees the bank, giving the image's length (free, log 16). CTXLOAD gives 1 where the
standby bank is in use, 2 where the slot holds no image, and 0 with the context of an image of the known version in the standby
bank. (From R342, R343, R357.) -/
def Obligations.ContextImages : Prop := Sys2Proof.Parts.ContextImages

/-- TLBINV drops the cached translations of its range and no other ASID's; ASIDBIND of a free ASID binds what its descriptor gives
and of a bound one is ASID_STATE; ASIDRET of a free ASID, or of one with a running task, is ASID_STATE, and otherwise retires
it. (From R358, R362, R414, R416, R420, R421.) -/
def Obligations.TranslationWords : Prop := Sys2Proof.Parts.TranslationWords

/-- KEYLD installs a key, zeroes its 64 source bytes and is ILLEGAL for a loaded ID or one above 1,023; KEYINV clears a key; ARTSET
writes or clears one entry; LINKKEY installs the next key of a station's direction; QUAR quarantines or releases its unit with
an event; PWRCAP sets the cap within its limits and every die's external step; IDLE goes on where something ends it and else
waits; MCACK drops the head record of its die's queue. (From R359, R360, R361, R363, R404, R412, R417.) -/
def Obligations.KeysUnitsPower : Prop := Sys2Proof.Parts.KeysAndOwnership ∧ Sys2Proof.Parts.UnitsPowerIdle

/-- An answer reaches the registers of the word that asked, a stream fetches ahead, a page fault takes its answer, banks exchange
places after their waits, a starved CWAIT faults; the last arrival completes the BAR of every participant, and a timeout that
has run out faults the waiting participants of a barrier at .die, .pkg or .pod. When an occurrence comes is the model's choice
of script and queue (log 3). (From R11, R23, R27, R87, R90, R95, R192, R301, R311, R315, R333.) -/
def Obligations.CoreAnswersAndBarriers : Prop := Sys2Proof.Parts.CoreAnswers ∧ Sys2Proof.Parts.BarrierEvents

/-- A drained trap is entered; a pending enabled interrupt stops the routing, and once what was routed has completed (the model's
reading, log 58) is entered with cause 0, TEPC and TNPC at the next instruction; TIMER at 0 sets INTPEND bit 0; an IDLE that
something ends completes; a requested pre-emption saves the core's task; a selected image is restored; a machine check queues
its record. When an occurrence comes is the model's choice of script and queue (log 3). (From R331, R336, R338, R340, R341,
R342, R344, R354, R361.) -/
def Obligations.TrapAndInterruptEvents : Prop := Sys2Proof.Parts.TrapAndInterruptEvents ∧ Sys2Proof.Parts.PreemptionAndMachineChecks

/-- A free core takes the first candidate that fits, one of the highest priority; the standby bank is filled from the deque; a
report gives free entries and priority and moves a task that another die can take; ageing moves a task to the die pool; a ready
task of higher priority asks a lower one to give way; the walker issues at most 64 iterations a turn; a spawn for a reserved
slot of this device publishes and answers; a signal is accepted or waits for the table; the five messages and the timer of 10 us
of the steal protocol move custody as the protocol says, a first run that is PINNED is not offered. When an occurrence comes is
the model's choice of script and queue (log 3). (From R26, R34, R41, R112, R114, R115, R116, R117, R118, R126, R127, R317.) -/
def Obligations.SchedulingAndSteals : Prop := Sys2Proof.Parts.SchedulingEvents ∧ Sys2Proof.Parts.StealEvents

/-- An array that is free goes to the oldest request passed over, else to one of the highest PRIO, for 16 multiplies and 4,096
clocks, and a lease that is over gives it back; the governor raises only arrays that are held and lowers only those that run
out, within the increments of an interval; the budgets are equal shares, the budget step rises when a task has been held for 20
us and falls when the charges fit, at most once in 100 us; above TLIM a die asks for one step more, at most 7, below TLIM - HYST
the samples are counted and the tenth lowers the request; a sensor at 115 C or above turns the device off; a core that holds a
task is not gated. When an occurrence comes is the model's choice of script and queue (log 3). (From R39, R117, R123, R124,
R128, R129, R130, R131, R132, R134, R431.) -/
def Obligations.PowerEvents : Prop := Sys2Proof.Parts.PowerEvents

/-- A wait for pool entries, records or storage ends after 100 us in SEAL and one for slots in QUEUE, with the event of the
exhausted resource; retention replicates where few records are free; a written replica makes its version REPLICA; a change of
records is not seen before the buddy has acknowledged it, and 50 us without an acknowledgement leave the shard unmirrored. When
an occurrence comes is the model's choice of script and queue (log 3). (From R44, R53, R55, R56, R58, R59, R72, R318, R320.) -/
def Obligations.TimeoutsAndReplicas : Prop := Sys2Proof.Parts.WaitTimeouts ∧ Sys2Proof.Parts.ReplicaAndMirrorEvents

/-- A query is answered with the version's state, a seal from another device is recorded and acknowledged, of a task that is not
replayable once the version is REPLICA, a re-seal is compared, an answer reaches the word that waits, scrubbing poisons what it
finds, and losses of a die, a device or bytes mark the versions that they meet. The words of these messages are the model's (log
24). When an occurrence comes is the model's choice of script and queue (log 3). (From R45, R48, R49, R54, R61, R63, R64, R439,
R444.) -/
def Obligations.ShardAndLossEvents : Prop := Sys2Proof.Parts.ShardAndLossEvents

/-- A peer's load is answered with the bytes and its store is written and acknowledged; outside this device's memory or under an ID
without a key the answer is PAGE_PERM and nothing changes, and a scratchpad serves no code fetch. A fault on a page that waits
joins its list; a shootdown drops the range; the last acknowledgement frees a retiring ASID. When an occurrence comes is the
model's choice of script and queue (log 3). (From R79, R86, R90, R93, R396, R412, R416, R418, R421.) -/
def Obligations.PeersAndTranslation : Prop := Sys2Proof.Parts.PeerRequests ∧ Sys2Proof.Parts.TranslationEvents

/-- A cast store is stamped, applied or recorded, answered from the ring, and given up at a gap of 50 us; contributions reach their
slot and outcomes their FRED; release markers return when their stores are acknowledged; a station retrains, counts tag
failures, changes keys or stops. When an occurrence comes is the model's choice of script and queue (log 3). (From R98, R101,
R103, R105, R108, R110, R313, R400, R404, R405, R406, R445.) -/
def Obligations.CastAndReductionEvents : Prop := Sys2Proof.Parts.CastEvents ∧ Sys2Proof.Parts.ReductionEvents ∧ Sys2Proof.Parts.StationEvents

/-- The packet whose turn it is is processed with the next PSN advanced and acknowledged; a PSN below the window is acknowledged
again and otherwise dropped, one above it or of a session not open is dropped; a LAUNCH that waits for a line of another device
keeps its turn. A packet is sent again at most once per timeout and the 32nd sending without an acknowledgement fails the
session; a bad frame or header is counted. When an occurrence comes is the model's choice of script and queue (log 3). (From
R381, R382, R384, R385.) -/
def Obligations.SequencedPackets : Prop := Sys2Proof.Parts.SequencedPackets ∧ Sys2Proof.Parts.AcknowledgementAndDrops

/-- OPEN from a listed address while the device is READY opens a session of 1 to 64 with the PSNs given, and from any other address
or before READY it has no effect. A host WRITE whose range checks is written and answered done, one that does not is answered
with the reason and writes nothing; a READ is answered with the bytes; a length outside 1 to 8,176 or an ASID not BOUND is BAD.
(From R383, R391, R392, R394.) -/
def Obligations.SessionsAndHostAccesses : Prop := Sys2Proof.Parts.OpenSession ∧ Sys2Proof.Parts.HostAccesses

/-- Each event acts on its register by that register's rule; after any write of PWRCFG, CAPW lies within 100 to 1,800, RAMP and GINC
hold a legal value or the old one and reserved bits read zero; no write makes PLACE 3; the parts of LINSTAT, FSTAT and HBMHLTH
that are read clear their counts. When an occurrence comes is the model's choice of script and queue (log 3). (From R56, R57,
R122, R129, R135, R407, R418, R419, R431, R439, R443.) -/
def Obligations.MmioEvents : Prop := Sys2Proof.Parts.MmioEvents

/-- The next rail of the order is raised; phase RAILS ends with the PLLs locked; loss of lock is an event and a warm reset; a reset
loses every key, the lineage records and the contents of memory and restarts RDCYC at 0; a device reset keeps Bobbin's log,
CAPSTEP, flash and fuses, and a cold one its flash, fuses and quarantine list. What rails and phase a fault leaves is the
model's reading (log 26). (From R423, R424, R425, R426.) -/
def Obligations.RailsAndResets : Prop := Sys2Proof.Parts.RailsAndResets

/-- Each boot phase ends in the next one with what it sets, or in FAILED, and an event out of its phase has no effect; READY sets
the fuses up to the running image's SVN. RESETCTL orders a warm reset by 0x5A alone; CAPSTEP keeps three bits; UPDATE's commands
erase, open and verify the inactive slot; UPDDATA stores at UPDADDR and advances it only while the slot is open; SETDASA and
ENTDAA give the dynamic address. When an occurrence comes is the model's choice of script and queue (log 3). (From R427, R428,
R429, R430, R433, R434, R436.) -/
def Obligations.BootAndBobbin : Prop := Sys2Proof.Parts.BootPhases ∧ Sys2Proof.Parts.BobbinRegisters

/-- For every well-formed CTL instruction, with every operand at every value that its encoding admits and any words after it, decode
of encode is the instruction. (From R168, R171, R180, R193.) -/
def Obligations.DecodeEncodeControl : Prop := Sys2Proof.Parts.DecodeEncodeCtl

/-- For every well-formed VEC instruction, its modifier word and immediate word among it, with every operand at every value and any
words after it, decode of encode is the instruction. (From R168, R171, R173, R174, R175, R180, R231.) -/
def Obligations.DecodeEncodeVector : Prop := Sys2Proof.Parts.DecodeEncodeVec

/-- For every well-formed instruction of these engines, extension words among it, with every operand at every value and any words
after it, decode of encode is the instruction. (From R168, R171, R175, R180, R264, R285, R297, R316, R355.) -/
def Obligations.DecodeEncodeOthers : Prop := Sys2Proof.Parts.DecodeEncodeMtx ∧ Sys2Proof.Parts.DecodeEncodeCpy ∧ Sys2Proof.Parts.DecodeEncodeGauTskSys

/-- A few words written out from the tables decode to the instructions they stand for; whatever decodes is well formed and begins
with its encoding; engine 7 and an unlisted opcode decode to nothing; two well-formed CTL instructions with one encoding are the
same; the length that places the next instruction is that of the encoding, at most three words. (From R168, R169, R171, R175,
R180, R231, R264, R297, R316, R355.) -/
def Obligations.DecodeIsRight : Prop := Sys2Proof.Parts.DecodeChecks ∧ Sys2Proof.Parts.DecodeWords ∧ Sys2Proof.Parts.WordCounts

/-- Where nothing holds the core that moves and the line at its pc is a well-formed code line whose word there starts an
instruction, the step is exec of the decoded instruction in the state that fetched it, npc set to the next instruction, then
time passes; on a device that mirrors its records a change of them waits for the buddy first. A step with an occurrence due or
given runs that row; the script may also say that a block proves uncorrectable, which is handled like a scrub's finding, or that
a unit computes wrongly from now on (log 85, log 94). A malformed line, a word that starts nothing and words that decode to
nothing are ILLEGAL at the fetch, a bad SYS word in user mode PRIVILEGE. The order of script, occurrences and cores is the
model's choice (log 3), and so is what is placed for a fetch (log 14). (From R55, R61, R169, R176, R177, R178, R335.) -/
def Obligations.StepRunsDecoded : Prop := Sys2Proof.Parts.StepRunsDecoded ∧ Sys2Proof.Parts.StepOccurrence ∧ Sys2Proof.Parts.FetchChecks ∧ Sys2Proof.Parts.PlacedWordRuns

/-- exec answers a next state for every instruction, operation and event from every state; a step stops only where the model's own
script (log 3) names a core that the device does not have. (From R77, R169, R332.) -/
def Obligations.NothingRefused : Prop := Sys2Proof.Parts.NothingRefused

/-- The clock grows by at least one (by how many is free, log 4); registers, mode, pc, memory, MMIO but for IDLEEN and THRTIME,
lineage, translation, fabric and Bobbin stand; TIMER of the moving task counts the clocks down and stops at 0, and an empty
bank's TIMER stands. (From R2, R131, R331, R439.) -/
def Obligations.TimePasses : Prop := Sys2Proof.Parts.TimePasses

/-- RDCYC is 0, no key is loaded, no station has a link key, the lineage SRAM is empty, memory reads zero, and the registers whose
tables give reset values hold them. That the commons and the scratchpads read zero is the model's choice (log 2). The memory of
reset has its canonical form. (From R15, R57, R122, R129, R135, R407, R426, R428, R431, R434, R439.) -/
def Obligations.Reset : Prop := Sys2Proof.Parts.ResetValues ∧ Sys2Proof.Parts.ResetMemoryForm

/-- From every state whose memory has the canonical form (addresses strictly rising, no entry equal to what an unlisted address
reads as), every next state of every CTL instruction has it, loads, stores, atomics, queues in memory and faults among them. The
form is the model's own. (From R3, R77, R198, R201.) -/
def Obligations.ControlKeepsMemoryForm : Prop := Sys2Proof.Parts.ControlKeepsMemoryForm
end

