-- ==== Sys2Proof/Laws/Memory.lean ====
section
/-! SUPPORT. Memory: every operation keeps the canonical form, a read after a write to the same place gives the value written, and a write
leaves every other place alone. -/

namespace Sys2Proof.Machine

/-- Addresses strictly rising, and no entry equal to what an unlisted address reads as. -/
def canonical (d : Byte) (l : List Host.Cell) : Prop := l.Pairwise (fun x y => x.1 < y.1) ∧ ∀ c ∈ l, c.2 ≠ d

/-- The chain of neighbours is the order of all pairs. -/
theorem zip_all_lt (l : List Host.Cell) :
    (l.zip (l.drop 1)).all (fun p => decide (p.1.1 < p.2.1)) = true ↔ l.Pairwise (fun x y => x.1 < y.1) := by
  induction l with
  | nil => simp
  | cons x r ih =>
    cases r with
    | nil => simp
    | cons y r =>
      simp only [List.drop_succ_cons, List.drop_zero, List.zip_cons_cons, List.all_cons, Bool.and_eq_true, decide_eq_true_eq] at ih ⊢
      rw [List.pairwise_cons, ih]
      refine ⟨fun ⟨h, hr⟩ => ⟨fun z hz => ?_, hr⟩, fun ⟨h, hr⟩ => ⟨h y (by simp), hr⟩⟩
      rcases List.mem_cons.mp hz with rfl | hz
      · exact h
      · exact Nat.lt_trans h ((List.pairwise_cons.mp hr).1 z hz)

/-- The canonical form of a memory. -/
theorem wf_iff (m : Memory) : m.wf = true ↔ canonical memDefault m.cells := by
  simp only [Memory.wf, canonical, Bool.and_eq_true]
  rw [zip_all_lt]
  simp [memDefault]

/-- Some cells of a canonical list are a canonical list. -/
theorem canonical_filter {d : Byte} {l : List Host.Cell} (p : Host.Cell → Bool) (h : canonical d l) : canonical d (l.filter p) :=
  ⟨h.1.filter p, fun c hc => h.2 c (List.mem_filter.mp hc).1⟩

/-- What an insertion holds. -/
theorem mem_cellsPut {l : List Host.Cell} {a : Nat} {b : Byte} {c : Host.Cell} : c ∈ cellsPut l a b ↔ c = (a, b) ∨ c ∈ l := by
  induction l with
  | nil => simp [cellsPut]
  | cons x r ih =>
    obtain ⟨x, v⟩ := x
    simp only [cellsPut]
    split
    · simp
    · simp only [List.mem_cons, ih]; tauto

/-- An insertion of a new address keeps the form. -/
theorem canonical_cellsPut {d : Byte} {l : List Host.Cell} {a : Nat} {b : Byte} (h : canonical d l) (hb : b ≠ d) (ha : ∀ c ∈ l, c.1 ≠ a) :
    canonical d (cellsPut l a b) := by
  refine ⟨?_, fun c hc => ?_⟩
  · induction l with
    | nil => simp [cellsPut]
    | cons x r ih =>
      obtain ⟨x, v⟩ := x
      have hp := List.pairwise_cons.mp h.1
      simp only [cellsPut]
      split
      · next hlt =>
        refine List.pairwise_cons.mpr ⟨fun c hc => ?_, h.1⟩
        rcases List.mem_cons.mp hc with rfl | hc
        · exact hlt
        · exact Nat.lt_trans hlt (hp.1 c hc)
      · next hge =>
        refine List.pairwise_cons.mpr ⟨fun c hc => ?_, ih ⟨hp.2, fun c hc => h.2 c (by simp [hc])⟩ fun c hc => ha c (by simp [hc])⟩
        rcases mem_cellsPut.mp hc with rfl | hc
        · have := ha (x, v) (by simp)
          simp only at this ⊢
          omega
        · exact hp.1 c hc
  · rcases mem_cellsPut.mp hc with rfl | hc
    · exact hb
    · exact h.2 c hc

/-- One byte stored keeps the form. -/
theorem canonical_cellsSet {d : Byte} {l : List Host.Cell} (a : Nat) (b : Byte) (h : canonical d l) : canonical d (cellsSet d l a b) := by
  simp only [cellsSet]
  split
  · exact canonical_filter _ h
  · next hb => exact canonical_cellsPut (canonical_filter _ h) hb fun c hc => by simpa using (List.mem_filter.mp hc).2

/-- A read skips what a filter on other addresses drops. -/
theorem cellsGet_filter_other (d : Byte) (l : List Host.Cell) {a x : Nat} (h : x ≠ a) : cellsGet d (l.filter (·.1 != a)) x = cellsGet d l x := by
  induction l with
  | nil => rfl
  | cons c r ih =>
    obtain ⟨y, v⟩ := c
    by_cases hy : y = a
    · have : y ≠ x := fun e => h (by omega)
      simp [hy, cellsGet, ih, Ne.symm h]
    · simp only [List.filter_cons, bne_iff_ne, ne_eq, hy, not_false_eq_true, if_true, cellsGet, ih]

/-- What no entry lists reads as the default. -/
theorem cellsGet_filter_same (d : Byte) (l : List Host.Cell) (a : Nat) : cellsGet d (l.filter (·.1 != a)) a = d := by
  induction l with
  | nil => rfl
  | cons c r ih =>
    obtain ⟨y, v⟩ := c
    by_cases hy : y = a
    · simp [hy, ih]
    · simp [hy, cellsGet, ih]

/-- An inserted entry is read, and hides no other. -/
theorem cellsGet_cellsPut (d : Byte) (l : List Host.Cell) (a x : Nat) (b : Byte) (h : ∀ c ∈ l, c.1 ≠ a) :
    cellsGet d (cellsPut l a b) x = if x = a then b else cellsGet d l x := by
  induction l with
  | nil => simp only [cellsPut, cellsGet, eq_comm]
  | cons c r ih =>
    obtain ⟨y, v⟩ := c
    have hy : y ≠ a := h (y, v) (by simp)
    have ih := ih fun c hc => h c (by simp [hc])
    simp only [cellsPut]
    split
    · by_cases hx : x = a
      · simp [cellsGet, hx]
      · simp [cellsGet, hx, Ne.symm hx]
    · by_cases hx : x = a
      · subst hx; simp [cellsGet, hy, ih]
      · simp only [cellsGet, ih, hx, if_false]

/-- A read after one byte was stored. -/
theorem cellsGet_cellsSet (d : Byte) (l : List Host.Cell) (a x : Nat) (b : Byte) :
    cellsGet d (cellsSet d l a b) x = if x = a then b else cellsGet d l x := by
  have hf : ∀ c ∈ l.filter (·.1 != a), c.1 ≠ a := fun c hc => by simpa using (List.mem_filter.mp hc).2
  simp only [cellsSet]
  by_cases hb : b = d
  · simp only [hb, if_true]
    by_cases hx : x = a
    · subst hx; simp [cellsGet_filter_same]
    · simp [hx, cellsGet_filter_other]
  · simp only [hb, if_false, cellsGet_cellsPut _ _ _ _ _ hf]
    by_cases hx : x = a
    · simp [hx]
    · simp [hx, cellsGet_filter_other]

/-! ## Memory -/

/-- A byte reads as what was stored last. -/
@[simp] theorem get_set (m : Memory) (a x : Nat) (b : Byte) : (m.set a b).get x = if x = a then b else m.get x :=
  cellsGet_cellsSet _ _ _ _ _

/-- One byte stored keeps the form. -/
theorem wf_set {m : Memory} (a : Nat) (b : Byte) (h : m.wf = true) : (m.set a b).wf = true :=
  (wf_iff _).mpr (canonical_cellsSet a b ((wf_iff m).mp h))

/-- Bytes stored keep the form. -/
theorem wf_setAll {m : Memory} (a : Nat) (bs : List Byte) (h : m.wf = true) : (m.setAll a bs).wf = true := by
  induction bs generalizing m a with
  | nil => exact h
  | cons b r ih => exact ih _ (wf_set a b h)

/-- A read of a stored range, and of what lies outside it. -/
theorem get_setAll (m : Memory) (a x : Nat) (bs : List Byte) :
    (m.setAll a bs).get x = if a ≤ x ∧ x < a + bs.length then bs.getD (x - a) 0 else m.get x := by
  induction bs generalizing m a with
  | nil => simp [Memory.setAll, show ¬(a ≤ x ∧ x < a) by omega]
  | cons b r ih =>
    rw [Memory.setAll, ih, get_set, List.length_cons]
    by_cases h1 : x = a
    · subst h1; simp
    · by_cases h2 : a + 1 ≤ x ∧ x < a + 1 + r.length
      · rw [if_pos h2, if_pos (by omega), show x - a = x - (a + 1) + 1 by omega, List.getD_cons_succ]
      · rw [if_neg h2, if_neg h1, if_neg (by omega)]

/-- Bytes stored leave the other parts of a memory. -/
@[simp] theorem setAll_ckey (m : Memory) (a : Nat) (bs : List Byte) : (m.setAll a bs).ckey = m.ckey := by
  induction bs generalizing m a with
  | nil => rfl
  | cons b r ih => exact ih _ _

/-- Bytes stored leave the poison. -/
@[simp] theorem setAll_poison (m : Memory) (a : Nat) (bs : List Byte) : (m.setAll a bs).poison = m.poison := by
  induction bs generalizing m a with
  | nil => rfl
  | cons b r ih => exact ih _ _

/-- Bytes stored leave the partition. -/
@[simp] theorem setAll_partU (m : Memory) (a : Nat) (bs : List Byte) : (m.setAll a bs).partU = m.partU := by
  induction bs generalizing m a with
  | nil => rfl
  | cons b r ih => exact ih _ _

/-- Bytes stored leave the history. -/
@[simp] theorem setAll_wlog (m : Memory) (a : Nat) (bs : List Byte) : (m.setAll a bs).wlog = m.wlog := by
  induction bs generalizing m a with
  | nil => rfl
  | cons b r ih => exact ih _ _

/-- A block brought under another key keeps the form. -/
theorem wf_rekey {m : Memory} (key : Option (BitVec 512)) (a : Nat) (h : m.wf = true) : (m.rekey key a).wf = true := by
  simp only [Memory.rekey]
  split
  · exact h
  · exact wf_setAll (m := m) _ _ h

/-- A block under its own key stands. -/
theorem rekey_same {m : Memory} {key : Option (BitVec 512)} {a : Nat} (h : m.keyOf a = key) : m.rekey key a = m := by simp [Memory.rekey, h]

/-- Blocks brought under a key one after another keep the form. -/
theorem wf_rekeys {m : Memory} (key : Option (BitVec 512)) (l : List Nat) (f : Nat → Nat) (h : m.wf = true) :
    (l.foldl (fun m i => m.rekey key (f i)) m).wf = true := by
  induction l generalizing m with
  | nil => exact h
  | cons x r ih => exact ih (wf_rekey key (f x) h)

/-- Blocks under their own key stand. -/
theorem rekeys_same {m : Memory} {key : Option (BitVec 512)} {l : List Nat} {f : Nat → Nat} (h : ∀ i ∈ l, m.keyOf (f i) = key) :
    l.foldl (fun m i => m.rekey key (f i)) m = m := by
  induction l with
  | nil => rfl
  | cons x r ih =>
    rw [List.foldl_cons, rekey_same (h x (by simp))]
    exact ih fun i hi => h i (by simp [hi])

/-- A write keeps the form. -/
theorem wf_write {m : Memory} (key : Option (BitVec 512)) (a : Nat) (bs : List Byte) (h : m.wf = true) : (m.write key a bs).wf = true := by
  simp only [Memory.write]
  split
  · exact h
  · let n := (List.range ((a + bs.length - 1) / 64 - a / 64 + 1)).foldl (fun m i => m.rekey key (64 * (a / 64 + i))) m
    have hn : n.wf = true := wf_rekeys key _ _ h
    exact wf_setAll (m := { n with wlog := _ }) a bs hn

/-- Writing some bytes of a range keeps the canonical form. -/
theorem wf_writeSome {m : Memory} (key : Option (BitVec 512)) (a : Nat) (bs : List (Option Byte)) (h : m.wf = true) :
    (m.writeSome key a bs).wf = true := by
  unfold Memory.writeSome
  split
  · exact wf_write key a _ h
  · split
    · exact h
    · exact (wf_iff _).mpr ((wf_iff _).mp (wf_write key a _ h))

/-- What a write under the key of the blocks that it touches leaves at each address. -/
theorem get_write_same {m : Memory} {key : Option (BitVec 512)} {a : Nat} {bs : List Byte}
    (h : ∀ x, a / 64 ≤ x → x ≤ (a + bs.length - 1) / 64 → m.keyOf (64 * x) = key) (x : Nat) :
    (m.write key a bs).get x = (m.setAll a bs).get x ∧ (m.write key a bs).ckey = m.ckey := by
  by_cases hb : bs = []
  · subst hb; exact ⟨rfl, rfl⟩
  · have hr := rekeys_same (m := m) (key := key) (l := List.range ((a + bs.length - 1) / 64 - a / 64 + 1)) (f := fun i => 64 * (a / 64 + i))
      fun i hi => h _ (by omega) (by
        have := List.mem_range.mp hi
        have : a / 64 ≤ (a + bs.length - 1) / 64 := Nat.div_le_div_right (by have := List.length_pos_iff.mpr hb; omega)
        omega)
    simp only [Memory.write, List.isEmpty_iff, hb, if_false, hr]
    constructor
    · exact (get_setAll { m with wlog := _ } a x bs).trans (get_setAll m a x bs).symm
    · exact setAll_ckey _ _ _

/-- The length of the bytes of a number. -/
@[simp] theorem bytesOf_length (n v : Nat) : (bytesOf n v).length = n := by simp [bytesOf]

/-- One byte of a number. -/
theorem bytesOf_getD (n v i : Nat) (h : i < n) : (bytesOf n v).getD i 0 = BitVec.ofNat 8 (v / 2 ^ (8 * i)) := by
  simp [bytesOf, h]
/-- Dropping one key leaves the others. -/
theorem assoc_filter_ne {α : Type} (l : List (Nat × α)) (k j : Nat) (h : j ≠ k) : assoc (l.filter (·.1 != k)) j = assoc l j := by
  simp only [assoc, List.find?_filter]
  congr 2
  funext x
  by_cases hx : x.1 = k
  · have : ¬ k = j := fun e => h e.symm
    simp [hx, this]
  · simp [hx]; rfl

/-- A dropped key has no value. -/
theorem assoc_filter_eq {α : Type} (l : List (Nat × α)) (k : Nat) : assoc (l.filter (·.1 != k)) k = none := by
  simp only [assoc, List.find?_filter]
  simp

/-- The key of each block after one was brought under another key. -/
theorem keyOf_rekey (m : Memory) (key : Option (BitVec 512)) (a x : Nat) :
    (m.rekey key a).keyOf x = if x / 64 = a / 64 then key else m.keyOf x := by
  by_cases hk : m.keyOf a = key
  · rw [rekey_same hk]
    split
    · next h => rw [← hk]; simp only [Memory.keyOf, h]
    · rfl
  · simp only [Memory.rekey, hk, if_false]
    simp only [Memory.keyOf, setAll_ckey]
    by_cases h2 : x / 64 = a / 64
    · simp only [h2, if_true]
      cases key with
      | none => simp [assoc_filter_eq]
      | some k => simp [assoc]
    · simp only [h2, if_false]
      cases key with
      | none => simp [assoc_filter_ne _ _ _ h2]
      | some k =>
        rw [← assoc_filter_ne m.ckey _ _ h2]
        simp [assoc, Ne.symm h2]

/-- The bytes outside the block stand. -/
theorem get_rekey (m : Memory) (key : Option (BitVec 512)) (a x : Nat) (h : x / 64 ≠ a / 64) : (m.rekey key a).get x = m.get x := by
  simp only [Memory.rekey]
  split
  · rfl
  · show (Memory.setAll _ _ _).get x = _
    rw [get_setAll, bytesOf_length, if_neg (by omega)]

/-- The ciphertext of a block depends on its key and its bytes alone. -/
theorem stored_congr {m n : Memory} {x : Nat} (hk : m.keyOf x = n.keyOf x) (hr : m.raw (x / 64 * 64) 64 = n.raw (x / 64 * 64) 64) :
    m.stored x = n.stored x := by simp only [Memory.stored, hk, hr]

/-- The addresses of a block have one ciphertext. -/
theorem stored_block (m : Memory) {x a : Nat} (h : x / 64 = a / 64) : m.stored x = m.stored a := by simp only [Memory.stored, Memory.keyOf, h]

/-- A block brought under a key reads under it as it did. -/
theorem read1_rekey (m : Memory) (key : Option (BitVec 512)) (a x : Nat) : (m.rekey key a).read1 key x = m.read1 key x := by
  by_cases h : x / 64 = a / 64
  · simp only [Memory.read1, keyOf_rekey, h, if_true]
    simp only [Memory.rekey]
    by_cases hk : m.keyOf a = key
    · simp only [hk, if_true]
      rw [if_pos]; simp only [Memory.keyOf, h] at hk ⊢; exact hk
    · simp only [hk, if_false]
      rw [if_neg (by simp only [Memory.keyOf, h] at hk ⊢; exact hk)]
      show (Memory.setAll _ _ _).get x = _
      rw [get_setAll, bytesOf_length, if_pos (by omega), bytesOf_getD _ _ _ (by omega)]
      simp only [Memory.block, stored_block m h, h]
      rw [show x - a / 64 * 64 = x % 64 by omega]
  · simp only [Memory.read1, keyOf_rekey, h, if_false, get_rekey _ _ _ _ h, Memory.block]
    have hs : (m.rekey key a).stored x = m.stored x := by
      refine stored_congr (by rw [keyOf_rekey, if_neg h]) ?_
      simp only [Memory.raw]
      apply List.map_congr_left
      intro i hi; rw [get_rekey]; have := List.mem_range.mp hi; omega
    rw [hs]

/-- Blocks brought under a key read under it as they did. -/
theorem read1_rekeys (key : Option (BitVec 512)) (l : List Nat) (f : Nat → Nat) (m : Memory) (x : Nat) :
    (l.foldl (fun m i => m.rekey key (f i)) m).read1 key x = m.read1 key x := by
  induction l generalizing m with
  | nil => rfl
  | cons y r ih => rw [List.foldl_cons, ih, read1_rekey]

/-- The keys after some blocks were brought under another. -/
theorem keyOf_rekeys (key : Option (BitVec 512)) (l : List Nat) (f : Nat → Nat) (m : Memory) (x : Nat) :
    (l.foldl (fun m i => m.rekey key (f i)) m).keyOf x = if ∃ i ∈ l, x / 64 = f i / 64 then key else m.keyOf x := by
  induction l generalizing m with
  | nil => simp
  | cons y r ih =>
    rw [List.foldl_cons, ih, keyOf_rekey]
    by_cases h1 : ∃ i ∈ r, x / 64 = f i / 64
    · rw [if_pos h1, if_pos]; obtain ⟨i, h, h'⟩ := h1; exact ⟨i, by simp [h], h'⟩
    · rw [if_neg h1]
      by_cases h2 : x / 64 = f y / 64
      · rw [if_pos h2, if_pos ⟨y, by simp, h2⟩]
      · rw [if_neg h2, if_neg]; rintro ⟨i, hi, h⟩; rcases List.mem_cons.mp hi with rfl | hi
        · exact h2 h
        · exact h1 ⟨i, hi, h⟩

/-- A write leaves what every other address reads as under its key. -/
theorem read1_write (m : Memory) (key : Option (BitVec 512)) (a x : Nat) (bs : List Byte) (h : x < a ∨ a + bs.length ≤ x) :
    (m.write key a bs).read1 key x = m.read1 key x := by
  by_cases hb : bs = []
  · subst hb; rfl
  · have hl := List.length_pos_iff.mpr hb
    simp only [Memory.write, List.isEmpty_iff, hb, if_false]
    generalize hn : (List.range ((a + bs.length - 1) / 64 - a / 64 + 1)).foldl (fun m i => m.rekey key (64 * (a / 64 + i))) m = n
    have h1 : n.read1 key x = m.read1 key x := by rw [← hn, read1_rekeys key _ (fun i => 64 * (a / 64 + i))]
    have h2 : a / 64 ≤ x / 64 ∧ x / 64 ≤ (a + bs.length - 1) / 64 → n.keyOf x = key := by
      intro h; rw [← hn, keyOf_rekeys key _ (fun i => 64 * (a / 64 + i)), if_pos]
      exact ⟨x / 64 - a / 64, List.mem_range.mpr (by omega), by omega⟩
    rw [← h1]
    generalize hM : ({ (Memory.setAll { n with wlog := _ } a bs) with poison := _ } : Memory) = M
    have e1 : M.keyOf x = n.keyOf x := by rw [← hM]; simp [Memory.keyOf]
    have e2 : ∀ y, M.get y = if a ≤ y ∧ y < a + bs.length then bs.getD (y - a) 0 else n.get y := by
      intro y; rw [← hM]; exact get_setAll _ _ _ _
    simp only [Memory.read1, Memory.block, e1]
    rw [e2, if_neg (show ¬ (a ≤ x ∧ x < a + bs.length) by omega)]
    by_cases hk : n.keyOf x = key
    · rw [if_pos hk, if_pos hk]
    · rw [if_neg hk, if_neg hk]
      have hr : M.raw (x / 64 * 64) 64 = n.raw (x / 64 * 64) 64 := by
        simp only [Memory.raw]
        apply List.map_congr_left
        intro i hi
        rw [e2, if_neg]
        have := List.mem_range.mp hi
        have h3 : ¬ (a / 64 ≤ x / 64 ∧ x / 64 ≤ (a + bs.length - 1) / 64) := fun h => hk (h2 h)
        omega
      rw [stored_congr e1 hr]

/-- A write leaves the partition. -/
theorem partU_write (m : Memory) (key : Option (BitVec 512)) (a : Nat) (bs : List Byte) : (m.write key a bs).partU = m.partU := by
  simp only [Memory.write]; split
  · rfl
  · simp only [setAll_partU]
    generalize List.range _ = l
    induction l generalizing m with
    | nil => rfl
    | cons y r ih => rw [List.foldl_cons, ih]; simp only [Memory.rekey]; split <;> simp

/-- The scratchpad cleared keeps the form. -/
theorem wf_clear {m : Memory} (a n : Nat) (h : m.wf = true) : (m.clear a n).wf = true :=
  (wf_iff _).mpr (canonical_filter _ ((wf_iff m).mp h))

/-- The word placed for the fetch keeps the form. -/
theorem wf_placed {m : Memory} (a : Nat) (bs : List Byte) (h : m.wf = true) : (placed a bs m).wf = true := wf_setAll (m := m) a bs h

/-- The tables placed for the fetch keep the form. -/
theorem wf_placedTables {m : Memory} (h : m.wf = true) : (placedTables m).wf = true := by
  simp only [placedTables]
  exact wf_placed _ _ (wf_placed _ _ (wf_placed _ _ h))

/-- Memory at reset has the form. -/
theorem wf_reset : State.reset.mem.wf = true := rfl

end Sys2Proof.Machine
end

