-- ==== Sys2Proof/Laws/Ops.lean ====
section
/-! SUPPORT. One lemma per shared operation of the control engine: what a control word whose operands are ready comes to. -/

namespace Sys2Proof.Machine

/-- Every control word answers a next state. -/
theorem ctl_next (rs : List (Fin 32)) (body : State → Act) (s : State) : ∃ t, ctl rs body s = .next t := ⟨_, rfl⟩

/-- The interlock passes a word whose operands are ready. -/
theorem interlock_ready {rs : List (Fin 32)} {s : State} (body : State → Act) (h : Ready rs s) : interlock rs body s = body s := by
  simp [interlock, h.1, h.2]

/-- A control word whose operands are ready comes to what its body comes to. -/
theorem ctl_ready {rs : List (Fin 32)} {s : State} (body : State → Act) (h : Ready rs s) :
    ctl rs body s = .next (finish s (body s)) := by simp [ctl, interlock_ready body h]

/-- A word without S sources is ready. -/
theorem ready_nil (s : State) : Ready [] s := by
  have h : s.cx.fl.late.find? (fun l => l.dests.any fun _ => false) = none := by simp
  exact ⟨by simp only [lateOf, List.filter_nil, List.contains_nil]; rw [h], rfl⟩

/-- What a completed word leaves. -/
theorem finish_done (s t : State) : finish s (.done t) = complete t := rfl

end Sys2Proof.Machine
end

