-- ==== Sys2Proof/Laws/PerInstr.lean ====
section
/-! SUPPORT. Per instruction: the words of an instruction are those of one engine (R168, R180), and an operation or event has none. -/

namespace Sys2Proof.Laws.Engine

/-- The words of an instruction by the engine that its first word names. -/
def lists (i : Instr) : List (List Nat) :=
  [wordsCtl i, wordsVec i, wordsMtx i, wordsCpy i, wordsGau i, wordsTsk i, wordsSys i]

/-- The words of an instruction are the list of one engine, and every other engine's list is empty. -/
def Statement (i : Instr) : Prop :=
  ∃ k : Fin 7, (lists i)[k]? = some (fullWords i) ∧ ∀ j : Fin 7, j ≠ k → (lists i)[j]? = some []

/-- A word of engine 0. -/
theorem ofCtl {i : Instr} (v : wordsVec i = []) (m : wordsMtx i = []) (p : wordsCpy i = []) (g : wordsGau i = []) (t : wordsTsk i = []) (y : wordsSys i = []) : Statement i := by
  refine ⟨0, ?_, ?_⟩
  · simp [lists, fullWords, v, m, p, g, t, y]
  · intro j h
    fin_cases j <;> simp_all [lists]

/-- A word of engine 1. -/
theorem ofVec {i : Instr} (c : wordsCtl i = []) (m : wordsMtx i = []) (p : wordsCpy i = []) (g : wordsGau i = []) (t : wordsTsk i = []) (y : wordsSys i = []) : Statement i := by
  refine ⟨1, ?_, ?_⟩
  · simp [lists, fullWords, c, m, p, g, t, y]
  · intro j h
    fin_cases j <;> simp_all [lists]

/-- A word of engine 2. -/
theorem ofMtx {i : Instr} (c : wordsCtl i = []) (v : wordsVec i = []) (p : wordsCpy i = []) (g : wordsGau i = []) (t : wordsTsk i = []) (y : wordsSys i = []) : Statement i := by
  refine ⟨2, ?_, ?_⟩
  · simp [lists, fullWords, c, v, p, g, t, y]
  · intro j h
    fin_cases j <;> simp_all [lists]

/-- A word of engine 3. -/
theorem ofCpy {i : Instr} (c : wordsCtl i = []) (v : wordsVec i = []) (m : wordsMtx i = []) (g : wordsGau i = []) (t : wordsTsk i = []) (y : wordsSys i = []) : Statement i := by
  refine ⟨3, ?_, ?_⟩
  · simp [lists, fullWords, c, v, m, g, t, y]
  · intro j h
    fin_cases j <;> simp_all [lists]

/-- A word of engine 4. -/
theorem ofGau {i : Instr} (c : wordsCtl i = []) (v : wordsVec i = []) (m : wordsMtx i = []) (p : wordsCpy i = []) (t : wordsTsk i = []) (y : wordsSys i = []) : Statement i := by
  refine ⟨4, ?_, ?_⟩
  · simp [lists, fullWords, c, v, m, p, t, y]
  · intro j h
    fin_cases j <;> simp_all [lists]

/-- A word of engine 5. -/
theorem ofTsk {i : Instr} (c : wordsCtl i = []) (v : wordsVec i = []) (m : wordsMtx i = []) (p : wordsCpy i = []) (g : wordsGau i = []) (y : wordsSys i = []) : Statement i := by
  refine ⟨5, ?_, ?_⟩
  · simp [lists, fullWords, c, v, m, p, g, y]
  · intro j h
    fin_cases j <;> simp_all [lists]

/-- A word of engine 6. -/
theorem ofSys {i : Instr} (c : wordsCtl i = []) (v : wordsVec i = []) (m : wordsMtx i = []) (p : wordsCpy i = []) (g : wordsGau i = []) (t : wordsTsk i = []) : Statement i := by
  refine ⟨6, ?_, ?_⟩
  · simp [lists, fullWords, c, v, m, p, g, t]
  · intro j h
    fin_cases j <;> simp_all [lists]

end Sys2Proof.Laws.Engine

open Sys2Proof

theorem Sys2Proof.Laws.Engine.nop : Sys2Proof.Laws.Engine.Statement (.nop) :=
  Sys2Proof.Laws.Engine.ofCtl rfl rfl rfl rfl rfl rfl
theorem Sys2Proof.Laws.Engine.add (d : Fin 32) (a b : Src) : Sys2Proof.Laws.Engine.Statement (.add d a b) :=
  Sys2Proof.Laws.Engine.ofCtl rfl rfl rfl rfl rfl rfl
theorem Sys2Proof.Laws.Engine.sub (d : Fin 32) (a b : Src) : Sys2Proof.Laws.Engine.Statement (.sub d a b) :=
  Sys2Proof.Laws.Engine.ofCtl rfl rfl rfl rfl rfl rfl
theorem Sys2Proof.Laws.Engine.and (d : Fin 32) (a b : Src) : Sys2Proof.Laws.Engine.Statement (.and d a b) :=
  Sys2Proof.Laws.Engine.ofCtl rfl rfl rfl rfl rfl rfl
theorem Sys2Proof.Laws.Engine.or (d : Fin 32) (a b : Src) : Sys2Proof.Laws.Engine.Statement (.or d a b) :=
  Sys2Proof.Laws.Engine.ofCtl rfl rfl rfl rfl rfl rfl
theorem Sys2Proof.Laws.Engine.xor (d : Fin 32) (a b : Src) : Sys2Proof.Laws.Engine.Statement (.xor d a b) :=
  Sys2Proof.Laws.Engine.ofCtl rfl rfl rfl rfl rfl rfl
theorem Sys2Proof.Laws.Engine.shl (d : Fin 32) (a b : Src) : Sys2Proof.Laws.Engine.Statement (.shl d a b) :=
  Sys2Proof.Laws.Engine.ofCtl rfl rfl rfl rfl rfl rfl
theorem Sys2Proof.Laws.Engine.shr (d : Fin 32) (a b : Src) : Sys2Proof.Laws.Engine.Statement (.shr d a b) :=
  Sys2Proof.Laws.Engine.ofCtl rfl rfl rfl rfl rfl rfl
theorem Sys2Proof.Laws.Engine.sar (d : Fin 32) (a b : Src) : Sys2Proof.Laws.Engine.Statement (.sar d a b) :=
  Sys2Proof.Laws.Engine.ofCtl rfl rfl rfl rfl rfl rfl
theorem Sys2Proof.Laws.Engine.mul (d : Fin 32) (a b : Src) : Sys2Proof.Laws.Engine.Statement (.mul d a b) :=
  Sys2Proof.Laws.Engine.ofCtl rfl rfl rfl rfl rfl rfl
theorem Sys2Proof.Laws.Engine.mulh (d : Fin 32) (a b : Src) : Sys2Proof.Laws.Engine.Statement (.mulh d a b) :=
  Sys2Proof.Laws.Engine.ofCtl rfl rfl rfl rfl rfl rfl
theorem Sys2Proof.Laws.Engine.mulhu (d : Fin 32) (a b : Src) : Sys2Proof.Laws.Engine.Statement (.mulhu d a b) :=
  Sys2Proof.Laws.Engine.ofCtl rfl rfl rfl rfl rfl rfl
theorem Sys2Proof.Laws.Engine.div (d : Fin 32) (a b : Src) : Sys2Proof.Laws.Engine.Statement (.div d a b) :=
  Sys2Proof.Laws.Engine.ofCtl rfl rfl rfl rfl rfl rfl
theorem Sys2Proof.Laws.Engine.divu (d : Fin 32) (a b : Src) : Sys2Proof.Laws.Engine.Statement (.divu d a b) :=
  Sys2Proof.Laws.Engine.ofCtl rfl rfl rfl rfl rfl rfl
theorem Sys2Proof.Laws.Engine.rem (d : Fin 32) (a b : Src) : Sys2Proof.Laws.Engine.Statement (.rem d a b) :=
  Sys2Proof.Laws.Engine.ofCtl rfl rfl rfl rfl rfl rfl
theorem Sys2Proof.Laws.Engine.remu (d : Fin 32) (a b : Src) : Sys2Proof.Laws.Engine.Statement (.remu d a b) :=
  Sys2Proof.Laws.Engine.ofCtl rfl rfl rfl rfl rfl rfl
theorem Sys2Proof.Laws.Engine.min (d : Fin 32) (a b : Src) : Sys2Proof.Laws.Engine.Statement (.min d a b) :=
  Sys2Proof.Laws.Engine.ofCtl rfl rfl rfl rfl rfl rfl
theorem Sys2Proof.Laws.Engine.max (d : Fin 32) (a b : Src) : Sys2Proof.Laws.Engine.Statement (.max d a b) :=
  Sys2Proof.Laws.Engine.ofCtl rfl rfl rfl rfl rfl rfl
theorem Sys2Proof.Laws.Engine.minu (d : Fin 32) (a b : Src) : Sys2Proof.Laws.Engine.Statement (.minu d a b) :=
  Sys2Proof.Laws.Engine.ofCtl rfl rfl rfl rfl rfl rfl
theorem Sys2Proof.Laws.Engine.maxu (d : Fin 32) (a b : Src) : Sys2Proof.Laws.Engine.Statement (.maxu d a b) :=
  Sys2Proof.Laws.Engine.ofCtl rfl rfl rfl rfl rfl rfl
theorem Sys2Proof.Laws.Engine.slt (d : Fin 32) (a b : Src) : Sys2Proof.Laws.Engine.Statement (.slt d a b) :=
  Sys2Proof.Laws.Engine.ofCtl rfl rfl rfl rfl rfl rfl
theorem Sys2Proof.Laws.Engine.sltu (d : Fin 32) (a b : Src) : Sys2Proof.Laws.Engine.Statement (.sltu d a b) :=
  Sys2Proof.Laws.Engine.ofCtl rfl rfl rfl rfl rfl rfl
theorem Sys2Proof.Laws.Engine.seq (d : Fin 32) (a b : Src) : Sys2Proof.Laws.Engine.Statement (.seq d a b) :=
  Sys2Proof.Laws.Engine.ofCtl rfl rfl rfl rfl rfl rfl
theorem Sys2Proof.Laws.Engine.clz (d : Fin 32) (a : Src) : Sys2Proof.Laws.Engine.Statement (.clz d a) :=
  Sys2Proof.Laws.Engine.ofCtl rfl rfl rfl rfl rfl rfl
theorem Sys2Proof.Laws.Engine.popc (d : Fin 32) (a : Src) : Sys2Proof.Laws.Engine.Statement (.popc d a) :=
  Sys2Proof.Laws.Engine.ofCtl rfl rfl rfl rfl rfl rfl
theorem Sys2Proof.Laws.Engine.addi (d : Fin 32) (a : Src) (i : BitVec 8) : Sys2Proof.Laws.Engine.Statement (.addi d a i) :=
  Sys2Proof.Laws.Engine.ofCtl rfl rfl rfl rfl rfl rfl
theorem Sys2Proof.Laws.Engine.andi (d : Fin 32) (a : Src) (i : BitVec 8) : Sys2Proof.Laws.Engine.Statement (.andi d a i) :=
  Sys2Proof.Laws.Engine.ofCtl rfl rfl rfl rfl rfl rfl
theorem Sys2Proof.Laws.Engine.ori (d : Fin 32) (a : Src) (i : BitVec 8) : Sys2Proof.Laws.Engine.Statement (.ori d a i) :=
  Sys2Proof.Laws.Engine.ofCtl rfl rfl rfl rfl rfl rfl
theorem Sys2Proof.Laws.Engine.xori (d : Fin 32) (a : Src) (i : BitVec 8) : Sys2Proof.Laws.Engine.Statement (.xori d a i) :=
  Sys2Proof.Laws.Engine.ofCtl rfl rfl rfl rfl rfl rfl
theorem Sys2Proof.Laws.Engine.shli (d : Fin 32) (a : Src) (i : BitVec 6) : Sys2Proof.Laws.Engine.Statement (.shli d a i) :=
  Sys2Proof.Laws.Engine.ofCtl rfl rfl rfl rfl rfl rfl
theorem Sys2Proof.Laws.Engine.shri (d : Fin 32) (a : Src) (i : BitVec 6) : Sys2Proof.Laws.Engine.Statement (.shri d a i) :=
  Sys2Proof.Laws.Engine.ofCtl rfl rfl rfl rfl rfl rfl
theorem Sys2Proof.Laws.Engine.sari (d : Fin 32) (a : Src) (i : BitVec 6) : Sys2Proof.Laws.Engine.Statement (.sari d a i) :=
  Sys2Proof.Laws.Engine.ofCtl rfl rfl rfl rfl rfl rfl
theorem Sys2Proof.Laws.Engine.li (d : Fin 32) (i : BitVec 15) : Sys2Proof.Laws.Engine.Statement (.li d i) :=
  Sys2Proof.Laws.Engine.ofCtl rfl rfl rfl rfl rfl rfl
theorem Sys2Proof.Laws.Engine.lix (d : Fin 32) (x : BitVec 32) : Sys2Proof.Laws.Engine.Statement (.lix d x) :=
  Sys2Proof.Laws.Engine.ofCtl rfl rfl rfl rfl rfl rfl
theorem Sys2Proof.Laws.Engine.lix64 (d : Fin 32) (lo hi : BitVec 32) : Sys2Proof.Laws.Engine.Statement (.lix64 d lo hi) :=
  Sys2Proof.Laws.Engine.ofCtl rfl rfl rfl rfl rfl rfl
theorem Sys2Proof.Laws.Engine.ld8 (d : Fin 32) (a : Src) (i : BitVec 8) : Sys2Proof.Laws.Engine.Statement (.ld8 d a i) :=
  Sys2Proof.Laws.Engine.ofCtl rfl rfl rfl rfl rfl rfl
theorem Sys2Proof.Laws.Engine.ld16 (d : Fin 32) (a : Src) (i : BitVec 8) : Sys2Proof.Laws.Engine.Statement (.ld16 d a i) :=
  Sys2Proof.Laws.Engine.ofCtl rfl rfl rfl rfl rfl rfl
theorem Sys2Proof.Laws.Engine.ld32 (d : Fin 32) (a : Src) (i : BitVec 8) : Sys2Proof.Laws.Engine.Statement (.ld32 d a i) :=
  Sys2Proof.Laws.Engine.ofCtl rfl rfl rfl rfl rfl rfl
theorem Sys2Proof.Laws.Engine.ld64 (d : Fin 32) (a : Src) (i : BitVec 8) : Sys2Proof.Laws.Engine.Statement (.ld64 d a i) :=
  Sys2Proof.Laws.Engine.ofCtl rfl rfl rfl rfl rfl rfl
theorem Sys2Proof.Laws.Engine.lds8 (d : Fin 32) (a : Src) (i : BitVec 8) : Sys2Proof.Laws.Engine.Statement (.lds8 d a i) :=
  Sys2Proof.Laws.Engine.ofCtl rfl rfl rfl rfl rfl rfl
theorem Sys2Proof.Laws.Engine.lds16 (d : Fin 32) (a : Src) (i : BitVec 8) : Sys2Proof.Laws.Engine.Statement (.lds16 d a i) :=
  Sys2Proof.Laws.Engine.ofCtl rfl rfl rfl rfl rfl rfl
theorem Sys2Proof.Laws.Engine.lds32 (d : Fin 32) (a : Src) (i : BitVec 8) : Sys2Proof.Laws.Engine.Statement (.lds32 d a i) :=
  Sys2Proof.Laws.Engine.ofCtl rfl rfl rfl rfl rfl rfl
theorem Sys2Proof.Laws.Engine.st8 (d : Src) (a : Src) (i : BitVec 8) : Sys2Proof.Laws.Engine.Statement (.st8 d a i) :=
  Sys2Proof.Laws.Engine.ofCtl rfl rfl rfl rfl rfl rfl
theorem Sys2Proof.Laws.Engine.st16 (d : Src) (a : Src) (i : BitVec 8) : Sys2Proof.Laws.Engine.Statement (.st16 d a i) :=
  Sys2Proof.Laws.Engine.ofCtl rfl rfl rfl rfl rfl rfl
theorem Sys2Proof.Laws.Engine.st32 (d : Src) (a : Src) (i : BitVec 8) : Sys2Proof.Laws.Engine.Statement (.st32 d a i) :=
  Sys2Proof.Laws.Engine.ofCtl rfl rfl rfl rfl rfl rfl
theorem Sys2Proof.Laws.Engine.st64 (d : Src) (a : Src) (i : BitVec 8) : Sys2Proof.Laws.Engine.Statement (.st64 d a i) :=
  Sys2Proof.Laws.Engine.ofCtl rfl rfl rfl rfl rfl rfl
theorem Sys2Proof.Laws.Engine.amoadd (a b c : Fin 32) (dbl : Bool) : Sys2Proof.Laws.Engine.Statement (.amoadd a b c dbl) :=
  Sys2Proof.Laws.Engine.ofCtl rfl rfl rfl rfl rfl rfl
theorem Sys2Proof.Laws.Engine.amoswp (a b c : Fin 32) (dbl : Bool) : Sys2Proof.Laws.Engine.Statement (.amoswp a b c dbl) :=
  Sys2Proof.Laws.Engine.ofCtl rfl rfl rfl rfl rfl rfl
theorem Sys2Proof.Laws.Engine.amocas (a b c : Fin 32) (dbl : Bool) : Sys2Proof.Laws.Engine.Statement (.amocas a b c dbl) :=
  Sys2Proof.Laws.Engine.ofCtl rfl rfl rfl rfl rfl rfl
theorem Sys2Proof.Laws.Engine.amomin (a b c : Fin 32) (dbl u : Bool) : Sys2Proof.Laws.Engine.Statement (.amomin a b c dbl u) :=
  Sys2Proof.Laws.Engine.ofCtl rfl rfl rfl rfl rfl rfl
theorem Sys2Proof.Laws.Engine.amomax (a b c : Fin 32) (dbl u : Bool) : Sys2Proof.Laws.Engine.Statement (.amomax a b c dbl u) :=
  Sys2Proof.Laws.Engine.ofCtl rfl rfl rfl rfl rfl rfl
theorem Sys2Proof.Laws.Engine.amoand (a b c : Fin 32) (dbl : Bool) : Sys2Proof.Laws.Engine.Statement (.amoand a b c dbl) :=
  Sys2Proof.Laws.Engine.ofCtl rfl rfl rfl rfl rfl rfl
theorem Sys2Proof.Laws.Engine.amoor (a b c : Fin 32) (dbl : Bool) : Sys2Proof.Laws.Engine.Statement (.amoor a b c dbl) :=
  Sys2Proof.Laws.Engine.ofCtl rfl rfl rfl rfl rfl rfl
theorem Sys2Proof.Laws.Engine.amoxor (a b c : Fin 32) (dbl : Bool) : Sys2Proof.Laws.Engine.Statement (.amoxor a b c dbl) :=
  Sys2Proof.Laws.Engine.ofCtl rfl rfl rfl rfl rfl rfl
theorem Sys2Proof.Laws.Engine.amocas2 (a b c : Fin 32) : Sys2Proof.Laws.Engine.Statement (.amocas2 a b c) :=
  Sys2Proof.Laws.Engine.ofCtl rfl rfl rfl rfl rfl rfl
theorem Sys2Proof.Laws.Engine.lenq (a b c : Fin 32) : Sys2Proof.Laws.Engine.Statement (.lenq a b c) :=
  Sys2Proof.Laws.Engine.ofCtl rfl rfl rfl rfl rfl rfl
theorem Sys2Proof.Laws.Engine.ldeq (a b c : Fin 32) : Sys2Proof.Laws.Engine.Statement (.ldeq a b c) :=
  Sys2Proof.Laws.Engine.ofCtl rfl rfl rfl rfl rfl rfl
theorem Sys2Proof.Laws.Engine.pchase (a b c : Fin 32) (f : BitVec 7) : Sys2Proof.Laws.Engine.Statement (.pchase a b c f) :=
  Sys2Proof.Laws.Engine.ofCtl rfl rfl rfl rfl rfl rfl
theorem Sys2Proof.Laws.Engine.b (disp : BitVec 17) (slot : Fin 32) : Sys2Proof.Laws.Engine.Statement (.b disp slot) :=
  Sys2Proof.Laws.Engine.ofCtl rfl rfl rfl rfl rfl rfl
theorem Sys2Proof.Laws.Engine.bz (s : Fin 32) (disp : BitVec 12) (slot : Fin 32) : Sys2Proof.Laws.Engine.Statement (.bz s disp slot) :=
  Sys2Proof.Laws.Engine.ofCtl rfl rfl rfl rfl rfl rfl
theorem Sys2Proof.Laws.Engine.bnz (s : Fin 32) (disp : BitVec 12) (slot : Fin 32) : Sys2Proof.Laws.Engine.Statement (.bnz s disp slot) :=
  Sys2Proof.Laws.Engine.ofCtl rfl rfl rfl rfl rfl rfl
theorem Sys2Proof.Laws.Engine.bcq (disp : BitVec 12) (slot : Fin 32) : Sys2Proof.Laws.Engine.Statement (.bcq disp slot) :=
  Sys2Proof.Laws.Engine.ofCtl rfl rfl rfl rfl rfl rfl
theorem Sys2Proof.Laws.Engine.bcqn (disp : BitVec 12) (slot : Fin 32) : Sys2Proof.Laws.Engine.Statement (.bcqn disp slot) :=
  Sys2Proof.Laws.Engine.ofCtl rfl rfl rfl rfl rfl rfl
theorem Sys2Proof.Laws.Engine.call (disp : BitVec 17) (slot : Fin 32) : Sys2Proof.Laws.Engine.Statement (.call disp slot) :=
  Sys2Proof.Laws.Engine.ofCtl rfl rfl rfl rfl rfl rfl
theorem Sys2Proof.Laws.Engine.callr (d : Fin 32) (a : Src) : Sys2Proof.Laws.Engine.Statement (.callr d a) :=
  Sys2Proof.Laws.Engine.ofCtl rfl rfl rfl rfl rfl rfl
theorem Sys2Proof.Laws.Engine.jr (a : Src) : Sys2Proof.Laws.Engine.Statement (.jr a) :=
  Sys2Proof.Laws.Engine.ofCtl rfl rfl rfl rfl rfl rfl
theorem Sys2Proof.Laws.Engine.ret (a : Src) : Sys2Proof.Laws.Engine.Statement (.ret a) :=
  Sys2Proof.Laws.Engine.ofCtl rfl rfl rfl rfl rfl rfl
theorem Sys2Proof.Laws.Engine.loop (op : LoopOp) (k : Fin 4) : Sys2Proof.Laws.Engine.Statement (.loop op k) :=
  Sys2Proof.Laws.Engine.ofCtl rfl rfl rfl rfl rfl rfl
theorem Sys2Proof.Laws.Engine.loopi (op : LoopIOp) (k : Fin 4) : Sys2Proof.Laws.Engine.Statement (.loopi op k) :=
  Sys2Proof.Laws.Engine.ofCtl rfl rfl rfl rfl rfl rfl
theorem Sys2Proof.Laws.Engine.cqpop (d : Fin 32) : Sys2Proof.Laws.Engine.Statement (.cqpop d) :=
  Sys2Proof.Laws.Engine.ofCtl rfl rfl rfl rfl rfl rfl
theorem Sys2Proof.Laws.Engine.xqpop (d : Fin 32) : Sys2Proof.Laws.Engine.Statement (.xqpop d) :=
  Sys2Proof.Laws.Engine.ofCtl rfl rfl rfl rfl rfl rfl
theorem Sys2Proof.Laws.Engine.movc (a : Src) (n : BitVec 8) : Sys2Proof.Laws.Engine.Statement (.movc a n) :=
  Sys2Proof.Laws.Engine.ofCtl rfl rfl rfl rfl rfl rfl
theorem Sys2Proof.Laws.Engine.movcr (d : Fin 32) (n : BitVec 8) : Sys2Proof.Laws.Engine.Statement (.movcr d n) :=
  Sys2Proof.Laws.Engine.ofCtl rfl rfl rfl rfl rfl rfl
theorem Sys2Proof.Laws.Engine.bar (sc : Scope) : Sys2Proof.Laws.Engine.Statement (.bar sc) :=
  Sys2Proof.Laws.Engine.ofCtl rfl rfl rfl rfl rfl rfl
theorem Sys2Proof.Laws.Engine.fence : Sys2Proof.Laws.Engine.Statement (.fence) :=
  Sys2Proof.Laws.Engine.ofCtl rfl rfl rfl rfl rfl rfl
theorem Sys2Proof.Laws.Engine.phase (sc : Scope) : Sys2Proof.Laws.Engine.Statement (.phase sc) :=
  Sys2Proof.Laws.Engine.ofCtl rfl rfl rfl rfl rfl rfl
theorem Sys2Proof.Laws.Engine.qfence (m : BitVec 7) : Sys2Proof.Laws.Engine.Statement (.qfence m) :=
  Sys2Proof.Laws.Engine.ofCtl rfl rfl rfl rfl rfl rfl
theorem Sys2Proof.Laws.Engine.rkey (a b : Src) : Sys2Proof.Laws.Engine.Statement (.rkey a b) :=
  Sys2Proof.Laws.Engine.ofCtl rfl rfl rfl rfl rfl rfl
theorem Sys2Proof.Laws.Engine.rctr (a b : Src) : Sys2Proof.Laws.Engine.Statement (.rctr a b) :=
  Sys2Proof.Laws.Engine.ofCtl rfl rfl rfl rfl rfl rfl
theorem Sys2Proof.Laws.Engine.rskip (a b : Src) : Sys2Proof.Laws.Engine.Statement (.rskip a b) :=
  Sys2Proof.Laws.Engine.ofCtl rfl rfl rfl rfl rfl rfl
theorem Sys2Proof.Laws.Engine.rnext (d : Fin 32) : Sys2Proof.Laws.Engine.Statement (.rnext d) :=
  Sys2Proof.Laws.Engine.ofCtl rfl rfl rfl rfl rfl rfl
theorem Sys2Proof.Laws.Engine.rden (d : Fin 32) : Sys2Proof.Laws.Engine.Statement (.rden d) :=
  Sys2Proof.Laws.Engine.ofCtl rfl rfl rfl rfl rfl rfl
theorem Sys2Proof.Laws.Engine.rdpwr (d : Fin 32) : Sys2Proof.Laws.Engine.Statement (.rdpwr d) :=
  Sys2Proof.Laws.Engine.ofCtl rfl rfl rfl rfl rfl rfl
theorem Sys2Proof.Laws.Engine.rdcyc (d : Fin 32) : Sys2Proof.Laws.Engine.Statement (.rdcyc d) :=
  Sys2Proof.Laws.Engine.ofCtl rfl rfl rfl rfl rfl rfl
theorem Sys2Proof.Laws.Engine.rdret (d : Fin 32) : Sys2Proof.Laws.Engine.Statement (.rdret d) :=
  Sys2Proof.Laws.Engine.ofCtl rfl rfl rfl rfl rfl rfl
theorem Sys2Proof.Laws.Engine.trap (code : BitVec 15) : Sys2Proof.Laws.Engine.Statement (.trap code) :=
  Sys2Proof.Laws.Engine.ofCtl rfl rfl rfl rfl rfl rfl
theorem Sys2Proof.Laws.Engine.vadd (d : Fin 128) (a b : VSrc) (m : VMod) : Sys2Proof.Laws.Engine.Statement (.vadd d a b m) :=
  Sys2Proof.Laws.Engine.ofVec rfl rfl rfl rfl rfl rfl
theorem Sys2Proof.Laws.Engine.vsub (d : Fin 128) (a b : VSrc) (m : VMod) : Sys2Proof.Laws.Engine.Statement (.vsub d a b m) :=
  Sys2Proof.Laws.Engine.ofVec rfl rfl rfl rfl rfl rfl
theorem Sys2Proof.Laws.Engine.vmul (d : Fin 128) (a b : VSrc) (m : VMod) : Sys2Proof.Laws.Engine.Statement (.vmul d a b m) :=
  Sys2Proof.Laws.Engine.ofVec rfl rfl rfl rfl rfl rfl
theorem Sys2Proof.Laws.Engine.vfma (d : Fin 128) (a b : VSrc) (m : VMod) : Sys2Proof.Laws.Engine.Statement (.vfma d a b m) :=
  Sys2Proof.Laws.Engine.ofVec rfl rfl rfl rfl rfl rfl
theorem Sys2Proof.Laws.Engine.vfms (d : Fin 128) (a b : VSrc) (m : VMod) : Sys2Proof.Laws.Engine.Statement (.vfms d a b m) :=
  Sys2Proof.Laws.Engine.ofVec rfl rfl rfl rfl rfl rfl
theorem Sys2Proof.Laws.Engine.vfnma (d : Fin 128) (a b : VSrc) (m : VMod) : Sys2Proof.Laws.Engine.Statement (.vfnma d a b m) :=
  Sys2Proof.Laws.Engine.ofVec rfl rfl rfl rfl rfl rfl
theorem Sys2Proof.Laws.Engine.vmin (d : Fin 128) (a b : VSrc) (m : VMod) : Sys2Proof.Laws.Engine.Statement (.vmin d a b m) :=
  Sys2Proof.Laws.Engine.ofVec rfl rfl rfl rfl rfl rfl
theorem Sys2Proof.Laws.Engine.vmax (d : Fin 128) (a b : VSrc) (m : VMod) : Sys2Proof.Laws.Engine.Statement (.vmax d a b m) :=
  Sys2Proof.Laws.Engine.ofVec rfl rfl rfl rfl rfl rfl
theorem Sys2Proof.Laws.Engine.vabs (d : Fin 128) (a : VSrc) (m : VMod) : Sys2Proof.Laws.Engine.Statement (.vabs d a m) :=
  Sys2Proof.Laws.Engine.ofVec rfl rfl rfl rfl rfl rfl
theorem Sys2Proof.Laws.Engine.vneg (d : Fin 128) (a : VSrc) (m : VMod) : Sys2Proof.Laws.Engine.Statement (.vneg d a m) :=
  Sys2Proof.Laws.Engine.ofVec rfl rfl rfl rfl rfl rfl
theorem Sys2Proof.Laws.Engine.vand (d : Fin 128) (a b : VSrc) (m : VMod) : Sys2Proof.Laws.Engine.Statement (.vand d a b m) :=
  Sys2Proof.Laws.Engine.ofVec rfl rfl rfl rfl rfl rfl
theorem Sys2Proof.Laws.Engine.vor (d : Fin 128) (a b : VSrc) (m : VMod) : Sys2Proof.Laws.Engine.Statement (.vor d a b m) :=
  Sys2Proof.Laws.Engine.ofVec rfl rfl rfl rfl rfl rfl
theorem Sys2Proof.Laws.Engine.vxor (d : Fin 128) (a b : VSrc) (m : VMod) : Sys2Proof.Laws.Engine.Statement (.vxor d a b m) :=
  Sys2Proof.Laws.Engine.ofVec rfl rfl rfl rfl rfl rfl
theorem Sys2Proof.Laws.Engine.vshl (d : Fin 128) (a b : VSrc) (m : VMod) : Sys2Proof.Laws.Engine.Statement (.vshl d a b m) :=
  Sys2Proof.Laws.Engine.ofVec rfl rfl rfl rfl rfl rfl
theorem Sys2Proof.Laws.Engine.vshr (d : Fin 128) (a b : VSrc) (m : VMod) : Sys2Proof.Laws.Engine.Statement (.vshr d a b m) :=
  Sys2Proof.Laws.Engine.ofVec rfl rfl rfl rfl rfl rfl
theorem Sys2Proof.Laws.Engine.vsar (d : Fin 128) (a b : VSrc) (m : VMod) : Sys2Proof.Laws.Engine.Statement (.vsar d a b m) :=
  Sys2Proof.Laws.Engine.ofVec rfl rfl rfl rfl rfl rfl
theorem Sys2Proof.Laws.Engine.vmov (d : Fin 128) (a : VSrc) (m : VMod) : Sys2Proof.Laws.Engine.Statement (.vmov d a m) :=
  Sys2Proof.Laws.Engine.ofVec rfl rfl rfl rfl rfl rfl
theorem Sys2Proof.Laws.Engine.vsel (d : Fin 128) (a b : VSrc) (m : VMod) : Sys2Proof.Laws.Engine.Statement (.vsel d a b m) :=
  Sys2Proof.Laws.Engine.ofVec rfl rfl rfl rfl rfl rfl
theorem Sys2Proof.Laws.Engine.vbcast (d : Fin 128) (a b : VSrc) (m : VMod) : Sys2Proof.Laws.Engine.Statement (.vbcast d a b m) :=
  Sys2Proof.Laws.Engine.ofVec rfl rfl rfl rfl rfl rfl
theorem Sys2Proof.Laws.Engine.viota (d : Fin 128) (a : VSrc) (m : VMod) : Sys2Proof.Laws.Engine.Statement (.viota d a m) :=
  Sys2Proof.Laws.Engine.ofVec rfl rfl rfl rfl rfl rfl
theorem Sys2Proof.Laws.Engine.vcmp (p : Pred) (d : Fin 8) (a b : VSrc) (m : VMod) : Sys2Proof.Laws.Engine.Statement (.vcmp p d a b m) :=
  Sys2Proof.Laws.Engine.ofVec rfl rfl rfl rfl rfl rfl
theorem Sys2Proof.Laws.Engine.vclass (d : Fin 128) (a : VSrc) (m : VMod) : Sys2Proof.Laws.Engine.Statement (.vclass d a m) :=
  Sys2Proof.Laws.Engine.ofVec rfl rfl rfl rfl rfl rfl
theorem Sys2Proof.Laws.Engine.vcvt (d : Fin 128) (a : VSrc) (df : Fmt) (part : Fin 4) (m : VMod) : Sys2Proof.Laws.Engine.Statement (.vcvt d a df part m) :=
  Sys2Proof.Laws.Engine.ofVec rfl rfl rfl rfl rfl rfl
theorem Sys2Proof.Laws.Engine.vquant (d : Fin 128) (a : VSrc) (df : Fmt) (m : VMod) : Sys2Proof.Laws.Engine.Statement (.vquant d a df m) :=
  Sys2Proof.Laws.Engine.ofVec rfl rfl rfl rfl rfl rfl
theorem Sys2Proof.Laws.Engine.vdeq (d : Fin 128) (a : VSrc) (df : Fmt) (m : VMod) : Sys2Proof.Laws.Engine.Statement (.vdeq d a df m) :=
  Sys2Proof.Laws.Engine.ofVec rfl rfl rfl rfl rfl rfl
theorem Sys2Proof.Laws.Engine.vrcp (d : Fin 128) (a : VSrc) (m : VMod) : Sys2Proof.Laws.Engine.Statement (.vrcp d a m) :=
  Sys2Proof.Laws.Engine.ofVec rfl rfl rfl rfl rfl rfl
theorem Sys2Proof.Laws.Engine.vrsq (d : Fin 128) (a : VSrc) (m : VMod) : Sys2Proof.Laws.Engine.Statement (.vrsq d a m) :=
  Sys2Proof.Laws.Engine.ofVec rfl rfl rfl rfl rfl rfl
theorem Sys2Proof.Laws.Engine.vsqrt (d : Fin 128) (a : VSrc) (m : VMod) : Sys2Proof.Laws.Engine.Statement (.vsqrt d a m) :=
  Sys2Proof.Laws.Engine.ofVec rfl rfl rfl rfl rfl rfl
theorem Sys2Proof.Laws.Engine.vexp2f (d : Fin 128) (a : VSrc) (m : VMod) : Sys2Proof.Laws.Engine.Statement (.vexp2f d a m) :=
  Sys2Proof.Laws.Engine.ofVec rfl rfl rfl rfl rfl rfl
theorem Sys2Proof.Laws.Engine.vlog2f (d : Fin 128) (a : VSrc) (m : VMod) : Sys2Proof.Laws.Engine.Statement (.vlog2f d a m) :=
  Sys2Proof.Laws.Engine.ofVec rfl rfl rfl rfl rfl rfl
theorem Sys2Proof.Laws.Engine.vrint (d : Fin 128) (a : VSrc) (m : VMod) : Sys2Proof.Laws.Engine.Statement (.vrint d a m) :=
  Sys2Proof.Laws.Engine.ofVec rfl rfl rfl rfl rfl rfl
theorem Sys2Proof.Laws.Engine.vfint (d : Fin 128) (a : VSrc) (m : VMod) : Sys2Proof.Laws.Engine.Statement (.vfint d a m) :=
  Sys2Proof.Laws.Engine.ofVec rfl rfl rfl rfl rfl rfl
theorem Sys2Proof.Laws.Engine.vexpi (d : Fin 128) (a b : VSrc) (m : VMod) : Sys2Proof.Laws.Engine.Statement (.vexpi d a b m) :=
  Sys2Proof.Laws.Engine.ofVec rfl rfl rfl rfl rfl rfl
theorem Sys2Proof.Laws.Engine.vgetexp (d : Fin 128) (a : VSrc) (m : VMod) : Sys2Proof.Laws.Engine.Statement (.vgetexp d a m) :=
  Sys2Proof.Laws.Engine.ofVec rfl rfl rfl rfl rfl rfl
theorem Sys2Proof.Laws.Engine.vgetmant (d : Fin 128) (a : VSrc) (m : VMod) : Sys2Proof.Laws.Engine.Statement (.vgetmant d a m) :=
  Sys2Proof.Laws.Engine.ofVec rfl rfl rfl rfl rfl rfl
theorem Sys2Proof.Laws.Engine.vredadd (d : Fin 128) (a : VSrc) (m : VMod) : Sys2Proof.Laws.Engine.Statement (.vredadd d a m) :=
  Sys2Proof.Laws.Engine.ofVec rfl rfl rfl rfl rfl rfl
theorem Sys2Proof.Laws.Engine.vredmax (d : Fin 128) (a : VSrc) (m : VMod) : Sys2Proof.Laws.Engine.Statement (.vredmax d a m) :=
  Sys2Proof.Laws.Engine.ofVec rfl rfl rfl rfl rfl rfl
theorem Sys2Proof.Laws.Engine.vredamax (d : Fin 128) (a : VSrc) (m : VMod) : Sys2Proof.Laws.Engine.Statement (.vredamax d a m) :=
  Sys2Proof.Laws.Engine.ofVec rfl rfl rfl rfl rfl rfl
theorem Sys2Proof.Laws.Engine.vredmin (d : Fin 128) (a : VSrc) (m : VMod) : Sys2Proof.Laws.Engine.Statement (.vredmin d a m) :=
  Sys2Proof.Laws.Engine.ofVec rfl rfl rfl rfl rfl rfl
theorem Sys2Proof.Laws.Engine.vscan (d : Fin 128) (a : VSrc) (m : VMod) : Sys2Proof.Laws.Engine.Statement (.vscan d a m) :=
  Sys2Proof.Laws.Engine.ofVec rfl rfl rfl rfl rfl rfl
theorem Sys2Proof.Laws.Engine.vperm (d : Fin 128) (a b : VSrc) (m : VMod) : Sys2Proof.Laws.Engine.Statement (.vperm d a b m) :=
  Sys2Proof.Laws.Engine.ofVec rfl rfl rfl rfl rfl rfl
theorem Sys2Proof.Laws.Engine.vshuf (d : Fin 128) (a b : VSrc) (pat : ShufPat) (m : VMod) : Sys2Proof.Laws.Engine.Statement (.vshuf d a b pat m) :=
  Sys2Proof.Laws.Engine.ofVec rfl rfl rfl rfl rfl rfl
theorem Sys2Proof.Laws.Engine.vrot (d : Fin 128) (a b : VSrc) (m : VMod) : Sys2Proof.Laws.Engine.Statement (.vrot d a b m) :=
  Sys2Proof.Laws.Engine.ofVec rfl rfl rfl rfl rfl rfl
theorem Sys2Proof.Laws.Engine.vslide (d : Fin 128) (a b : VSrc) (m : VMod) : Sys2Proof.Laws.Engine.Statement (.vslide d a b m) :=
  Sys2Proof.Laws.Engine.ofVec rfl rfl rfl rfl rfl rfl
theorem Sys2Proof.Laws.Engine.vcomp (d : Fin 128) (a : VSrc) (k : BitVec 8) (m : VMod) : Sys2Proof.Laws.Engine.Statement (.vcomp d a k m) :=
  Sys2Proof.Laws.Engine.ofVec rfl rfl rfl rfl rfl rfl
theorem Sys2Proof.Laws.Engine.vrng (d : Fin 128) (m : VMod) : Sys2Proof.Laws.Engine.Statement (.vrng d m) :=
  Sys2Proof.Laws.Engine.ofVec rfl rfl rfl rfl rfl rfl
theorem Sys2Proof.Laws.Engine.vld (d : Fin 128) (a : Fin 32) (m : VMod) : Sys2Proof.Laws.Engine.Statement (.vld d a m) :=
  Sys2Proof.Laws.Engine.ofVec rfl rfl rfl rfl rfl rfl
theorem Sys2Proof.Laws.Engine.vst (d : Fin 128) (a : Fin 32) (m : VMod) : Sys2Proof.Laws.Engine.Statement (.vst d a m) :=
  Sys2Proof.Laws.Engine.ofVec rfl rfl rfl rfl rfl rfl
theorem Sys2Proof.Laws.Engine.vlds (d : Fin 128) (a b : Fin 32) (m : VMod) : Sys2Proof.Laws.Engine.Statement (.vlds d a b m) :=
  Sys2Proof.Laws.Engine.ofVec rfl rfl rfl rfl rfl rfl
theorem Sys2Proof.Laws.Engine.vsts (d : Fin 128) (a b : Fin 32) (m : VMod) : Sys2Proof.Laws.Engine.Statement (.vsts d a b m) :=
  Sys2Proof.Laws.Engine.ofVec rfl rfl rfl rfl rfl rfl
theorem Sys2Proof.Laws.Engine.vgath (d : Fin 128) (a : Fin 32) (b : Fin 128) (m : VMod) : Sys2Proof.Laws.Engine.Statement (.vgath d a b m) :=
  Sys2Proof.Laws.Engine.ofVec rfl rfl rfl rfl rfl rfl
theorem Sys2Proof.Laws.Engine.vscat (d : Fin 128) (a : Fin 32) (b : Fin 128) (m : VMod) : Sys2Proof.Laws.Engine.Statement (.vscat d a b m) :=
  Sys2Proof.Laws.Engine.ofVec rfl rfl rfl rfl rfl rfl
theorem Sys2Proof.Laws.Engine.mand (d a b : Fin 8) (m : VMod) : Sys2Proof.Laws.Engine.Statement (.mand d a b m) :=
  Sys2Proof.Laws.Engine.ofVec rfl rfl rfl rfl rfl rfl
theorem Sys2Proof.Laws.Engine.mor (d a b : Fin 8) (m : VMod) : Sys2Proof.Laws.Engine.Statement (.mor d a b m) :=
  Sys2Proof.Laws.Engine.ofVec rfl rfl rfl rfl rfl rfl
theorem Sys2Proof.Laws.Engine.mxor (d a b : Fin 8) (m : VMod) : Sys2Proof.Laws.Engine.Statement (.mxor d a b m) :=
  Sys2Proof.Laws.Engine.ofVec rfl rfl rfl rfl rfl rfl
theorem Sys2Proof.Laws.Engine.mnot (d a : Fin 8) (m : VMod) : Sys2Proof.Laws.Engine.Statement (.mnot d a m) :=
  Sys2Proof.Laws.Engine.ofVec rfl rfl rfl rfl rfl rfl
theorem Sys2Proof.Laws.Engine.mpop (a : Fin 8) (m : VMod) : Sys2Proof.Laws.Engine.Statement (.mpop a m) :=
  Sys2Proof.Laws.Engine.ofVec rfl rfl rfl rfl rfl rfl
theorem Sys2Proof.Laws.Engine.mfirst (d a : Fin 8) (m : VMod) : Sys2Proof.Laws.Engine.Statement (.mfirst d a m) :=
  Sys2Proof.Laws.Engine.ofVec rfl rfl rfl rfl rfl rfl
theorem Sys2Proof.Laws.Engine.vanyq (a : Fin 8) (m : VMod) : Sys2Proof.Laws.Engine.Statement (.vanyq a m) :=
  Sys2Proof.Laws.Engine.ofVec rfl rfl rfl rfl rfl rfl
theorem Sys2Proof.Laws.Engine.vallq (a : Fin 8) (m : VMod) : Sys2Proof.Laws.Engine.Statement (.vallq a m) :=
  Sys2Proof.Laws.Engine.ofVec rfl rfl rfl rfl rfl rfl
theorem Sys2Proof.Laws.Engine.vxq (a b : VSrc) (m : VMod) : Sys2Proof.Laws.Engine.Statement (.vxq a b m) :=
  Sys2Proof.Laws.Engine.ofVec rfl rfl rfl rfl rfl rfl
theorem Sys2Proof.Laws.Engine.mlease (gang : Bool) : Sys2Proof.Laws.Engine.Statement (.mlease gang) :=
  Sys2Proof.Laws.Engine.ofMtx rfl rfl rfl rfl rfl rfl
theorem Sys2Proof.Laws.Engine.mrel : Sys2Proof.Laws.Engine.Statement (.mrel) :=
  Sys2Proof.Laws.Engine.ofMtx rfl rfl rfl rfl rfl rfl
theorem Sys2Proof.Laws.Engine.mldt (a b c : Fin 32) (t : Fin 8) : Sys2Proof.Laws.Engine.Statement (.mldt a b c t) :=
  Sys2Proof.Laws.Engine.ofMtx rfl rfl rfl rfl rfl rfl
theorem Sys2Proof.Laws.Engine.mstt (a b c : Fin 32) (t : Fin 8) : Sys2Proof.Laws.Engine.Statement (.mstt a b c t) :=
  Sys2Proof.Laws.Engine.ofMtx rfl rfl rfl rfl rfl rfl
theorem Sys2Proof.Laws.Engine.mcvt (d a : Fin 8) (sf df : MFmt) (rm : RmSel) (sat : Bool) : Sys2Proof.Laws.Engine.Statement (.mcvt d a sf df rm sat) :=
  Sys2Proof.Laws.Engine.ofMtx rfl rfl rfl rfl rfl rfl
theorem Sys2Proof.Laws.Engine.mtrn (d a : Fin 8) : Sys2Proof.Laws.Engine.Statement (.mtrn d a) :=
  Sys2Proof.Laws.Engine.ofMtx rfl rfl rfl rfl rfl rfl
theorem Sys2Proof.Laws.Engine.mzero (d : Fin 128) (n : Fin 128) : Sys2Proof.Laws.Engine.Statement (.mzero d n) :=
  Sys2Proof.Laws.Engine.ofMtx rfl rfl rfl rfl rfl rfl
theorem Sys2Proof.Laws.Engine.mzeroT (t : Fin 8) : Sys2Proof.Laws.Engine.Statement (.mzeroT t) :=
  Sys2Proof.Laws.Engine.ofMtx rfl rfl rfl rfl rfl rfl
theorem Sys2Proof.Laws.Engine.mma (d : Fin 128) (a b : Fin 8) (f : MFmt) (acc : Bool) (zc : BitVec 8) : Sys2Proof.Laws.Engine.Statement (.mma d a b f acc zc) :=
  Sys2Proof.Laws.Engine.ofMtx rfl rfl rfl rfl rfl rfl
theorem Sys2Proof.Laws.Engine.mmag (a b : Fin 8) (f : MFmt) (acc : Bool) : Sys2Proof.Laws.Engine.Statement (.mmag a b f acc) :=
  Sys2Proof.Laws.Engine.ofMtx rfl rfl rfl rfl rfl rfl
theorem Sys2Proof.Laws.Engine.mdrain (d : Fin 128) (a : Fin 32) (df : Fmt) (tr : Option DrainT) (rm : RmSel) (sat : Bool) (rows : Fin 128) (cols : BitVec 8) : Sys2Proof.Laws.Engine.Statement (.mdrain d a df tr rm sat rows cols) :=
  Sys2Proof.Laws.Engine.ofMtx rfl rfl rfl rfl rfl rfl
theorem Sys2Proof.Laws.Engine.mfmt (n : Fin 16) (code : Fmt) : Sys2Proof.Laws.Engine.Statement (.mfmt n code) :=
  Sys2Proof.Laws.Engine.ofMtx rfl rfl rfl rfl rfl rfl
theorem Sys2Proof.Laws.Engine.mchkn (a : Fin 32) : Sys2Proof.Laws.Engine.Statement (.mchkn a) :=
  Sys2Proof.Laws.Engine.ofMtx rfl rfl rfl rfl rfl rfl
theorem Sys2Proof.Laws.Engine.mkat (a b : Fin 32) (disp : BitVec 17) (slot : Fin 32) : Sys2Proof.Laws.Engine.Statement (.mkat a b disp slot) :=
  Sys2Proof.Laws.Engine.ofMtx rfl rfl rfl rfl rfl rfl
theorem Sys2Proof.Laws.Engine.mwait (z gang : Bool) : Sys2Proof.Laws.Engine.Statement (.mwait z gang) :=
  Sys2Proof.Laws.Engine.ofMtx rfl rfl rfl rfl rfl rfl
theorem Sys2Proof.Laws.Engine.copy (a b c : Fin 32) : Sys2Proof.Laws.Engine.Statement (.copy a b c) :=
  Sys2Proof.Laws.Engine.ofCpy rfl rfl rfl rfl rfl rfl
theorem Sys2Proof.Laws.Engine.copy2 (a b c : Fin 32) (len : BitVec 18) (rows : BitVec 14) : Sys2Proof.Laws.Engine.Statement (.copy2 a b c len rows) :=
  Sys2Proof.Laws.Engine.ofCpy rfl rfl rfl rfl rfl rfl
theorem Sys2Proof.Laws.Engine.gather (a b c : Fin 32) (q : Option (Fin 8)) (esz : Fin 4) (count : BitVec 24) : Sys2Proof.Laws.Engine.Statement (.gather a b c q esz count) :=
  Sys2Proof.Laws.Engine.ofCpy rfl rfl rfl rfl rfl rfl
theorem Sys2Proof.Laws.Engine.scatter (a b c : Fin 32) (esz : Fin 4) (count : BitVec 24) : Sys2Proof.Laws.Engine.Statement (.scatter a b c esz count) :=
  Sys2Proof.Laws.Engine.ofCpy rfl rfl rfl rfl rfl rfl
theorem Sys2Proof.Laws.Engine.sbind (a b c : Fin 32) (kind : StreamKind) (q : Fin 8) : Sys2Proof.Laws.Engine.Statement (.sbind a b c kind q) :=
  Sys2Proof.Laws.Engine.ofCpy rfl rfl rfl rfl rfl rfl
theorem Sys2Proof.Laws.Engine.sunbind (q : Fin 8) : Sys2Proof.Laws.Engine.Statement (.sunbind q) :=
  Sys2Proof.Laws.Engine.ofCpy rfl rfl rfl rfl rfl rfl
theorem Sys2Proof.Laws.Engine.sout (a b c : Fin 32) (f : Fin 128) : Sys2Proof.Laws.Engine.Statement (.sout a b c f) :=
  Sys2Proof.Laws.Engine.ofCpy rfl rfl rfl rfl rfl rfl
theorem Sys2Proof.Laws.Engine.pref (a b : Fin 32) : Sys2Proof.Laws.Engine.Statement (.pref a b) :=
  Sys2Proof.Laws.Engine.ofCpy rfl rfl rfl rfl rfl rfl
theorem Sys2Proof.Laws.Engine.opk (a b c : Fin 32) (q : Option (Fin 8)) : Sys2Proof.Laws.Engine.Statement (.opk a b c q) :=
  Sys2Proof.Laws.Engine.ofCpy rfl rfl rfl rfl rfl rfl
theorem Sys2Proof.Laws.Engine.cjoin (a b c : Fin 32) (q : Fin 8) : Sys2Proof.Laws.Engine.Statement (.cjoin a b c q) :=
  Sys2Proof.Laws.Engine.ofCpy rfl rfl rfl rfl rfl rfl
theorem Sys2Proof.Laws.Engine.cleave (a : Fin 32) : Sys2Proof.Laws.Engine.Statement (.cleave a) :=
  Sys2Proof.Laws.Engine.ofCpy rfl rfl rfl rfl rfl rfl
theorem Sys2Proof.Laws.Engine.cstore (a b c : Fin 32) (q : Option (Fin 8)) : Sys2Proof.Laws.Engine.Statement (.cstore a b c q) :=
  Sys2Proof.Laws.Engine.ofCpy rfl rfl rfl rfl rfl rfl
theorem Sys2Proof.Laws.Engine.cwait (a b : Fin 32) : Sys2Proof.Laws.Engine.Statement (.cwait a b) :=
  Sys2Proof.Laws.Engine.ofCpy rfl rfl rfl rfl rfl rfl
theorem Sys2Proof.Laws.Engine.fred (a b c : Fin 32) (op : RedOp) (int nanskip : Bool) : Sys2Proof.Laws.Engine.Statement (.fred a b c op int nanskip) :=
  Sys2Proof.Laws.Engine.ofCpy rfl rfl rfl rfl rfl rfl
theorem Sys2Proof.Laws.Engine.fredw (a b c : Fin 32) (q : Fin 8) : Sys2Proof.Laws.Engine.Statement (.fredw a b c q) :=
  Sys2Proof.Laws.Engine.ofCpy rfl rfl rfl rfl rfl rfl
theorem Sys2Proof.Laws.Engine.frel : Sys2Proof.Laws.Engine.Statement (.frel) :=
  Sys2Proof.Laws.Engine.ofCpy rfl rfl rfl rfl rfl rfl
theorem Sys2Proof.Laws.Engine.gcfg (k bw : BitVec 7) (f : BitVec 4) : Sys2Proof.Laws.Engine.Statement (.gcfg k bw f) :=
  Sys2Proof.Laws.Engine.ofGau rfl rfl rfl rfl rfl rfl
theorem Sys2Proof.Laws.Engine.gplane (a b : Fin 32) : Sys2Proof.Laws.Engine.Statement (.gplane a b) :=
  Sys2Proof.Laws.Engine.ofGau rfl rfl rfl rfl rfl rfl
theorem Sys2Proof.Laws.Engine.ghash (d : Fin 128) (a : Fin 8) : Sys2Proof.Laws.Engine.Statement (.ghash d a) :=
  Sys2Proof.Laws.Engine.ofGau rfl rfl rfl rfl rfl rfl
theorem Sys2Proof.Laws.Engine.grep (d a : Fin 128) (t : Fin 8) (rule : RepRule) : Sys2Proof.Laws.Engine.Statement (.grep d a t rule) :=
  Sys2Proof.Laws.Engine.ofGau rfl rfl rfl rfl rfl rfl
theorem Sys2Proof.Laws.Engine.gpack (d a : Fin 8) (b : Fin 128) : Sys2Proof.Laws.Engine.Statement (.gpack d a b) :=
  Sys2Proof.Laws.Engine.ofGau rfl rfl rfl rfl rfl rfl
theorem Sys2Proof.Laws.Engine.gscat (d a b : Fin 128) : Sys2Proof.Laws.Engine.Statement (.gscat d a b) :=
  Sys2Proof.Laws.Engine.ofGau rfl rfl rfl rfl rfl rfl
theorem Sys2Proof.Laws.Engine.gmap (a : Fin 32) (m : Fin 128) : Sys2Proof.Laws.Engine.Statement (.gmap a m) :=
  Sys2Proof.Laws.Engine.ofGau rfl rfl rfl rfl rfl rfl
theorem Sys2Proof.Laws.Engine.glmap (a : Fin 32) (m : Fin 128) : Sys2Proof.Laws.Engine.Statement (.glmap a m) :=
  Sys2Proof.Laws.Engine.ofGau rfl rfl rfl rfl rfl rfl
theorem Sys2Proof.Laws.Engine.ggsum (d a b : Fin 128) : Sys2Proof.Laws.Engine.Statement (.ggsum d a b) :=
  Sys2Proof.Laws.Engine.ofGau rfl rfl rfl rfl rfl rfl
theorem Sys2Proof.Laws.Engine.tspawn (a b : Fin 32) (res : Bool) : Sys2Proof.Laws.Engine.Statement (.tspawn a b res) :=
  Sys2Proof.Laws.Engine.ofTsk rfl rfl rfl rfl rfl rfl
theorem Sys2Proof.Laws.Engine.tspawnl (a b : Fin 32) (res : Bool) : Sys2Proof.Laws.Engine.Statement (.tspawnl a b res) :=
  Sys2Proof.Laws.Engine.ofTsk rfl rfl rfl rfl rfl rfl
theorem Sys2Proof.Laws.Engine.tsig (a : Fin 32) : Sys2Proof.Laws.Engine.Statement (.tsig a) :=
  Sys2Proof.Laws.Engine.ofTsk rfl rfl rfl rfl rfl rfl
theorem Sys2Proof.Laws.Engine.tnewv (a b c : Fin 32) (tt : TileTgt) (dsel : Bool) (die : Fin 4) : Sys2Proof.Laws.Engine.Statement (.tnewv a b c tt dsel die) :=
  Sys2Proof.Laws.Engine.ofTsk rfl rfl rfl rfl rfl rfl
theorem Sys2Proof.Laws.Engine.tdecl (a : Fin 32) : Sys2Proof.Laws.Engine.Statement (.tdecl a) :=
  Sys2Proof.Laws.Engine.ofTsk rfl rfl rfl rfl rfl rfl
theorem Sys2Proof.Laws.Engine.treadv (a b : Fin 32) : Sys2Proof.Laws.Engine.Statement (.treadv a b) :=
  Sys2Proof.Laws.Engine.ofTsk rfl rfl rfl rfl rfl rfl
theorem Sys2Proof.Laws.Engine.tseal (a : Fin 32) : Sys2Proof.Laws.Engine.Statement (.tseal a) :=
  Sys2Proof.Laws.Engine.ofTsk rfl rfl rfl rfl rfl rfl
theorem Sys2Proof.Laws.Engine.trepl (a : Fin 32) (wait : Bool) : Sys2Proof.Laws.Engine.Statement (.trepl a wait) :=
  Sys2Proof.Laws.Engine.ofTsk rfl rfl rfl rfl rfl rfl
theorem Sys2Proof.Laws.Engine.tpin (a : Fin 32) (rel : Bool) : Sys2Proof.Laws.Engine.Statement (.tpin a rel) :=
  Sys2Proof.Laws.Engine.ofTsk rfl rfl rfl rfl rfl rfl
theorem Sys2Proof.Laws.Engine.tyield : Sys2Proof.Laws.Engine.Statement (.tyield) :=
  Sys2Proof.Laws.Engine.ofTsk rfl rfl rfl rfl rfl rfl
theorem Sys2Proof.Laws.Engine.texit : Sys2Proof.Laws.Engine.Statement (.texit) :=
  Sys2Proof.Laws.Engine.ofTsk rfl rfl rfl rfl rfl rfl
theorem Sys2Proof.Laws.Engine.tstat (a b : Fin 32) (task : Bool) : Sys2Proof.Laws.Engine.Statement (.tstat a b task) :=
  Sys2Proof.Laws.Engine.ofTsk rfl rfl rfl rfl rfl rfl
theorem Sys2Proof.Laws.Engine.sret : Sys2Proof.Laws.Engine.Statement (.sret) :=
  Sys2Proof.Laws.Engine.ofSys rfl rfl rfl rfl rfl rfl
theorem Sys2Proof.Laws.Engine.ctxsave (a b : Fin 32) : Sys2Proof.Laws.Engine.Statement (.ctxsave a b) :=
  Sys2Proof.Laws.Engine.ofSys rfl rfl rfl rfl rfl rfl
theorem Sys2Proof.Laws.Engine.ctxload (a b : Fin 32) : Sys2Proof.Laws.Engine.Statement (.ctxload a b) :=
  Sys2Proof.Laws.Engine.ofSys rfl rfl rfl rfl rfl rfl
theorem Sys2Proof.Laws.Engine.tlbinv (a b c : Fin 32) (all pod : Bool) : Sys2Proof.Laws.Engine.Statement (.tlbinv a b c all pod) :=
  Sys2Proof.Laws.Engine.ofSys rfl rfl rfl rfl rfl rfl
theorem Sys2Proof.Laws.Engine.asidbind (a b : Fin 32) : Sys2Proof.Laws.Engine.Statement (.asidbind a b) :=
  Sys2Proof.Laws.Engine.ofSys rfl rfl rfl rfl rfl rfl
theorem Sys2Proof.Laws.Engine.asidret (a : Fin 32) : Sys2Proof.Laws.Engine.Statement (.asidret a) :=
  Sys2Proof.Laws.Engine.ofSys rfl rfl rfl rfl rfl rfl
theorem Sys2Proof.Laws.Engine.keyld (a b : Fin 32) : Sys2Proof.Laws.Engine.Statement (.keyld a b) :=
  Sys2Proof.Laws.Engine.ofSys rfl rfl rfl rfl rfl rfl
theorem Sys2Proof.Laws.Engine.keyinv (a : Fin 32) : Sys2Proof.Laws.Engine.Statement (.keyinv a) :=
  Sys2Proof.Laws.Engine.ofSys rfl rfl rfl rfl rfl rfl
theorem Sys2Proof.Laws.Engine.quar (a : Fin 32) (rel : Bool) : Sys2Proof.Laws.Engine.Statement (.quar a rel) :=
  Sys2Proof.Laws.Engine.ofSys rfl rfl rfl rfl rfl rfl
theorem Sys2Proof.Laws.Engine.pwrcap (a b : Fin 32) : Sys2Proof.Laws.Engine.Statement (.pwrcap a b) :=
  Sys2Proof.Laws.Engine.ofSys rfl rfl rfl rfl rfl rfl
theorem Sys2Proof.Laws.Engine.idle : Sys2Proof.Laws.Engine.Statement (.idle) :=
  Sys2Proof.Laws.Engine.ofSys rfl rfl rfl rfl rfl rfl
theorem Sys2Proof.Laws.Engine.mcack : Sys2Proof.Laws.Engine.Statement (.mcack) :=
  Sys2Proof.Laws.Engine.ofSys rfl rfl rfl rfl rfl rfl
theorem Sys2Proof.Laws.Engine.smovc (a : Fin 32) (n : BitVec 8) : Sys2Proof.Laws.Engine.Statement (.smovc a n) :=
  Sys2Proof.Laws.Engine.ofSys rfl rfl rfl rfl rfl rfl
theorem Sys2Proof.Laws.Engine.smovcr (d : Fin 32) (n : BitVec 8) : Sys2Proof.Laws.Engine.Statement (.smovcr d n) :=
  Sys2Proof.Laws.Engine.ofSys rfl rfl rfl rfl rfl rfl
theorem Sys2Proof.Laws.Engine.artset (a b : Fin 32) : Sys2Proof.Laws.Engine.Statement (.artset a b) :=
  Sys2Proof.Laws.Engine.ofSys rfl rfl rfl rfl rfl rfl
theorem Sys2Proof.Laws.Engine.linkkey (a b : Fin 32) : Sys2Proof.Laws.Engine.Statement (.linkkey a b) :=
  Sys2Proof.Laws.Engine.ofSys rfl rfl rfl rfl rfl rfl
theorem Sys2Proof.Laws.Engine.loadResponse : Sys2Proof.Laws.Engine.Statement (.loadResponse) :=
  Sys2Proof.Laws.Engine.ofCtl rfl rfl rfl rfl rfl rfl
theorem Sys2Proof.Laws.Engine.atomicResponse : Sys2Proof.Laws.Engine.Statement (.atomicResponse) :=
  Sys2Proof.Laws.Engine.ofCtl rfl rfl rfl rfl rfl rfl
theorem Sys2Proof.Laws.Engine.streamDelivery : Sys2Proof.Laws.Engine.Statement (.streamDelivery) :=
  Sys2Proof.Laws.Engine.ofCtl rfl rfl rfl rfl rfl rfl
theorem Sys2Proof.Laws.Engine.faultAnswer : Sys2Proof.Laws.Engine.Statement (.faultAnswer) :=
  Sys2Proof.Laws.Engine.ofCtl rfl rfl rfl rfl rfl rfl
theorem Sys2Proof.Laws.Engine.faultSwitchBackTimeout : Sys2Proof.Laws.Engine.Statement (.faultSwitchBackTimeout) :=
  Sys2Proof.Laws.Engine.ofCtl rfl rfl rfl rfl rfl rfl
theorem Sys2Proof.Laws.Engine.waitBankSwitch : Sys2Proof.Laws.Engine.Statement (.waitBankSwitch) :=
  Sys2Proof.Laws.Engine.ofCtl rfl rfl rfl rfl rfl rfl
theorem Sys2Proof.Laws.Engine.cwaitStarvedTimeout : Sys2Proof.Laws.Engine.Statement (.cwaitStarvedTimeout) :=
  Sys2Proof.Laws.Engine.ofCtl rfl rfl rfl rfl rfl rfl
theorem Sys2Proof.Laws.Engine.barrierComplete : Sys2Proof.Laws.Engine.Statement (.barrierComplete) :=
  Sys2Proof.Laws.Engine.ofCtl rfl rfl rfl rfl rfl rfl
theorem Sys2Proof.Laws.Engine.barrierTimeout : Sys2Proof.Laws.Engine.Statement (.barrierTimeout) :=
  Sys2Proof.Laws.Engine.ofCtl rfl rfl rfl rfl rfl rfl
theorem Sys2Proof.Laws.Engine.trapEntry : Sys2Proof.Laws.Engine.Statement (.trapEntry) :=
  Sys2Proof.Laws.Engine.ofCtl rfl rfl rfl rfl rfl rfl
theorem Sys2Proof.Laws.Engine.asyncInterrupt : Sys2Proof.Laws.Engine.Statement (.asyncInterrupt) :=
  Sys2Proof.Laws.Engine.ofCtl rfl rfl rfl rfl rfl rfl
theorem Sys2Proof.Laws.Engine.timerExpiry : Sys2Proof.Laws.Engine.Statement (.timerExpiry) :=
  Sys2Proof.Laws.Engine.ofCtl rfl rfl rfl rfl rfl rfl
theorem Sys2Proof.Laws.Engine.idleWake : Sys2Proof.Laws.Engine.Statement (.idleWake) :=
  Sys2Proof.Laws.Engine.ofCtl rfl rfl rfl rfl rfl rfl
theorem Sys2Proof.Laws.Engine.preEmption : Sys2Proof.Laws.Engine.Statement (.preEmption) :=
  Sys2Proof.Laws.Engine.ofCtl rfl rfl rfl rfl rfl rfl
theorem Sys2Proof.Laws.Engine.contextRestore : Sys2Proof.Laws.Engine.Statement (.contextRestore) :=
  Sys2Proof.Laws.Engine.ofCtl rfl rfl rfl rfl rfl rfl
theorem Sys2Proof.Laws.Engine.machineCheck : Sys2Proof.Laws.Engine.Statement (.machineCheck) :=
  Sys2Proof.Laws.Engine.ofCtl rfl rfl rfl rfl rfl rfl
theorem Sys2Proof.Laws.Engine.taskSelection : Sys2Proof.Laws.Engine.Statement (.taskSelection) :=
  Sys2Proof.Laws.Engine.ofCtl rfl rfl rfl rfl rfl rfl
theorem Sys2Proof.Laws.Engine.preload : Sys2Proof.Laws.Engine.Statement (.preload) :=
  Sys2Proof.Laws.Engine.ofCtl rfl rfl rfl rfl rfl rfl
theorem Sys2Proof.Laws.Engine.dispatcherReport : Sys2Proof.Laws.Engine.Statement (.dispatcherReport) :=
  Sys2Proof.Laws.Engine.ofCtl rfl rfl rfl rfl rfl rfl
theorem Sys2Proof.Laws.Engine.ageing : Sys2Proof.Laws.Engine.Statement (.ageing) :=
  Sys2Proof.Laws.Engine.ofCtl rfl rfl rfl rfl rfl rfl
theorem Sys2Proof.Laws.Engine.priorityPreemptionRequest : Sys2Proof.Laws.Engine.Statement (.priorityPreemptionRequest) :=
  Sys2Proof.Laws.Engine.ofCtl rfl rfl rfl rfl rfl rfl
theorem Sys2Proof.Laws.Engine.loopNestWalk : Sys2Proof.Laws.Engine.Statement (.loopNestWalk) :=
  Sys2Proof.Laws.Engine.ofCtl rfl rfl rfl rfl rfl rfl
theorem Sys2Proof.Laws.Engine.signalArrival : Sys2Proof.Laws.Engine.Statement (.signalArrival) :=
  Sys2Proof.Laws.Engine.ofCtl rfl rfl rfl rfl rfl rfl
theorem Sys2Proof.Laws.Engine.remoteSpawn : Sys2Proof.Laws.Engine.Statement (.remoteSpawn) :=
  Sys2Proof.Laws.Engine.ofCtl rfl rfl rfl rfl rfl rfl
theorem Sys2Proof.Laws.Engine.stealRequest : Sys2Proof.Laws.Engine.Statement (.stealRequest) :=
  Sys2Proof.Laws.Engine.ofCtl rfl rfl rfl rfl rfl rfl
theorem Sys2Proof.Laws.Engine.offer : Sys2Proof.Laws.Engine.Statement (.offer) :=
  Sys2Proof.Laws.Engine.ofCtl rfl rfl rfl rfl rfl rfl
theorem Sys2Proof.Laws.Engine.take : Sys2Proof.Laws.Engine.Statement (.take) :=
  Sys2Proof.Laws.Engine.ofCtl rfl rfl rfl rfl rfl rfl
theorem Sys2Proof.Laws.Engine.ack : Sys2Proof.Laws.Engine.Statement (.ack) :=
  Sys2Proof.Laws.Engine.ofCtl rfl rfl rfl rfl rfl rfl
theorem Sys2Proof.Laws.Engine.refuse : Sys2Proof.Laws.Engine.Statement (.refuse) :=
  Sys2Proof.Laws.Engine.ofCtl rfl rfl rfl rfl rfl rfl
theorem Sys2Proof.Laws.Engine.custodyTimeout : Sys2Proof.Laws.Engine.Statement (.custodyTimeout) :=
  Sys2Proof.Laws.Engine.ofCtl rfl rfl rfl rfl rfl rfl
theorem Sys2Proof.Laws.Engine.leaseGrant : Sys2Proof.Laws.Engine.Statement (.leaseGrant) :=
  Sys2Proof.Laws.Engine.ofCtl rfl rfl rfl rfl rfl rfl
theorem Sys2Proof.Laws.Engine.leaseExpiry : Sys2Proof.Laws.Engine.Statement (.leaseExpiry) :=
  Sys2Proof.Laws.Engine.ofCtl rfl rfl rfl rfl rfl rfl
theorem Sys2Proof.Laws.Engine.governorInterval : Sys2Proof.Laws.Engine.Statement (.governorInterval) :=
  Sys2Proof.Laws.Engine.ofCtl rfl rfl rfl rfl rfl rfl
theorem Sys2Proof.Laws.Engine.budgetHoldTimeout : Sys2Proof.Laws.Engine.Statement (.budgetHoldTimeout) :=
  Sys2Proof.Laws.Engine.ofCtl rfl rfl rfl rfl rfl rfl
theorem Sys2Proof.Laws.Engine.budgetStepLower : Sys2Proof.Laws.Engine.Statement (.budgetStepLower) :=
  Sys2Proof.Laws.Engine.ofCtl rfl rfl rfl rfl rfl rfl
theorem Sys2Proof.Laws.Engine.thermalSample : Sys2Proof.Laws.Engine.Statement (.thermalSample) :=
  Sys2Proof.Laws.Engine.ofCtl rfl rfl rfl rfl rfl rfl
theorem Sys2Proof.Laws.Engine.thermalLower : Sys2Proof.Laws.Engine.Statement (.thermalLower) :=
  Sys2Proof.Laws.Engine.ofCtl rfl rfl rfl rfl rfl rfl
theorem Sys2Proof.Laws.Engine.thermalTrip : Sys2Proof.Laws.Engine.Statement (.thermalTrip) :=
  Sys2Proof.Laws.Engine.ofCtl rfl rfl rfl rfl rfl rfl
theorem Sys2Proof.Laws.Engine.poolWaitTimeout : Sys2Proof.Laws.Engine.Statement (.poolWaitTimeout) :=
  Sys2Proof.Laws.Engine.ofCtl rfl rfl rfl rfl rfl rfl
theorem Sys2Proof.Laws.Engine.recordWaitTimeout : Sys2Proof.Laws.Engine.Statement (.recordWaitTimeout) :=
  Sys2Proof.Laws.Engine.ofCtl rfl rfl rfl rfl rfl rfl
theorem Sys2Proof.Laws.Engine.storageWaitTimeout : Sys2Proof.Laws.Engine.Statement (.storageWaitTimeout) :=
  Sys2Proof.Laws.Engine.ofCtl rfl rfl rfl rfl rfl rfl
theorem Sys2Proof.Laws.Engine.slotWaitTimeout : Sys2Proof.Laws.Engine.Statement (.slotWaitTimeout) :=
  Sys2Proof.Laws.Engine.ofCtl rfl rfl rfl rfl rfl rfl
theorem Sys2Proof.Laws.Engine.recoveryStorageTimeout : Sys2Proof.Laws.Engine.Statement (.recoveryStorageTimeout) :=
  Sys2Proof.Laws.Engine.ofCtl rfl rfl rfl rfl rfl rfl
theorem Sys2Proof.Laws.Engine.retentionReplication : Sys2Proof.Laws.Engine.Statement (.retentionReplication) :=
  Sys2Proof.Laws.Engine.ofCtl rfl rfl rfl rfl rfl rfl
theorem Sys2Proof.Laws.Engine.replicaWritten : Sys2Proof.Laws.Engine.Statement (.replicaWritten) :=
  Sys2Proof.Laws.Engine.ofCtl rfl rfl rfl rfl rfl rfl
theorem Sys2Proof.Laws.Engine.primaryRebuilt : Sys2Proof.Laws.Engine.Statement (.primaryRebuilt) :=
  Sys2Proof.Laws.Engine.ofCtl rfl rfl rfl rfl rfl rfl
theorem Sys2Proof.Laws.Engine.recoverRequest : Sys2Proof.Laws.Engine.Statement (.recoverRequest) :=
  Sys2Proof.Laws.Engine.ofCtl rfl rfl rfl rfl rfl rfl
theorem Sys2Proof.Laws.Engine.stateQuery : Sys2Proof.Laws.Engine.Statement (.stateQuery) :=
  Sys2Proof.Laws.Engine.ofCtl rfl rfl rfl rfl rfl rfl
theorem Sys2Proof.Laws.Engine.remoteSeal : Sys2Proof.Laws.Engine.Statement (.remoteSeal) :=
  Sys2Proof.Laws.Engine.ofCtl rfl rfl rfl rfl rfl rfl
theorem Sys2Proof.Laws.Engine.mirrorChange : Sys2Proof.Laws.Engine.Statement (.mirrorChange) :=
  Sys2Proof.Laws.Engine.ofCtl rfl rfl rfl rfl rfl rfl
theorem Sys2Proof.Laws.Engine.mirrorAck : Sys2Proof.Laws.Engine.Statement (.mirrorAck) :=
  Sys2Proof.Laws.Engine.ofCtl rfl rfl rfl rfl rfl rfl
theorem Sys2Proof.Laws.Engine.mirrorTimeout : Sys2Proof.Laws.Engine.Statement (.mirrorTimeout) :=
  Sys2Proof.Laws.Engine.ofCtl rfl rfl rfl rfl rfl rfl
theorem Sys2Proof.Laws.Engine.buddyCopyComplete : Sys2Proof.Laws.Engine.Statement (.buddyCopyComplete) :=
  Sys2Proof.Laws.Engine.ofCtl rfl rfl rfl rfl rfl rfl
theorem Sys2Proof.Laws.Engine.scrub : Sys2Proof.Laws.Engine.Statement (.scrub) :=
  Sys2Proof.Laws.Engine.ofCtl rfl rfl rfl rfl rfl rfl
theorem Sys2Proof.Laws.Engine.dieLoss : Sys2Proof.Laws.Engine.Statement (.dieLoss) :=
  Sys2Proof.Laws.Engine.ofCtl rfl rfl rfl rfl rfl rfl
theorem Sys2Proof.Laws.Engine.deviceLoss : Sys2Proof.Laws.Engine.Statement (.deviceLoss) :=
  Sys2Proof.Laws.Engine.ofCtl rfl rfl rfl rfl rfl rfl
theorem Sys2Proof.Laws.Engine.remoteRequest : Sys2Proof.Laws.Engine.Statement (.remoteRequest) :=
  Sys2Proof.Laws.Engine.ofCtl rfl rfl rfl rfl rfl rfl
theorem Sys2Proof.Laws.Engine.remoteResponse : Sys2Proof.Laws.Engine.Statement (.remoteResponse) :=
  Sys2Proof.Laws.Engine.ofCtl rfl rfl rfl rfl rfl rfl
theorem Sys2Proof.Laws.Engine.castStamp : Sys2Proof.Laws.Engine.Statement (.castStamp) :=
  Sys2Proof.Laws.Engine.ofCtl rfl rfl rfl rfl rfl rfl
theorem Sys2Proof.Laws.Engine.stamped : Sys2Proof.Laws.Engine.Statement (.stamped) :=
  Sys2Proof.Laws.Engine.ofCtl rfl rfl rfl rfl rfl rfl
theorem Sys2Proof.Laws.Engine.gapreq : Sys2Proof.Laws.Engine.Statement (.gapreq) :=
  Sys2Proof.Laws.Engine.ofCtl rfl rfl rfl rfl rfl rfl
theorem Sys2Proof.Laws.Engine.replay : Sys2Proof.Laws.Engine.Statement (.replay) :=
  Sys2Proof.Laws.Engine.ofCtl rfl rfl rfl rfl rfl rfl
theorem Sys2Proof.Laws.Engine.gapTimeout : Sys2Proof.Laws.Engine.Statement (.gapTimeout) :=
  Sys2Proof.Laws.Engine.ofCtl rfl rfl rfl rfl rfl rfl
theorem Sys2Proof.Laws.Engine.planeFailure : Sys2Proof.Laws.Engine.Statement (.planeFailure) :=
  Sys2Proof.Laws.Engine.ofCtl rfl rfl rfl rfl rfl rfl
theorem Sys2Proof.Laws.Engine.memberRemoval : Sys2Proof.Laws.Engine.Statement (.memberRemoval) :=
  Sys2Proof.Laws.Engine.ofCtl rfl rfl rfl rfl rfl rfl
theorem Sys2Proof.Laws.Engine.red : Sys2Proof.Laws.Engine.Statement (.red) :=
  Sys2Proof.Laws.Engine.ofCtl rfl rfl rfl rfl rfl rfl
theorem Sys2Proof.Laws.Engine.reductionTimeout : Sys2Proof.Laws.Engine.Statement (.reductionTimeout) :=
  Sys2Proof.Laws.Engine.ofCtl rfl rfl rfl rfl rfl rfl
theorem Sys2Proof.Laws.Engine.reductionFenceExpiry : Sys2Proof.Laws.Engine.Statement (.reductionFenceExpiry) :=
  Sys2Proof.Laws.Engine.ofCtl rfl rfl rfl rfl rfl rfl
theorem Sys2Proof.Laws.Engine.redres : Sys2Proof.Laws.Engine.Statement (.redres) :=
  Sys2Proof.Laws.Engine.ofCtl rfl rfl rfl rfl rfl rfl
theorem Sys2Proof.Laws.Engine.rednack : Sys2Proof.Laws.Engine.Statement (.rednack) :=
  Sys2Proof.Laws.Engine.ofCtl rfl rfl rfl rfl rfl rfl
theorem Sys2Proof.Laws.Engine.fredResend : Sys2Proof.Laws.Engine.Statement (.fredResend) :=
  Sys2Proof.Laws.Engine.ofCtl rfl rfl rfl rfl rfl rfl
theorem Sys2Proof.Laws.Engine.rel : Sys2Proof.Laws.Engine.Statement (.rel) :=
  Sys2Proof.Laws.Engine.ofCtl rfl rfl rfl rfl rfl rfl
theorem Sys2Proof.Laws.Engine.reldone : Sys2Proof.Laws.Engine.Statement (.reldone) :=
  Sys2Proof.Laws.Engine.ofCtl rfl rfl rfl rfl rfl rfl
theorem Sys2Proof.Laws.Engine.pageFaultMessage : Sys2Proof.Laws.Engine.Statement (.pageFaultMessage) :=
  Sys2Proof.Laws.Engine.ofCtl rfl rfl rfl rfl rfl rfl
theorem Sys2Proof.Laws.Engine.tlbShootdown : Sys2Proof.Laws.Engine.Statement (.tlbShootdown) :=
  Sys2Proof.Laws.Engine.ofCtl rfl rfl rfl rfl rfl rfl
theorem Sys2Proof.Laws.Engine.shootdownAck : Sys2Proof.Laws.Engine.Statement (.shootdownAck) :=
  Sys2Proof.Laws.Engine.ofCtl rfl rfl rfl rfl rfl rfl
theorem Sys2Proof.Laws.Engine.holdersOutstanding : Sys2Proof.Laws.Engine.Statement (.holdersOutstanding) :=
  Sys2Proof.Laws.Engine.ofCtl rfl rfl rfl rfl rfl rfl
theorem Sys2Proof.Laws.Engine.stationRetrain : Sys2Proof.Laws.Engine.Statement (.stationRetrain) :=
  Sys2Proof.Laws.Engine.ofCtl rfl rfl rfl rfl rfl rfl
theorem Sys2Proof.Laws.Engine.tagFailure : Sys2Proof.Laws.Engine.Statement (.tagFailure) :=
  Sys2Proof.Laws.Engine.ofCtl rfl rfl rfl rfl rfl rfl
theorem Sys2Proof.Laws.Engine.keyChangeover : Sys2Proof.Laws.Engine.Statement (.keyChangeover) :=
  Sys2Proof.Laws.Engine.ofCtl rfl rfl rfl rfl rfl rfl
theorem Sys2Proof.Laws.Engine.keyHoldTimeout : Sys2Proof.Laws.Engine.Statement (.keyHoldTimeout) :=
  Sys2Proof.Laws.Engine.ofCtl rfl rfl rfl rfl rfl rfl
theorem Sys2Proof.Laws.Engine.keyExhausted : Sys2Proof.Laws.Engine.Statement (.keyExhausted) :=
  Sys2Proof.Laws.Engine.ofCtl rfl rfl rfl rfl rfl rfl
theorem Sys2Proof.Laws.Engine.launch : Sys2Proof.Laws.Engine.Statement (.launch) :=
  Sys2Proof.Laws.Engine.ofCtl rfl rfl rfl rfl rfl rfl
theorem Sys2Proof.Laws.Engine.hostRead : Sys2Proof.Laws.Engine.Statement (.hostRead) :=
  Sys2Proof.Laws.Engine.ofCtl rfl rfl rfl rfl rfl rfl
theorem Sys2Proof.Laws.Engine.hostWrite : Sys2Proof.Laws.Engine.Statement (.hostWrite) :=
  Sys2Proof.Laws.Engine.ofCtl rfl rfl rfl rfl rfl rfl
theorem Sys2Proof.Laws.Engine.farporAck : Sys2Proof.Laws.Engine.Statement (.farporAck) :=
  Sys2Proof.Laws.Engine.ofCtl rfl rfl rfl rfl rfl rfl
theorem Sys2Proof.Laws.Engine.hostReadResponse : Sys2Proof.Laws.Engine.Statement (.hostReadResponse) :=
  Sys2Proof.Laws.Engine.ofCtl rfl rfl rfl rfl rfl rfl
theorem Sys2Proof.Laws.Engine.hostWriteResponse : Sys2Proof.Laws.Engine.Statement (.hostWriteResponse) :=
  Sys2Proof.Laws.Engine.ofCtl rfl rfl rfl rfl rfl rfl
theorem Sys2Proof.Laws.Engine.mgmtOpen : Sys2Proof.Laws.Engine.Statement (.mgmtOpen) :=
  Sys2Proof.Laws.Engine.ofCtl rfl rfl rfl rfl rfl rfl
theorem Sys2Proof.Laws.Engine.mgmtClose : Sys2Proof.Laws.Engine.Statement (.mgmtClose) :=
  Sys2Proof.Laws.Engine.ofCtl rfl rfl rfl rfl rfl rfl
theorem Sys2Proof.Laws.Engine.mgmtReserve : Sys2Proof.Laws.Engine.Statement (.mgmtReserve) :=
  Sys2Proof.Laws.Engine.ofCtl rfl rfl rfl rfl rfl rfl
theorem Sys2Proof.Laws.Engine.mgmtRelease : Sys2Proof.Laws.Engine.Statement (.mgmtRelease) :=
  Sys2Proof.Laws.Engine.ofCtl rfl rfl rfl rfl rfl rfl
theorem Sys2Proof.Laws.Engine.mgmtWindow : Sys2Proof.Laws.Engine.Statement (.mgmtWindow) :=
  Sys2Proof.Laws.Engine.ofCtl rfl rfl rfl rfl rfl rfl
theorem Sys2Proof.Laws.Engine.mgmtRto : Sys2Proof.Laws.Engine.Statement (.mgmtRto) :=
  Sys2Proof.Laws.Engine.ofCtl rfl rfl rfl rfl rfl rfl
theorem Sys2Proof.Laws.Engine.retransmissionTimeout : Sys2Proof.Laws.Engine.Statement (.retransmissionTimeout) :=
  Sys2Proof.Laws.Engine.ofCtl rfl rfl rfl rfl rfl rfl
theorem Sys2Proof.Laws.Engine.frameDrop : Sys2Proof.Laws.Engine.Statement (.frameDrop) :=
  Sys2Proof.Laws.Engine.ofCtl rfl rfl rfl rfl rfl rfl
theorem Sys2Proof.Laws.Engine.headerDrop : Sys2Proof.Laws.Engine.Statement (.headerDrop) :=
  Sys2Proof.Laws.Engine.ofCtl rfl rfl rfl rfl rfl rfl
theorem Sys2Proof.Laws.Engine.mmioWrite : Sys2Proof.Laws.Engine.Statement (.mmioWrite) :=
  Sys2Proof.Laws.Engine.ofCtl rfl rfl rfl rfl rfl rfl
theorem Sys2Proof.Laws.Engine.lincfgWrite : Sys2Proof.Laws.Engine.Statement (.lincfgWrite) :=
  Sys2Proof.Laws.Engine.ofCtl rfl rfl rfl rfl rfl rfl
theorem Sys2Proof.Laws.Engine.linstatRead : Sys2Proof.Laws.Engine.Statement (.linstatRead) :=
  Sys2Proof.Laws.Engine.ofCtl rfl rfl rfl rfl rfl rfl
theorem Sys2Proof.Laws.Engine.pwrcfgWrite : Sys2Proof.Laws.Engine.Statement (.pwrcfgWrite) :=
  Sys2Proof.Laws.Engine.ofCtl rfl rfl rfl rfl rfl rfl
theorem Sys2Proof.Laws.Engine.ecwtWrite : Sys2Proof.Laws.Engine.Statement (.ecwtWrite) :=
  Sys2Proof.Laws.Engine.ofCtl rfl rfl rfl rfl rfl rfl
theorem Sys2Proof.Laws.Engine.thermcfgWrite : Sys2Proof.Laws.Engine.Statement (.thermcfgWrite) :=
  Sys2Proof.Laws.Engine.ofCtl rfl rfl rfl rfl rfl rfl
theorem Sys2Proof.Laws.Engine.coreMapWrite : Sys2Proof.Laws.Engine.Statement (.coreMapWrite) :=
  Sys2Proof.Laws.Engine.ofCtl rfl rfl rfl rfl rfl rfl
theorem Sys2Proof.Laws.Engine.fansWrite : Sys2Proof.Laws.Engine.Statement (.fansWrite) :=
  Sys2Proof.Laws.Engine.ofCtl rfl rfl rfl rfl rfl rfl
theorem Sys2Proof.Laws.Engine.fstatRead : Sys2Proof.Laws.Engine.Statement (.fstatRead) :=
  Sys2Proof.Laws.Engine.ofCtl rfl rfl rfl rfl rfl rfl
theorem Sys2Proof.Laws.Engine.stcfgWrite : Sys2Proof.Laws.Engine.Statement (.stcfgWrite) :=
  Sys2Proof.Laws.Engine.ofCtl rfl rfl rfl rfl rfl rfl
theorem Sys2Proof.Laws.Engine.hbmhlthRead : Sys2Proof.Laws.Engine.Statement (.hbmhlthRead) :=
  Sys2Proof.Laws.Engine.ofCtl rfl rfl rfl rfl rfl rfl
theorem Sys2Proof.Laws.Engine.resetctl : Sys2Proof.Laws.Engine.Statement (.resetctl) :=
  Sys2Proof.Laws.Engine.ofCtl rfl rfl rfl rfl rfl rfl
theorem Sys2Proof.Laws.Engine.capstepWrite : Sys2Proof.Laws.Engine.Statement (.capstepWrite) :=
  Sys2Proof.Laws.Engine.ofCtl rfl rfl rfl rfl rfl rfl
theorem Sys2Proof.Laws.Engine.updateErase : Sys2Proof.Laws.Engine.Statement (.updateErase) :=
  Sys2Proof.Laws.Engine.ofCtl rfl rfl rfl rfl rfl rfl
theorem Sys2Proof.Laws.Engine.updateOpen : Sys2Proof.Laws.Engine.Statement (.updateOpen) :=
  Sys2Proof.Laws.Engine.ofCtl rfl rfl rfl rfl rfl rfl
theorem Sys2Proof.Laws.Engine.updateVerify : Sys2Proof.Laws.Engine.Statement (.updateVerify) :=
  Sys2Proof.Laws.Engine.ofCtl rfl rfl rfl rfl rfl rfl
theorem Sys2Proof.Laws.Engine.upddataWrite : Sys2Proof.Laws.Engine.Statement (.upddataWrite) :=
  Sys2Proof.Laws.Engine.ofCtl rfl rfl rfl rfl rfl rfl
theorem Sys2Proof.Laws.Engine.i3cRegisterWrite : Sys2Proof.Laws.Engine.Statement (.i3cRegisterWrite) :=
  Sys2Proof.Laws.Engine.ofCtl rfl rfl rfl rfl rfl rfl
theorem Sys2Proof.Laws.Engine.setdasa : Sys2Proof.Laws.Engine.Statement (.setdasa) :=
  Sys2Proof.Laws.Engine.ofCtl rfl rfl rfl rfl rfl rfl
theorem Sys2Proof.Laws.Engine.entdaa : Sys2Proof.Laws.Engine.Statement (.entdaa) :=
  Sys2Proof.Laws.Engine.ofCtl rfl rfl rfl rfl rfl rfl
theorem Sys2Proof.Laws.Engine.coldReset : Sys2Proof.Laws.Engine.Statement (.coldReset) :=
  Sys2Proof.Laws.Engine.ofCtl rfl rfl rfl rfl rfl rfl
theorem Sys2Proof.Laws.Engine.warmReset : Sys2Proof.Laws.Engine.Statement (.warmReset) :=
  Sys2Proof.Laws.Engine.ofCtl rfl rfl rfl rfl rfl rfl
theorem Sys2Proof.Laws.Engine.railFault : Sys2Proof.Laws.Engine.Statement (.railFault) :=
  Sys2Proof.Laws.Engine.ofCtl rfl rfl rfl rfl rfl rfl
theorem Sys2Proof.Laws.Engine.railEnable : Sys2Proof.Laws.Engine.Statement (.railEnable) :=
  Sys2Proof.Laws.Engine.ofCtl rfl rfl rfl rfl rfl rfl
theorem Sys2Proof.Laws.Engine.pllLock : Sys2Proof.Laws.Engine.Statement (.pllLock) :=
  Sys2Proof.Laws.Engine.ofCtl rfl rfl rfl rfl rfl rfl
theorem Sys2Proof.Laws.Engine.clockLockLoss : Sys2Proof.Laws.Engine.Statement (.clockLockLoss) :=
  Sys2Proof.Laws.Engine.ofCtl rfl rfl rfl rfl rfl rfl
theorem Sys2Proof.Laws.Engine.bootImage : Sys2Proof.Laws.Engine.Statement (.bootImage) :=
  Sys2Proof.Laws.Engine.ofCtl rfl rfl rfl rfl rfl rfl
theorem Sys2Proof.Laws.Engine.bootMemory : Sys2Proof.Laws.Engine.Statement (.bootMemory) :=
  Sys2Proof.Laws.Engine.ofCtl rfl rfl rfl rfl rfl rfl
theorem Sys2Proof.Laws.Engine.bootConfig : Sys2Proof.Laws.Engine.Statement (.bootConfig) :=
  Sys2Proof.Laws.Engine.ofCtl rfl rfl rfl rfl rfl rfl
theorem Sys2Proof.Laws.Engine.bootPorts : Sys2Proof.Laws.Engine.Statement (.bootPorts) :=
  Sys2Proof.Laws.Engine.ofCtl rfl rfl rfl rfl rfl rfl
theorem Sys2Proof.Laws.Engine.bootReady : Sys2Proof.Laws.Engine.Statement (.bootReady) :=
  Sys2Proof.Laws.Engine.ofCtl rfl rfl rfl rfl rfl rfl
theorem Sys2Proof.Laws.Engine.powerGating : Sys2Proof.Laws.Engine.Statement (.powerGating) :=
  Sys2Proof.Laws.Engine.ofCtl rfl rfl rfl rfl rfl rfl
theorem Sys2Proof.Laws.Engine.budgetCalculation : Sys2Proof.Laws.Engine.Statement (.budgetCalculation) :=
  Sys2Proof.Laws.Engine.ofCtl rfl rfl rfl rfl rfl rfl
theorem Sys2Proof.Laws.Engine.shardAcknowledgement : Sys2Proof.Laws.Engine.Statement (.shardAcknowledgement) :=
  Sys2Proof.Laws.Engine.ofCtl rfl rfl rfl rfl rfl rfl
theorem Sys2Proof.Laws.Engine.lossReport : Sys2Proof.Laws.Engine.Statement (.lossReport) :=
  Sys2Proof.Laws.Engine.ofCtl rfl rfl rfl rfl rfl rfl
theorem Sys2Proof.Laws.Engine.powerLoss : Sys2Proof.Laws.Engine.Statement (.powerLoss) :=
  Sys2Proof.Laws.Engine.ofCtl rfl rfl rfl rfl rfl rfl
end

