-- ==== Sys2Proof/Laws/Queue.lean ====
section
/-! SUPPORT. What routing a queue word comes to (R12 to R19, R22): one lemma for a word that starts at once, one for a word that its
routing checks turn away, and when nothing holds a newly placed word. -/

namespace Sys2Proof.Machine

/-- A word whose operands are ready and whose queue has room comes to what its checks say, or is placed. -/
theorem routeQ_ready {q : Queue} {i : Instr} {rs : List (Fin 32)} {chk : State → Option Act} {atRoute : State → State}
    {body : QEntry → State → QAct} {s : State} (h : Routable q rs s) :
    routeQ q i rs chk atRoute body s = .next (match chk s with
      | some a => finish s a
      | none =>
        let e := entryOf q i s
        let p := placedWord q i atRoute s
        if canStart p e then settleEntry e (body e p) else p) := by
  have hs : ¬ s.cx.qdepth.toNat ≤ slip s q := Nat.not_le.mpr h.2
  simp only [routeQ]
  rw [interlock_ready _ h.1]
  simp only [hs, if_false]
  cases chk s <;> rfl

/-- A word that its routing checks turn away has none of its effect. -/
theorem routeQ_refused {q : Queue} {i : Instr} {rs : List (Fin 32)} {chk : State → Option Act} {atRoute : State → State}
    {body : QEntry → State → QAct} {s : State} {a : Act} (h : Routable q rs s) (hc : chk s = some a) :
    routeQ q i rs chk atRoute body s = .next (finish s a) := by
  rw [routeQ_ready h, hc]

/-- A word that starts as soon as it is routed comes to what its attempt leaves. -/
theorem routeQ_starts {q : Queue} {i : Instr} {rs : List (Fin 32)} {chk : State → Option Act} {atRoute : State → State}
    {body : QEntry → State → QAct} {s : State} (h : Starts q i rs atRoute s) (hc : chk s = none) :
    routeQ q i rs chk atRoute body s
      = .next (settleEntry (entryOf q i s) (body (entryOf q i s) (placedWord q i atRoute s))) := by
  rw [routeQ_ready h.routable, hc]
  simp only [h.start, if_true]

/-- A word that completes leaves its queue; a word of the arithmetic queue has issued in this clock. -/
theorem settle_done {e : QEntry} {t : State} {n : Nat} (h : holdsControl e.ins = false) :
    settleEntry e (.done t, n) = if e.queue = .varith then noteArith (dropEntry e.uid t) else dropEntry e.uid t := by
  simp [settleEntry, h]

/-- A word that starts and completes, of another queue than the arithmetic one. -/
theorem routeQ_done {q : Queue} {i : Instr} {rs : List (Fin 32)} {chk : State → Option Act} {atRoute : State → State}
    {body : QEntry → State → QAct} {s t : State} {n : Nat} (h : Starts q i rs atRoute s) (hc : chk s = none)
    (hi : holdsControl i = false) (hq : q ≠ .varith) (hb : body (entryOf q i s) (placedWord q i atRoute s) = (.done t, n)) :
    routeQ q i rs chk atRoute body s = .next (dropEntry s.uid t) := by
  rw [routeQ_starts h hc, hb, settle_done (by exact hi)]
  simp [entryOf, hq]

/-- A word of the arithmetic queue that starts and completes. -/
theorem routeQ_arith {i : Instr} {rs : List (Fin 32)} {chk : State → Option Act} {atRoute : State → State}
    {body : QEntry → State → QAct} {s t : State} {n : Nat} (h : Starts .varith i rs atRoute s) (hc : chk s = none)
    (hi : holdsControl i = false) (hb : body (entryOf .varith i s) (placedWord .varith i atRoute s) = (.done t, n)) :
    routeQ .varith i rs chk atRoute body s = .next (noteArith (dropEntry s.uid t)) := by
  rw [routeQ_starts h hc, hb, settle_done (by exact hi)]
  simp [entryOf]

/-- Where nothing is queued, fenced, bound or draining, a word starts at once. -/
theorem quiet_starts {q : Queue} {i : Instr} {rs : List (Fin 32)} {f : State → State} {s : State} (hq : Quiet s) (hr : Routable q rs s)
    (hfl : ∀ t : State, (f t).cx.fl = t.cx.fl) (hst : ∀ t : State, (f t).cx.streams = t.cx.streams)
    (hl : ∀ t : State, (f t).cx.lease = t.cx.lease) (hk : ∀ t : State, (f t).clock = t.clock) : Starts q i rs f s := by
  refine ⟨hr, ?_⟩
  have hp : (placedWord q i f s).cx.fl.pend = [entryOf q i s] := by simp [placedWord, complete, hfl, hq.pend]
  have hd : (placedWord q i f s).cx.fl.drain = none := by simp [placedWord, complete, hfl, hq.drain]
  have hf : (placedWord q i f s).cx.fl.pf = none := by simp [placedWord, complete, hfl, hq.pf]
  have hs : (placedWord q i f s).cx.streams = s.cx.streams := by simp [placedWord, complete, hst]
  have hg : (placedWord q i f s).cx.lease = s.cx.lease := by simp [placedWord, complete, hl]
  have hb : streamsBefore (placedWord q i f s).cx (entryOf q i s).uid = [] := by
    have := hq.streams
    simp only [List.all_eq_true, Option.isNone_iff_eq_none] at this
    simp only [streamsBefore, hs, List.flatMap_eq_nil_iff]
    intro b hb
    rw [this b hb]
  have hfn : fenced (placedWord q i f s) (entryOf q i s) = false := by
    simp [fenced, placedWord, complete, hfl, hq.fences]
  have hgc : gangClaims (placedWord q i f s) (entryOf q i s) = false := by
    have h := hq.gang
    simp only [gangClaims, hg]
    rw [h, Bool.false_and, Bool.false_and]
  have hai : arithIssued (placedWord q i f s) (entryOf q i s) = false := by
    simp [arithIssued, placedWord, complete, hfl, hk, hq.arith]
  have hda : drainAllows (placedWord q i f s) (entryOf q i s) = true := by simp [drainAllows, hd, hf]
  unfold canStart
  rw [hp, hb, hfn, hgc, hda, hai]
  simp [entryOf, conflict]

end Sys2Proof.Machine
end

