-- ==== Sys2Proof/Laws/State.lean ====
section
/-! SUPPORT. What the named updates of a state, and of a context, leave in each field: one rewrite rule per field per update. -/

namespace Sys2Proof.Machine

/-! ## Updates of a context -/

@[simp] theorem sset_v (c : Ctx) (r : Fin 32) (w : W64) : (sset c r w).v = c.v := by unfold sset; split <;> rfl
@[simp] theorem sset_m (c : Ctx) (r : Fin 32) (w : W64) : (sset c r w).m = c.m := by unfold sset; split <;> rfl
@[simp] theorem sset_t (c : Ctx) (r : Fin 32) (w : W64) : (sset c r w).t = c.t := by unfold sset; split <;> rfl
@[simp] theorem sset_cfg (c : Ctx) (r : Fin 32) (w : W64) : (sset c r w).cfg = c.cfg := by unfold sset; split <;> rfl
@[simp] theorem sset_flags (c : Ctx) (r : Fin 32) (w : W64) : (sset c r w).flags = c.flags := by unfold sset; split <;> rfl
@[simp] theorem sset_qdepth (c : Ctx) (r : Fin 32) (w : W64) : (sset c r w).qdepth = c.qdepth := by unfold sset; split <;> rfl
@[simp] theorem sset_cq (c : Ctx) (r : Fin 32) (w : W64) : (sset c r w).cq = c.cq := by unfold sset; split <;> rfl
@[simp] theorem sset_xq (c : Ctx) (r : Fin 32) (w : W64) : (sset c r w).xq = c.xq := by unfold sset; split <;> rfl
@[simp] theorem sset_streams (c : Ctx) (r : Fin 32) (w : W64) : (sset c r w).streams = c.streams := by unfold sset; split <;> rfl
@[simp] theorem sset_ramphold (c : Ctx) (r : Fin 32) (w : W64) : (sset c r w).ramphold = c.ramphold := by unfold sset; split <;> rfl
@[simp] theorem sset_energy (c : Ctx) (r : Fin 32) (w : W64) : (sset c r w).energy = c.energy := by unfold sset; split <;> rfl
@[simp] theorem sset_mchkPeriod (c : Ctx) (r : Fin 32) (w : W64) : (sset c r w).mchkPeriod = c.mchkPeriod := by unfold sset; split <;> rfl
@[simp] theorem sset_mchkCount (c : Ctx) (r : Fin 32) (w : W64) : (sset c r w).mchkCount = c.mchkCount := by unfold sset; split <;> rfl
@[simp] theorem sset_plane (c : Ctx) (r : Fin 32) (w : W64) : (sset c r w).plane = c.plane := by unfold sset; split <;> rfl
@[simp] theorem sset_pc (c : Ctx) (r : Fin 32) (w : W64) : (sset c r w).pc = c.pc := by unfold sset; split <;> rfl
@[simp] theorem sset_npc (c : Ctx) (r : Fin 32) (w : W64) : (sset c r w).npc = c.npc := by unfold sset; split <;> rfl
@[simp] theorem sset_retired (c : Ctx) (r : Fin 32) (w : W64) : (sset c r w).retired = c.retired := by unfold sset; split <;> rfl
@[simp] theorem sset_pr (c : Ctx) (r : Fin 32) (w : W64) : (sset c r w).pr = c.pr := by unfold sset; split <;> rfl
@[simp] theorem sset_lease (c : Ctx) (r : Fin 32) (w : W64) : (sset c r w).lease = c.lease := by unfold sset; split <;> rfl
@[simp] theorem sset_task (c : Ctx) (r : Fin 32) (w : W64) : (sset c r w).task = c.task := by unfold sset; split <;> rfl

@[simp] theorem setV_s (r : Fin 128) (x : Nat) (c : Ctx) : (setV r x c).s = c.s := rfl
@[simp] theorem setV_v (r : Fin 128) (x : Nat) (c : Ctx) : (setV r x c).v = c.v.set r (BitVec.ofNat 6144 x) := rfl
@[simp] theorem setV_m (r : Fin 128) (x : Nat) (c : Ctx) : (setV r x c).m = c.m := rfl
@[simp] theorem setV_t (r : Fin 128) (x : Nat) (c : Ctx) : (setV r x c).t = c.t := rfl
@[simp] theorem setV_cfg (r : Fin 128) (x : Nat) (c : Ctx) : (setV r x c).cfg = c.cfg := rfl
@[simp] theorem setV_flags (r : Fin 128) (x : Nat) (c : Ctx) : (setV r x c).flags = c.flags := rfl
@[simp] theorem setV_qdepth (r : Fin 128) (x : Nat) (c : Ctx) : (setV r x c).qdepth = c.qdepth := rfl
@[simp] theorem setV_cq (r : Fin 128) (x : Nat) (c : Ctx) : (setV r x c).cq = c.cq := rfl
@[simp] theorem setV_xq (r : Fin 128) (x : Nat) (c : Ctx) : (setV r x c).xq = c.xq := rfl
@[simp] theorem setV_streams (r : Fin 128) (x : Nat) (c : Ctx) : (setV r x c).streams = c.streams := rfl
@[simp] theorem setV_ramphold (r : Fin 128) (x : Nat) (c : Ctx) : (setV r x c).ramphold = c.ramphold := rfl
@[simp] theorem setV_energy (r : Fin 128) (x : Nat) (c : Ctx) : (setV r x c).energy = c.energy := rfl
@[simp] theorem setV_mchkPeriod (r : Fin 128) (x : Nat) (c : Ctx) : (setV r x c).mchkPeriod = c.mchkPeriod := rfl
@[simp] theorem setV_mchkCount (r : Fin 128) (x : Nat) (c : Ctx) : (setV r x c).mchkCount = c.mchkCount := rfl
@[simp] theorem setV_plane (r : Fin 128) (x : Nat) (c : Ctx) : (setV r x c).plane = c.plane := rfl
@[simp] theorem setV_pc (r : Fin 128) (x : Nat) (c : Ctx) : (setV r x c).pc = c.pc := rfl
@[simp] theorem setV_npc (r : Fin 128) (x : Nat) (c : Ctx) : (setV r x c).npc = c.npc := rfl
@[simp] theorem setV_retired (r : Fin 128) (x : Nat) (c : Ctx) : (setV r x c).retired = c.retired := rfl
@[simp] theorem setV_pr (r : Fin 128) (x : Nat) (c : Ctx) : (setV r x c).pr = c.pr := rfl
@[simp] theorem setV_lease (r : Fin 128) (x : Nat) (c : Ctx) : (setV r x c).lease = c.lease := rfl
@[simp] theorem setV_task (r : Fin 128) (x : Nat) (c : Ctx) : (setV r x c).task = c.task := rfl

@[simp] theorem setM_s (r : Fin 8) (x : Nat) (c : Ctx) : (setM r x c).s = c.s := rfl
@[simp] theorem setM_v (r : Fin 8) (x : Nat) (c : Ctx) : (setM r x c).v = c.v := rfl
@[simp] theorem setM_m (r : Fin 8) (x : Nat) (c : Ctx) : (setM r x c).m = c.m.set r (BitVec.ofNat 768 x) := rfl
@[simp] theorem setM_t (r : Fin 8) (x : Nat) (c : Ctx) : (setM r x c).t = c.t := rfl
@[simp] theorem setM_cfg (r : Fin 8) (x : Nat) (c : Ctx) : (setM r x c).cfg = c.cfg := rfl
@[simp] theorem setM_flags (r : Fin 8) (x : Nat) (c : Ctx) : (setM r x c).flags = c.flags := rfl
@[simp] theorem setM_qdepth (r : Fin 8) (x : Nat) (c : Ctx) : (setM r x c).qdepth = c.qdepth := rfl
@[simp] theorem setM_cq (r : Fin 8) (x : Nat) (c : Ctx) : (setM r x c).cq = c.cq := rfl
@[simp] theorem setM_xq (r : Fin 8) (x : Nat) (c : Ctx) : (setM r x c).xq = c.xq := rfl
@[simp] theorem setM_streams (r : Fin 8) (x : Nat) (c : Ctx) : (setM r x c).streams = c.streams := rfl
@[simp] theorem setM_ramphold (r : Fin 8) (x : Nat) (c : Ctx) : (setM r x c).ramphold = c.ramphold := rfl
@[simp] theorem setM_energy (r : Fin 8) (x : Nat) (c : Ctx) : (setM r x c).energy = c.energy := rfl
@[simp] theorem setM_mchkPeriod (r : Fin 8) (x : Nat) (c : Ctx) : (setM r x c).mchkPeriod = c.mchkPeriod := rfl
@[simp] theorem setM_mchkCount (r : Fin 8) (x : Nat) (c : Ctx) : (setM r x c).mchkCount = c.mchkCount := rfl
@[simp] theorem setM_plane (r : Fin 8) (x : Nat) (c : Ctx) : (setM r x c).plane = c.plane := rfl
@[simp] theorem setM_pc (r : Fin 8) (x : Nat) (c : Ctx) : (setM r x c).pc = c.pc := rfl
@[simp] theorem setM_npc (r : Fin 8) (x : Nat) (c : Ctx) : (setM r x c).npc = c.npc := rfl
@[simp] theorem setM_retired (r : Fin 8) (x : Nat) (c : Ctx) : (setM r x c).retired = c.retired := rfl
@[simp] theorem setM_pr (r : Fin 8) (x : Nat) (c : Ctx) : (setM r x c).pr = c.pr := rfl
@[simp] theorem setM_lease (r : Fin 8) (x : Nat) (c : Ctx) : (setM r x c).lease = c.lease := rfl
@[simp] theorem setM_task (r : Fin 8) (x : Nat) (c : Ctx) : (setM r x c).task = c.task := rfl

@[simp] theorem addFlags_s (f : Flg) (c : Ctx) : (addFlags f c).s = c.s := rfl
@[simp] theorem addFlags_v (f : Flg) (c : Ctx) : (addFlags f c).v = c.v := rfl
@[simp] theorem addFlags_m (f : Flg) (c : Ctx) : (addFlags f c).m = c.m := rfl
@[simp] theorem addFlags_t (f : Flg) (c : Ctx) : (addFlags f c).t = c.t := rfl
@[simp] theorem addFlags_cfg (f : Flg) (c : Ctx) : (addFlags f c).cfg = c.cfg := rfl
@[simp] theorem addFlags_flags (f : Flg) (c : Ctx) : (addFlags f c).flags = c.flags ||| BitVec.ofNat 64 f := rfl
@[simp] theorem addFlags_qdepth (f : Flg) (c : Ctx) : (addFlags f c).qdepth = c.qdepth := rfl
@[simp] theorem addFlags_cq (f : Flg) (c : Ctx) : (addFlags f c).cq = c.cq := rfl
@[simp] theorem addFlags_xq (f : Flg) (c : Ctx) : (addFlags f c).xq = c.xq := rfl
@[simp] theorem addFlags_streams (f : Flg) (c : Ctx) : (addFlags f c).streams = c.streams := rfl
@[simp] theorem addFlags_ramphold (f : Flg) (c : Ctx) : (addFlags f c).ramphold = c.ramphold := rfl
@[simp] theorem addFlags_energy (f : Flg) (c : Ctx) : (addFlags f c).energy = c.energy := rfl
@[simp] theorem addFlags_mchkPeriod (f : Flg) (c : Ctx) : (addFlags f c).mchkPeriod = c.mchkPeriod := rfl
@[simp] theorem addFlags_mchkCount (f : Flg) (c : Ctx) : (addFlags f c).mchkCount = c.mchkCount := rfl
@[simp] theorem addFlags_plane (f : Flg) (c : Ctx) : (addFlags f c).plane = c.plane := rfl
@[simp] theorem addFlags_pc (f : Flg) (c : Ctx) : (addFlags f c).pc = c.pc := rfl
@[simp] theorem addFlags_npc (f : Flg) (c : Ctx) : (addFlags f c).npc = c.npc := rfl
@[simp] theorem addFlags_retired (f : Flg) (c : Ctx) : (addFlags f c).retired = c.retired := rfl
@[simp] theorem addFlags_pr (f : Flg) (c : Ctx) : (addFlags f c).pr = c.pr := rfl
@[simp] theorem addFlags_fl (f : Flg) (c : Ctx) : (addFlags f c).fl = c.fl := rfl
@[simp] theorem addFlags_lease (f : Flg) (c : Ctx) : (addFlags f c).lease = c.lease := rfl
@[simp] theorem addFlags_task (f : Flg) (c : Ctx) : (addFlags f c).task = c.task := rfl

@[simp] theorem refresh_s (c : Ctx) (m : Memory) : (refresh c m).s = c.s := rfl
@[simp] theorem refresh_v (c : Ctx) (m : Memory) : (refresh c m).v = c.v := rfl
@[simp] theorem refresh_m (c : Ctx) (m : Memory) : (refresh c m).m = c.m := rfl
@[simp] theorem refresh_t (c : Ctx) (m : Memory) : (refresh c m).t = c.t := rfl
@[simp] theorem refresh_cfg (c : Ctx) (m : Memory) : (refresh c m).cfg = c.cfg := rfl
@[simp] theorem refresh_flags (c : Ctx) (m : Memory) : (refresh c m).flags = c.flags := rfl
@[simp] theorem refresh_qdepth (c : Ctx) (m : Memory) : (refresh c m).qdepth = c.qdepth := rfl
@[simp] theorem refresh_cq (c : Ctx) (m : Memory) : (refresh c m).cq = c.cq := rfl
@[simp] theorem refresh_xq (c : Ctx) (m : Memory) : (refresh c m).xq = c.xq := rfl
@[simp] theorem refresh_streams (c : Ctx) (m : Memory) : (refresh c m).streams = c.streams := rfl
@[simp] theorem refresh_ramphold (c : Ctx) (m : Memory) : (refresh c m).ramphold = c.ramphold := rfl
@[simp] theorem refresh_energy (c : Ctx) (m : Memory) : (refresh c m).energy = c.energy := rfl
@[simp] theorem refresh_mchkPeriod (c : Ctx) (m : Memory) : (refresh c m).mchkPeriod = c.mchkPeriod := rfl
@[simp] theorem refresh_mchkCount (c : Ctx) (m : Memory) : (refresh c m).mchkCount = c.mchkCount := rfl
@[simp] theorem refresh_plane (c : Ctx) (m : Memory) : (refresh c m).plane = c.plane := rfl
@[simp] theorem refresh_pc (c : Ctx) (m : Memory) : (refresh c m).pc = c.pc := rfl
@[simp] theorem refresh_npc (c : Ctx) (m : Memory) : (refresh c m).npc = c.npc := rfl
@[simp] theorem refresh_retired (c : Ctx) (m : Memory) : (refresh c m).retired = c.retired := rfl
@[simp] theorem refresh_pr (c : Ctx) (m : Memory) : (refresh c m).pr = c.pr := rfl
@[simp] theorem refresh_lease (c : Ctx) (m : Memory) : (refresh c m).lease = c.lease := rfl
@[simp] theorem refresh_task (c : Ctx) (m : Memory) : (refresh c m).task = c.task := rfl

@[simp] theorem refreshRange_s (a n : Nat) (c : Ctx) (m : Memory) : (refreshRange a n c m).s = c.s := rfl
@[simp] theorem refreshRange_v (a n : Nat) (c : Ctx) (m : Memory) : (refreshRange a n c m).v = c.v := rfl
@[simp] theorem refreshRange_m (a n : Nat) (c : Ctx) (m : Memory) : (refreshRange a n c m).m = c.m := rfl
@[simp] theorem refreshRange_t (a n : Nat) (c : Ctx) (m : Memory) : (refreshRange a n c m).t = c.t := rfl
@[simp] theorem refreshRange_cfg (a n : Nat) (c : Ctx) (m : Memory) : (refreshRange a n c m).cfg = c.cfg := rfl
@[simp] theorem refreshRange_flags (a n : Nat) (c : Ctx) (m : Memory) : (refreshRange a n c m).flags = c.flags := rfl
@[simp] theorem refreshRange_qdepth (a n : Nat) (c : Ctx) (m : Memory) : (refreshRange a n c m).qdepth = c.qdepth := rfl
@[simp] theorem refreshRange_cq (a n : Nat) (c : Ctx) (m : Memory) : (refreshRange a n c m).cq = c.cq := rfl
@[simp] theorem refreshRange_xq (a n : Nat) (c : Ctx) (m : Memory) : (refreshRange a n c m).xq = c.xq := rfl
@[simp] theorem refreshRange_streams (a n : Nat) (c : Ctx) (m : Memory) : (refreshRange a n c m).streams = c.streams := rfl
@[simp] theorem refreshRange_ramphold (a n : Nat) (c : Ctx) (m : Memory) : (refreshRange a n c m).ramphold = c.ramphold := rfl
@[simp] theorem refreshRange_energy (a n : Nat) (c : Ctx) (m : Memory) : (refreshRange a n c m).energy = c.energy := rfl
@[simp] theorem refreshRange_mchkPeriod (a n : Nat) (c : Ctx) (m : Memory) : (refreshRange a n c m).mchkPeriod = c.mchkPeriod := rfl
@[simp] theorem refreshRange_mchkCount (a n : Nat) (c : Ctx) (m : Memory) : (refreshRange a n c m).mchkCount = c.mchkCount := rfl
@[simp] theorem refreshRange_plane (a n : Nat) (c : Ctx) (m : Memory) : (refreshRange a n c m).plane = c.plane := rfl
@[simp] theorem refreshRange_pc (a n : Nat) (c : Ctx) (m : Memory) : (refreshRange a n c m).pc = c.pc := rfl
@[simp] theorem refreshRange_npc (a n : Nat) (c : Ctx) (m : Memory) : (refreshRange a n c m).npc = c.npc := rfl
@[simp] theorem refreshRange_retired (a n : Nat) (c : Ctx) (m : Memory) : (refreshRange a n c m).retired = c.retired := rfl
@[simp] theorem refreshRange_pr (a n : Nat) (c : Ctx) (m : Memory) : (refreshRange a n c m).pr = c.pr := rfl
@[simp] theorem refreshRange_lease (a n : Nat) (c : Ctx) (m : Memory) : (refreshRange a n c m).lease = c.lease := rfl
@[simp] theorem refreshRange_task (a n : Nat) (c : Ctx) (m : Memory) : (refreshRange a n c m).task = c.task := rfl

/-! ## Updates of the moving context -/

@[simp] theorem wr_me (s : State) (r : Fin 32) (w : W64) : (wr s r w).me = s.me := rfl
@[simp] theorem wr_co (s : State) (r : Fin 32) (w : W64) : (wr s r w).co = s.co := rfl
@[simp] theorem wr_others (s : State) (r : Fin 32) (w : W64) : (wr s r w).others = s.others := rfl
@[simp] theorem wr_dev (s : State) (r : Fin 32) (w : W64) : (wr s r w).dev = s.dev := rfl
@[simp] theorem wr_mem (s : State) (r : Fin 32) (w : W64) : (wr s r w).mem = s.mem := rfl
@[simp] theorem wr_mmio (s : State) (r : Fin 32) (w : W64) : (wr s r w).mmio = s.mmio := rfl
@[simp] theorem wr_dist (s : State) (r : Fin 32) (w : W64) : (wr s r w).dist = s.dist := rfl
@[simp] theorem wr_arrays (s : State) (r : Fin 32) (w : W64) : (wr s r w).arrays = s.arrays := rfl
@[simp] theorem wr_pow (s : State) (r : Fin 32) (w : W64) : (wr s r w).pow = s.pow := rfl
@[simp] theorem wr_gov (s : State) (r : Fin 32) (w : W64) : (wr s r w).gov = s.gov := rfl
@[simp] theorem wr_lin (s : State) (r : Fin 32) (w : W64) : (wr s r w).lin = s.lin := rfl
@[simp] theorem wr_xl (s : State) (r : Fin 32) (w : W64) : (wr s r w).xl = s.xl := rfl
@[simp] theorem wr_fab (s : State) (r : Fin 32) (w : W64) : (wr s r w).fab = s.fab := rfl
@[simp] theorem wr_port (s : State) (r : Fin 32) (w : W64) : (wr s r w).port = s.port := rfl
@[simp] theorem wr_bob (s : State) (r : Fin 32) (w : W64) : (wr s r w).bob = s.bob := rfl
@[simp] theorem wr_mcq (s : State) (r : Fin 32) (w : W64) : (wr s r w).mcq = s.mcq := rfl
@[simp] theorem wr_quar (s : State) (r : Fin 32) (w : W64) : (wr s r w).quar = s.quar := rfl
@[simp] theorem wr_broken (s : State) (r : Fin 32) (w : W64) : (wr s r w).broken = s.broken := rfl
@[simp] theorem wr_imgver (s : State) (r : Fin 32) (w : W64) : (wr s r w).imgver = s.imgver := rfl
@[simp] theorem wr_clock (s : State) (r : Fin 32) (w : W64) : (wr s r w).clock = s.clock := rfl
@[simp] theorem wr_free (s : State) (r : Fin 32) (w : W64) : (wr s r w).free = s.free := rfl
@[simp] theorem wr_uid (s : State) (r : Fin 32) (w : W64) : (wr s r w).uid = s.uid := rfl
@[simp] theorem wr_script (s : State) (r : Fin 32) (w : W64) : (wr s r w).script = s.script := rfl
@[simp] theorem wr_due (s : State) (r : Fin 32) (w : W64) : (wr s r w).due = s.due := rfl
@[simp] theorem wr_held (s : State) (r : Fin 32) (w : W64) : (wr s r w).held = s.held := rfl
@[simp] theorem wr_now (s : State) (r : Fin 32) (w : W64) : (wr s r w).now = s.now := rfl
@[simp] theorem wr_outbox (s : State) (r : Fin 32) (w : W64) : (wr s r w).outbox = s.outbox := rfl
@[simp] theorem wr_cx_v (s : State) (r : Fin 32) (w : W64) : (wr s r w).cx.v = s.cx.v := sset_v s.cx r w
@[simp] theorem wr_cx_m (s : State) (r : Fin 32) (w : W64) : (wr s r w).cx.m = s.cx.m := sset_m s.cx r w
@[simp] theorem wr_cx_t (s : State) (r : Fin 32) (w : W64) : (wr s r w).cx.t = s.cx.t := sset_t s.cx r w
@[simp] theorem wr_cx_cfg (s : State) (r : Fin 32) (w : W64) : (wr s r w).cx.cfg = s.cx.cfg := sset_cfg s.cx r w
@[simp] theorem wr_cx_flags (s : State) (r : Fin 32) (w : W64) : (wr s r w).cx.flags = s.cx.flags := sset_flags s.cx r w
@[simp] theorem wr_cx_qdepth (s : State) (r : Fin 32) (w : W64) : (wr s r w).cx.qdepth = s.cx.qdepth := sset_qdepth s.cx r w
@[simp] theorem wr_cx_cq (s : State) (r : Fin 32) (w : W64) : (wr s r w).cx.cq = s.cx.cq := sset_cq s.cx r w
@[simp] theorem wr_cx_xq (s : State) (r : Fin 32) (w : W64) : (wr s r w).cx.xq = s.cx.xq := sset_xq s.cx r w
@[simp] theorem wr_cx_streams (s : State) (r : Fin 32) (w : W64) : (wr s r w).cx.streams = s.cx.streams := sset_streams s.cx r w
@[simp] theorem wr_cx_ramphold (s : State) (r : Fin 32) (w : W64) : (wr s r w).cx.ramphold = s.cx.ramphold := sset_ramphold s.cx r w
@[simp] theorem wr_cx_energy (s : State) (r : Fin 32) (w : W64) : (wr s r w).cx.energy = s.cx.energy := sset_energy s.cx r w
@[simp] theorem wr_cx_mchkPeriod (s : State) (r : Fin 32) (w : W64) : (wr s r w).cx.mchkPeriod = s.cx.mchkPeriod := sset_mchkPeriod s.cx r w
@[simp] theorem wr_cx_mchkCount (s : State) (r : Fin 32) (w : W64) : (wr s r w).cx.mchkCount = s.cx.mchkCount := sset_mchkCount s.cx r w
@[simp] theorem wr_cx_plane (s : State) (r : Fin 32) (w : W64) : (wr s r w).cx.plane = s.cx.plane := sset_plane s.cx r w
@[simp] theorem wr_cx_pc (s : State) (r : Fin 32) (w : W64) : (wr s r w).cx.pc = s.cx.pc := sset_pc s.cx r w
@[simp] theorem wr_cx_npc (s : State) (r : Fin 32) (w : W64) : (wr s r w).cx.npc = s.cx.npc := sset_npc s.cx r w
@[simp] theorem wr_cx_retired (s : State) (r : Fin 32) (w : W64) : (wr s r w).cx.retired = s.cx.retired := sset_retired s.cx r w
@[simp] theorem wr_cx_pr (s : State) (r : Fin 32) (w : W64) : (wr s r w).cx.pr = s.cx.pr := sset_pr s.cx r w
@[simp] theorem wr_cx_lease (s : State) (r : Fin 32) (w : W64) : (wr s r w).cx.lease = s.cx.lease := sset_lease s.cx r w
@[simp] theorem wr_cx_task (s : State) (r : Fin 32) (w : W64) : (wr s r w).cx.task = s.cx.task := sset_task s.cx r w

@[simp] theorem updCfg_me (f : Cfg → Cfg) (s : State) : (updCfg f s).me = s.me := rfl
@[simp] theorem updCfg_co (f : Cfg → Cfg) (s : State) : (updCfg f s).co = s.co := rfl
@[simp] theorem updCfg_others (f : Cfg → Cfg) (s : State) : (updCfg f s).others = s.others := rfl
@[simp] theorem updCfg_dev (f : Cfg → Cfg) (s : State) : (updCfg f s).dev = s.dev := rfl
@[simp] theorem updCfg_mem (f : Cfg → Cfg) (s : State) : (updCfg f s).mem = s.mem := rfl
@[simp] theorem updCfg_mmio (f : Cfg → Cfg) (s : State) : (updCfg f s).mmio = s.mmio := rfl
@[simp] theorem updCfg_dist (f : Cfg → Cfg) (s : State) : (updCfg f s).dist = s.dist := rfl
@[simp] theorem updCfg_arrays (f : Cfg → Cfg) (s : State) : (updCfg f s).arrays = s.arrays := rfl
@[simp] theorem updCfg_pow (f : Cfg → Cfg) (s : State) : (updCfg f s).pow = s.pow := rfl
@[simp] theorem updCfg_gov (f : Cfg → Cfg) (s : State) : (updCfg f s).gov = s.gov := rfl
@[simp] theorem updCfg_lin (f : Cfg → Cfg) (s : State) : (updCfg f s).lin = s.lin := rfl
@[simp] theorem updCfg_xl (f : Cfg → Cfg) (s : State) : (updCfg f s).xl = s.xl := rfl
@[simp] theorem updCfg_fab (f : Cfg → Cfg) (s : State) : (updCfg f s).fab = s.fab := rfl
@[simp] theorem updCfg_port (f : Cfg → Cfg) (s : State) : (updCfg f s).port = s.port := rfl
@[simp] theorem updCfg_bob (f : Cfg → Cfg) (s : State) : (updCfg f s).bob = s.bob := rfl
@[simp] theorem updCfg_mcq (f : Cfg → Cfg) (s : State) : (updCfg f s).mcq = s.mcq := rfl
@[simp] theorem updCfg_quar (f : Cfg → Cfg) (s : State) : (updCfg f s).quar = s.quar := rfl
@[simp] theorem updCfg_broken (f : Cfg → Cfg) (s : State) : (updCfg f s).broken = s.broken := rfl
@[simp] theorem updCfg_imgver (f : Cfg → Cfg) (s : State) : (updCfg f s).imgver = s.imgver := rfl
@[simp] theorem updCfg_clock (f : Cfg → Cfg) (s : State) : (updCfg f s).clock = s.clock := rfl
@[simp] theorem updCfg_free (f : Cfg → Cfg) (s : State) : (updCfg f s).free = s.free := rfl
@[simp] theorem updCfg_uid (f : Cfg → Cfg) (s : State) : (updCfg f s).uid = s.uid := rfl
@[simp] theorem updCfg_script (f : Cfg → Cfg) (s : State) : (updCfg f s).script = s.script := rfl
@[simp] theorem updCfg_due (f : Cfg → Cfg) (s : State) : (updCfg f s).due = s.due := rfl
@[simp] theorem updCfg_held (f : Cfg → Cfg) (s : State) : (updCfg f s).held = s.held := rfl
@[simp] theorem updCfg_now (f : Cfg → Cfg) (s : State) : (updCfg f s).now = s.now := rfl
@[simp] theorem updCfg_outbox (f : Cfg → Cfg) (s : State) : (updCfg f s).outbox = s.outbox := rfl
@[simp] theorem updCfg_cx_s (f : Cfg → Cfg) (s : State) : (updCfg f s).cx.s = s.cx.s := rfl
@[simp] theorem updCfg_cx_v (f : Cfg → Cfg) (s : State) : (updCfg f s).cx.v = s.cx.v := rfl
@[simp] theorem updCfg_cx_m (f : Cfg → Cfg) (s : State) : (updCfg f s).cx.m = s.cx.m := rfl
@[simp] theorem updCfg_cx_t (f : Cfg → Cfg) (s : State) : (updCfg f s).cx.t = s.cx.t := rfl
@[simp] theorem updCfg_cx_cfg (f : Cfg → Cfg) (s : State) : (updCfg f s).cx.cfg = f s.cx.cfg := rfl
@[simp] theorem updCfg_cx_flags (f : Cfg → Cfg) (s : State) : (updCfg f s).cx.flags = s.cx.flags := rfl
@[simp] theorem updCfg_cx_qdepth (f : Cfg → Cfg) (s : State) : (updCfg f s).cx.qdepth = s.cx.qdepth := rfl
@[simp] theorem updCfg_cx_cq (f : Cfg → Cfg) (s : State) : (updCfg f s).cx.cq = s.cx.cq := rfl
@[simp] theorem updCfg_cx_xq (f : Cfg → Cfg) (s : State) : (updCfg f s).cx.xq = s.cx.xq := rfl
@[simp] theorem updCfg_cx_streams (f : Cfg → Cfg) (s : State) : (updCfg f s).cx.streams = s.cx.streams := rfl
@[simp] theorem updCfg_cx_ramphold (f : Cfg → Cfg) (s : State) : (updCfg f s).cx.ramphold = s.cx.ramphold := rfl
@[simp] theorem updCfg_cx_energy (f : Cfg → Cfg) (s : State) : (updCfg f s).cx.energy = s.cx.energy := rfl
@[simp] theorem updCfg_cx_mchkPeriod (f : Cfg → Cfg) (s : State) : (updCfg f s).cx.mchkPeriod = s.cx.mchkPeriod := rfl
@[simp] theorem updCfg_cx_mchkCount (f : Cfg → Cfg) (s : State) : (updCfg f s).cx.mchkCount = s.cx.mchkCount := rfl
@[simp] theorem updCfg_cx_plane (f : Cfg → Cfg) (s : State) : (updCfg f s).cx.plane = s.cx.plane := rfl
@[simp] theorem updCfg_cx_pc (f : Cfg → Cfg) (s : State) : (updCfg f s).cx.pc = s.cx.pc := rfl
@[simp] theorem updCfg_cx_npc (f : Cfg → Cfg) (s : State) : (updCfg f s).cx.npc = s.cx.npc := rfl
@[simp] theorem updCfg_cx_retired (f : Cfg → Cfg) (s : State) : (updCfg f s).cx.retired = s.cx.retired := rfl
@[simp] theorem updCfg_cx_pr (f : Cfg → Cfg) (s : State) : (updCfg f s).cx.pr = s.cx.pr := rfl
@[simp] theorem updCfg_cx_fl (f : Cfg → Cfg) (s : State) : (updCfg f s).cx.fl = s.cx.fl := rfl
@[simp] theorem updCfg_cx_lease (f : Cfg → Cfg) (s : State) : (updCfg f s).cx.lease = s.cx.lease := rfl
@[simp] theorem updCfg_cx_task (f : Cfg → Cfg) (s : State) : (updCfg f s).cx.task = s.cx.task := rfl

@[simp] theorem updPriv_me (f : Priv → Priv) (s : State) : (updPriv f s).me = s.me := rfl
@[simp] theorem updPriv_co (f : Priv → Priv) (s : State) : (updPriv f s).co = s.co := rfl
@[simp] theorem updPriv_others (f : Priv → Priv) (s : State) : (updPriv f s).others = s.others := rfl
@[simp] theorem updPriv_dev (f : Priv → Priv) (s : State) : (updPriv f s).dev = s.dev := rfl
@[simp] theorem updPriv_mem (f : Priv → Priv) (s : State) : (updPriv f s).mem = s.mem := rfl
@[simp] theorem updPriv_mmio (f : Priv → Priv) (s : State) : (updPriv f s).mmio = s.mmio := rfl
@[simp] theorem updPriv_dist (f : Priv → Priv) (s : State) : (updPriv f s).dist = s.dist := rfl
@[simp] theorem updPriv_arrays (f : Priv → Priv) (s : State) : (updPriv f s).arrays = s.arrays := rfl
@[simp] theorem updPriv_pow (f : Priv → Priv) (s : State) : (updPriv f s).pow = s.pow := rfl
@[simp] theorem updPriv_gov (f : Priv → Priv) (s : State) : (updPriv f s).gov = s.gov := rfl
@[simp] theorem updPriv_lin (f : Priv → Priv) (s : State) : (updPriv f s).lin = s.lin := rfl
@[simp] theorem updPriv_xl (f : Priv → Priv) (s : State) : (updPriv f s).xl = s.xl := rfl
@[simp] theorem updPriv_fab (f : Priv → Priv) (s : State) : (updPriv f s).fab = s.fab := rfl
@[simp] theorem updPriv_port (f : Priv → Priv) (s : State) : (updPriv f s).port = s.port := rfl
@[simp] theorem updPriv_bob (f : Priv → Priv) (s : State) : (updPriv f s).bob = s.bob := rfl
@[simp] theorem updPriv_mcq (f : Priv → Priv) (s : State) : (updPriv f s).mcq = s.mcq := rfl
@[simp] theorem updPriv_quar (f : Priv → Priv) (s : State) : (updPriv f s).quar = s.quar := rfl
@[simp] theorem updPriv_broken (f : Priv → Priv) (s : State) : (updPriv f s).broken = s.broken := rfl
@[simp] theorem updPriv_imgver (f : Priv → Priv) (s : State) : (updPriv f s).imgver = s.imgver := rfl
@[simp] theorem updPriv_clock (f : Priv → Priv) (s : State) : (updPriv f s).clock = s.clock := rfl
@[simp] theorem updPriv_free (f : Priv → Priv) (s : State) : (updPriv f s).free = s.free := rfl
@[simp] theorem updPriv_uid (f : Priv → Priv) (s : State) : (updPriv f s).uid = s.uid := rfl
@[simp] theorem updPriv_script (f : Priv → Priv) (s : State) : (updPriv f s).script = s.script := rfl
@[simp] theorem updPriv_due (f : Priv → Priv) (s : State) : (updPriv f s).due = s.due := rfl
@[simp] theorem updPriv_held (f : Priv → Priv) (s : State) : (updPriv f s).held = s.held := rfl
@[simp] theorem updPriv_now (f : Priv → Priv) (s : State) : (updPriv f s).now = s.now := rfl
@[simp] theorem updPriv_outbox (f : Priv → Priv) (s : State) : (updPriv f s).outbox = s.outbox := rfl
@[simp] theorem updPriv_cx_s (f : Priv → Priv) (s : State) : (updPriv f s).cx.s = s.cx.s := rfl
@[simp] theorem updPriv_cx_v (f : Priv → Priv) (s : State) : (updPriv f s).cx.v = s.cx.v := rfl
@[simp] theorem updPriv_cx_m (f : Priv → Priv) (s : State) : (updPriv f s).cx.m = s.cx.m := rfl
@[simp] theorem updPriv_cx_t (f : Priv → Priv) (s : State) : (updPriv f s).cx.t = s.cx.t := rfl
@[simp] theorem updPriv_cx_cfg (f : Priv → Priv) (s : State) : (updPriv f s).cx.cfg = s.cx.cfg := rfl
@[simp] theorem updPriv_cx_flags (f : Priv → Priv) (s : State) : (updPriv f s).cx.flags = s.cx.flags := rfl
@[simp] theorem updPriv_cx_qdepth (f : Priv → Priv) (s : State) : (updPriv f s).cx.qdepth = s.cx.qdepth := rfl
@[simp] theorem updPriv_cx_cq (f : Priv → Priv) (s : State) : (updPriv f s).cx.cq = s.cx.cq := rfl
@[simp] theorem updPriv_cx_xq (f : Priv → Priv) (s : State) : (updPriv f s).cx.xq = s.cx.xq := rfl
@[simp] theorem updPriv_cx_streams (f : Priv → Priv) (s : State) : (updPriv f s).cx.streams = s.cx.streams := rfl
@[simp] theorem updPriv_cx_ramphold (f : Priv → Priv) (s : State) : (updPriv f s).cx.ramphold = s.cx.ramphold := rfl
@[simp] theorem updPriv_cx_energy (f : Priv → Priv) (s : State) : (updPriv f s).cx.energy = s.cx.energy := rfl
@[simp] theorem updPriv_cx_mchkPeriod (f : Priv → Priv) (s : State) : (updPriv f s).cx.mchkPeriod = s.cx.mchkPeriod := rfl
@[simp] theorem updPriv_cx_mchkCount (f : Priv → Priv) (s : State) : (updPriv f s).cx.mchkCount = s.cx.mchkCount := rfl
@[simp] theorem updPriv_cx_plane (f : Priv → Priv) (s : State) : (updPriv f s).cx.plane = s.cx.plane := rfl
@[simp] theorem updPriv_cx_pc (f : Priv → Priv) (s : State) : (updPriv f s).cx.pc = s.cx.pc := rfl
@[simp] theorem updPriv_cx_npc (f : Priv → Priv) (s : State) : (updPriv f s).cx.npc = s.cx.npc := rfl
@[simp] theorem updPriv_cx_retired (f : Priv → Priv) (s : State) : (updPriv f s).cx.retired = s.cx.retired := rfl
@[simp] theorem updPriv_cx_pr (f : Priv → Priv) (s : State) : (updPriv f s).cx.pr = f s.cx.pr := rfl
@[simp] theorem updPriv_cx_fl (f : Priv → Priv) (s : State) : (updPriv f s).cx.fl = s.cx.fl := rfl
@[simp] theorem updPriv_cx_lease (f : Priv → Priv) (s : State) : (updPriv f s).cx.lease = s.cx.lease := rfl
@[simp] theorem updPriv_cx_task (f : Priv → Priv) (s : State) : (updPriv f s).cx.task = s.cx.task := rfl

@[simp] theorem setStream_me (q : Fin 8) (b : Option Stream) (s : State) : (setStream q b s).me = s.me := rfl
@[simp] theorem setStream_co (q : Fin 8) (b : Option Stream) (s : State) : (setStream q b s).co = s.co := rfl
@[simp] theorem setStream_others (q : Fin 8) (b : Option Stream) (s : State) : (setStream q b s).others = s.others := rfl
@[simp] theorem setStream_dev (q : Fin 8) (b : Option Stream) (s : State) : (setStream q b s).dev = s.dev := rfl
@[simp] theorem setStream_mem (q : Fin 8) (b : Option Stream) (s : State) : (setStream q b s).mem = s.mem := rfl
@[simp] theorem setStream_mmio (q : Fin 8) (b : Option Stream) (s : State) : (setStream q b s).mmio = s.mmio := rfl
@[simp] theorem setStream_dist (q : Fin 8) (b : Option Stream) (s : State) : (setStream q b s).dist = s.dist := rfl
@[simp] theorem setStream_arrays (q : Fin 8) (b : Option Stream) (s : State) : (setStream q b s).arrays = s.arrays := rfl
@[simp] theorem setStream_pow (q : Fin 8) (b : Option Stream) (s : State) : (setStream q b s).pow = s.pow := rfl
@[simp] theorem setStream_gov (q : Fin 8) (b : Option Stream) (s : State) : (setStream q b s).gov = s.gov := rfl
@[simp] theorem setStream_lin (q : Fin 8) (b : Option Stream) (s : State) : (setStream q b s).lin = s.lin := rfl
@[simp] theorem setStream_xl (q : Fin 8) (b : Option Stream) (s : State) : (setStream q b s).xl = s.xl := rfl
@[simp] theorem setStream_fab (q : Fin 8) (b : Option Stream) (s : State) : (setStream q b s).fab = s.fab := rfl
@[simp] theorem setStream_port (q : Fin 8) (b : Option Stream) (s : State) : (setStream q b s).port = s.port := rfl
@[simp] theorem setStream_bob (q : Fin 8) (b : Option Stream) (s : State) : (setStream q b s).bob = s.bob := rfl
@[simp] theorem setStream_mcq (q : Fin 8) (b : Option Stream) (s : State) : (setStream q b s).mcq = s.mcq := rfl
@[simp] theorem setStream_quar (q : Fin 8) (b : Option Stream) (s : State) : (setStream q b s).quar = s.quar := rfl
@[simp] theorem setStream_broken (q : Fin 8) (b : Option Stream) (s : State) : (setStream q b s).broken = s.broken := rfl
@[simp] theorem setStream_imgver (q : Fin 8) (b : Option Stream) (s : State) : (setStream q b s).imgver = s.imgver := rfl
@[simp] theorem setStream_clock (q : Fin 8) (b : Option Stream) (s : State) : (setStream q b s).clock = s.clock := rfl
@[simp] theorem setStream_free (q : Fin 8) (b : Option Stream) (s : State) : (setStream q b s).free = s.free := rfl
@[simp] theorem setStream_uid (q : Fin 8) (b : Option Stream) (s : State) : (setStream q b s).uid = s.uid := rfl
@[simp] theorem setStream_script (q : Fin 8) (b : Option Stream) (s : State) : (setStream q b s).script = s.script := rfl
@[simp] theorem setStream_due (q : Fin 8) (b : Option Stream) (s : State) : (setStream q b s).due = s.due := rfl
@[simp] theorem setStream_held (q : Fin 8) (b : Option Stream) (s : State) : (setStream q b s).held = s.held := rfl
@[simp] theorem setStream_now (q : Fin 8) (b : Option Stream) (s : State) : (setStream q b s).now = s.now := rfl
@[simp] theorem setStream_outbox (q : Fin 8) (b : Option Stream) (s : State) : (setStream q b s).outbox = s.outbox := rfl
@[simp] theorem setStream_cx_s (q : Fin 8) (b : Option Stream) (s : State) : (setStream q b s).cx.s = s.cx.s := rfl
@[simp] theorem setStream_cx_v (q : Fin 8) (b : Option Stream) (s : State) : (setStream q b s).cx.v = s.cx.v := rfl
@[simp] theorem setStream_cx_m (q : Fin 8) (b : Option Stream) (s : State) : (setStream q b s).cx.m = s.cx.m := rfl
@[simp] theorem setStream_cx_t (q : Fin 8) (b : Option Stream) (s : State) : (setStream q b s).cx.t = s.cx.t := rfl
@[simp] theorem setStream_cx_cfg (q : Fin 8) (b : Option Stream) (s : State) : (setStream q b s).cx.cfg = s.cx.cfg := rfl
@[simp] theorem setStream_cx_flags (q : Fin 8) (b : Option Stream) (s : State) : (setStream q b s).cx.flags = s.cx.flags := rfl
@[simp] theorem setStream_cx_qdepth (q : Fin 8) (b : Option Stream) (s : State) : (setStream q b s).cx.qdepth = s.cx.qdepth := rfl
@[simp] theorem setStream_cx_cq (q : Fin 8) (b : Option Stream) (s : State) : (setStream q b s).cx.cq = s.cx.cq := rfl
@[simp] theorem setStream_cx_xq (q : Fin 8) (b : Option Stream) (s : State) : (setStream q b s).cx.xq = s.cx.xq := rfl
@[simp] theorem setStream_cx_streams (q : Fin 8) (b : Option Stream) (s : State) : (setStream q b s).cx.streams = s.cx.streams.set q b := rfl
@[simp] theorem setStream_cx_ramphold (q : Fin 8) (b : Option Stream) (s : State) : (setStream q b s).cx.ramphold = s.cx.ramphold := rfl
@[simp] theorem setStream_cx_energy (q : Fin 8) (b : Option Stream) (s : State) : (setStream q b s).cx.energy = s.cx.energy := rfl
@[simp] theorem setStream_cx_mchkPeriod (q : Fin 8) (b : Option Stream) (s : State) : (setStream q b s).cx.mchkPeriod = s.cx.mchkPeriod := rfl
@[simp] theorem setStream_cx_mchkCount (q : Fin 8) (b : Option Stream) (s : State) : (setStream q b s).cx.mchkCount = s.cx.mchkCount := rfl
@[simp] theorem setStream_cx_plane (q : Fin 8) (b : Option Stream) (s : State) : (setStream q b s).cx.plane = s.cx.plane := rfl
@[simp] theorem setStream_cx_pc (q : Fin 8) (b : Option Stream) (s : State) : (setStream q b s).cx.pc = s.cx.pc := rfl
@[simp] theorem setStream_cx_npc (q : Fin 8) (b : Option Stream) (s : State) : (setStream q b s).cx.npc = s.cx.npc := rfl
@[simp] theorem setStream_cx_retired (q : Fin 8) (b : Option Stream) (s : State) : (setStream q b s).cx.retired = s.cx.retired := rfl
@[simp] theorem setStream_cx_pr (q : Fin 8) (b : Option Stream) (s : State) : (setStream q b s).cx.pr = s.cx.pr := rfl
@[simp] theorem setStream_cx_fl (q : Fin 8) (b : Option Stream) (s : State) : (setStream q b s).cx.fl = s.cx.fl := rfl
@[simp] theorem setStream_cx_lease (q : Fin 8) (b : Option Stream) (s : State) : (setStream q b s).cx.lease = s.cx.lease := rfl
@[simp] theorem setStream_cx_task (q : Fin 8) (b : Option Stream) (s : State) : (setStream q b s).cx.task = s.cx.task := rfl

@[simp] theorem setL_me (k : Fin 4) (w : W64) (s : State) : (setL k w s).me = s.me := rfl
@[simp] theorem setL_co (k : Fin 4) (w : W64) (s : State) : (setL k w s).co = s.co := rfl
@[simp] theorem setL_others (k : Fin 4) (w : W64) (s : State) : (setL k w s).others = s.others := rfl
@[simp] theorem setL_dev (k : Fin 4) (w : W64) (s : State) : (setL k w s).dev = s.dev := rfl
@[simp] theorem setL_mem (k : Fin 4) (w : W64) (s : State) : (setL k w s).mem = s.mem := rfl
@[simp] theorem setL_mmio (k : Fin 4) (w : W64) (s : State) : (setL k w s).mmio = s.mmio := rfl
@[simp] theorem setL_dist (k : Fin 4) (w : W64) (s : State) : (setL k w s).dist = s.dist := rfl
@[simp] theorem setL_arrays (k : Fin 4) (w : W64) (s : State) : (setL k w s).arrays = s.arrays := rfl
@[simp] theorem setL_pow (k : Fin 4) (w : W64) (s : State) : (setL k w s).pow = s.pow := rfl
@[simp] theorem setL_gov (k : Fin 4) (w : W64) (s : State) : (setL k w s).gov = s.gov := rfl
@[simp] theorem setL_lin (k : Fin 4) (w : W64) (s : State) : (setL k w s).lin = s.lin := rfl
@[simp] theorem setL_xl (k : Fin 4) (w : W64) (s : State) : (setL k w s).xl = s.xl := rfl
@[simp] theorem setL_fab (k : Fin 4) (w : W64) (s : State) : (setL k w s).fab = s.fab := rfl
@[simp] theorem setL_port (k : Fin 4) (w : W64) (s : State) : (setL k w s).port = s.port := rfl
@[simp] theorem setL_bob (k : Fin 4) (w : W64) (s : State) : (setL k w s).bob = s.bob := rfl
@[simp] theorem setL_mcq (k : Fin 4) (w : W64) (s : State) : (setL k w s).mcq = s.mcq := rfl
@[simp] theorem setL_quar (k : Fin 4) (w : W64) (s : State) : (setL k w s).quar = s.quar := rfl
@[simp] theorem setL_broken (k : Fin 4) (w : W64) (s : State) : (setL k w s).broken = s.broken := rfl
@[simp] theorem setL_imgver (k : Fin 4) (w : W64) (s : State) : (setL k w s).imgver = s.imgver := rfl
@[simp] theorem setL_clock (k : Fin 4) (w : W64) (s : State) : (setL k w s).clock = s.clock := rfl
@[simp] theorem setL_free (k : Fin 4) (w : W64) (s : State) : (setL k w s).free = s.free := rfl
@[simp] theorem setL_uid (k : Fin 4) (w : W64) (s : State) : (setL k w s).uid = s.uid := rfl
@[simp] theorem setL_script (k : Fin 4) (w : W64) (s : State) : (setL k w s).script = s.script := rfl
@[simp] theorem setL_due (k : Fin 4) (w : W64) (s : State) : (setL k w s).due = s.due := rfl
@[simp] theorem setL_held (k : Fin 4) (w : W64) (s : State) : (setL k w s).held = s.held := rfl
@[simp] theorem setL_now (k : Fin 4) (w : W64) (s : State) : (setL k w s).now = s.now := rfl
@[simp] theorem setL_outbox (k : Fin 4) (w : W64) (s : State) : (setL k w s).outbox = s.outbox := rfl
@[simp] theorem setL_cx_s (k : Fin 4) (w : W64) (s : State) : (setL k w s).cx.s = s.cx.s := rfl
@[simp] theorem setL_cx_v (k : Fin 4) (w : W64) (s : State) : (setL k w s).cx.v = s.cx.v := rfl
@[simp] theorem setL_cx_m (k : Fin 4) (w : W64) (s : State) : (setL k w s).cx.m = s.cx.m := rfl
@[simp] theorem setL_cx_t (k : Fin 4) (w : W64) (s : State) : (setL k w s).cx.t = s.cx.t := rfl
@[simp] theorem setL_cx_flags (k : Fin 4) (w : W64) (s : State) : (setL k w s).cx.flags = s.cx.flags := rfl
@[simp] theorem setL_cx_qdepth (k : Fin 4) (w : W64) (s : State) : (setL k w s).cx.qdepth = s.cx.qdepth := rfl
@[simp] theorem setL_cx_cq (k : Fin 4) (w : W64) (s : State) : (setL k w s).cx.cq = s.cx.cq := rfl
@[simp] theorem setL_cx_xq (k : Fin 4) (w : W64) (s : State) : (setL k w s).cx.xq = s.cx.xq := rfl
@[simp] theorem setL_cx_streams (k : Fin 4) (w : W64) (s : State) : (setL k w s).cx.streams = s.cx.streams := rfl
@[simp] theorem setL_cx_ramphold (k : Fin 4) (w : W64) (s : State) : (setL k w s).cx.ramphold = s.cx.ramphold := rfl
@[simp] theorem setL_cx_energy (k : Fin 4) (w : W64) (s : State) : (setL k w s).cx.energy = s.cx.energy := rfl
@[simp] theorem setL_cx_mchkPeriod (k : Fin 4) (w : W64) (s : State) : (setL k w s).cx.mchkPeriod = s.cx.mchkPeriod := rfl
@[simp] theorem setL_cx_mchkCount (k : Fin 4) (w : W64) (s : State) : (setL k w s).cx.mchkCount = s.cx.mchkCount := rfl
@[simp] theorem setL_cx_plane (k : Fin 4) (w : W64) (s : State) : (setL k w s).cx.plane = s.cx.plane := rfl
@[simp] theorem setL_cx_pc (k : Fin 4) (w : W64) (s : State) : (setL k w s).cx.pc = s.cx.pc := rfl
@[simp] theorem setL_cx_npc (k : Fin 4) (w : W64) (s : State) : (setL k w s).cx.npc = s.cx.npc := rfl
@[simp] theorem setL_cx_retired (k : Fin 4) (w : W64) (s : State) : (setL k w s).cx.retired = s.cx.retired := rfl
@[simp] theorem setL_cx_pr (k : Fin 4) (w : W64) (s : State) : (setL k w s).cx.pr = s.cx.pr := rfl
@[simp] theorem setL_cx_fl (k : Fin 4) (w : W64) (s : State) : (setL k w s).cx.fl = s.cx.fl := rfl
@[simp] theorem setL_cx_lease (k : Fin 4) (w : W64) (s : State) : (setL k w s).cx.lease = s.cx.lease := rfl
@[simp] theorem setL_cx_task (k : Fin 4) (w : W64) (s : State) : (setL k w s).cx.task = s.cx.task := rfl

@[simp] theorem goto_me (w : W64) (s : State) : (goto w s).me = s.me := rfl
@[simp] theorem goto_co (w : W64) (s : State) : (goto w s).co = s.co := rfl
@[simp] theorem goto_others (w : W64) (s : State) : (goto w s).others = s.others := rfl
@[simp] theorem goto_dev (w : W64) (s : State) : (goto w s).dev = s.dev := rfl
@[simp] theorem goto_mem (w : W64) (s : State) : (goto w s).mem = s.mem := rfl
@[simp] theorem goto_mmio (w : W64) (s : State) : (goto w s).mmio = s.mmio := rfl
@[simp] theorem goto_dist (w : W64) (s : State) : (goto w s).dist = s.dist := rfl
@[simp] theorem goto_arrays (w : W64) (s : State) : (goto w s).arrays = s.arrays := rfl
@[simp] theorem goto_pow (w : W64) (s : State) : (goto w s).pow = s.pow := rfl
@[simp] theorem goto_gov (w : W64) (s : State) : (goto w s).gov = s.gov := rfl
@[simp] theorem goto_lin (w : W64) (s : State) : (goto w s).lin = s.lin := rfl
@[simp] theorem goto_xl (w : W64) (s : State) : (goto w s).xl = s.xl := rfl
@[simp] theorem goto_fab (w : W64) (s : State) : (goto w s).fab = s.fab := rfl
@[simp] theorem goto_port (w : W64) (s : State) : (goto w s).port = s.port := rfl
@[simp] theorem goto_bob (w : W64) (s : State) : (goto w s).bob = s.bob := rfl
@[simp] theorem goto_mcq (w : W64) (s : State) : (goto w s).mcq = s.mcq := rfl
@[simp] theorem goto_quar (w : W64) (s : State) : (goto w s).quar = s.quar := rfl
@[simp] theorem goto_broken (w : W64) (s : State) : (goto w s).broken = s.broken := rfl
@[simp] theorem goto_imgver (w : W64) (s : State) : (goto w s).imgver = s.imgver := rfl
@[simp] theorem goto_clock (w : W64) (s : State) : (goto w s).clock = s.clock := rfl
@[simp] theorem goto_free (w : W64) (s : State) : (goto w s).free = s.free := rfl
@[simp] theorem goto_uid (w : W64) (s : State) : (goto w s).uid = s.uid := rfl
@[simp] theorem goto_script (w : W64) (s : State) : (goto w s).script = s.script := rfl
@[simp] theorem goto_due (w : W64) (s : State) : (goto w s).due = s.due := rfl
@[simp] theorem goto_held (w : W64) (s : State) : (goto w s).held = s.held := rfl
@[simp] theorem goto_now (w : W64) (s : State) : (goto w s).now = s.now := rfl
@[simp] theorem goto_outbox (w : W64) (s : State) : (goto w s).outbox = s.outbox := rfl
@[simp] theorem goto_cx_s (w : W64) (s : State) : (goto w s).cx.s = s.cx.s := rfl
@[simp] theorem goto_cx_v (w : W64) (s : State) : (goto w s).cx.v = s.cx.v := rfl
@[simp] theorem goto_cx_m (w : W64) (s : State) : (goto w s).cx.m = s.cx.m := rfl
@[simp] theorem goto_cx_t (w : W64) (s : State) : (goto w s).cx.t = s.cx.t := rfl
@[simp] theorem goto_cx_cfg (w : W64) (s : State) : (goto w s).cx.cfg = s.cx.cfg := rfl
@[simp] theorem goto_cx_flags (w : W64) (s : State) : (goto w s).cx.flags = s.cx.flags := rfl
@[simp] theorem goto_cx_qdepth (w : W64) (s : State) : (goto w s).cx.qdepth = s.cx.qdepth := rfl
@[simp] theorem goto_cx_cq (w : W64) (s : State) : (goto w s).cx.cq = s.cx.cq := rfl
@[simp] theorem goto_cx_xq (w : W64) (s : State) : (goto w s).cx.xq = s.cx.xq := rfl
@[simp] theorem goto_cx_streams (w : W64) (s : State) : (goto w s).cx.streams = s.cx.streams := rfl
@[simp] theorem goto_cx_ramphold (w : W64) (s : State) : (goto w s).cx.ramphold = s.cx.ramphold := rfl
@[simp] theorem goto_cx_energy (w : W64) (s : State) : (goto w s).cx.energy = s.cx.energy := rfl
@[simp] theorem goto_cx_mchkPeriod (w : W64) (s : State) : (goto w s).cx.mchkPeriod = s.cx.mchkPeriod := rfl
@[simp] theorem goto_cx_mchkCount (w : W64) (s : State) : (goto w s).cx.mchkCount = s.cx.mchkCount := rfl
@[simp] theorem goto_cx_plane (w : W64) (s : State) : (goto w s).cx.plane = s.cx.plane := rfl
@[simp] theorem goto_cx_pc (w : W64) (s : State) : (goto w s).cx.pc = s.cx.pc := rfl
@[simp] theorem goto_cx_npc (w : W64) (s : State) : (goto w s).cx.npc = w := rfl
@[simp] theorem goto_cx_retired (w : W64) (s : State) : (goto w s).cx.retired = s.cx.retired := rfl
@[simp] theorem goto_cx_pr (w : W64) (s : State) : (goto w s).cx.pr = s.cx.pr := rfl
@[simp] theorem goto_cx_fl (w : W64) (s : State) : (goto w s).cx.fl = s.cx.fl := rfl
@[simp] theorem goto_cx_lease (w : W64) (s : State) : (goto w s).cx.lease = s.cx.lease := rfl
@[simp] theorem goto_cx_task (w : W64) (s : State) : (goto w s).cx.task = s.cx.task := rfl

@[simp] theorem complete_me (s : State) : (complete s).me = s.me := rfl
@[simp] theorem complete_co (s : State) : (complete s).co = s.co := rfl
@[simp] theorem complete_others (s : State) : (complete s).others = s.others := rfl
@[simp] theorem complete_dev (s : State) : (complete s).dev = s.dev := rfl
@[simp] theorem complete_mem (s : State) : (complete s).mem = s.mem := rfl
@[simp] theorem complete_mmio (s : State) : (complete s).mmio = s.mmio := rfl
@[simp] theorem complete_dist (s : State) : (complete s).dist = s.dist := rfl
@[simp] theorem complete_arrays (s : State) : (complete s).arrays = s.arrays := rfl
@[simp] theorem complete_pow (s : State) : (complete s).pow = s.pow := rfl
@[simp] theorem complete_gov (s : State) : (complete s).gov = s.gov := rfl
@[simp] theorem complete_lin (s : State) : (complete s).lin = s.lin := rfl
@[simp] theorem complete_xl (s : State) : (complete s).xl = s.xl := rfl
@[simp] theorem complete_fab (s : State) : (complete s).fab = s.fab := rfl
@[simp] theorem complete_port (s : State) : (complete s).port = s.port := rfl
@[simp] theorem complete_bob (s : State) : (complete s).bob = s.bob := rfl
@[simp] theorem complete_mcq (s : State) : (complete s).mcq = s.mcq := rfl
@[simp] theorem complete_quar (s : State) : (complete s).quar = s.quar := rfl
@[simp] theorem complete_broken (s : State) : (complete s).broken = s.broken := rfl
@[simp] theorem complete_imgver (s : State) : (complete s).imgver = s.imgver := rfl
@[simp] theorem complete_clock (s : State) : (complete s).clock = s.clock := rfl
@[simp] theorem complete_free (s : State) : (complete s).free = s.free := rfl
@[simp] theorem complete_uid (s : State) : (complete s).uid = s.uid := rfl
@[simp] theorem complete_script (s : State) : (complete s).script = s.script := rfl
@[simp] theorem complete_due (s : State) : (complete s).due = s.due := rfl
@[simp] theorem complete_held (s : State) : (complete s).held = s.held := rfl
@[simp] theorem complete_now (s : State) : (complete s).now = s.now := rfl
@[simp] theorem complete_outbox (s : State) : (complete s).outbox = s.outbox := rfl
@[simp] theorem complete_cx_s (s : State) : (complete s).cx.s = s.cx.s := rfl
@[simp] theorem complete_cx_v (s : State) : (complete s).cx.v = s.cx.v := rfl
@[simp] theorem complete_cx_m (s : State) : (complete s).cx.m = s.cx.m := rfl
@[simp] theorem complete_cx_t (s : State) : (complete s).cx.t = s.cx.t := rfl
@[simp] theorem complete_cx_cfg (s : State) : (complete s).cx.cfg = s.cx.cfg := rfl
@[simp] theorem complete_cx_flags (s : State) : (complete s).cx.flags = s.cx.flags := rfl
@[simp] theorem complete_cx_qdepth (s : State) : (complete s).cx.qdepth = s.cx.qdepth := rfl
@[simp] theorem complete_cx_cq (s : State) : (complete s).cx.cq = s.cx.cq := rfl
@[simp] theorem complete_cx_xq (s : State) : (complete s).cx.xq = s.cx.xq := rfl
@[simp] theorem complete_cx_streams (s : State) : (complete s).cx.streams = s.cx.streams := rfl
@[simp] theorem complete_cx_ramphold (s : State) : (complete s).cx.ramphold = s.cx.ramphold := rfl
@[simp] theorem complete_cx_energy (s : State) : (complete s).cx.energy = s.cx.energy := rfl
@[simp] theorem complete_cx_mchkPeriod (s : State) : (complete s).cx.mchkPeriod = s.cx.mchkPeriod := rfl
@[simp] theorem complete_cx_mchkCount (s : State) : (complete s).cx.mchkCount = s.cx.mchkCount := rfl
@[simp] theorem complete_cx_plane (s : State) : (complete s).cx.plane = s.cx.plane := rfl
@[simp] theorem complete_cx_pc (s : State) : (complete s).cx.pc = s.cx.npc := rfl
@[simp] theorem complete_cx_npc (s : State) : (complete s).cx.npc = s.cx.npc := rfl
@[simp] theorem complete_cx_retired (s : State) : (complete s).cx.retired = s.cx.retired + 1 := rfl
@[simp] theorem complete_cx_pr (s : State) : (complete s).cx.pr = s.cx.pr := rfl
@[simp] theorem complete_cx_lease (s : State) : (complete s).cx.lease = s.cx.lease := rfl
@[simp] theorem complete_cx_task (s : State) : (complete s).cx.task = s.cx.task := rfl

@[simp] theorem updTask_me (f : TaskRun → TaskRun) (s : State) : (updTask f s).me = s.me := rfl
@[simp] theorem updTask_co (f : TaskRun → TaskRun) (s : State) : (updTask f s).co = s.co := rfl
@[simp] theorem updTask_others (f : TaskRun → TaskRun) (s : State) : (updTask f s).others = s.others := rfl
@[simp] theorem updTask_dev (f : TaskRun → TaskRun) (s : State) : (updTask f s).dev = s.dev := rfl
@[simp] theorem updTask_mem (f : TaskRun → TaskRun) (s : State) : (updTask f s).mem = s.mem := rfl
@[simp] theorem updTask_mmio (f : TaskRun → TaskRun) (s : State) : (updTask f s).mmio = s.mmio := rfl
@[simp] theorem updTask_dist (f : TaskRun → TaskRun) (s : State) : (updTask f s).dist = s.dist := rfl
@[simp] theorem updTask_arrays (f : TaskRun → TaskRun) (s : State) : (updTask f s).arrays = s.arrays := rfl
@[simp] theorem updTask_pow (f : TaskRun → TaskRun) (s : State) : (updTask f s).pow = s.pow := rfl
@[simp] theorem updTask_gov (f : TaskRun → TaskRun) (s : State) : (updTask f s).gov = s.gov := rfl
@[simp] theorem updTask_lin (f : TaskRun → TaskRun) (s : State) : (updTask f s).lin = s.lin := rfl
@[simp] theorem updTask_xl (f : TaskRun → TaskRun) (s : State) : (updTask f s).xl = s.xl := rfl
@[simp] theorem updTask_fab (f : TaskRun → TaskRun) (s : State) : (updTask f s).fab = s.fab := rfl
@[simp] theorem updTask_port (f : TaskRun → TaskRun) (s : State) : (updTask f s).port = s.port := rfl
@[simp] theorem updTask_bob (f : TaskRun → TaskRun) (s : State) : (updTask f s).bob = s.bob := rfl
@[simp] theorem updTask_mcq (f : TaskRun → TaskRun) (s : State) : (updTask f s).mcq = s.mcq := rfl
@[simp] theorem updTask_quar (f : TaskRun → TaskRun) (s : State) : (updTask f s).quar = s.quar := rfl
@[simp] theorem updTask_broken (f : TaskRun → TaskRun) (s : State) : (updTask f s).broken = s.broken := rfl
@[simp] theorem updTask_imgver (f : TaskRun → TaskRun) (s : State) : (updTask f s).imgver = s.imgver := rfl
@[simp] theorem updTask_clock (f : TaskRun → TaskRun) (s : State) : (updTask f s).clock = s.clock := rfl
@[simp] theorem updTask_free (f : TaskRun → TaskRun) (s : State) : (updTask f s).free = s.free := rfl
@[simp] theorem updTask_uid (f : TaskRun → TaskRun) (s : State) : (updTask f s).uid = s.uid := rfl
@[simp] theorem updTask_script (f : TaskRun → TaskRun) (s : State) : (updTask f s).script = s.script := rfl
@[simp] theorem updTask_due (f : TaskRun → TaskRun) (s : State) : (updTask f s).due = s.due := rfl
@[simp] theorem updTask_held (f : TaskRun → TaskRun) (s : State) : (updTask f s).held = s.held := rfl
@[simp] theorem updTask_now (f : TaskRun → TaskRun) (s : State) : (updTask f s).now = s.now := rfl
@[simp] theorem updTask_outbox (f : TaskRun → TaskRun) (s : State) : (updTask f s).outbox = s.outbox := rfl
@[simp] theorem updTask_cx_s (f : TaskRun → TaskRun) (s : State) : (updTask f s).cx.s = s.cx.s := rfl
@[simp] theorem updTask_cx_v (f : TaskRun → TaskRun) (s : State) : (updTask f s).cx.v = s.cx.v := rfl
@[simp] theorem updTask_cx_m (f : TaskRun → TaskRun) (s : State) : (updTask f s).cx.m = s.cx.m := rfl
@[simp] theorem updTask_cx_t (f : TaskRun → TaskRun) (s : State) : (updTask f s).cx.t = s.cx.t := rfl
@[simp] theorem updTask_cx_cfg (f : TaskRun → TaskRun) (s : State) : (updTask f s).cx.cfg = s.cx.cfg := rfl
@[simp] theorem updTask_cx_flags (f : TaskRun → TaskRun) (s : State) : (updTask f s).cx.flags = s.cx.flags := rfl
@[simp] theorem updTask_cx_qdepth (f : TaskRun → TaskRun) (s : State) : (updTask f s).cx.qdepth = s.cx.qdepth := rfl
@[simp] theorem updTask_cx_cq (f : TaskRun → TaskRun) (s : State) : (updTask f s).cx.cq = s.cx.cq := rfl
@[simp] theorem updTask_cx_xq (f : TaskRun → TaskRun) (s : State) : (updTask f s).cx.xq = s.cx.xq := rfl
@[simp] theorem updTask_cx_streams (f : TaskRun → TaskRun) (s : State) : (updTask f s).cx.streams = s.cx.streams := rfl
@[simp] theorem updTask_cx_ramphold (f : TaskRun → TaskRun) (s : State) : (updTask f s).cx.ramphold = s.cx.ramphold := rfl
@[simp] theorem updTask_cx_energy (f : TaskRun → TaskRun) (s : State) : (updTask f s).cx.energy = s.cx.energy := rfl
@[simp] theorem updTask_cx_mchkPeriod (f : TaskRun → TaskRun) (s : State) : (updTask f s).cx.mchkPeriod = s.cx.mchkPeriod := rfl
@[simp] theorem updTask_cx_mchkCount (f : TaskRun → TaskRun) (s : State) : (updTask f s).cx.mchkCount = s.cx.mchkCount := rfl
@[simp] theorem updTask_cx_plane (f : TaskRun → TaskRun) (s : State) : (updTask f s).cx.plane = s.cx.plane := rfl
@[simp] theorem updTask_cx_pc (f : TaskRun → TaskRun) (s : State) : (updTask f s).cx.pc = s.cx.pc := rfl
@[simp] theorem updTask_cx_npc (f : TaskRun → TaskRun) (s : State) : (updTask f s).cx.npc = s.cx.npc := rfl
@[simp] theorem updTask_cx_retired (f : TaskRun → TaskRun) (s : State) : (updTask f s).cx.retired = s.cx.retired := rfl
@[simp] theorem updTask_cx_pr (f : TaskRun → TaskRun) (s : State) : (updTask f s).cx.pr = s.cx.pr := rfl
@[simp] theorem updTask_cx_fl (f : TaskRun → TaskRun) (s : State) : (updTask f s).cx.fl = s.cx.fl := rfl
@[simp] theorem updTask_cx_lease (f : TaskRun → TaskRun) (s : State) : (updTask f s).cx.lease = s.cx.lease := rfl
@[simp] theorem updTask_cx_task (f : TaskRun → TaskRun) (s : State) : (updTask f s).cx.task = s.cx.task.map f := rfl

@[simp] theorem updLease_me (f : Lease → Lease) (s : State) : (updLease f s).me = s.me := rfl
@[simp] theorem updLease_co (f : Lease → Lease) (s : State) : (updLease f s).co = s.co := rfl
@[simp] theorem updLease_others (f : Lease → Lease) (s : State) : (updLease f s).others = s.others := rfl
@[simp] theorem updLease_dev (f : Lease → Lease) (s : State) : (updLease f s).dev = s.dev := rfl
@[simp] theorem updLease_mem (f : Lease → Lease) (s : State) : (updLease f s).mem = s.mem := rfl
@[simp] theorem updLease_mmio (f : Lease → Lease) (s : State) : (updLease f s).mmio = s.mmio := rfl
@[simp] theorem updLease_dist (f : Lease → Lease) (s : State) : (updLease f s).dist = s.dist := rfl
@[simp] theorem updLease_arrays (f : Lease → Lease) (s : State) : (updLease f s).arrays = s.arrays := rfl
@[simp] theorem updLease_pow (f : Lease → Lease) (s : State) : (updLease f s).pow = s.pow := rfl
@[simp] theorem updLease_gov (f : Lease → Lease) (s : State) : (updLease f s).gov = s.gov := rfl
@[simp] theorem updLease_lin (f : Lease → Lease) (s : State) : (updLease f s).lin = s.lin := rfl
@[simp] theorem updLease_xl (f : Lease → Lease) (s : State) : (updLease f s).xl = s.xl := rfl
@[simp] theorem updLease_fab (f : Lease → Lease) (s : State) : (updLease f s).fab = s.fab := rfl
@[simp] theorem updLease_port (f : Lease → Lease) (s : State) : (updLease f s).port = s.port := rfl
@[simp] theorem updLease_bob (f : Lease → Lease) (s : State) : (updLease f s).bob = s.bob := rfl
@[simp] theorem updLease_mcq (f : Lease → Lease) (s : State) : (updLease f s).mcq = s.mcq := rfl
@[simp] theorem updLease_quar (f : Lease → Lease) (s : State) : (updLease f s).quar = s.quar := rfl
@[simp] theorem updLease_broken (f : Lease → Lease) (s : State) : (updLease f s).broken = s.broken := rfl
@[simp] theorem updLease_imgver (f : Lease → Lease) (s : State) : (updLease f s).imgver = s.imgver := rfl
@[simp] theorem updLease_clock (f : Lease → Lease) (s : State) : (updLease f s).clock = s.clock := rfl
@[simp] theorem updLease_free (f : Lease → Lease) (s : State) : (updLease f s).free = s.free := rfl
@[simp] theorem updLease_uid (f : Lease → Lease) (s : State) : (updLease f s).uid = s.uid := rfl
@[simp] theorem updLease_script (f : Lease → Lease) (s : State) : (updLease f s).script = s.script := rfl
@[simp] theorem updLease_due (f : Lease → Lease) (s : State) : (updLease f s).due = s.due := rfl
@[simp] theorem updLease_held (f : Lease → Lease) (s : State) : (updLease f s).held = s.held := rfl
@[simp] theorem updLease_now (f : Lease → Lease) (s : State) : (updLease f s).now = s.now := rfl
@[simp] theorem updLease_outbox (f : Lease → Lease) (s : State) : (updLease f s).outbox = s.outbox := rfl
@[simp] theorem updLease_cx_s (f : Lease → Lease) (s : State) : (updLease f s).cx.s = s.cx.s := rfl
@[simp] theorem updLease_cx_v (f : Lease → Lease) (s : State) : (updLease f s).cx.v = s.cx.v := rfl
@[simp] theorem updLease_cx_m (f : Lease → Lease) (s : State) : (updLease f s).cx.m = s.cx.m := rfl
@[simp] theorem updLease_cx_t (f : Lease → Lease) (s : State) : (updLease f s).cx.t = s.cx.t := rfl
@[simp] theorem updLease_cx_cfg (f : Lease → Lease) (s : State) : (updLease f s).cx.cfg = s.cx.cfg := rfl
@[simp] theorem updLease_cx_flags (f : Lease → Lease) (s : State) : (updLease f s).cx.flags = s.cx.flags := rfl
@[simp] theorem updLease_cx_qdepth (f : Lease → Lease) (s : State) : (updLease f s).cx.qdepth = s.cx.qdepth := rfl
@[simp] theorem updLease_cx_cq (f : Lease → Lease) (s : State) : (updLease f s).cx.cq = s.cx.cq := rfl
@[simp] theorem updLease_cx_xq (f : Lease → Lease) (s : State) : (updLease f s).cx.xq = s.cx.xq := rfl
@[simp] theorem updLease_cx_streams (f : Lease → Lease) (s : State) : (updLease f s).cx.streams = s.cx.streams := rfl
@[simp] theorem updLease_cx_ramphold (f : Lease → Lease) (s : State) : (updLease f s).cx.ramphold = s.cx.ramphold := rfl
@[simp] theorem updLease_cx_energy (f : Lease → Lease) (s : State) : (updLease f s).cx.energy = s.cx.energy := rfl
@[simp] theorem updLease_cx_mchkPeriod (f : Lease → Lease) (s : State) : (updLease f s).cx.mchkPeriod = s.cx.mchkPeriod := rfl
@[simp] theorem updLease_cx_mchkCount (f : Lease → Lease) (s : State) : (updLease f s).cx.mchkCount = s.cx.mchkCount := rfl
@[simp] theorem updLease_cx_plane (f : Lease → Lease) (s : State) : (updLease f s).cx.plane = s.cx.plane := rfl
@[simp] theorem updLease_cx_pc (f : Lease → Lease) (s : State) : (updLease f s).cx.pc = s.cx.pc := rfl
@[simp] theorem updLease_cx_npc (f : Lease → Lease) (s : State) : (updLease f s).cx.npc = s.cx.npc := rfl
@[simp] theorem updLease_cx_retired (f : Lease → Lease) (s : State) : (updLease f s).cx.retired = s.cx.retired := rfl
@[simp] theorem updLease_cx_pr (f : Lease → Lease) (s : State) : (updLease f s).cx.pr = s.cx.pr := rfl
@[simp] theorem updLease_cx_fl (f : Lease → Lease) (s : State) : (updLease f s).cx.fl = s.cx.fl := rfl
@[simp] theorem updLease_cx_lease (f : Lease → Lease) (s : State) : (updLease f s).cx.lease = f s.cx.lease := rfl
@[simp] theorem updLease_cx_task (f : Lease → Lease) (s : State) : (updLease f s).cx.task = s.cx.task := rfl

@[simp] theorem setT_me (k : Fin 8) (l : List TRow) (s : State) : (setT k l s).me = s.me := rfl
@[simp] theorem setT_co (k : Fin 8) (l : List TRow) (s : State) : (setT k l s).co = s.co := rfl
@[simp] theorem setT_others (k : Fin 8) (l : List TRow) (s : State) : (setT k l s).others = s.others := rfl
@[simp] theorem setT_dev (k : Fin 8) (l : List TRow) (s : State) : (setT k l s).dev = s.dev := rfl
@[simp] theorem setT_mem (k : Fin 8) (l : List TRow) (s : State) : (setT k l s).mem = s.mem := rfl
@[simp] theorem setT_mmio (k : Fin 8) (l : List TRow) (s : State) : (setT k l s).mmio = s.mmio := rfl
@[simp] theorem setT_dist (k : Fin 8) (l : List TRow) (s : State) : (setT k l s).dist = s.dist := rfl
@[simp] theorem setT_arrays (k : Fin 8) (l : List TRow) (s : State) : (setT k l s).arrays = s.arrays := rfl
@[simp] theorem setT_pow (k : Fin 8) (l : List TRow) (s : State) : (setT k l s).pow = s.pow := rfl
@[simp] theorem setT_gov (k : Fin 8) (l : List TRow) (s : State) : (setT k l s).gov = s.gov := rfl
@[simp] theorem setT_lin (k : Fin 8) (l : List TRow) (s : State) : (setT k l s).lin = s.lin := rfl
@[simp] theorem setT_xl (k : Fin 8) (l : List TRow) (s : State) : (setT k l s).xl = s.xl := rfl
@[simp] theorem setT_fab (k : Fin 8) (l : List TRow) (s : State) : (setT k l s).fab = s.fab := rfl
@[simp] theorem setT_port (k : Fin 8) (l : List TRow) (s : State) : (setT k l s).port = s.port := rfl
@[simp] theorem setT_bob (k : Fin 8) (l : List TRow) (s : State) : (setT k l s).bob = s.bob := rfl
@[simp] theorem setT_mcq (k : Fin 8) (l : List TRow) (s : State) : (setT k l s).mcq = s.mcq := rfl
@[simp] theorem setT_quar (k : Fin 8) (l : List TRow) (s : State) : (setT k l s).quar = s.quar := rfl
@[simp] theorem setT_broken (k : Fin 8) (l : List TRow) (s : State) : (setT k l s).broken = s.broken := rfl
@[simp] theorem setT_imgver (k : Fin 8) (l : List TRow) (s : State) : (setT k l s).imgver = s.imgver := rfl
@[simp] theorem setT_clock (k : Fin 8) (l : List TRow) (s : State) : (setT k l s).clock = s.clock := rfl
@[simp] theorem setT_free (k : Fin 8) (l : List TRow) (s : State) : (setT k l s).free = s.free := rfl
@[simp] theorem setT_uid (k : Fin 8) (l : List TRow) (s : State) : (setT k l s).uid = s.uid := rfl
@[simp] theorem setT_script (k : Fin 8) (l : List TRow) (s : State) : (setT k l s).script = s.script := rfl
@[simp] theorem setT_due (k : Fin 8) (l : List TRow) (s : State) : (setT k l s).due = s.due := rfl
@[simp] theorem setT_held (k : Fin 8) (l : List TRow) (s : State) : (setT k l s).held = s.held := rfl
@[simp] theorem setT_now (k : Fin 8) (l : List TRow) (s : State) : (setT k l s).now = s.now := rfl
@[simp] theorem setT_outbox (k : Fin 8) (l : List TRow) (s : State) : (setT k l s).outbox = s.outbox := rfl
@[simp] theorem setT_cx_s (k : Fin 8) (l : List TRow) (s : State) : (setT k l s).cx.s = s.cx.s := rfl
@[simp] theorem setT_cx_v (k : Fin 8) (l : List TRow) (s : State) : (setT k l s).cx.v = s.cx.v := rfl
@[simp] theorem setT_cx_m (k : Fin 8) (l : List TRow) (s : State) : (setT k l s).cx.m = s.cx.m := rfl
@[simp] theorem setT_cx_t (k : Fin 8) (l : List TRow) (s : State) : (setT k l s).cx.t = s.cx.t.set k (mkTile l) := rfl
@[simp] theorem setT_cx_cfg (k : Fin 8) (l : List TRow) (s : State) : (setT k l s).cx.cfg = s.cx.cfg := rfl
@[simp] theorem setT_cx_flags (k : Fin 8) (l : List TRow) (s : State) : (setT k l s).cx.flags = s.cx.flags := rfl
@[simp] theorem setT_cx_qdepth (k : Fin 8) (l : List TRow) (s : State) : (setT k l s).cx.qdepth = s.cx.qdepth := rfl
@[simp] theorem setT_cx_cq (k : Fin 8) (l : List TRow) (s : State) : (setT k l s).cx.cq = s.cx.cq := rfl
@[simp] theorem setT_cx_xq (k : Fin 8) (l : List TRow) (s : State) : (setT k l s).cx.xq = s.cx.xq := rfl
@[simp] theorem setT_cx_streams (k : Fin 8) (l : List TRow) (s : State) : (setT k l s).cx.streams = s.cx.streams := rfl
@[simp] theorem setT_cx_ramphold (k : Fin 8) (l : List TRow) (s : State) : (setT k l s).cx.ramphold = s.cx.ramphold := rfl
@[simp] theorem setT_cx_energy (k : Fin 8) (l : List TRow) (s : State) : (setT k l s).cx.energy = s.cx.energy := rfl
@[simp] theorem setT_cx_mchkPeriod (k : Fin 8) (l : List TRow) (s : State) : (setT k l s).cx.mchkPeriod = s.cx.mchkPeriod := rfl
@[simp] theorem setT_cx_mchkCount (k : Fin 8) (l : List TRow) (s : State) : (setT k l s).cx.mchkCount = s.cx.mchkCount := rfl
@[simp] theorem setT_cx_plane (k : Fin 8) (l : List TRow) (s : State) : (setT k l s).cx.plane = s.cx.plane := rfl
@[simp] theorem setT_cx_pc (k : Fin 8) (l : List TRow) (s : State) : (setT k l s).cx.pc = s.cx.pc := rfl
@[simp] theorem setT_cx_npc (k : Fin 8) (l : List TRow) (s : State) : (setT k l s).cx.npc = s.cx.npc := rfl
@[simp] theorem setT_cx_retired (k : Fin 8) (l : List TRow) (s : State) : (setT k l s).cx.retired = s.cx.retired := rfl
@[simp] theorem setT_cx_pr (k : Fin 8) (l : List TRow) (s : State) : (setT k l s).cx.pr = s.cx.pr := rfl
@[simp] theorem setT_cx_fl (k : Fin 8) (l : List TRow) (s : State) : (setT k l s).cx.fl = s.cx.fl := rfl
@[simp] theorem setT_cx_lease (k : Fin 8) (l : List TRow) (s : State) : (setT k l s).cx.lease = s.cx.lease := rfl
@[simp] theorem setT_cx_task (k : Fin 8) (l : List TRow) (s : State) : (setT k l s).cx.task = s.cx.task := rfl

@[simp] theorem setEntry_me (e : QEntry) (s : State) : (setEntry e s).me = s.me := rfl
@[simp] theorem setEntry_co (e : QEntry) (s : State) : (setEntry e s).co = s.co := rfl
@[simp] theorem setEntry_others (e : QEntry) (s : State) : (setEntry e s).others = s.others := rfl
@[simp] theorem setEntry_dev (e : QEntry) (s : State) : (setEntry e s).dev = s.dev := rfl
@[simp] theorem setEntry_mem (e : QEntry) (s : State) : (setEntry e s).mem = s.mem := rfl
@[simp] theorem setEntry_mmio (e : QEntry) (s : State) : (setEntry e s).mmio = s.mmio := rfl
@[simp] theorem setEntry_dist (e : QEntry) (s : State) : (setEntry e s).dist = s.dist := rfl
@[simp] theorem setEntry_arrays (e : QEntry) (s : State) : (setEntry e s).arrays = s.arrays := rfl
@[simp] theorem setEntry_pow (e : QEntry) (s : State) : (setEntry e s).pow = s.pow := rfl
@[simp] theorem setEntry_gov (e : QEntry) (s : State) : (setEntry e s).gov = s.gov := rfl
@[simp] theorem setEntry_lin (e : QEntry) (s : State) : (setEntry e s).lin = s.lin := rfl
@[simp] theorem setEntry_xl (e : QEntry) (s : State) : (setEntry e s).xl = s.xl := rfl
@[simp] theorem setEntry_fab (e : QEntry) (s : State) : (setEntry e s).fab = s.fab := rfl
@[simp] theorem setEntry_port (e : QEntry) (s : State) : (setEntry e s).port = s.port := rfl
@[simp] theorem setEntry_bob (e : QEntry) (s : State) : (setEntry e s).bob = s.bob := rfl
@[simp] theorem setEntry_mcq (e : QEntry) (s : State) : (setEntry e s).mcq = s.mcq := rfl
@[simp] theorem setEntry_quar (e : QEntry) (s : State) : (setEntry e s).quar = s.quar := rfl
@[simp] theorem setEntry_broken (e : QEntry) (s : State) : (setEntry e s).broken = s.broken := rfl
@[simp] theorem setEntry_imgver (e : QEntry) (s : State) : (setEntry e s).imgver = s.imgver := rfl
@[simp] theorem setEntry_clock (e : QEntry) (s : State) : (setEntry e s).clock = s.clock := rfl
@[simp] theorem setEntry_free (e : QEntry) (s : State) : (setEntry e s).free = s.free := rfl
@[simp] theorem setEntry_uid (e : QEntry) (s : State) : (setEntry e s).uid = s.uid := rfl
@[simp] theorem setEntry_script (e : QEntry) (s : State) : (setEntry e s).script = s.script := rfl
@[simp] theorem setEntry_due (e : QEntry) (s : State) : (setEntry e s).due = s.due := rfl
@[simp] theorem setEntry_held (e : QEntry) (s : State) : (setEntry e s).held = s.held := rfl
@[simp] theorem setEntry_now (e : QEntry) (s : State) : (setEntry e s).now = s.now := rfl
@[simp] theorem setEntry_outbox (e : QEntry) (s : State) : (setEntry e s).outbox = s.outbox := rfl
@[simp] theorem setEntry_cx_s (e : QEntry) (s : State) : (setEntry e s).cx.s = s.cx.s := rfl
@[simp] theorem setEntry_cx_v (e : QEntry) (s : State) : (setEntry e s).cx.v = s.cx.v := rfl
@[simp] theorem setEntry_cx_m (e : QEntry) (s : State) : (setEntry e s).cx.m = s.cx.m := rfl
@[simp] theorem setEntry_cx_t (e : QEntry) (s : State) : (setEntry e s).cx.t = s.cx.t := rfl
@[simp] theorem setEntry_cx_cfg (e : QEntry) (s : State) : (setEntry e s).cx.cfg = s.cx.cfg := rfl
@[simp] theorem setEntry_cx_flags (e : QEntry) (s : State) : (setEntry e s).cx.flags = s.cx.flags := rfl
@[simp] theorem setEntry_cx_qdepth (e : QEntry) (s : State) : (setEntry e s).cx.qdepth = s.cx.qdepth := rfl
@[simp] theorem setEntry_cx_cq (e : QEntry) (s : State) : (setEntry e s).cx.cq = s.cx.cq := rfl
@[simp] theorem setEntry_cx_xq (e : QEntry) (s : State) : (setEntry e s).cx.xq = s.cx.xq := rfl
@[simp] theorem setEntry_cx_streams (e : QEntry) (s : State) : (setEntry e s).cx.streams = s.cx.streams := rfl
@[simp] theorem setEntry_cx_ramphold (e : QEntry) (s : State) : (setEntry e s).cx.ramphold = s.cx.ramphold := rfl
@[simp] theorem setEntry_cx_energy (e : QEntry) (s : State) : (setEntry e s).cx.energy = s.cx.energy := rfl
@[simp] theorem setEntry_cx_mchkPeriod (e : QEntry) (s : State) : (setEntry e s).cx.mchkPeriod = s.cx.mchkPeriod := rfl
@[simp] theorem setEntry_cx_mchkCount (e : QEntry) (s : State) : (setEntry e s).cx.mchkCount = s.cx.mchkCount := rfl
@[simp] theorem setEntry_cx_plane (e : QEntry) (s : State) : (setEntry e s).cx.plane = s.cx.plane := rfl
@[simp] theorem setEntry_cx_pc (e : QEntry) (s : State) : (setEntry e s).cx.pc = s.cx.pc := rfl
@[simp] theorem setEntry_cx_npc (e : QEntry) (s : State) : (setEntry e s).cx.npc = s.cx.npc := rfl
@[simp] theorem setEntry_cx_retired (e : QEntry) (s : State) : (setEntry e s).cx.retired = s.cx.retired := rfl
@[simp] theorem setEntry_cx_pr (e : QEntry) (s : State) : (setEntry e s).cx.pr = s.cx.pr := rfl
@[simp] theorem setEntry_cx_lease (e : QEntry) (s : State) : (setEntry e s).cx.lease = s.cx.lease := rfl
@[simp] theorem setEntry_cx_task (e : QEntry) (s : State) : (setEntry e s).cx.task = s.cx.task := rfl

@[simp] theorem dropEntry_me (u : Nat) (s : State) : (dropEntry u s).me = s.me := rfl
@[simp] theorem dropEntry_co (u : Nat) (s : State) : (dropEntry u s).co = s.co := rfl
@[simp] theorem dropEntry_others (u : Nat) (s : State) : (dropEntry u s).others = s.others := rfl
@[simp] theorem dropEntry_dev (u : Nat) (s : State) : (dropEntry u s).dev = s.dev := rfl
@[simp] theorem dropEntry_mem (u : Nat) (s : State) : (dropEntry u s).mem = s.mem := rfl
@[simp] theorem dropEntry_mmio (u : Nat) (s : State) : (dropEntry u s).mmio = s.mmio := rfl
@[simp] theorem dropEntry_dist (u : Nat) (s : State) : (dropEntry u s).dist = s.dist := rfl
@[simp] theorem dropEntry_arrays (u : Nat) (s : State) : (dropEntry u s).arrays = s.arrays := rfl
@[simp] theorem dropEntry_pow (u : Nat) (s : State) : (dropEntry u s).pow = s.pow := rfl
@[simp] theorem dropEntry_gov (u : Nat) (s : State) : (dropEntry u s).gov = s.gov := rfl
@[simp] theorem dropEntry_lin (u : Nat) (s : State) : (dropEntry u s).lin = s.lin := rfl
@[simp] theorem dropEntry_xl (u : Nat) (s : State) : (dropEntry u s).xl = s.xl := rfl
@[simp] theorem dropEntry_fab (u : Nat) (s : State) : (dropEntry u s).fab = s.fab := rfl
@[simp] theorem dropEntry_port (u : Nat) (s : State) : (dropEntry u s).port = s.port := rfl
@[simp] theorem dropEntry_bob (u : Nat) (s : State) : (dropEntry u s).bob = s.bob := rfl
@[simp] theorem dropEntry_mcq (u : Nat) (s : State) : (dropEntry u s).mcq = s.mcq := rfl
@[simp] theorem dropEntry_quar (u : Nat) (s : State) : (dropEntry u s).quar = s.quar := rfl
@[simp] theorem dropEntry_broken (u : Nat) (s : State) : (dropEntry u s).broken = s.broken := rfl
@[simp] theorem dropEntry_imgver (u : Nat) (s : State) : (dropEntry u s).imgver = s.imgver := rfl
@[simp] theorem dropEntry_clock (u : Nat) (s : State) : (dropEntry u s).clock = s.clock := rfl
@[simp] theorem dropEntry_free (u : Nat) (s : State) : (dropEntry u s).free = s.free := rfl
@[simp] theorem dropEntry_uid (u : Nat) (s : State) : (dropEntry u s).uid = s.uid := rfl
@[simp] theorem dropEntry_script (u : Nat) (s : State) : (dropEntry u s).script = s.script := rfl
@[simp] theorem dropEntry_due (u : Nat) (s : State) : (dropEntry u s).due = s.due := rfl
@[simp] theorem dropEntry_held (u : Nat) (s : State) : (dropEntry u s).held = s.held := rfl
@[simp] theorem dropEntry_now (u : Nat) (s : State) : (dropEntry u s).now = s.now := rfl
@[simp] theorem dropEntry_outbox (u : Nat) (s : State) : (dropEntry u s).outbox = s.outbox := rfl
@[simp] theorem dropEntry_cx_s (u : Nat) (s : State) : (dropEntry u s).cx.s = s.cx.s := rfl
@[simp] theorem dropEntry_cx_v (u : Nat) (s : State) : (dropEntry u s).cx.v = s.cx.v := rfl
@[simp] theorem dropEntry_cx_m (u : Nat) (s : State) : (dropEntry u s).cx.m = s.cx.m := rfl
@[simp] theorem dropEntry_cx_t (u : Nat) (s : State) : (dropEntry u s).cx.t = s.cx.t := rfl
@[simp] theorem dropEntry_cx_cfg (u : Nat) (s : State) : (dropEntry u s).cx.cfg = s.cx.cfg := rfl
@[simp] theorem dropEntry_cx_flags (u : Nat) (s : State) : (dropEntry u s).cx.flags = s.cx.flags := rfl
@[simp] theorem dropEntry_cx_qdepth (u : Nat) (s : State) : (dropEntry u s).cx.qdepth = s.cx.qdepth := rfl
@[simp] theorem dropEntry_cx_cq (u : Nat) (s : State) : (dropEntry u s).cx.cq = s.cx.cq := rfl
@[simp] theorem dropEntry_cx_xq (u : Nat) (s : State) : (dropEntry u s).cx.xq = s.cx.xq := rfl
@[simp] theorem dropEntry_cx_streams (u : Nat) (s : State) : (dropEntry u s).cx.streams = s.cx.streams := rfl
@[simp] theorem dropEntry_cx_ramphold (u : Nat) (s : State) : (dropEntry u s).cx.ramphold = s.cx.ramphold := rfl
@[simp] theorem dropEntry_cx_energy (u : Nat) (s : State) : (dropEntry u s).cx.energy = s.cx.energy := rfl
@[simp] theorem dropEntry_cx_mchkPeriod (u : Nat) (s : State) : (dropEntry u s).cx.mchkPeriod = s.cx.mchkPeriod := rfl
@[simp] theorem dropEntry_cx_mchkCount (u : Nat) (s : State) : (dropEntry u s).cx.mchkCount = s.cx.mchkCount := rfl
@[simp] theorem dropEntry_cx_plane (u : Nat) (s : State) : (dropEntry u s).cx.plane = s.cx.plane := rfl
@[simp] theorem dropEntry_cx_pc (u : Nat) (s : State) : (dropEntry u s).cx.pc = s.cx.pc := rfl
@[simp] theorem dropEntry_cx_npc (u : Nat) (s : State) : (dropEntry u s).cx.npc = s.cx.npc := rfl
@[simp] theorem dropEntry_cx_retired (u : Nat) (s : State) : (dropEntry u s).cx.retired = s.cx.retired := rfl
@[simp] theorem dropEntry_cx_pr (u : Nat) (s : State) : (dropEntry u s).cx.pr = s.cx.pr := rfl
@[simp] theorem dropEntry_cx_lease (u : Nat) (s : State) : (dropEntry u s).cx.lease = s.cx.lease := rfl
@[simp] theorem dropEntry_cx_task (u : Nat) (s : State) : (dropEntry u s).cx.task = s.cx.task := rfl

@[simp] theorem boundaryDone_me (s : State) : (boundaryDone s).me = s.me := rfl
@[simp] theorem boundaryDone_co (s : State) : (boundaryDone s).co = s.co := rfl
@[simp] theorem boundaryDone_others (s : State) : (boundaryDone s).others = s.others := rfl
@[simp] theorem boundaryDone_dev (s : State) : (boundaryDone s).dev = s.dev := rfl
@[simp] theorem boundaryDone_mem (s : State) : (boundaryDone s).mem = s.mem := rfl
@[simp] theorem boundaryDone_mmio (s : State) : (boundaryDone s).mmio = s.mmio := rfl
@[simp] theorem boundaryDone_dist (s : State) : (boundaryDone s).dist = s.dist := rfl
@[simp] theorem boundaryDone_arrays (s : State) : (boundaryDone s).arrays = s.arrays := rfl
@[simp] theorem boundaryDone_pow (s : State) : (boundaryDone s).pow = s.pow := rfl
@[simp] theorem boundaryDone_gov (s : State) : (boundaryDone s).gov = s.gov := rfl
@[simp] theorem boundaryDone_lin (s : State) : (boundaryDone s).lin = s.lin := rfl
@[simp] theorem boundaryDone_xl (s : State) : (boundaryDone s).xl = s.xl := rfl
@[simp] theorem boundaryDone_fab (s : State) : (boundaryDone s).fab = s.fab := rfl
@[simp] theorem boundaryDone_port (s : State) : (boundaryDone s).port = s.port := rfl
@[simp] theorem boundaryDone_bob (s : State) : (boundaryDone s).bob = s.bob := rfl
@[simp] theorem boundaryDone_mcq (s : State) : (boundaryDone s).mcq = s.mcq := rfl
@[simp] theorem boundaryDone_quar (s : State) : (boundaryDone s).quar = s.quar := rfl
@[simp] theorem boundaryDone_broken (s : State) : (boundaryDone s).broken = s.broken := rfl
@[simp] theorem boundaryDone_imgver (s : State) : (boundaryDone s).imgver = s.imgver := rfl
@[simp] theorem boundaryDone_clock (s : State) : (boundaryDone s).clock = s.clock := rfl
@[simp] theorem boundaryDone_free (s : State) : (boundaryDone s).free = s.free := rfl
@[simp] theorem boundaryDone_uid (s : State) : (boundaryDone s).uid = s.uid := rfl
@[simp] theorem boundaryDone_script (s : State) : (boundaryDone s).script = s.script := rfl
@[simp] theorem boundaryDone_due (s : State) : (boundaryDone s).due = s.due := rfl
@[simp] theorem boundaryDone_held (s : State) : (boundaryDone s).held = s.held := rfl
@[simp] theorem boundaryDone_now (s : State) : (boundaryDone s).now = s.now := rfl
@[simp] theorem boundaryDone_outbox (s : State) : (boundaryDone s).outbox = s.outbox := rfl
@[simp] theorem boundaryDone_cx_s (s : State) : (boundaryDone s).cx.s = s.cx.s := rfl
@[simp] theorem boundaryDone_cx_v (s : State) : (boundaryDone s).cx.v = s.cx.v := rfl
@[simp] theorem boundaryDone_cx_m (s : State) : (boundaryDone s).cx.m = s.cx.m := rfl
@[simp] theorem boundaryDone_cx_t (s : State) : (boundaryDone s).cx.t = s.cx.t := rfl
@[simp] theorem boundaryDone_cx_cfg (s : State) : (boundaryDone s).cx.cfg = s.cx.cfg := rfl
@[simp] theorem boundaryDone_cx_flags (s : State) : (boundaryDone s).cx.flags = s.cx.flags := rfl
@[simp] theorem boundaryDone_cx_qdepth (s : State) : (boundaryDone s).cx.qdepth = s.cx.qdepth := rfl
@[simp] theorem boundaryDone_cx_cq (s : State) : (boundaryDone s).cx.cq = s.cx.cq := rfl
@[simp] theorem boundaryDone_cx_xq (s : State) : (boundaryDone s).cx.xq = s.cx.xq := rfl
@[simp] theorem boundaryDone_cx_streams (s : State) : (boundaryDone s).cx.streams = s.cx.streams := rfl
@[simp] theorem boundaryDone_cx_ramphold (s : State) : (boundaryDone s).cx.ramphold = s.cx.ramphold := rfl
@[simp] theorem boundaryDone_cx_energy (s : State) : (boundaryDone s).cx.energy = s.cx.energy := rfl
@[simp] theorem boundaryDone_cx_mchkPeriod (s : State) : (boundaryDone s).cx.mchkPeriod = s.cx.mchkPeriod := rfl
@[simp] theorem boundaryDone_cx_mchkCount (s : State) : (boundaryDone s).cx.mchkCount = s.cx.mchkCount := rfl
@[simp] theorem boundaryDone_cx_plane (s : State) : (boundaryDone s).cx.plane = s.cx.plane := rfl
@[simp] theorem boundaryDone_cx_pc (s : State) : (boundaryDone s).cx.pc = s.cx.pc := rfl
@[simp] theorem boundaryDone_cx_npc (s : State) : (boundaryDone s).cx.npc = s.cx.npc := rfl
@[simp] theorem boundaryDone_cx_retired (s : State) : (boundaryDone s).cx.retired = s.cx.retired := rfl
@[simp] theorem boundaryDone_cx_pr (s : State) : (boundaryDone s).cx.pr = s.cx.pr := rfl
@[simp] theorem boundaryDone_cx_lease (s : State) : (boundaryDone s).cx.lease = s.cx.lease := rfl
@[simp] theorem boundaryDone_cx_task (s : State) : (boundaryDone s).cx.task = s.cx.task := rfl

/-! ## Updates of the device -/

@[simp] theorem updMmio_cx (f : Mmio → Mmio) (s : State) : (updMmio f s).cx = s.cx := rfl
@[simp] theorem updMmio_me (f : Mmio → Mmio) (s : State) : (updMmio f s).me = s.me := rfl
@[simp] theorem updMmio_co (f : Mmio → Mmio) (s : State) : (updMmio f s).co = s.co := rfl
@[simp] theorem updMmio_others (f : Mmio → Mmio) (s : State) : (updMmio f s).others = s.others := rfl
@[simp] theorem updMmio_dev (f : Mmio → Mmio) (s : State) : (updMmio f s).dev = s.dev := rfl
@[simp] theorem updMmio_mem (f : Mmio → Mmio) (s : State) : (updMmio f s).mem = s.mem := rfl
@[simp] theorem updMmio_mmio (f : Mmio → Mmio) (s : State) : (updMmio f s).mmio = f s.mmio := rfl
@[simp] theorem updMmio_dist (f : Mmio → Mmio) (s : State) : (updMmio f s).dist = s.dist := rfl
@[simp] theorem updMmio_arrays (f : Mmio → Mmio) (s : State) : (updMmio f s).arrays = s.arrays := rfl
@[simp] theorem updMmio_pow (f : Mmio → Mmio) (s : State) : (updMmio f s).pow = s.pow := rfl
@[simp] theorem updMmio_gov (f : Mmio → Mmio) (s : State) : (updMmio f s).gov = s.gov := rfl
@[simp] theorem updMmio_lin (f : Mmio → Mmio) (s : State) : (updMmio f s).lin = s.lin := rfl
@[simp] theorem updMmio_xl (f : Mmio → Mmio) (s : State) : (updMmio f s).xl = s.xl := rfl
@[simp] theorem updMmio_fab (f : Mmio → Mmio) (s : State) : (updMmio f s).fab = s.fab := rfl
@[simp] theorem updMmio_port (f : Mmio → Mmio) (s : State) : (updMmio f s).port = s.port := rfl
@[simp] theorem updMmio_bob (f : Mmio → Mmio) (s : State) : (updMmio f s).bob = s.bob := rfl
@[simp] theorem updMmio_mcq (f : Mmio → Mmio) (s : State) : (updMmio f s).mcq = s.mcq := rfl
@[simp] theorem updMmio_quar (f : Mmio → Mmio) (s : State) : (updMmio f s).quar = s.quar := rfl
@[simp] theorem updMmio_broken (f : Mmio → Mmio) (s : State) : (updMmio f s).broken = s.broken := rfl
@[simp] theorem updMmio_imgver (f : Mmio → Mmio) (s : State) : (updMmio f s).imgver = s.imgver := rfl
@[simp] theorem updMmio_clock (f : Mmio → Mmio) (s : State) : (updMmio f s).clock = s.clock := rfl
@[simp] theorem updMmio_free (f : Mmio → Mmio) (s : State) : (updMmio f s).free = s.free := rfl
@[simp] theorem updMmio_uid (f : Mmio → Mmio) (s : State) : (updMmio f s).uid = s.uid := rfl
@[simp] theorem updMmio_script (f : Mmio → Mmio) (s : State) : (updMmio f s).script = s.script := rfl
@[simp] theorem updMmio_due (f : Mmio → Mmio) (s : State) : (updMmio f s).due = s.due := rfl
@[simp] theorem updMmio_held (f : Mmio → Mmio) (s : State) : (updMmio f s).held = s.held := rfl
@[simp] theorem updMmio_now (f : Mmio → Mmio) (s : State) : (updMmio f s).now = s.now := rfl
@[simp] theorem updMmio_outbox (f : Mmio → Mmio) (s : State) : (updMmio f s).outbox = s.outbox := rfl

@[simp] theorem updBob_cx (f : Bobbin → Bobbin) (s : State) : (updBob f s).cx = s.cx := rfl
@[simp] theorem updBob_me (f : Bobbin → Bobbin) (s : State) : (updBob f s).me = s.me := rfl
@[simp] theorem updBob_co (f : Bobbin → Bobbin) (s : State) : (updBob f s).co = s.co := rfl
@[simp] theorem updBob_others (f : Bobbin → Bobbin) (s : State) : (updBob f s).others = s.others := rfl
@[simp] theorem updBob_dev (f : Bobbin → Bobbin) (s : State) : (updBob f s).dev = s.dev := rfl
@[simp] theorem updBob_mem (f : Bobbin → Bobbin) (s : State) : (updBob f s).mem = s.mem := rfl
@[simp] theorem updBob_mmio (f : Bobbin → Bobbin) (s : State) : (updBob f s).mmio = s.mmio := rfl
@[simp] theorem updBob_dist (f : Bobbin → Bobbin) (s : State) : (updBob f s).dist = s.dist := rfl
@[simp] theorem updBob_arrays (f : Bobbin → Bobbin) (s : State) : (updBob f s).arrays = s.arrays := rfl
@[simp] theorem updBob_pow (f : Bobbin → Bobbin) (s : State) : (updBob f s).pow = s.pow := rfl
@[simp] theorem updBob_gov (f : Bobbin → Bobbin) (s : State) : (updBob f s).gov = s.gov := rfl
@[simp] theorem updBob_lin (f : Bobbin → Bobbin) (s : State) : (updBob f s).lin = s.lin := rfl
@[simp] theorem updBob_xl (f : Bobbin → Bobbin) (s : State) : (updBob f s).xl = s.xl := rfl
@[simp] theorem updBob_fab (f : Bobbin → Bobbin) (s : State) : (updBob f s).fab = s.fab := rfl
@[simp] theorem updBob_port (f : Bobbin → Bobbin) (s : State) : (updBob f s).port = s.port := rfl
@[simp] theorem updBob_bob (f : Bobbin → Bobbin) (s : State) : (updBob f s).bob = f s.bob := rfl
@[simp] theorem updBob_mcq (f : Bobbin → Bobbin) (s : State) : (updBob f s).mcq = s.mcq := rfl
@[simp] theorem updBob_quar (f : Bobbin → Bobbin) (s : State) : (updBob f s).quar = s.quar := rfl
@[simp] theorem updBob_broken (f : Bobbin → Bobbin) (s : State) : (updBob f s).broken = s.broken := rfl
@[simp] theorem updBob_imgver (f : Bobbin → Bobbin) (s : State) : (updBob f s).imgver = s.imgver := rfl
@[simp] theorem updBob_clock (f : Bobbin → Bobbin) (s : State) : (updBob f s).clock = s.clock := rfl
@[simp] theorem updBob_free (f : Bobbin → Bobbin) (s : State) : (updBob f s).free = s.free := rfl
@[simp] theorem updBob_uid (f : Bobbin → Bobbin) (s : State) : (updBob f s).uid = s.uid := rfl
@[simp] theorem updBob_script (f : Bobbin → Bobbin) (s : State) : (updBob f s).script = s.script := rfl
@[simp] theorem updBob_due (f : Bobbin → Bobbin) (s : State) : (updBob f s).due = s.due := rfl
@[simp] theorem updBob_held (f : Bobbin → Bobbin) (s : State) : (updBob f s).held = s.held := rfl
@[simp] theorem updBob_now (f : Bobbin → Bobbin) (s : State) : (updBob f s).now = s.now := rfl
@[simp] theorem updBob_outbox (f : Bobbin → Bobbin) (s : State) : (updBob f s).outbox = s.outbox := rfl

@[simp] theorem updPow_cx (d : Nat) (f : DiePow → DiePow) (s : State) : (updPow d f s).cx = s.cx := rfl
@[simp] theorem updPow_me (d : Nat) (f : DiePow → DiePow) (s : State) : (updPow d f s).me = s.me := rfl
@[simp] theorem updPow_co (d : Nat) (f : DiePow → DiePow) (s : State) : (updPow d f s).co = s.co := rfl
@[simp] theorem updPow_others (d : Nat) (f : DiePow → DiePow) (s : State) : (updPow d f s).others = s.others := rfl
@[simp] theorem updPow_dev (d : Nat) (f : DiePow → DiePow) (s : State) : (updPow d f s).dev = s.dev := rfl
@[simp] theorem updPow_mem (d : Nat) (f : DiePow → DiePow) (s : State) : (updPow d f s).mem = s.mem := rfl
@[simp] theorem updPow_mmio (d : Nat) (f : DiePow → DiePow) (s : State) : (updPow d f s).mmio = s.mmio := rfl
@[simp] theorem updPow_dist (d : Nat) (f : DiePow → DiePow) (s : State) : (updPow d f s).dist = s.dist := rfl
@[simp] theorem updPow_arrays (d : Nat) (f : DiePow → DiePow) (s : State) : (updPow d f s).arrays = s.arrays := rfl
@[simp] theorem updPow_gov (d : Nat) (f : DiePow → DiePow) (s : State) : (updPow d f s).gov = s.gov := rfl
@[simp] theorem updPow_lin (d : Nat) (f : DiePow → DiePow) (s : State) : (updPow d f s).lin = s.lin := rfl
@[simp] theorem updPow_xl (d : Nat) (f : DiePow → DiePow) (s : State) : (updPow d f s).xl = s.xl := rfl
@[simp] theorem updPow_fab (d : Nat) (f : DiePow → DiePow) (s : State) : (updPow d f s).fab = s.fab := rfl
@[simp] theorem updPow_port (d : Nat) (f : DiePow → DiePow) (s : State) : (updPow d f s).port = s.port := rfl
@[simp] theorem updPow_bob (d : Nat) (f : DiePow → DiePow) (s : State) : (updPow d f s).bob = s.bob := rfl
@[simp] theorem updPow_mcq (d : Nat) (f : DiePow → DiePow) (s : State) : (updPow d f s).mcq = s.mcq := rfl
@[simp] theorem updPow_quar (d : Nat) (f : DiePow → DiePow) (s : State) : (updPow d f s).quar = s.quar := rfl
@[simp] theorem updPow_broken (d : Nat) (f : DiePow → DiePow) (s : State) : (updPow d f s).broken = s.broken := rfl
@[simp] theorem updPow_imgver (d : Nat) (f : DiePow → DiePow) (s : State) : (updPow d f s).imgver = s.imgver := rfl
@[simp] theorem updPow_clock (d : Nat) (f : DiePow → DiePow) (s : State) : (updPow d f s).clock = s.clock := rfl
@[simp] theorem updPow_free (d : Nat) (f : DiePow → DiePow) (s : State) : (updPow d f s).free = s.free := rfl
@[simp] theorem updPow_uid (d : Nat) (f : DiePow → DiePow) (s : State) : (updPow d f s).uid = s.uid := rfl
@[simp] theorem updPow_script (d : Nat) (f : DiePow → DiePow) (s : State) : (updPow d f s).script = s.script := rfl
@[simp] theorem updPow_due (d : Nat) (f : DiePow → DiePow) (s : State) : (updPow d f s).due = s.due := rfl
@[simp] theorem updPow_held (d : Nat) (f : DiePow → DiePow) (s : State) : (updPow d f s).held = s.held := rfl
@[simp] theorem updPow_now (d : Nat) (f : DiePow → DiePow) (s : State) : (updPow d f s).now = s.now := rfl
@[simp] theorem updPow_outbox (d : Nat) (f : DiePow → DiePow) (s : State) : (updPow d f s).outbox = s.outbox := rfl

@[simp] theorem updArr_cx (q : Nat) (f : ArrayQ → ArrayQ) (s : State) : (updArr q f s).cx = s.cx := rfl
@[simp] theorem updArr_me (q : Nat) (f : ArrayQ → ArrayQ) (s : State) : (updArr q f s).me = s.me := rfl
@[simp] theorem updArr_co (q : Nat) (f : ArrayQ → ArrayQ) (s : State) : (updArr q f s).co = s.co := rfl
@[simp] theorem updArr_others (q : Nat) (f : ArrayQ → ArrayQ) (s : State) : (updArr q f s).others = s.others := rfl
@[simp] theorem updArr_dev (q : Nat) (f : ArrayQ → ArrayQ) (s : State) : (updArr q f s).dev = s.dev := rfl
@[simp] theorem updArr_mem (q : Nat) (f : ArrayQ → ArrayQ) (s : State) : (updArr q f s).mem = s.mem := rfl
@[simp] theorem updArr_mmio (q : Nat) (f : ArrayQ → ArrayQ) (s : State) : (updArr q f s).mmio = s.mmio := rfl
@[simp] theorem updArr_dist (q : Nat) (f : ArrayQ → ArrayQ) (s : State) : (updArr q f s).dist = s.dist := rfl
@[simp] theorem updArr_pow (q : Nat) (f : ArrayQ → ArrayQ) (s : State) : (updArr q f s).pow = s.pow := rfl
@[simp] theorem updArr_gov (q : Nat) (f : ArrayQ → ArrayQ) (s : State) : (updArr q f s).gov = s.gov := rfl
@[simp] theorem updArr_lin (q : Nat) (f : ArrayQ → ArrayQ) (s : State) : (updArr q f s).lin = s.lin := rfl
@[simp] theorem updArr_xl (q : Nat) (f : ArrayQ → ArrayQ) (s : State) : (updArr q f s).xl = s.xl := rfl
@[simp] theorem updArr_fab (q : Nat) (f : ArrayQ → ArrayQ) (s : State) : (updArr q f s).fab = s.fab := rfl
@[simp] theorem updArr_port (q : Nat) (f : ArrayQ → ArrayQ) (s : State) : (updArr q f s).port = s.port := rfl
@[simp] theorem updArr_bob (q : Nat) (f : ArrayQ → ArrayQ) (s : State) : (updArr q f s).bob = s.bob := rfl
@[simp] theorem updArr_mcq (q : Nat) (f : ArrayQ → ArrayQ) (s : State) : (updArr q f s).mcq = s.mcq := rfl
@[simp] theorem updArr_quar (q : Nat) (f : ArrayQ → ArrayQ) (s : State) : (updArr q f s).quar = s.quar := rfl
@[simp] theorem updArr_broken (q : Nat) (f : ArrayQ → ArrayQ) (s : State) : (updArr q f s).broken = s.broken := rfl
@[simp] theorem updArr_imgver (q : Nat) (f : ArrayQ → ArrayQ) (s : State) : (updArr q f s).imgver = s.imgver := rfl
@[simp] theorem updArr_clock (q : Nat) (f : ArrayQ → ArrayQ) (s : State) : (updArr q f s).clock = s.clock := rfl
@[simp] theorem updArr_free (q : Nat) (f : ArrayQ → ArrayQ) (s : State) : (updArr q f s).free = s.free := rfl
@[simp] theorem updArr_uid (q : Nat) (f : ArrayQ → ArrayQ) (s : State) : (updArr q f s).uid = s.uid := rfl
@[simp] theorem updArr_script (q : Nat) (f : ArrayQ → ArrayQ) (s : State) : (updArr q f s).script = s.script := rfl
@[simp] theorem updArr_due (q : Nat) (f : ArrayQ → ArrayQ) (s : State) : (updArr q f s).due = s.due := rfl
@[simp] theorem updArr_held (q : Nat) (f : ArrayQ → ArrayQ) (s : State) : (updArr q f s).held = s.held := rfl
@[simp] theorem updArr_now (q : Nat) (f : ArrayQ → ArrayQ) (s : State) : (updArr q f s).now = s.now := rfl
@[simp] theorem updArr_outbox (q : Nat) (f : ArrayQ → ArrayQ) (s : State) : (updArr q f s).outbox = s.outbox := rfl

@[simp] theorem updStation_cx (k : Fin 24) (f : Station → Station) (s : State) : (updStation k f s).cx = s.cx := rfl
@[simp] theorem updStation_me (k : Fin 24) (f : Station → Station) (s : State) : (updStation k f s).me = s.me := rfl
@[simp] theorem updStation_co (k : Fin 24) (f : Station → Station) (s : State) : (updStation k f s).co = s.co := rfl
@[simp] theorem updStation_others (k : Fin 24) (f : Station → Station) (s : State) : (updStation k f s).others = s.others := rfl
@[simp] theorem updStation_dev (k : Fin 24) (f : Station → Station) (s : State) : (updStation k f s).dev = s.dev := rfl
@[simp] theorem updStation_mem (k : Fin 24) (f : Station → Station) (s : State) : (updStation k f s).mem = s.mem := rfl
@[simp] theorem updStation_mmio (k : Fin 24) (f : Station → Station) (s : State) : (updStation k f s).mmio = s.mmio := rfl
@[simp] theorem updStation_dist (k : Fin 24) (f : Station → Station) (s : State) : (updStation k f s).dist = s.dist := rfl
@[simp] theorem updStation_arrays (k : Fin 24) (f : Station → Station) (s : State) : (updStation k f s).arrays = s.arrays := rfl
@[simp] theorem updStation_pow (k : Fin 24) (f : Station → Station) (s : State) : (updStation k f s).pow = s.pow := rfl
@[simp] theorem updStation_gov (k : Fin 24) (f : Station → Station) (s : State) : (updStation k f s).gov = s.gov := rfl
@[simp] theorem updStation_lin (k : Fin 24) (f : Station → Station) (s : State) : (updStation k f s).lin = s.lin := rfl
@[simp] theorem updStation_xl (k : Fin 24) (f : Station → Station) (s : State) : (updStation k f s).xl = s.xl := rfl
@[simp] theorem updStation_port (k : Fin 24) (f : Station → Station) (s : State) : (updStation k f s).port = s.port := rfl
@[simp] theorem updStation_bob (k : Fin 24) (f : Station → Station) (s : State) : (updStation k f s).bob = s.bob := rfl
@[simp] theorem updStation_mcq (k : Fin 24) (f : Station → Station) (s : State) : (updStation k f s).mcq = s.mcq := rfl
@[simp] theorem updStation_quar (k : Fin 24) (f : Station → Station) (s : State) : (updStation k f s).quar = s.quar := rfl
@[simp] theorem updStation_broken (k : Fin 24) (f : Station → Station) (s : State) : (updStation k f s).broken = s.broken := rfl
@[simp] theorem updStation_imgver (k : Fin 24) (f : Station → Station) (s : State) : (updStation k f s).imgver = s.imgver := rfl
@[simp] theorem updStation_clock (k : Fin 24) (f : Station → Station) (s : State) : (updStation k f s).clock = s.clock := rfl
@[simp] theorem updStation_free (k : Fin 24) (f : Station → Station) (s : State) : (updStation k f s).free = s.free := rfl
@[simp] theorem updStation_uid (k : Fin 24) (f : Station → Station) (s : State) : (updStation k f s).uid = s.uid := rfl
@[simp] theorem updStation_script (k : Fin 24) (f : Station → Station) (s : State) : (updStation k f s).script = s.script := rfl
@[simp] theorem updStation_due (k : Fin 24) (f : Station → Station) (s : State) : (updStation k f s).due = s.due := rfl
@[simp] theorem updStation_held (k : Fin 24) (f : Station → Station) (s : State) : (updStation k f s).held = s.held := rfl
@[simp] theorem updStation_now (k : Fin 24) (f : Station → Station) (s : State) : (updStation k f s).now = s.now := rfl
@[simp] theorem updStation_outbox (k : Fin 24) (f : Station → Station) (s : State) : (updStation k f s).outbox = s.outbox := rfl

@[simp] theorem updMember_cx (g : Fin 4096) (f : Member → Member) (s : State) : (updMember g f s).cx = s.cx := rfl
@[simp] theorem updMember_me (g : Fin 4096) (f : Member → Member) (s : State) : (updMember g f s).me = s.me := rfl
@[simp] theorem updMember_co (g : Fin 4096) (f : Member → Member) (s : State) : (updMember g f s).co = s.co := rfl
@[simp] theorem updMember_others (g : Fin 4096) (f : Member → Member) (s : State) : (updMember g f s).others = s.others := rfl
@[simp] theorem updMember_dev (g : Fin 4096) (f : Member → Member) (s : State) : (updMember g f s).dev = s.dev := rfl
@[simp] theorem updMember_mem (g : Fin 4096) (f : Member → Member) (s : State) : (updMember g f s).mem = s.mem := rfl
@[simp] theorem updMember_mmio (g : Fin 4096) (f : Member → Member) (s : State) : (updMember g f s).mmio = s.mmio := rfl
@[simp] theorem updMember_dist (g : Fin 4096) (f : Member → Member) (s : State) : (updMember g f s).dist = s.dist := rfl
@[simp] theorem updMember_arrays (g : Fin 4096) (f : Member → Member) (s : State) : (updMember g f s).arrays = s.arrays := rfl
@[simp] theorem updMember_pow (g : Fin 4096) (f : Member → Member) (s : State) : (updMember g f s).pow = s.pow := rfl
@[simp] theorem updMember_gov (g : Fin 4096) (f : Member → Member) (s : State) : (updMember g f s).gov = s.gov := rfl
@[simp] theorem updMember_lin (g : Fin 4096) (f : Member → Member) (s : State) : (updMember g f s).lin = s.lin := rfl
@[simp] theorem updMember_xl (g : Fin 4096) (f : Member → Member) (s : State) : (updMember g f s).xl = s.xl := rfl
@[simp] theorem updMember_port (g : Fin 4096) (f : Member → Member) (s : State) : (updMember g f s).port = s.port := rfl
@[simp] theorem updMember_bob (g : Fin 4096) (f : Member → Member) (s : State) : (updMember g f s).bob = s.bob := rfl
@[simp] theorem updMember_mcq (g : Fin 4096) (f : Member → Member) (s : State) : (updMember g f s).mcq = s.mcq := rfl
@[simp] theorem updMember_quar (g : Fin 4096) (f : Member → Member) (s : State) : (updMember g f s).quar = s.quar := rfl
@[simp] theorem updMember_broken (g : Fin 4096) (f : Member → Member) (s : State) : (updMember g f s).broken = s.broken := rfl
@[simp] theorem updMember_imgver (g : Fin 4096) (f : Member → Member) (s : State) : (updMember g f s).imgver = s.imgver := rfl
@[simp] theorem updMember_clock (g : Fin 4096) (f : Member → Member) (s : State) : (updMember g f s).clock = s.clock := rfl
@[simp] theorem updMember_free (g : Fin 4096) (f : Member → Member) (s : State) : (updMember g f s).free = s.free := rfl
@[simp] theorem updMember_uid (g : Fin 4096) (f : Member → Member) (s : State) : (updMember g f s).uid = s.uid := rfl
@[simp] theorem updMember_script (g : Fin 4096) (f : Member → Member) (s : State) : (updMember g f s).script = s.script := rfl
@[simp] theorem updMember_due (g : Fin 4096) (f : Member → Member) (s : State) : (updMember g f s).due = s.due := rfl
@[simp] theorem updMember_held (g : Fin 4096) (f : Member → Member) (s : State) : (updMember g f s).held = s.held := rfl
@[simp] theorem updMember_now (g : Fin 4096) (f : Member → Member) (s : State) : (updMember g f s).now = s.now := rfl
@[simp] theorem updMember_outbox (g : Fin 4096) (f : Member → Member) (s : State) : (updMember g f s).outbox = s.outbox := rfl

@[simp] theorem updSw_cx (g : Fin 4096) (f : SwGroup → SwGroup) (s : State) : (updSw g f s).cx = s.cx := rfl
@[simp] theorem updSw_me (g : Fin 4096) (f : SwGroup → SwGroup) (s : State) : (updSw g f s).me = s.me := rfl
@[simp] theorem updSw_co (g : Fin 4096) (f : SwGroup → SwGroup) (s : State) : (updSw g f s).co = s.co := rfl
@[simp] theorem updSw_others (g : Fin 4096) (f : SwGroup → SwGroup) (s : State) : (updSw g f s).others = s.others := rfl
@[simp] theorem updSw_dev (g : Fin 4096) (f : SwGroup → SwGroup) (s : State) : (updSw g f s).dev = s.dev := rfl
@[simp] theorem updSw_mem (g : Fin 4096) (f : SwGroup → SwGroup) (s : State) : (updSw g f s).mem = s.mem := rfl
@[simp] theorem updSw_mmio (g : Fin 4096) (f : SwGroup → SwGroup) (s : State) : (updSw g f s).mmio = s.mmio := rfl
@[simp] theorem updSw_dist (g : Fin 4096) (f : SwGroup → SwGroup) (s : State) : (updSw g f s).dist = s.dist := rfl
@[simp] theorem updSw_arrays (g : Fin 4096) (f : SwGroup → SwGroup) (s : State) : (updSw g f s).arrays = s.arrays := rfl
@[simp] theorem updSw_pow (g : Fin 4096) (f : SwGroup → SwGroup) (s : State) : (updSw g f s).pow = s.pow := rfl
@[simp] theorem updSw_gov (g : Fin 4096) (f : SwGroup → SwGroup) (s : State) : (updSw g f s).gov = s.gov := rfl
@[simp] theorem updSw_lin (g : Fin 4096) (f : SwGroup → SwGroup) (s : State) : (updSw g f s).lin = s.lin := rfl
@[simp] theorem updSw_xl (g : Fin 4096) (f : SwGroup → SwGroup) (s : State) : (updSw g f s).xl = s.xl := rfl
@[simp] theorem updSw_port (g : Fin 4096) (f : SwGroup → SwGroup) (s : State) : (updSw g f s).port = s.port := rfl
@[simp] theorem updSw_bob (g : Fin 4096) (f : SwGroup → SwGroup) (s : State) : (updSw g f s).bob = s.bob := rfl
@[simp] theorem updSw_mcq (g : Fin 4096) (f : SwGroup → SwGroup) (s : State) : (updSw g f s).mcq = s.mcq := rfl
@[simp] theorem updSw_quar (g : Fin 4096) (f : SwGroup → SwGroup) (s : State) : (updSw g f s).quar = s.quar := rfl
@[simp] theorem updSw_broken (g : Fin 4096) (f : SwGroup → SwGroup) (s : State) : (updSw g f s).broken = s.broken := rfl
@[simp] theorem updSw_imgver (g : Fin 4096) (f : SwGroup → SwGroup) (s : State) : (updSw g f s).imgver = s.imgver := rfl
@[simp] theorem updSw_clock (g : Fin 4096) (f : SwGroup → SwGroup) (s : State) : (updSw g f s).clock = s.clock := rfl
@[simp] theorem updSw_free (g : Fin 4096) (f : SwGroup → SwGroup) (s : State) : (updSw g f s).free = s.free := rfl
@[simp] theorem updSw_uid (g : Fin 4096) (f : SwGroup → SwGroup) (s : State) : (updSw g f s).uid = s.uid := rfl
@[simp] theorem updSw_script (g : Fin 4096) (f : SwGroup → SwGroup) (s : State) : (updSw g f s).script = s.script := rfl
@[simp] theorem updSw_due (g : Fin 4096) (f : SwGroup → SwGroup) (s : State) : (updSw g f s).due = s.due := rfl
@[simp] theorem updSw_held (g : Fin 4096) (f : SwGroup → SwGroup) (s : State) : (updSw g f s).held = s.held := rfl
@[simp] theorem updSw_now (g : Fin 4096) (f : SwGroup → SwGroup) (s : State) : (updSw g f s).now = s.now := rfl
@[simp] theorem updSw_outbox (g : Fin 4096) (f : SwGroup → SwGroup) (s : State) : (updSw g f s).outbox = s.outbox := rfl

@[simp] theorem updRec_cx (h : W64) (f : VRec → VRec) (s : State) : (updRec h f s).cx = s.cx := rfl
@[simp] theorem updRec_me (h : W64) (f : VRec → VRec) (s : State) : (updRec h f s).me = s.me := rfl
@[simp] theorem updRec_co (h : W64) (f : VRec → VRec) (s : State) : (updRec h f s).co = s.co := rfl
@[simp] theorem updRec_others (h : W64) (f : VRec → VRec) (s : State) : (updRec h f s).others = s.others := rfl
@[simp] theorem updRec_dev (h : W64) (f : VRec → VRec) (s : State) : (updRec h f s).dev = s.dev := rfl
@[simp] theorem updRec_mem (h : W64) (f : VRec → VRec) (s : State) : (updRec h f s).mem = s.mem := rfl
@[simp] theorem updRec_mmio (h : W64) (f : VRec → VRec) (s : State) : (updRec h f s).mmio = s.mmio := rfl
@[simp] theorem updRec_dist (h : W64) (f : VRec → VRec) (s : State) : (updRec h f s).dist = s.dist := rfl
@[simp] theorem updRec_arrays (h : W64) (f : VRec → VRec) (s : State) : (updRec h f s).arrays = s.arrays := rfl
@[simp] theorem updRec_pow (h : W64) (f : VRec → VRec) (s : State) : (updRec h f s).pow = s.pow := rfl
@[simp] theorem updRec_gov (h : W64) (f : VRec → VRec) (s : State) : (updRec h f s).gov = s.gov := rfl
@[simp] theorem updRec_xl (h : W64) (f : VRec → VRec) (s : State) : (updRec h f s).xl = s.xl := rfl
@[simp] theorem updRec_fab (h : W64) (f : VRec → VRec) (s : State) : (updRec h f s).fab = s.fab := rfl
@[simp] theorem updRec_port (h : W64) (f : VRec → VRec) (s : State) : (updRec h f s).port = s.port := rfl
@[simp] theorem updRec_bob (h : W64) (f : VRec → VRec) (s : State) : (updRec h f s).bob = s.bob := rfl
@[simp] theorem updRec_mcq (h : W64) (f : VRec → VRec) (s : State) : (updRec h f s).mcq = s.mcq := rfl
@[simp] theorem updRec_quar (h : W64) (f : VRec → VRec) (s : State) : (updRec h f s).quar = s.quar := rfl
@[simp] theorem updRec_broken (h : W64) (f : VRec → VRec) (s : State) : (updRec h f s).broken = s.broken := rfl
@[simp] theorem updRec_imgver (h : W64) (f : VRec → VRec) (s : State) : (updRec h f s).imgver = s.imgver := rfl
@[simp] theorem updRec_clock (h : W64) (f : VRec → VRec) (s : State) : (updRec h f s).clock = s.clock := rfl
@[simp] theorem updRec_free (h : W64) (f : VRec → VRec) (s : State) : (updRec h f s).free = s.free := rfl
@[simp] theorem updRec_uid (h : W64) (f : VRec → VRec) (s : State) : (updRec h f s).uid = s.uid := rfl
@[simp] theorem updRec_script (h : W64) (f : VRec → VRec) (s : State) : (updRec h f s).script = s.script := rfl
@[simp] theorem updRec_due (h : W64) (f : VRec → VRec) (s : State) : (updRec h f s).due = s.due := rfl
@[simp] theorem updRec_held (h : W64) (f : VRec → VRec) (s : State) : (updRec h f s).held = s.held := rfl
@[simp] theorem updRec_now (h : W64) (f : VRec → VRec) (s : State) : (updRec h f s).now = s.now := rfl
@[simp] theorem updRec_outbox (h : W64) (f : VRec → VRec) (s : State) : (updRec h f s).outbox = s.outbox := rfl

@[simp] theorem postDue_cx (e : Event) (s : State) : (postDue e s).cx = s.cx := rfl
@[simp] theorem postDue_me (e : Event) (s : State) : (postDue e s).me = s.me := rfl
@[simp] theorem postDue_co (e : Event) (s : State) : (postDue e s).co = s.co := rfl
@[simp] theorem postDue_others (e : Event) (s : State) : (postDue e s).others = s.others := rfl
@[simp] theorem postDue_dev (e : Event) (s : State) : (postDue e s).dev = s.dev := rfl
@[simp] theorem postDue_mem (e : Event) (s : State) : (postDue e s).mem = s.mem := rfl
@[simp] theorem postDue_mmio (e : Event) (s : State) : (postDue e s).mmio = s.mmio := rfl
@[simp] theorem postDue_dist (e : Event) (s : State) : (postDue e s).dist = s.dist := rfl
@[simp] theorem postDue_arrays (e : Event) (s : State) : (postDue e s).arrays = s.arrays := rfl
@[simp] theorem postDue_pow (e : Event) (s : State) : (postDue e s).pow = s.pow := rfl
@[simp] theorem postDue_gov (e : Event) (s : State) : (postDue e s).gov = s.gov := rfl
@[simp] theorem postDue_lin (e : Event) (s : State) : (postDue e s).lin = s.lin := rfl
@[simp] theorem postDue_xl (e : Event) (s : State) : (postDue e s).xl = s.xl := rfl
@[simp] theorem postDue_fab (e : Event) (s : State) : (postDue e s).fab = s.fab := rfl
@[simp] theorem postDue_port (e : Event) (s : State) : (postDue e s).port = s.port := rfl
@[simp] theorem postDue_bob (e : Event) (s : State) : (postDue e s).bob = s.bob := rfl
@[simp] theorem postDue_mcq (e : Event) (s : State) : (postDue e s).mcq = s.mcq := rfl
@[simp] theorem postDue_quar (e : Event) (s : State) : (postDue e s).quar = s.quar := rfl
@[simp] theorem postDue_broken (e : Event) (s : State) : (postDue e s).broken = s.broken := rfl
@[simp] theorem postDue_imgver (e : Event) (s : State) : (postDue e s).imgver = s.imgver := rfl
@[simp] theorem postDue_clock (e : Event) (s : State) : (postDue e s).clock = s.clock := rfl
@[simp] theorem postDue_free (e : Event) (s : State) : (postDue e s).free = s.free := rfl
@[simp] theorem postDue_uid (e : Event) (s : State) : (postDue e s).uid = s.uid := rfl
@[simp] theorem postDue_script (e : Event) (s : State) : (postDue e s).script = s.script := rfl
@[simp] theorem postDue_due (e : Event) (s : State) : (postDue e s).due = s.due ++ [e] := rfl
@[simp] theorem postDue_held (e : Event) (s : State) : (postDue e s).held = s.held := rfl
@[simp] theorem postDue_now (e : Event) (s : State) : (postDue e s).now = s.now := rfl
@[simp] theorem postDue_outbox (e : Event) (s : State) : (postDue e s).outbox = s.outbox := rfl

/-! ## S registers (R23) -/

/-- S0 reads zero. -/
@[simp] theorem sget_zero (c : Ctx) : sget c 0 = 0 := rfl

/-- A write to S0 is discarded. -/
@[simp] theorem wr_zero (s : State) (w : W64) : wr s 0 w = s := rfl

/-- A register other than S0 reads what was written. -/
theorem sget_sset_same (c : Ctx) {r : Fin 32} (w : W64) (h : r ≠ 0) : sget (sset c r w) r = w := by simp [sget, sset, h]

/-- The other registers stand. -/
theorem sget_sset_other (c : Ctx) {r k : Fin 32} (w : W64) (h : k ≠ r) : sget (sset c r w) k = sget c k := by
  unfold sset
  split
  · rfl
  · simp only [sget]
    split
    · rfl
    · exact Vector.getElem_set_ne _ _ (by omega)

/-- An S register reads the same after a write to another one. -/
theorem sget_wr_other (s : State) {r k : Fin 32} (w : W64) (h : k ≠ r) : sget (wr s r w).cx k = sget s.cx k := sget_sset_other s.cx w h

end Sys2Proof.Machine
end

