-- ==== Sys2Proof/Tests/Slice0.lean ====
section
/-! SUPPORT. The model's own tests: ill-formed terms that the checks refuse, words of the spec that decode to their instructions, single
steps with results that the spec gives, and for the obligations states that meet their hypotheses. Each test names its source. -/

namespace Sys2Proof.Tests

open Sys2Proof Sys2Proof.Machine

set_option Elab.async false

/-! ## Each check of well-formedness refuses a term (R169 step 5, R174, R175, R180) -/

/-- R175: a modifier word that leaves every field to its register. -/
def plain : VMod := { mask := 0, ty := none, rm := .rmode, sat := false, gsz := 0 }

/-- R179: SLOT names no header word. -/
theorem test_refuses_slot : ¬ (Instr.b 0 1).WellFormed ∧ ¬ (Instr.bz 1 0 0).WellFormed ∧ ¬ (Instr.call 0 0).WellFormed
    ∧ ¬ (Instr.bcqn 0 1).WellFormed ∧ ¬ (Instr.loop (.close 1 0 1) 0).WellFormed := by decide
/-- R202, R203: AMOCAS2 names even registers, LDEQ two different ones. -/
theorem test_refuses_register_pairs : ¬ (Instr.amocas2 3 1 4).WellFormed ∧ ¬ (Instr.amocas2 2 1 5).WellFormed
    ∧ ¬ (Instr.ldeq 4 1 4).WellFormed := by decide
/-- R210, R214, R217: a count of 0, a scope that is none, an empty mask. -/
theorem test_refuses_control_fields : ¬ (Instr.loopi (.close 0 0 2) 0).WellFormed ∧ ¬ (Instr.bar .lane).WellFormed
    ∧ ¬ (Instr.phase .lane).WellFormed ∧ ¬ (Instr.qfence 0).WellFormed := by decide
/-- R229, R237, R258: M0 is no destination. -/
theorem test_refuses_mask_zero : ¬ (Instr.vcmp .lt 0 (.v 1) (.v 2) plain).WellFormed ∧ ¬ (Instr.mand 0 1 2 plain).WellFormed
    ∧ ¬ (Instr.mor 0 1 2 plain).WellFormed ∧ ¬ (Instr.mxor 0 1 2 plain).WellFormed ∧ ¬ (Instr.mnot 0 1 plain).WellFormed
    ∧ ¬ (Instr.mfirst 0 1 plain).WellFormed := by decide
/-- R278, R284, R271: rows past 127, a constant's second word past the line, neither flag. -/
theorem test_refuses_matrix_fields : ¬ (Instr.mzero 120 8).WellFormed ∧ ¬ (Instr.mkat 1 2 0 31).WellFormed
    ∧ ¬ (Instr.mwait false false).WellFormed := by decide
/-- R289, R291, R294: a map of two rows has no room at V127, and no table before V0. -/
theorem test_refuses_gauge_rows : ¬ (Instr.grep 127 1 0 .maxnorm).WellFormed ∧ ¬ (Instr.gpack 0 1 0).WellFormed
    ∧ ¬ (Instr.gmap 1 127).WellFormed ∧ ¬ (Instr.glmap 1 127).WellFormed := by decide
/-- R299, R300, R301, R303, R312: no elements, a feeding gather with a base or elements of 8 bytes, a result stream with operands,
rows of no bytes, NaN treatment of integers. -/
theorem test_refuses_copy_fields : ¬ (Instr.gather 1 2 3 none 0 0).WellFormed ∧ ¬ (Instr.gather 1 2 3 (some 0) 0 4).WellFormed
    ∧ ¬ (Instr.gather 0 2 3 (some 0) 3 4).WellFormed ∧ ¬ (Instr.scatter 1 2 3 0 0).WellFormed
    ∧ ¬ (Instr.sbind 1 0 0 .result 0).WellFormed ∧ ¬ (Instr.copy2 1 2 3 0 0).WellFormed
    ∧ ¬ (Instr.fred 1 2 3 .absmax true true).WellFormed := by decide
/-- R318, R358: a reservation has no packet, TLBINV.all no range. -/
theorem test_refuses_task_and_system_fields : ¬ (Instr.tspawn 1 2 true).WellFormed ∧ ¬ (Instr.tspawnl 1 2 true).WellFormed
    ∧ ¬ (Instr.tlbinv 1 2 0 true false).WellFormed ∧ ¬ (Instr.tlbinv 1 0 2 true false).WellFormed := by decide
/-- R174: a form that has no saturation, no rounding or no groups refuses them. -/
theorem test_refuses_modifier_fields : ¬ (Instr.vand 1 (.v 2) (.v 3) { plain with sat := true }).WellFormed
    ∧ ¬ (Instr.vand 1 (.v 2) (.v 3) { plain with rm := .mode .rtz }).WellFormed
    ∧ ¬ (Instr.vadd 1 (.v 2) (.v 3) { plain with gsz := 1 }).WellFormed := by decide

/-! ## Decoding is right: words of the spec's listings, and words put together bit by bit from its tables -/

/-- The reset encoding and words of 06 and 07: LI S2, 0x100; ADD S1, S1, S4; BNZ S2 to slot 2; RNEXT S3; ST64 S3, S2, 0. -/
theorem test_decode_control : decode 0 0 0 = .ok .nop ∧ decode 0x08010100 0 0 = .ok (.li 2 0x100)
    ∧ decode 0x00408108 0 0 = .ok (.add 1 (.s 1) (.s 4)) ∧ decode 0x0F040002 0 0 = .ok (.bnz 2 0 2)
    ∧ decode 0x14018000 0 0 = .ok (.rnext 3) ∧ decode 0x0B418200 0 0 = .ok (.st64 (.s 3) (.s 2) 0) := by decide +kernel
/-- LOOPI L1, 3 to slot 3 with its extension word (07, worked case), and its length. -/
theorem test_decode_loop : decode 0x11000003 0x31 0 = .ok (.loopi (.close 3 0 3) 1) ∧ wordCount 0x11000003 0x31 = 2 := by decide +kernel
/-- A stream source (R181: 0x20 is Q0): ADD S9, Q0, S0 is 0x0044_A000. -/
theorem test_decode_stream_source : decode 0x0044A000 0 0 = .ok (.add 9 (.q 0) (.s 0)) := by decide +kernel
/-- VMUL V5, V4, S3 with its modifier word (06), VST V5, S1, and VCMP.lt.i32 M1, V3, 64 of three words (08). -/
theorem test_decode_vector : decode 0x20828407 0x00160000 0 = .ok (.vmul 5 (.v 4) (.s 3) plain)
    ∧ decode 0x2BC28100 0 0 = .ok (.vst 5 1 plain)
    ∧ decode 0x25088301 0x0C9E0000 0x40 = .ok (.vcmp .lt 1 (.v 3) (.imm 0x40) { plain with ty := some .int32 })
    ∧ wordCount 0x25088301 0x0C9E0000 = 3 := by decide +kernel
/-- MLDT T0, S1, S5, S0; MMA.tab V0, T0, T1; MDRAIN.bf16 V0, S6, S0, 128, 192 (09, worked case). -/
theorem test_decode_matrix : decode 0x40825000 0 0 = .ok (.mldt 1 5 0 0) ∧ decode 0x41C00003 0xF0000000 0 = .ok (.mma 0 0 1 .tab false 0)
    ∧ decode 0x42400601 0x1033FDF8 0 = .ok (.mdrain 0 6 .bf16 none .rmode false 127 191) := by decide +kernel
/-- COPY S4, S3, S2 (11); CSTORE.r S1, S14, S12, Q0 and FRED.absmax.nanskip S1, S2, S3 (10, 13). -/
theorem test_decode_copy : decode 0x60083100 0 0 = .ok (.copy 4 3 2) ∧ decode 0x62C2E640 0 0 = .ok (.cstore 1 14 12 (some 0))
    ∧ decode 0x634221CC 0 0 = .ok (.fred 1 2 3 .absmax false true) := by decide +kernel
/-- GREP.maxnorm V10, V9, T2 (09). -/
theorem test_decode_gauge : decode 0x80C5090A 0 0 = .ok (.grep 10 9 2 .maxnorm) := by decide +kernel
/-- TNEWV.hbm S15, S4, S14, TPIN.rel S2 and TEXIT (10 to 16). -/
theorem test_decode_task : decode 0xA0DE4700 0 0 = .ok (.tnewv 15 4 14 .hbm false 0) ∧ decode 0xA2040001 0 0 = .ok (.tpin 2 true)
    ∧ decode 0xA2800000 0 0 = .ok .texit := by decide +kernel
/-- SYS words from R355's table: opcode × 0x40_0000 + A × 0x2_0000 + B × 0x1000 + C × 0x80 + F over 0xC000_0000, FI as D × 0x8000 +
A × 0x100 + I. -/
theorem test_decode_system : decode (0xC0000000 + 3 * 0x400000 + 1 * 0x20000 + 2 * 0x1000 + 3 * 0x80) 0 0 = .ok (.tlbinv 1 2 3 false false)
    ∧ decode (0xC0000000 + 15 * 0x400000 + 4 * 0x20000 + 5 * 0x1000) 0 0 = .ok (.linkkey 4 5)
    ∧ decode (0xC0000000 + 13 * 0x400000 + 7 * 0x8000 + 0x83) 0 0 = .ok (.smovcr 7 0x83) := by decide +kernel
/-- R169: engine 7, an opcode past the last form, a reserved field. -/
theorem test_decode_refuses : decode 0xE0000000 0 0 = .error .engine ∧ decode (86 * 0x400000) 0 0 = .error .opcode
    ∧ decode 0x00400001 0 0 = .error (.field false) ∧ decode 0xC0000001 0 0 = .error (.field true) := by decide +kernel

/-! ## Small states, and how a test looks at an outcome -/

/-- A state whose next step fetches a NOP: one task of ASID 0 in privileged mode, its page mapped, nothing in flight. -/
def quiet : State := placeWord 0 State.reset
/-- A state with some S registers set. -/
def regs (l : List (Fin 32 × W64)) (s : State := quiet) : State := l.foldl (fun s x => wr s x.1 x.2) s
/-- Whether an outcome is a next state of which something holds. -/
def after (o : Host.Outcome State Fault Refusal) (p : State → Bool) : Bool := match o with | .next t => p t | _ => false
/-- Whether a value is given, with a state, of which something holds. -/
def gives {α : Type} (r : Res α) (p : α → State → Bool) : Bool := match r with | .ok a t => p a t | .stop _ => false
/-- Whether an attempt at a queued word completes in a state of which something holds. -/
def done (r : QAct) (p : State → Bool) : Bool := match r.1 with | .done t => p t | _ => false
/-- Whether an outcome has begun a trap of a cause with an address. -/
def traps (o : Host.Outcome State Fault Refusal) (c : BitVec 8) (a : W64) : Bool :=
  after o fun t => match t.cx.fl.drain with | some i => i.cause == c && i.taddr == a | none => false
/-- Another bank in the moving core. -/
def bank (f : Ctx → Ctx) (s : State := quiet) : State := { s with cx := f s.cx }
/-- The moving task changed. -/
def asTask (f : TaskRun → TaskRun) (s : State := quiet) : State := bank (fun c => { c with task := c.task.map f }) s
/-- The task is replayable (R29, flag REPLAYABLE). -/
def replays (s : State := quiet) : State := asTask (fun t => { t with packet := 0x0000080000001101 :: t.packet.drop 1 }) s

/-- A state in which nothing is in flight is ready for every word. -/
theorem ready_of_idle (rs : List (Fin 32)) (s : State) (h : s.cx.fl.late = []) (h' : s.cx.fl.loads = []) : Ready rs s := by
  refine ⟨by simp [lateOf, h], ?_⟩
  simp [regBusy, h']
/-- It starts every queue word whose routing leaves streams, lease and flight alone. -/
theorem quiet_starts_all (q : Queue) (i : Instr) (rs : List (Fin 32)) (f : State → State) (s : State) (h : s.cx.fl = {})
    (hs : s.cx.streams = Vector.replicate 8 none) (hl : s.cx.lease = {}) (hd : s.cx.qdepth = 0x40)
    (hfl : ∀ t : State, (f t).cx.fl = t.cx.fl) (hst : ∀ t : State, (f t).cx.streams = t.cx.streams)
    (hls : ∀ t : State, (f t).cx.lease = t.cx.lease) (hk : ∀ t : State, (f t).clock = t.clock) : Starts q i rs f s := by
  refine quiet_starts ⟨by simp [h], by simp [h], by rw [hs]; decide, by simp [h], by simp [h], by simp [hl], by simp [h]⟩
    ⟨ready_of_idle _ _ (by simp [h]) (by simp [h]), by simp [slip, h, hd]⟩ hfl hst hls hk
/-- Such states exist, with any registers. -/
theorem witness_starts (q : Queue) (i : Instr) (rs : List (Fin 32)) : Starts q i rs id quiet ∧ Routable q rs quiet :=
  have h := quiet_starts_all q i rs id quiet rfl rfl rfl rfl (fun _ => rfl) (fun _ => rfl) (fun _ => rfl) fun _ => rfl
  ⟨h, h.routable⟩
/-- Bytes put into device memory, as if they had stood there before the phase. -/
def bytes (a : Nat) (bs : List Byte) (s : State := quiet) : State := { s with mem := placed a bs s.mem }
/-- Bytes put into the scratchpad of the moving core. -/
def spad (a : Nat) (bs : List Byte) (s : State := quiet) : State := bytes (spadBase s.me + a) bs s

/-! ## The control engine: hypotheses that hold, and single steps -/

/-- A bound scalar stream with two elements in its buffer. -/
def fed : State := bank fun c => { c with streams := c.streams.set 3 (some { id := 1, kind := .scalar, addr := 0, count := 2, stride := 8, buf := [5, 6] }) }
/-- `ScalarOperands`: a bound stream with an element, and an unbound one. -/
theorem witness_scalar_operands : (∃ b x rest, fed.cx.streams[(3 : Fin 8)] = some b ∧ b.kind = .scalar ∧ b.buf = x :: rest)
    ∧ quiet.cx.streams[(3 : Fin 8)] = none := by
  exact ⟨⟨_, 5, [6], rfl, rfl, rfl⟩, rfl⟩
/-- `RegisterArithmetic`, `ImmediateAndConstantForms`: ready sources. -/
theorem witness_two_sources : Ready (srcRegs [.s 1, .s 2]) (regs [(1, 7), (2, 3)])
    ∧ readSrc2 (.s 1) (.s 2) (regs [(1, 7), (2, 3)]) = .ok (7, 3) (regs [(1, 7), (2, 3)])
    ∧ readSrc (.s 1) (regs [(1, 7), (2, 3)]) = .ok 7 (regs [(1, 7), (2, 3)]) := ⟨ready_of_idle _ _ rfl rfl, rfl, rfl⟩
/-- `DivisionNeverTraps`: a zero divisor, and -2^63 by -1. -/
theorem witness_division : readSrc2 (.s 1) (.s 2) (regs [(1, 7)]) = .ok (7, 0) (regs [(1, 7)])
    ∧ readSrc2 (.s 1) (.s 2) (regs [(1, 0x8000000000000000), (2, 0xFFFFFFFFFFFFFFFF)])
      = .ok (0x8000000000000000, 0xFFFFFFFFFFFFFFFF) (regs [(1, 0x8000000000000000), (2, 0xFFFFFFFFFFFFFFFF)])
    ∧ (0x8000000000000000 : W64).toInt = -2 ^ 63 ∧ (0xFFFFFFFFFFFFFFFF : W64).toInt = -1 := ⟨rfl, rfl, by decide, by decide⟩
/-- R195: DIV by 0 gives all ones, DIV of -2^63 by -1 gives -2^63. -/
theorem test_div : after (exec (.div 3 (.s 1) (.s 2)) (regs [(1, 7)])) (·.cx.s[3] == 0xFFFFFFFFFFFFFFFF) = true
    ∧ after (exec (.div 3 (.s 1) (.s 2)) (regs [(1, 0x8000000000000000), (2, 0xFFFFFFFFFFFFFFFF)])) (·.cx.s[3] == 0x8000000000000000) = true := by
  decide +kernel
/-- R194: REM has the sign of a: -7 by 2 leaves -1; MULH of -1 by 1 is -1. -/
theorem test_rem_sign : after (exec (.rem 3 (.s 1) (.s 2)) (regs [(1, -7), (2, 2)])) (·.cx.s[3] == -1) = true
    ∧ after (exec (.mulh 3 (.s 1) (.s 2)) (regs [(1, -1), (2, 1)])) (·.cx.s[3] == -1) = true := by decide +kernel
/-- R194: bits b[63:6] of a shift amount are ignored; SAR copies the sign. -/
theorem test_sar : after (exec (.sar 3 (.s 1) (.s 2)) (regs [(1, -16), (2, 0x42)])) (·.cx.s[3] == -4) = true := by decide +kernel
/-- R23: a source register that is also the destination is read first; a write to S0 is discarded. -/
theorem test_source_is_destination : after (exec (.sub 1 (.s 2) (.s 1)) (regs [(1, 3), (2, 10)])) (·.cx.s[1] == 7) = true
    ∧ after (exec (.add 0 (.s 1) (.s 1)) (regs [(1, 3)])) (·.cx.s[0] == 0) = true := by decide +kernel
/-- R197: LIX64 writes Concat(second extension word, first extension word); LI extends its sign. -/
theorem test_constants : after (exec (.lix64 1 0x11111111 0x22222222) quiet) (·.cx.s[1] == 0x2222222211111111) = true
    ∧ after (exec (.li 1 0x4000) quiet) (·.cx.s[1] == -16384) = true := by decide +kernel
/-- `ScalarFrame`: no wait, nothing queued, and a next state. -/
theorem witness_scalar_frame : quiet.cx.fl.wait = .none ∧ quiet.cx.fl.pend = [] ∧ ∃ t, exec (.add 1 (.s 2) (.s 3)) quiet = .next t :=
  ⟨rfl, rfl, _, rfl⟩

/-- `LoadsLocal`: an aligned load of the local window, and one of a mapped HBM page. -/
theorem witness_load : gives (access 0 (.ctl 8) .rd 0x108 8 (spad 0x108 [1, 2, 3])) (fun gs t =>
      match gs with | [g] => g.ty == 3 && g.own && !ctlFenced t && !spadHeld t 0x108 8 false && gives (readSeg 0 g t) (fun bs _ => bs.length == 8) | _ => false) = true
    ∧ gives (access 0 (.ctl 4) .rd 0x210000 4 (bytes 0x210000 [1, 2, 3])) (fun gs t =>
      match gs with | [g] => g.ty == 0 && !g.own && !ctlFenced t && (t.mem.poisoned g.pa 4).isNone && gives (readSeg 0 g t) (fun bs _ => bs == [1, 2, 3, 0]) | _ => false) = true := by
  decide +kernel
/-- `StoresLocal`: an aligned store to a mapped page. -/
theorem witness_store : gives (access 0 (.ctl 8) .wr 0x210000 8 quiet) (fun gs t =>
      match gs with | [g] => g.ty == 0 && !g.own && !ctlFenced t | _ => false) = true := by decide +kernel
/-- R198: LDS8 extends the sign, LD16 is little-endian (R3); the address adds sext(I) × n. -/
theorem test_loads : after (exec (.lds8 1 (.s 2) 0xFF) (spad 0x100 [0x80] (regs [(2, 0x101)]))) (·.cx.s[1] == -128) = true
    ∧ after (exec (.ld16 1 (.s 2) 1) (spad 0x102 [0x34, 0x12] (regs [(2, 0x100)]))) (·.cx.s[1] == 0x1234) = true := by decide +kernel
/-- R198: ST32 writes d[31:0] and nothing beside it. -/
theorem test_store : after (exec (.st32 (.s 1) (.s 2) 0) (spad 0x100 [9, 9, 9, 9, 7] (regs [(1, 0x1122334455667788), (2, 0x100)])))
      (fun t => t.mem.raw (spadBase 0 + 0x100) 5 == [0x88, 0x77, 0x66, 0x55, 7]) = true := by decide +kernel
/-- `MisalignedAccess`, one address for each size; R82: ALIGN comes before PAGE_PERM. -/
theorem test_align : traps (exec (.ld64 1 (.s 2) 0) (regs [(2, 0x104)])) cALIGN 0x104 = true
    ∧ traps (exec (.st16 (.s 1) (.s 2) 0) (regs [(2, 0x101)])) cALIGN 0x101 = true
    ∧ traps (exec (.ld32 1 (.s 2) 0) (regs [(2, 0xFFF0000000000002)])) cALIGN 0xFFF0000000000002 = true
    ∧ traps (exec (.ld32 1 (.s 2) 0) (regs [(2, 0xFFF0000000000000)])) cPERM 0xFFF0000000000000 = true := by decide +kernel
/-- `MemoryReadAfterWrite`: blocks without a key, across a block boundary. -/
theorem witness_memory (x : Nat) (_ : 0x3E / 64 ≤ x) (_ : x ≤ (0x3E + 4 - 1) / 64) : ({} : Memory).keyOf (64 * x) = none := rfl
/-- `StoreFrame`: a segment of an unencrypted page. -/
theorem witness_store_frame : (⟨0, false, 0, 0x210000, 2, none, none, 0x210000, false⟩ : Seg).ty ≤ 3 ∧ ([1, 2] : List Byte).length = 2 := by decide
/-- `AtomicLocal`: a mapped address, in a task that is not replayable, and one that is. -/
theorem witness_atomic : gives (access 0 .atomic .rw 0x210000 8 quiet) (fun gs t =>
      match gs with | [g] => g.ty ≤ 2 && !ctlFenced t && (t.mem.poisoned g.pa 8).isNone | _ => false) = true
    ∧ replayable quiet = false ∧ replayable (replays) = true := by decide +kernel
/-- R201: AMOADD of 4 bytes wraps in them and gives the old value zero-extended; AMOMIN compares signed unless U = 1. -/
theorem test_atomics : after (exec (.amoadd 1 2 3 false) (bytes 0x210000 [0xFF, 0xFF, 0xFF, 0xFF, 5] (regs [(2, 0x210000), (3, 1)])))
      (fun t => t.cx.s[1] == 0xFFFFFFFF && t.mem.raw 0x210000 5 == [0, 0, 0, 0, 5]) = true
    ∧ after (exec (.amomin 1 2 3 false false) (bytes 0x210000 [0xFF, 0xFF, 0xFF, 0xFF] (regs [(2, 0x210000), (3, 1)])))
      (fun t => t.mem.raw 0x210000 4 == [0xFF, 0xFF, 0xFF, 0xFF]) = true
    ∧ after (exec (.amomin 1 2 3 false true) (bytes 0x210000 [0xFF, 0xFF, 0xFF, 0xFF] (regs [(2, 0x210000), (3, 1)])))
      (fun t => t.mem.raw 0x210000 4 == [1, 0, 0, 0]) = true := by decide +kernel
/-- A queue descriptor of capacity 2 with HEAD 1 and TAIL as given, and its page. -/
def queueAt (tail : Byte) : State := bytes 0x210000 ([1, 0, 0, 0, tail, 0, 0, 0, 1, 0, 0, 0, 0, 0, 0, 0] ++ List.replicate 8 0 ++ [42])
/-- `CompareSwapAndQueues`, `MemoryQueue`: an aligned address of 16 bytes; queues that are empty, full and neither. -/
theorem witness_queue : gives (access 0 .atomic .rw 0x210000 16 (queueAt 2)) (fun gs t => match gs with
      | [g] => g.ty ≤ 2 && !ctlFenced t && g.key == none && (unitLenq g.pa (pageEnd t g) 7 g.key t.mem).1 == .inl (bytesOf 8 2)
      && (unitLdeq g.pa (pageEnd t g) g.key t.mem).1 == .inl (bytesOf 8 42 ++ bytesOf 8 1)
      && (unitCas2 g.pa 0 0 g.key t.mem).1.isLeft && (unitChase g.pa g.va (pageSpan t g.va).1 (pageSpan t g.va).2 1 0 g.key t.mem).1.isLeft | _ => false) = true
    ∧ (∃ d, unitRead (queueAt 3).mem none 0x210000 16 = .inl d ∧ queueDesc d 0x210000 0x220000 = some (3, 1, 2))
    ∧ (∃ d, unitRead (queueAt 1).mem none 0x210000 16 = .inl d ∧ queueDesc d 0x210000 0x220000 = some (1, 1, 2))
    ∧ (∃ d, unitRead (queueAt 2).mem none 0x210000 16 = .inl d ∧ queueDesc d 0x210000 0x220000 = some (2, 1, 2))
    ∧ unitRead (queueAt 2).mem none (0x210000 + 16 + 8 * (1 % 2)) 8 = .inl 42 := by
  refine ⟨by decide +kernel, ⟨0x10000000300000001, ?_⟩, ⟨0x10000000100000001, ?_⟩, ⟨0x10000000200000001, ?_⟩, ?_⟩ <;> decide +kernel
/-- `AtomicsComplete`, `NearMemoryComplete`: a page of HBM that may be read and written, no fence, no unreadable block, and room in the window. -/
theorem witness_atomics_complete : (match checkAcc 0 quiet .atomic .rw 0x210000 8 with | (.ok [g], _) => g.ty ≤ 2 | _ => false) = true
    ∧ (match checkAcc 0 (queueAt 1) .atomic .rw 0x210000 16, checkAcc 0 (queueAt 1) .atomic .rw 0x210000 1 with
      | (.ok [g], _), (.ok [h], _) => g.ty ≤ 2 && h.ty ≤ 2 | _, _ => false) = true
    ∧ ctlFenced quiet = false ∧ replayable quiet = false ∧ quiet.mem.poison = [] ∧ (queueAt 1).mem.poison = [] := by decide +kernel
/-- Most of the local window is the task's part. -/
theorem in_window (a n : Nat) (s : State) (h : (0x1000 ≤ a ∧ a + n ≤ 0x8000) ∧ (spadPart (ctxSpad s.cx)).1 ≤ 0x1000 ∧ 0x8000 ≤ (spadPart (ctxSpad s.cx)).2) :
    InWindow a n s := ⟨by omega, by omega⟩
/-- R203: LDEQ takes the entry of HEAD, and LENQ at a full queue changes nothing; R202: AMOCAS2 compares register pairs. -/
theorem test_queue : after (exec (.ldeq 1 2 3) (regs [(2, 0x210000)] (queueAt 3)))
      (fun t => t.cx.s[1] == 42 && t.cx.s[3] == 1 && t.mem.raw 0x210000 8 == [2, 0, 0, 0, 3, 0, 0, 0]) = true
    ∧ after (exec (.lenq 1 2 3) (regs [(2, 0x210000), (3, 9)] (queueAt 3))) (fun t => t.cx.s[1] == 0xFFFFFFFFFFFFFFFF && t.mem.cells == (queueAt 3).mem.cells) = true
    ∧ after (exec (.amocas2 4 2 6) (regs [(2, 0x210000), (4, 0x300000001), (5, 1), (6, 8)] (queueAt 3)))
      (fun t => t.cx.s[4] == 0x300000001 && t.cx.s[5] == 1 && t.mem.raw 0x210000 8 == [8, 0, 0, 0, 0, 0, 0, 0]) = true := by decide +kernel
/-- `Branches`: the placed word is a target of its line. -/
theorem witness_branch : gives (checkTarget (branchTarget quiet.cx.pc 0 2) quiet) (fun _ _ => true) = true
    ∧ Ready [1] quiet ∧ sget quiet.cx 1 = 0 ∧ sget (regs [(1, 1)]).cx 1 ≠ 0
    ∧ gives (readSrc (.s 1) (regs [(1, 0x200008)])) (fun t s => gives (checkTarget t s) fun _ _ => true) = true := by
  refine ⟨by decide +kernel, ready_of_idle _ _ rfl rfl, rfl, by decide +kernel, by decide +kernel⟩
/-- `BadTarget`: a code line is there, and the word is no START word; no word; a header word. -/
theorem witness_bad_target : gives (fetchLine 0x200000 quiet) (fun l _ => lineKind l == 0 && !lineTarget l 3) = true
    ∧ (0x20000A : Nat) % 4 ≠ 0 ∧ (0x200004 : Nat) % 128 / 4 < 2 := by decide +kernel
/-- R206: BNZ is taken where the register is not zero; R208: CALL leaves the address of the next instruction in S31. -/
theorem test_branch : after (exec (.bnz 1 0 2) (regs [(1, 1)] (bank (fun c => { c with pc := 0x200010, npc := 0x200014 })))) (fun t => t.cx.pc == 0x200008) = true
    ∧ after (exec (.bnz 1 0 2) (bank (fun c => { c with pc := 0x200010, npc := 0x200014 }))) (fun t => t.cx.pc == 0x200014) = true
    ∧ after (exec (.call 0 2) (bank (fun c => { c with pc := 0x200010, npc := 0x200014 }))) (fun t => t.cx.s[31] == 0x200014 && t.cx.pc == 0x200008) = true := by
  decide +kernel
/-- R179: a jump to a word that is not marked is TARGET with the address. -/
theorem test_bad_target : traps (exec (.jr (.s 1)) (regs [(1, 0x20000C)])) cTARGET 0x20000C = true := by decide +kernel
/-- A bank with entries in CQ and XQ. -/
def queued (x : Bool) : State := bank fun c => { c with cq := [x, true], xq := [11, 12] }
/-- `QueuePops`: heads of both queues, 1 and 0, with a target that checks. -/
theorem witness_pops : (queued true).cx.cq = true :: [true] ∧ (queued false).cx.cq = false :: [true] ∧ (queued true).cx.xq = 11 :: [12]
    ∧ gives (checkTarget (branchTarget (queued true).cx.pc 0 2) (queued true)) (fun _ _ => true) = true := by
  exact ⟨rfl, rfl, rfl, by decide +kernel⟩
/-- R212: XQPOP takes the oldest entry; R22: a pop from an empty queue that nothing can fill is QUEUE. -/
theorem test_pops : after (exec (.xqpop 1) (queued true)) (fun t => t.cx.s[1] == 11 && t.cx.xq == [12]) = true
    ∧ after (exec (.cqpop 1) (queued false)) (fun t => t.cx.s[1] == 0 && t.cx.cq == [true]) = true
    ∧ traps (exec (.xqpop 1) quiet) cQUEUE quiet.cx.pc = true := by decide +kernel
/-- `HardwareLoops`: below the count with a target that checks, and at it. -/
theorem witness_loops : Ready [1] (regs [(1, 2)]) ∧ ((0 : W64) + 1).toNat < (sget (regs [(1, 2)]).cx 1).toNat
    ∧ ¬ ((0 : W64) + 1).toNat < (sget (regs [(1, 1)]).cx 1).toNat ∧ ((0 : W64) + 1).toNat < (3 : BitVec 28).toNat
    ∧ gives (checkTarget (branchTarget (regs [(1, 2)]).cx.pc 0 2) (regs [(1, 2)])) (fun _ _ => true) = true := by
  refine ⟨ready_of_idle _ _ rfl rfl, by decide +kernel, by decide +kernel, by decide, by decide +kernel⟩
/-- R211: the third pass of LOOPI L1, 3 falls through and clears L1; LOOP with a count of 0 runs the body once. -/
theorem test_loops : after (exec (.loopi (.close 3 0 2) 1) (setL 1 2 quiet)) (fun t => t.cx.cfg.l[1] == 0 && t.cx.pc == quiet.cx.npc) = true
    ∧ after (exec (.loopi (.close 3 0 2) 1) (setL 1 1 quiet)) (fun t => t.cx.cfg.l[1] == 2 && t.cx.pc == 0x200008) = true
    ∧ after (exec (.loop (.close 1 0 2) 0) quiet) (fun t => t.cx.cfg.l[0] == 0 && t.cx.pc == quiet.cx.npc) = true := by decide +kernel
/-- `Generator`: ready sources. -/
theorem witness_generator : readSrc2 (.s 1) (.s 2) quiet = .ok (0, 0) quiet := rfl
/-- R220, the worked case of 07: RCTR S4, S0 with S4 = 2^64 − 2 and then RSKIP by 3 gives the counter 2^64 + 1. -/
theorem test_counter_carry : after (exec (.rskip (.s 5) (.s 0)) (regs [(5, 3)] (bank fun c => { c with cfg := { c.cfg with ctr := 0xFFFFFFFFFFFFFFFE } })))
      (fun t => t.cx.cfg.ctr == 0x10000000000000001) = true := by decide +kernel
/-- R221: RDCYC gives the clock count, RDPWR clears RAMPHOLD. -/
theorem test_counters : after (exec (.rdcyc 1) { quiet with clock := 77 }) (·.cx.s[1] == 77) = true
    ∧ after (exec (.rdpwr 1) (bank fun c => { c with ramphold := true })) (fun t => !t.cx.ramphold && t.cx.s[1].getLsbD 61) = true := by decide +kernel
/-- `ControlRegisterMoves`: an assigned number, an unassigned one, and a privileged one. -/
theorem witness_control_registers : (writeUser 0x02 1 quiet).isSome = true ∧ writeUser 0x7F 1 quiet = none ∧ (readUser 0x02 quiet).isSome = true
    ∧ readUser 0x7F quiet = none ∧ regPending 0x02 quiet = false := by decide +kernel
/-- R213: MOVC to FLAGS and back; an unassigned number is ILLEGAL; R183: a privileged number is PRIVILEGE in user mode. -/
theorem test_control_registers : after (exec (.movc (.s 1) 0x02) (regs [(1, 5)])) (·.cx.flags == 5) = true
    ∧ traps (exec (.movcr 1 0x7F) quiet) cILLEGAL quiet.cx.pc = true
    ∧ traps (exec (.movcr 1 0x83) (bank fun c => { c with pr := { c.pr with priv := false } })) cPRIVILEGE quiet.cx.pc = true := by decide +kernel
/-- `BoundariesAndFences`: nothing unpublished, no wait, a task, nothing that FENCE or QFENCE waits for. -/
theorem witness_boundaries : unpublished true quiet = none ∧ unpublished false quiet = none ∧ quiet.cx.fl.wait = .none ∧ quiet.cx.task.isSome = true
    ∧ lateOf none quiet = none ∧ quiet.cx.fl.loads = [] ∧ quiet.cx.fl.pend = [] := by decide +kernel
/-- R214: PHASE goes on and drops the snapshot (R90). -/
theorem test_phase : after (exec (.phase .core) (bank fun c => { c with fl := { c.fl with snap := [⟨0, 1, 0⟩] } })) (fun t => t.cx.fl.snap == [] && t.cx.retired == 1) = true := by
  decide +kernel
/-- `TrapWord`, `TrapEntry`: a bank that drains nothing; a drained trap with a handler whose line can be fetched. -/
theorem witness_trap : quiet.cx.fl.drain = none ∧ quiet.cx.fl.wait = .none ∧ quiet.cx.fl.pend = [] := by decide +kernel
/-- A bank that has taken a trap, with a handler at the placed word. -/
def trapped : State := bank fun c => { c with
  pr := { c.pr with tvec := 0x200008, priv := false }, fl := { c.fl with drain := some { cause := 0x0E, taddr := 0x300, tepc := 0x304, tnpc := 0x308, ucode := 9 } } }
theorem witness_trap_entry : trapped.cx.fl.drain.isSome = true ∧ trapped.cx.pr.intrap = false ∧ trapped.cx.pr.tvec ≠ 0
    ∧ gives (checkHandler trapped) (fun _ t => t.cx == trapped.cx) = true := by decide +kernel
/-- R224, R336: TRAP's code stands in TCAUSE at the entry, which goes to TVEC in privileged mode with TEPC and TNPC saved. -/
theorem test_trap_entry : (let t := enterTrap trapped
    t.cx.pc == 0x200008 && t.cx.pr.tepc == 0x304 && t.cx.pr.tnpc == 0x308 && t.cx.pr.taddr == 0x300 && bits t.cx.pr.tcause 7 0 == 0x0E
      && t.cx.pr.priv && t.cx.pr.intrap) = true
    ∧ after (exec (.trap 9) quiet) (fun t => match t.cx.fl.drain with | some i => i.cause == 0x0E && i.ucode == 9 | none => false) = true := by decide +kernel
/-- A handler about to return to user mode. -/
def handler : State := bank fun c => { c with pr := { c.pr with intrap := true, tnpc := 0x400, tcause := 0x0000000000000008 } }
/-- `ReturnFromException`: outside a handler, and in one with ACTION 0. -/
theorem witness_return : quiet.cx.pr.priv = true ∧ quiet.cx.pr.intrap = false ∧ handler.cx.pr.intrap = true ∧ replayable handler = false
    ∧ pairReturned handler = true ∧ bits handler.cx.pr.tret 1 0 = 0 := by decide +kernel
/-- R337: SRET goes on at TNPC with INTRAP clear in the saved mode. -/
theorem test_return : after (exec .sret handler) (fun t => t.cx.pc == 0x400 && !t.cx.pr.intrap && !t.cx.pr.priv) = true
    ∧ traps (exec .sret quiet) cILLEGAL quiet.cx.pc = true := by decide +kernel

/-! ## The vector engine -/

/-- A modifier word with mask M1, which is all zero in `quiet`, and a format. -/
def under (f : Fmt) : VMod := { plain with mask := 1, ty := some f }
/-- One word of every form of the arithmetic queue, with row sources. -/
def vectorWords : List Instr :=
  let f := under .fp32; let i := under .int32
  [.vadd 1 (.v 2) (.v 3) f, .vsub 1 (.v 2) (.v 3) f, .vmul 1 (.v 2) (.v 3) i, .vfma 1 (.v 2) (.v 3) f, .vfms 1 (.v 2) (.v 3) f, .vfnma 1 (.v 2) (.v 3) f,
   .vmin 1 (.v 2) (.v 3) f, .vmax 1 (.v 2) (.v 3) f, .vabs 1 (.v 2) f, .vneg 1 (.v 2) f, .vand 1 (.v 2) (.v 3) i, .vor 1 (.v 2) (.v 3) i,
   .vxor 1 (.v 2) (.v 3) i, .vshl 1 (.v 2) (.v 3) i, .vshr 1 (.v 2) (.v 3) i, .vsar 1 (.v 2) (.v 3) i, .vmov 1 (.v 2) f, .vsel 1 (.v 2) (.v 3) f,
   .viota 1 (.v 2) i, .vclass 1 (.v 2) f]
/-- The other forms of the arithmetic queue. -/
def vectorWords2 : List Instr :=
  let f := under .fp32; let i := under .int32
  [.vcvt 1 (.v 2) .bf16 0 f, .vquant 1 (.v 2) .bs8 plain, .vdeq 1 (.v 2) .fp32 { plain with ty := some .bs8 }, .vrcp 1 (.v 2) f, .vrsq 1 (.v 2) f, .vsqrt 1 (.v 2) f,
   .vexp2f 1 (.v 2) f, .vlog2f 1 (.v 2) f, .vrint 1 (.v 2) f, .vfint 1 (.v 2) f, .vexpi 1 (.v 2) (.v 3) f, .vgetexp 1 (.v 2) f, .vgetmant 1 (.v 2) f,
   .vredadd 1 (.v 2) f, .vredmax 1 (.v 2) f, .vredamax 1 (.v 2) f, .vredmin 1 (.v 2) f, .vscan 1 (.v 2) f, .vperm 1 (.v 2) (.v 3) f,
   .vbcast 1 (.v 2) (.v 3) f, .vshuf 1 (.v 2) (.v 3) .zlo f, .vrot 1 (.v 2) (.v 3) f, .vslide 1 (.v 2) (.v 3) f, .vcomp 1 (.v 2) 1 { f with gsz := 3 }, .vrng 1 i,
   .vcmp .lt 1 (.v 2) (.v 3) f, .mand 1 2 3 plain, .mor 1 2 3 plain, .mxor 1 2 3 plain, .mnot 1 2 plain, .mfirst 1 2 f, .mpop 2 f, .vanyq 2 f, .vallq 2 f, .vxq (.v 2) (.v 3) i]
/-- Whether a word's format is allowed, nothing shadows it, and it completes. -/
def completes (s : State) (i : Instr) : Bool :=
  match vecInfo i with
  | some (_, m, _) => vecOk (vecFmt m s.cx.cfg) i && after (exec i s) fun t => t.cx.fl.pend == [] && t.cx.fl.drain == none && t.cx.retired == s.cx.retired + 1
  | none => false
/-- `VectorArithmetic`, `VectorElementwise`: every form is started, allowed and completes. -/
theorem witness_vector_elementwise : vectorWords.all (completes quiet) = true := by decide +kernel
/-- `VectorConversions`, `VectorFunctions`, `VectorCrossLane`, `MaskForms`: every form is allowed and completes. -/
theorem witness_vector_functions : vectorWords2.all (completes quiet) = true := by decide +kernel
/-- A V register with some FP32 or INT32 lanes. -/
def lanes (r : Fin 128) (l : List Nat) (s : State := quiet) : State := bank (setV r (packLanes 4 l)) s
/-- The first lanes of a V register after a word. -/
def gets (i : Instr) (s : State) (r : Fin 128) (l : List Nat) : Bool :=
  after (exec i s) fun t => (List.range l.length).map (laneOf 4 (t.cx.v[r]).toNat) == l
/-- The lanes of INT32 below a bound, as a mask M1 (R229). -/
def someLanes (n : Nat) (s : State) : State := bank (setM 1 (2 ^ n - 1)) s
/-- R233: 2^24 + 1 in FP32 rounds to even, INT32 wraps, and clamps with SAT; R229: an inactive lane is zero. -/
theorem test_vadd : gets (.vadd 1 (.v 2) (.v 3) (under .fp32)) (someLanes 1 (lanes 2 [0x4B800000, 7] (lanes 3 [0x3F800000, 7]))) 1 [0x4B800000, 0] = true
    ∧ gets (.vadd 1 (.v 2) (.v 3) (under .int32)) (someLanes 1 (lanes 2 [0x7FFFFFFF] (lanes 3 [1]))) 1 [0x80000000, 0] = true
    ∧ gets (.vadd 1 (.v 2) (.v 3) { under .int32 with sat := true }) (someLanes 1 (lanes 2 [0x7FFFFFFF] (lanes 3 [1]))) 1 [0x7FFFFFFF] = true := by decide +kernel
/-- R233: VFMA rounds once: (1 + 2^-12)^2 − (1 + 2^-11) is 2^-24. -/
theorem test_vfma : gets (.vfma 1 (.v 2) (.v 2) (under .fp32)) (someLanes 1 (lanes 2 [0x3F800800] (lanes 1 [0xBF801000]))) 1 [0x33800000] = true := by decide +kernel
/-- R235: a logical shift by the width gives 0, an arithmetic one past it copies of the sign. -/
theorem test_vshift : gets (.vshr 1 (.v 2) (.v 3) (under .int32)) (someLanes 1 (lanes 2 [0xFFFFFFFF] (lanes 3 [32]))) 1 [0] = true
    ∧ gets (.vsar 1 (.v 2) (.v 3) (under .int32)) (someLanes 1 (lanes 2 [0x80000000] (lanes 3 [200]))) 1 [0xFFFFFFFF] = true := by decide +kernel
/-- R239: FP32 0x3F818000 = 1 + 3 × 2^-8 lies half way between two BF16 values and goes to the even one, 0x3F82. -/
theorem test_vcvt : after (exec (.vcvt 1 (.v 2) .bf16 0 (under .fp32)) (someLanes 1 (lanes 2 [0x3F818000]))) (fun t => laneOf 2 (t.cx.v[1]).toNat 0 == 0x3F82) = true := by decide +kernel
/-- R243: VEXP2F of ±0 is 1 exactly, and above 0.5 the canonical NaN with NV; VLOG2F of 8 is 3 exactly. -/
theorem test_vexp2f : gets (.vexp2f 1 (.v 2) (under .fp32)) (someLanes 2 (lanes 2 [0x80000000, 0x3F000001])) 1 [0x3F800000, 0x7FC00000] = true
    ∧ gets (.vlog2f 1 (.v 2) (under .fp32)) (someLanes 1 (lanes 2 [0x41000000])) 1 [0x40400000] = true := by decide +kernel
/-- R247: the result goes to the group's first lane, and the others of the group are zero, active or not. -/
theorem test_vredadd : gets (.vredadd 1 (.v 2) { under .int32 with gsz := 2 }) (someLanes 3 (lanes 2 [1, 2, 3, 9])) 1 [6, 0, 0, 0] = true := by decide +kernel
/-- R253, R167: the two lanes of greatest magnitude stay, of equal ones the lower lane. -/
theorem test_vcomp : gets (.vcomp 1 (.v 2) 2 { under .fp32 with gsz := 2 }) (someLanes 4 (lanes 2 [0x3F800000, 0xC0000000, 0x40000000, 0xBF800000])) 1 [0, 0xC0000000, 0x40000000, 0] = true := by decide +kernel
/-- R237: VCMP writes 0 for inactive lanes; R258: MPOP pushes the count of active set lanes into XQ. -/
theorem test_masks : after (exec (.vcmp .lt 2 (.v 2) (.v 3) (under .int32)) (someLanes 2 (lanes 2 [0xFFFFFFFF, 5, 0] (lanes 3 [0, 5, 1])))) (fun t => t.cx.m[2] == 1) = true
    ∧ after (exec (.mpop 1 plain) (someLanes 3 quiet)) (fun t => t.cx.xq == [3]) = true := by decide +kernel
/-- `VectorMemory`: aligned rows in the local window, and elements of a zero index row. -/
theorem witness_vector_memory : vecOk .fp32 (.vld 1 2 plain) = true ∧ gives (readPieces 64 768 [(0x1000, 0)] quiet) (fun _ _ => true) = true
    ∧ gives (readPieces 64 64 ((List.range 12).map fun j => (0x1000 + BitVec.ofNat 64 j * 64, 0)) quiet) (fun _ _ => true) = true
    ∧ gives (checkPieces 64 768 [(0x1000, 0)] quiet) (fun l t => !piecesHeld 1 l t) = true
    ∧ gives (checkPieces 64 64 ((List.range 12).map fun j => (0x1000 + BitVec.ofNat 64 j * 64, 0)) quiet) (fun l t => !piecesHeld 1 l t) = true
    ∧ gives (checkPieces 4 4 [(0x1000, 0), (0x1004, 1)] quiet) (fun l t => !piecesHeld 1 l t) = true
    ∧ gives (readPieces 4 4 [(0x1000, 0), (0x1004, 1)] quiet) (fun _ _ => true) = true := by decide +kernel
/-- R257: VGATH reads lane i at a + off(i), and inactive lanes are zero; VSCAT writes its active lanes in ascending order, so of two lanes
with one address the higher one's element remains. -/
theorem test_vector_memory : gets (.vgath 1 2 3 (under .int32)) (someLanes 1 (lanes 3 [1] (spad 0x1000 [1, 2, 3, 4, 5] (regs [(2, 0xFFF)])))) 1 [0x04030201, 0] = true
    ∧ after (exec (.vscat 4 2 3 (under .int32)) (someLanes 2 (lanes 4 [7, 8, 9] (regs [(2, 0x1000)])))) (fun t => t.mem.raw (spadBase 0 + 0x1000) 6 == [8, 0, 0, 0, 0, 0]) = true := by
  decide +kernel
/-- `FormatNotAllowed`: a pattern that the format does not allow (VRCP of an integer format). -/
theorem witness_format : vecOk .int32 (.vrcp 1 (.v 2) (under .int32)) = false ∧ (vecInfo (.vrcp 1 (.v 2) (under .int32))).isSome = true
    ∧ traps (exec (.vrcp 1 (.v 2) (under .int32)) quiet) cILLEGAL quiet.cx.pc = true := by decide +kernel

/-! ## The matrix engine -/

/-- Whether a queue word completes at its routing. -/
def leaves (s : State) (i : Instr) : Bool :=
  after (exec i s) fun t => t.cx.fl.pend == [] && t.cx.fl.drain == none && t.cx.fl.pf == none && t.cx.retired == s.cx.retired + 1
/-- A queue word starts in a state with nothing in flight, whatever its lease, unless a gang of another core claims it. -/
theorem starts_under_lease (q : Queue) (i : Instr) (rs : List (Fin 32)) (s : State) (h : s.cx.fl = {}) (hs : s.cx.streams = Vector.replicate 8 none)
    (hl : s.cx.lease.gang = false) (hd : s.cx.qdepth = 0x40) : Starts q i rs id s := by
  refine quiet_starts ⟨by simp [h], by simp [h], by rw [hs]; decide, by simp [h], by simp [h], by simp [hl], by simp [h]⟩
    ⟨ready_of_idle _ _ (by simp [h]) (by simp [h]), by simp [slip, h, hd]⟩ (fun _ => rfl) (fun _ => rfl) (fun _ => rfl) fun _ => rfl
/-- The shape of a tile register: rows, columns, element width code (R260). -/
def shaped (t : Fin 8) (r c ew : Nat) (s : State := quiet) : State :=
  updCfg (fun g => { g with tshape := g.tshape.set t (BitVec.ofNat 64 (r + c * 2 ^ 16 + ew * 2 ^ 26)) }) s
/-- A session with the lease held on an array that issues at density 8. -/
def leased (held : Bool) (s : State := quiet) : State :=
  updLease (fun l => { l with session := some false, held := held, mmas := 16, ends := 4096, fresh := true })
    { s with arrays := s.arrays.set 0 { holder := if held then some 0 else none, density := 8 } }
/-- `Leases`: sessions of both kinds and none, with and without the lease. -/
theorem witness_leases : quiet.cx.lease.session = none ∧ (leased true).cx.lease.session = some false ∧ (leased true).cx.lease.held = true
    ∧ (leased false).cx.lease.held = false ∧ (leased true).cx.fl = {} ∧ (leased true).cx.lease.gang = false := ⟨rfl, rfl, rfl, rfl, rfl, rfl⟩
/-- R267: MLEASE opens a session and waits for the array; MREL without a session only completes, with one it gives the array back. -/
theorem test_leases : after (exec (.mlease false) quiet) (fun t => t.cx.lease.session == some false && t.cx.lease.waiting && t.cx.fl.pend.length == 1) = true
    ∧ leaves quiet .mrel = true ∧ leaves (leased true) (.mlease false) = true
    ∧ after (exec .mrel (leased true)) (fun t => t.cx.lease.session == none && !t.cx.lease.held && (arrOf t 0).holder == none) = true := by decide +kernel
/-- `TileMoves`: a shape of two rows that is not empty, moved from and to the local window; no rows left. -/
theorem witness_tile_moves : tileMoveOk 0 1 (shaped 1 2 64 1) = true ∧ leaves (shaped 1 2 64 1 (regs [(1, 0x1000), (2, 64)])) (.mldt 1 2 0 1) = true
    ∧ leaves (shaped 1 2 64 1 (regs [(1, 0x1000), (2, 64)])) (.mstt 1 2 0 1) = true := by decide +kernel
/-- `TileMovesComplete`: two rows in the task's part of the window. -/
theorem witness_tile_moves_complete : shSs (shOf (shaped 1 2 64 1 (regs [(1, 0x1000), (2, 64)])).cx.cfg 1) = 0
    ∧ ∀ r, r < 2 → InWindow (0x1000 + 64 * r) 64 (shaped 1 2 64 1 (regs [(1, 0x1000), (2, 64)])) :=
  ⟨by decide +kernel, fun r h => in_window _ _ _ ⟨⟨by omega, by omega⟩, by decide +kernel, by decide +kernel⟩⟩
/-- R276: row r of MLDT comes from a + r × b, and the rows at or beyond ROWS are zero. -/
theorem test_mldt : after (exec (.mldt 1 2 0 1) (spad 0x1000 [7] (spad 0x1080 [9] (shaped 1 2 64 1 (regs [(1, 0x1000), (2, 128)] (setT 1 (List.replicate 3 (5, 5)) quiet))))))
    (fun t => t.cx.t[1].rows[0] == 7 && t.cx.t[1].rows[1] == 9 && t.cx.t[1].rows[2] == 0) = true := by decide +kernel
/-- `TileReshaping`: shapes that MTRN and MCVT allow. -/
theorem witness_reshaping : mtrnOk 1 2 (shaped 1 64 2 1 (shaped 2 2 64 1)).cx.cfg = true
    ∧ cvtFmts 1 2 (.fmt .bf16) (.fmt .fp16) (shaped 1 2 64 2 (shaped 2 2 64 2)).cx.cfg = some (.bf16, .fp16)
    ∧ leaves (shaped 1 1 32 2 (shaped 2 1 32 2)) (.mcvt 1 2 (.fmt .bf16) (.fmt .fp16) (.mode .rne) false) = true
    ∧ leaves quiet (.mfmt 3 .bf16) = true ∧ leaves quiet (.mzero 5 2) = true ∧ leaves quiet (.mzeroT 5) = true := by decide +kernel
/-- R278: MTRN moves element (r, c) to (c, r), and leaves scales alone; MZERO clears rows D to D + A; R263: MFMT writes at its routing. -/
theorem test_reshaping : after (exec (.mtrn 1 2) (setT 2 [(0x0201, 0), (0x0403, 0)] (shaped 1 2 2 1 (shaped 2 2 2 1))))
      (fun t => t.cx.t[1].rows[0] == 0x0301 && t.cx.t[1].rows[1] == 0x0402) = true
    ∧ after (exec (.mtrn 1 2) (setT 1 [(7, 5)] (setT 2 (List.replicate 32 (9, 0)) (updCfg (fun g => { g with tshape := g.tshape.set 1 (BitVec.ofNat 64 0x14200001) }) (shaped 2 32 1 1)))))
      (fun t => (t.cx.t[1].rows[0]).toNat % 65536 == 0x0909 && t.cx.t[1].side[0] == 5) = true
    ∧ after (exec (.mzero 2 1) (lanes 4 [1] (lanes 3 [1] quiet))) (fun t => t.cx.v[3] == 0 && t.cx.v[4] == 1) = true
    ∧ after (exec (.mfmt 3 .bf16) quiet) (fun t => t.cx.cfg.fmt[3] == 1) = true := by decide +kernel
/-- Two BF16 rows of 32 elements, 1 and 2, and 3 and 4, with the rest zero. -/
def mmaState : State := setT 1 [(0x40003F80, 0)] (setT 2 [(0x40804040, 0)] (shaped 1 1 32 2 (shaped 2 1 32 2 (leased true))))
/-- The state in which a multiply has ended: it has issued, its clocks have passed, and its core has its next turn. -/
def multiplied (i : Instr) (s : State) : State := match exec i s with | .next t => pump { t with clock := t.clock + 2 ^ 20 } | _ => s
/-- Whether Z has some values once a multiply has ended. -/
def product (i : Instr) (s : State) (r : Fin 128) (l : List Nat) : Bool :=
  let t := multiplied i s
  t.cx.fl.pend == [] && (List.range l.length).map (laneOf 4 (t.cx.v[r]).toNat) == l
/-- `Multiply`: the allowed shapes, the lease, the running array and what is left of the lease; no session. -/
theorem witness_multiply : mmaOk 0 1 2 (.fmt .bf16) 0 mmaState.cx.cfg = true ∧ mtxFmt mmaState.cx.cfg (.fmt .bf16) = some .bf16
    ∧ MultiplyReady false (issueSlots .bf16 (shCols (shOf mmaState.cx.cfg 1))) mmaState ∧ quiet.cx.lease.session ≠ some false
    ∧ ((arrOf mmaState 0).gang && (arrOf mmaState 0).holder.isSome) = false ∧ quiet.cx.lease.session ≠ some true :=
  ⟨by decide +kernel, rfl, ⟨by decide, rfl, rfl, by decide, by decide, by decide +kernel, by decide, by decide, rfl, by decide, by decide, Or.inl rfl⟩, by decide, rfl, by decide⟩
/-- `Multiply`: the entry of an MMA that has issued, at a turn at which its clock has come. -/
theorem witness_multiply_ends : after (exec (.mma 0 1 2 (.fmt .bf16) false 0) mmaState) (fun t =>
      t.cx.fl.pend.all (fun e => e.issued && e.counted && e.queue == .matrix && canStart { t with clock := (arrOf t 0).busy } e
        && mtxFmt e.cfg (.fmt .bf16) == some .bf16)
      && t.cx.fl.pend.length == 1 && !t.broken.contains (coreUnit t.me 2)) = true := by decide +kernel
/-- R273, R162: 1 × 3 + 2 × 4 = 11 in FP32; with ACC it is added to Z; R269: without a session it is LEASE. -/
theorem test_mma : product (.mma 0 1 2 (.fmt .bf16) false 0) mmaState 0 [0x41300000] = true
    ∧ product (.mma 0 1 2 (.fmt .bf16) true 0) (lanes 0 [0x3F800000] mmaState) 0 [0x41400000] = true
    ∧ traps (exec (.mma 0 1 2 (.fmt .bf16) false 0) (updLease (fun l => { l with session := none }) mmaState)) cLEASE quiet.cx.pc = true := by decide +kernel
/-- R283: an operation that is self-checked, on an array that computes wrongly. -/
theorem witness_selfcheck : after (exec (.mma 0 1 2 (.fmt .bf16) false 0) { bank (fun c => { c with mchkPeriod := 1 }) mmaState with broken := [coreUnit 0 2] })
    (fun t => t.cx.fl.pend.all (fun e => e.issued && e.done == 2) && t.broken.contains (coreUnit t.me 2) && t.cx.task.isSome && t.cx.mchkCount == 0) = true
    ∧ (mmaOp 0 1 2 .bf16 false 0 mmaState.cx.cfg 0).blocks.length = 1 := by decide +kernel
/-- R269: MMAG within no gang session is LEASE. -/
theorem test_mmag : traps (exec (.mmag 1 2 (.fmt .bf16) false) mmaState) cLEASE quiet.cx.pc = true := by decide +kernel
/-- `DrainAndChecks`: MDRAIN of one row of 64 columns to the local window, MCHKN within 16 bits, MWAIT without a gang. -/
theorem witness_drain : drainChk 0 1 .fp32 none 0 63 (regs [(1, 0x1000)]) = none ∧ leaves (regs [(1, 0x1000)]) (.mdrain 0 1 .fp32 none .rmode false 0 63) = true
    ∧ leaves (regs [(1, 65535)]) (.mchkn 1) = true ∧ leaves quiet (.mwait true true) = true := by decide +kernel
/-- R280: MDRAIN.bf16 rounds Z's FP32 lanes and writes them in order; R282: MCHKN clears COUNT. -/
theorem test_mdrain : after (exec (.mdrain 0 1 .bf16 none (.mode .rne) false 0 63) (lanes 0 [0x3F800000, 0x3F818000] (regs [(1, 0x1000)])))
      (fun t => t.mem.raw (spadBase 0 + 0x1000) 6 == [0x80, 0x3F, 0x82, 0x3F, 0, 0]) = true
    ∧ after (exec (.mchkn 1) (regs [(1, 5)] (bank fun c => { c with mchkCount := 3 }))) (fun t => t.cx.mchkPeriod == 5 && t.cx.mchkCount == 0) = true := by decide +kernel
/-- A constants line (KIND 1) one line after the placed one, with the digest of 64 zero bytes at words 2 and 3. -/
def sealed : State := regs [(1, 0x1000), (2, 64)] (bytes 0x200080 (bytesOf 16 (2 ^ 60 + (sealDigest (List.replicate 64 0)).toNat * 2 ^ 64)))
/-- `DrainAndChecks`, MKAT: a range in the window, a constants line, and a digest that matches; R284: then it completes. -/
theorem witness_mkat : mkatChk 1 2 sealed = none ∧ gives (fetchLine 0x200080 sealed) (fun l _ => lineKind l == 1) = true
    ∧ leaves sealed (.mkat 1 2 1 2) = true := by decide +kernel
/-- A gang whose other members supply no rows (R270: the second halves may be empty), on an array of density 8. -/
def gangState : State :=
  let s := updLease (fun l => { l with session := some true, gang := true, holder := true, shapes := mmaState.cx.cfg.tshape }) mmaState
  { s with arrays := s.arrays.set 0 { holder := some 0, gang := true, density := 8 } }
/-- `Multiply`, MMAG: what it needs holds; R274: the holder's quadrant is the product of its own halves. -/
theorem witness_mmag : gangState.cx.lease.holder = true ∧ gangOk .bf16 (gangHalf gangState 0 0 1).1 (gangHalf gangState 0 2 1).1
      (gangHalf gangState 0 0 2).1 (gangHalf gangState 0 1 2).1 = true ∧ gangState.cx.lease.session = some true ∧ gangState.cx.lease.mmas ≠ 0
    ∧ product (.mmag 1 2 (.fmt .bf16) false) gangState 0 [0x41300000] = true := by decide +kernel

/-! ## The copy queue -/

/-- `CopyMoves`: moves within the local window. -/
theorem witness_copies : leaves (regs [(1, 0x2000), (2, 0x1000), (3, 100)]) (.copy 1 2 3) = true
    ∧ leaves (regs [(1, 0x2000), (2, 0x1000), (3, 0x0000004000000040)]) (.copy2 1 2 3 16 1) = true
    ∧ leaves (regs [(1, 0x2000), (2, 0x1000), (3, 0x3000)]) (.gather 1 2 3 none 2 4) = true
    ∧ leaves (regs [(1, 0x2000), (2, 0x1000), (3, 0x3000)]) (.scatter 1 2 3 2 4) = true
    ∧ leaves (regs [(1, 0x2000), (2, 1), (3, 768)]) (.sout 1 2 3 4) = true ∧ leaves quiet (.pref 1 2) = true := by decide +kernel
/-- `CopyMovesComplete`, `IndexedMovesComplete`: ranges in the task's part of the window, and an index array apart from what is written, with
an element that is named and one that is not. -/
theorem witness_moves_complete : InWindow 0x1000 100 quiet ∧ InWindow 0x2000 100 quiet ∧ InWindow 0x3000 768 quiet
    ∧ copy2Strides 0x0000004000000050 = (64, 80) ∧ 0x1000 + 2 * 5 ≤ 0x3000
    ∧ (let s := spad 0x3000 [5, 0, 0, 0, 255, 255, 255, 255] quiet
      natOf (windowRaw s 0x3000 4) = 5 ∧ natOf (windowRaw s 0x3004 4) = 0xFFFFFFFF ∧ (elemAt 0x2000 2 5).toNat = 0x200A) := by
  refine ⟨in_window _ _ _ ?_, in_window _ _ _ ?_, in_window _ _ _ ?_, ?_⟩ <;> decide +kernel
/-- `CopyMoves`, one beat: its two ranges check, and nothing holds the store. -/
theorem witness_beat : gives (beatAccess 5 0x2000 .wr 0x2000 64 quiet) (fun g t => !storeHeld 1 g t &&
      gives (beatAccess 5 0x1000 .rd 0x1000 64 t) (fun h u => gives (readSegs 5 h u) fun bs _ => bs.length == 64)) = true := by decide +kernel
/-- R298: COPY moves b's bytes to a; R300: GATHER takes element base + index × size; R303: SOUT writes rows of Z. -/
theorem test_copies : after (exec (.copy 1 2 3) (spad 0x1000 [1, 2, 3, 4] (regs [(1, 0x2001), (2, 0x1001), (3, 2)])))
      (fun t => t.mem.raw (spadBase 0 + 0x2000) 4 == [0, 2, 3, 0]) = true
    ∧ after (exec (.gather 1 2 3 none 0 2) (spad 0x3000 [2, 0, 0, 0, 1] (spad 0x1000 [10, 11, 12] (regs [(1, 0x2000), (2, 0x1000), (3, 0x3000)]))))
      (fun t => t.mem.raw (spadBase 0 + 0x2000) 3 == [12, 11, 0]) = true
    ∧ after (exec (.sout 1 2 3 4) (lanes 4 [0x01020304] (regs [(1, 0x2000), (2, 1), (3, 768)]))) (fun t => t.mem.raw (spadBase 0 + 0x2000) 5 == [4, 3, 2, 1, 0]) = true := by
  decide +kernel
/-- `BeatsOfAMove`, R83: 100 bytes at 0x30 are beats of 16, 64 and 20 bytes. -/
theorem test_beats : (0x30 : W64).toNat + 100 ≤ 2 ^ 64 ∧ (beatParts 0x30 100).map (·.2) = [16, 64, 20] := by decide +kernel
/-- `StreamBinding`: SBIND of a free register, SUNBIND, and SBIND of a bound one, which is ILLEGAL (R301). -/
theorem witness_streams : sbindOk 2 .scalar 3 quiet = true ∧ sbindOk 2 .result 3 quiet = true ∧ leaves quiet (.sbind 1 2 3 .scalar 3) = true
    ∧ leaves quiet (.sunbind 3) = true ∧ fed.cx.streams[(3 : Fin 8)].isSome = true
    ∧ canStart (placedWord .copy (.sbind 1 2 3 .scalar 3) (bindStream 1 2 3 .scalar 3) quiet) (entryOf .copy (.sbind 1 2 3 .scalar 3) quiet) = true
    ∧ traps (exec (.sbind 1 2 3 .scalar 3) fed) cILLEGAL quiet.cx.pc = true := by decide +kernel
/-- A packet of ADD on two INT32 elements at 0x1000, with its source at 0x1100, for a target at 0x210000. -/
def opState : State := spad 0x1000 [1, 0, 0, 0, 0, 0, 0x90, 1] (spad 0x1100 [1, 0, 0, 0, 2] (bytes 0x210000 [5, 0, 0, 0, 0xFE, 0xFF, 0xFF, 0xFF]
  (regs [(1, 0x210000), (2, 0x1000), (3, 0x1100)])))
/-- `OperationPackets`: a packet of a task that is not replayable, aligned and in its part; R305: each element is added modulo 2^32. -/
theorem witness_packet : replayable opState = false ∧ (sget opState.cx 2).toNat % 16 = 0 ∧ inPart (sget opState.cx 2) 16 opState = none
    ∧ leaves opState (.opk 1 2 3 none) = true
    ∧ after (exec (.opk 1 2 3 none) opState) (fun t => t.mem.raw 0x210000 8 == [6, 0, 0, 0, 0, 0, 0, 0]) = true
    ∧ (∃ t, unitRead opState.mem none 0x210000 8 = .inl t) ∧ (⟨1, .int32, 2, 0⟩ : OpPacket).f.isI = true := by
  refine ⟨by decide +kernel, by decide +kernel, by decide +kernel, by decide +kernel, by decide +kernel, ⟨0xFFFFFFFE00000005, by decide +kernel⟩, by decide⟩

/-- `OperationPacketCompletes`: the packet and its source are read, the target checks, and the unit answers. -/
theorem witness_packet_completes : gives (access 5 .copy .rd 0x1000 16 (placedWord .copy (.opk 1 2 3 none) id opState)) (fun gs p1 =>
      gives (readSegs 5 gs p1) fun bs p2 => opPacket (BitVec.ofNat 64 (natOf bs)) (BitVec.ofNat 64 (natOf bs / 2 ^ 64)) == some ⟨1, .int32, 2, 0⟩
      && gives (access 5 .atomic .rw 0x210000 8 p2) fun g p3 => g.all (·.ty ≤ 2) && g.length == 1
      && gives (opSource ⟨1, .int32, 2, 0⟩ 0x1100 p3) fun src p4 => canDeliver (entryOf .copy (.opk 1 2 3 none) opState) p4
      && (unitOpk ⟨1, .int32, 2, 0⟩ 0x210000 src none p4.mem).1 == .inl (bytesOf 8 5)) = true := by decide +kernel

/-! ## Cast groups and reductions -/

/-- A member of group 5 that has applied 3, on a plane that is up, with a result stream. -/
def joined : State :=
  let s := regs [(1, 5), (2, 3), (3, 0x1000)] (bank fun c => { c with streams := c.streams.set 0 (some { id := 1, kind := .result, addr := 0, count := 0, stride := 0 }) })
  { s with fab := { s.fab with st := s.fab.st.set 0 { width := 3, dorvia := true, tx := some 0, rx := some 0 }
                               members := [{ g := 5, base := 0x210000, key := none, size := 4096, applied := 3, joining := false, first := 1 }] } }
/-- `CastWords`: a member without a gap, a group number, a plane; a store within the window that is not held; a number that was applied. -/
theorem witness_casts : replayable joined = false ∧ groupOk 1 joined = true ∧ (memberOf joined 5).isSome = true ∧ anyPlane joined = true
    ∧ frelHolds 9 joined = false ∧ unstamped joined 5 = false ∧ (memberOf joined 6).isNone = true ∧ seqLe 3 3 = true
    ∧ leaves joined (.cleave 1) = true ∧ leaves (regs [(1, 6)] joined) (.cleave 1) = true ∧ leaves joined (.cwait 1 2) = true
    ∧ leaves (regs [(2, 0)] joined) (.cwait 1 2) = true ∧ leaves (regs [(2, 0x100000010)] joined) (.cstore 1 2 3 none) = true
    ∧ (joined.cx.streams[(0 : Fin 8)]).any (·.kind == .result) = true := by decide +kernel
/-- R309: the store leaves with its offset and its bytes; R311: CWAIT drops the snapshot; R308: CLEAVE ends the membership. -/
theorem test_casts : after (exec (.cstore 1 2 3 none) (spad 0x1000 [1, 2, 3, 4, 5, 6, 7, 8, 9] (regs [(2, 0x10)] joined)))
      (fun t => t.fab.sends.map (fun x => (x.item.off, x.item.data)) == [(0x10, [1, 2, 3, 4, 5, 6, 7, 8])]) = true
    ∧ after (exec (.cleave 1) joined) (fun t => t.fab.members == []) = true := by decide +kernel
/-- `ReductionWords`: a tag of 16 bits, a slot with an outcome, no stores under way; a replayable task, for which FRED is ILLEGAL. -/
theorem witness_reductions : bits (sget joined.cx 2) 63 16 = 0 ∧ after (exec (.fred 1 2 3 .add false false) joined) (fun t => t.due.length == 1 && t.fab.freds.length == 1) = true
    ∧ leaves { joined with fab := { joined.fab with freds := [⟨0, ⟨5, 3, 0, .add, false, false, 0⟩, false, true, false, 0, some ⟨0, false, 2, 7, 0⟩⟩] } } (.fredw 1 2 0 0) = true
    ∧ leaves quiet .frel = true ∧ storesBefore (entryOf .copy .frel quiet) quiet = false ∧ carriedPlanes quiet = []
    ∧ replayable (replays joined) = true ∧ traps (exec (.fred 1 2 3 .add false false) (replays joined)) cILLEGAL quiet.cx.pc = true := by decide +kernel

/-! ## CJOIN reads its page twice: a cached translation that may have been evicted gives the same page again -/

/-- The state in which CJOIN of group 6 with a window of 4,096 bytes is placed. -/
def joins : State := placedWord .copy (.cjoin 1 2 3 0) id (regs [(1, 6), (2, 0x210000), (3, 4096)] joined)
/-- The translation of the placed page, as a cache holds it. -/
def placedTlb (c : Cache) : TlbEnt := { asid := 0, page := 0x20, pages := 32, pte := BitVec.ofNat 64 (0x20 * 2 ^ 10 + 63), at_ := c }
/-- The state after the page's first access: both caches and the walk cache hold what the walk read. -/
def joinsAgain : State := { joins with
  xl := { joins.xl with tlb := [placedTlb (.quad 0), placedTlb (.tlb 0 3)], ptrs := [⟨0, 0, 2, 0, 0x20000⟩, ⟨0, 0, 3, 0, 0x10000⟩] }
  free := joins.free + 5 }
/-- The pointers of the page's walk that the walk cache still holds. -/
def pointers (a b : Bool) (lvl : Nat) : Option Nat :=
  if lvl = 3 then (if a then none else some 0x10000) else if lvl = 2 then (if b then none else some 0x20000) else none
theorem cjoin_first_page : page (cachesOf 0 5) 0 joins 0 0x210000 = (.leaf (placedTlb (.quad 0)).pte 0x210000, joinsAgain) := by
  have hc : cachedPtr 0 joins 0 0x210000 = fun _ => none := by funext; rfl
  have hl : cachedLeaf (cachesOf 0 5) joins 0 0x210000 = none := by rfl
  have hw : walkPageBy (fun _ => none) joins 0 0x210000
    = (.leaf (placedTlb (.quad 0)).pte 0x210000, some (placedTlb (.tlb 0 0)), [(3, 0x10000), (2, 0x20000)]) := by decide +kernel
  have hx : fillCaches (cachesOf 0 5) 0 0 0x210000 (some (placedTlb (.tlb 0 0))) [(3, 0x10000), (2, 0x20000)] joins.xl = joinsAgain.xl := by
    decide +kernel
  unfold page
  rw [if_neg (by decide), if_neg (by decide +kernel), hl, hc, hw]
  dsimp only
  rw [hx]
  rfl
/-- Whichever of the cached entries have been evicted, the page is the same again. -/
theorem cjoin_second_page : page (cachesOf 0 5) 0 joinsAgain 0 0x210000
    = (.leaf (placedTlb (.quad 0)).pte 0x210000, { joinsAgain with free := joinsAgain.free + 5 }) := by
  have hw : ∀ a b : Bool, walkPageBy (pointers a b) joinsAgain 0 0x210000 = (.leaf (placedTlb (.quad 0)).pte 0x210000,
      some (placedTlb (.tlb 0 0)), (if a then [(3, 0x10000)] else []) ++ if b then [(2, 0x20000)] else []) := by decide +kernel
  have hx : ∀ a b : Bool, fillCaches (cachesOf 0 5) 0 0 0x210000 (some (placedTlb (.tlb 0 0)))
      ((if a then [(3, 0x10000)] else []) ++ if b then [(2, 0x20000)] else []) joinsAgain.xl = joinsAgain.xl := by decide +kernel
  have h3 : joinsAgain.xl.ptrs = [⟨0, 0, 2, 0, 0x20000⟩, ⟨0, 0, 3, 0, 0x10000⟩] := rfl
  have hc : ∃ a b, cachedPtr 0 joinsAgain 0 0x210000 = pointers a b := by
    refine ⟨Config.tlbEvicted (joinsAgain.free + 1 + 3), Config.tlbEvicted (joinsAgain.free + 1 + 2), ?_⟩
    funext l
    unfold cachedPtr pointers
    rw [h3]
    by_cases l3 : l = 3
    · subst l3; rfl
    · by_cases l2 : l = 2
      · subst l2; rfl
      · simp [List.find?, l2, l3, beq_false_of_ne (Ne.symm l2), beq_false_of_ne (Ne.symm l3)]
  have hl : ∃ c, c ∈ [none, some (placedTlb (.tlb 0 3)), some (placedTlb (.quad 0))] ∧ cachedLeaf (cachesOf 0 5) joinsAgain 0 0x210000 = c := by
    refine ⟨_, ?_, rfl⟩
    have e1 : joinsAgain.xl.tlb.find? (fun e : TlbEnt => e.at_ == Cache.tlb 0 3 && e.covers 0 0x210000) = some (placedTlb (.tlb 0 3)) := by decide +kernel
    have e2 : joinsAgain.xl.tlb.find? (fun e : TlbEnt => e.at_ == Cache.quad 0 && e.covers 0 0x210000) = some (placedTlb (.quad 0)) := by decide +kernel
    unfold cachedLeaf
    simp only [cachesOf, engineOf, Nat.zero_div, Nat.reduceEqDiff, Nat.reduceLeDiff, Nat.reduceSub, if_false, List.zipIdx_cons, List.zipIdx_nil,
      List.findSome?_cons, List.findSome?_nil, e1, e2]
    split_ifs <;> simp
  obtain ⟨a, b, hc⟩ := hc
  obtain ⟨c, hm, hl⟩ := hl
  have hq : ∀ q, fillCaches (cachesOf 0 5) 0 0 0x210000 (some (placedTlb q)) [] joinsAgain.xl = joinsAgain.xl := fun q => by cases q <;> rfl
  unfold page
  rw [if_neg (by decide), if_neg (by decide +kernel), hl, hc, hw]
  simp only [List.mem_cons, List.not_mem_nil, or_false] at hm
  obtain rfl | rfl | rfl := hm
  · dsimp only; rw [hx]; rfl
  · dsimp only; rw [hq]; rfl
  · dsimp only; rw [hq]; rfl
theorem cjoin_first_access : access 5 .cast .rw 0x210000 1 joins
    = .ok [⟨0, false, 0, 0x210000, 1, none, none, 0x210000, false⟩] joinsAgain := by
  have hs : slices 0x210000 1 = [(0x210000, 1)] := by decide
  have hp : joins.cx.pr.asid = 0 := rfl
  unfold access checkAcc check
  rw [hs, hp]
  simp only [List.foldl_cons, List.foldl_nil, pageAt]
  rw [if_neg (by decide), if_neg (by decide), if_neg (by decide), show joins.me = 0 from rfl, cjoin_first_page]
  rfl
theorem cjoin_second_access : access 5 .cast .rw 0x210000 4096 joinsAgain
    = .ok [⟨0, false, 0, 0x210000, 4096, none, none, 0x210000, false⟩] { joinsAgain with free := joinsAgain.free + 5 } := by
  have hs : slices 0x210000 4096 = [(0x210000, 4096)] := by decide
  have hp : joinsAgain.cx.pr.asid = 0 := rfl
  unfold access checkAcc check
  rw [hs, hp]
  simp only [List.foldl_cons, List.foldl_nil, pageAt]
  rw [if_neg (by decide), if_neg (by decide), if_neg (by decide), show joinsAgain.me = 0 from rfl, cjoin_second_page]
  rfl
/-- An attempt that completes with nothing left over. -/
theorem of_done (r : QAct) (h : (match r with | (.done _, 0) => true | _ => false) = true) : ∃ t, r = (.done t, 0) := by
  split at h
  · exact ⟨_, rfl⟩
  · cases h
/-- `CastWords`, CJOIN: it is routed, and its attempt delivers the switch's answer and completes. -/
theorem witness_cjoin : (∃ t, bodyCjoin 1 2 3 (entryOf .copy (.cjoin 1 2 3 0) (regs [(1, 6), (2, 0x210000), (3, 4096)] joined)) joins = (.done t, 0))
    ∧ replayable joined = false ∧ (joined.cx.streams[(0 : Fin 8)]).any (·.kind == .result) = true := by
  refine ⟨?_, by decide +kernel, by decide +kernel⟩
  unfold bodyCjoin
  rw [show (qs (entryOf .copy (.cjoin 1 2 3 0) (regs [(1, 6), (2, 0x210000), (3, 4096)] joined)) 2).toNat = 0x210000 by decide +kernel,
    show (qs (entryOf .copy (.cjoin 1 2 3 0) (regs [(1, 6), (2, 0x210000), (3, 4096)] joined)) 3).toNat = 4096 by decide +kernel,
    cjoin_first_access]
  dsimp only
  rw [if_neg (by decide +kernel), cjoin_second_access]
  exact of_done _ (by decide +kernel)
/-- `JoinCompletes`: a window within its page, room for the answer, a plane, and a group that nobody has, or one that others have. -/
theorem witness_join_completes : 0x210000 + 4096 ≤ (pageSpan joinsAgain 0x210000).2
    ∧ canDeliver (entryOf .copy (.cjoin 1 2 3 0) (regs [(1, 6), (2, 0x210000), (3, 4096)] joined)) joins = true ∧ anyPlane joins = true
    ∧ memberOf joins 6 = none ∧ swGroup joins 6 = none
    ∧ (swGroup { joins with fab := { joins.fab with groups := [{ g := 6, members := [9], next := 44, plane := 0, size := 4096 }] } } 6).map
      (fun w => (w.frozen, w.size)) = some (false, 4096) := by decide +kernel

/-! ## The gauge stage -/

/-- K = 2 hyperplanes, all of them +1 as at a task's start (R287), and tile 1 with two FP32 rows: (1, 0) and (−1, 0). -/
def gauged : State := setT 1 [(0x3F800000, 0), (0xBF800000, 0)] (shaped 1 2 32 3 (regs [(1, 0x1000)] (updCfg (fun c => { c with gcfg := c.gcfg.set 0 2 }) quiet)))
/-- `GaugeConfiguration`: values that R285 admits, and values that it refuses. -/
theorem witness_gauge_configuration : (gcfgWord 4 3 0 0).isSome = true ∧ gcfgWord 4 4 0 0 = none ∧ gcfgWord 17 0 0 0 = none ∧ gK gauged.cx.cfg ≠ 0 := by decide +kernel
/-- R286: GCFG keeps LIVE; a bucket width that is not below K is ILLEGAL. -/
theorem test_gcfg : after (exec (.gcfg 4 3 1) (updCfg (fun c => { c with gcfg := c.gcfg.set 0 0x7001 }) quiet)) (fun t => t.cx.cfg.gcfg[0] == 0x107304) = true
    ∧ traps (exec (.gcfg 4 4 1) quiet) cILLEGAL quiet.cx.pc = true := by decide +kernel
/-- `GaugeWords`: K not 0, a tile of the format, equal shapes, tables and maps that name rows of the tile; K 0. -/
theorem witness_gauge_words : gaugeFits 1 gauged = true ∧ shOf (shaped 2 2 32 3 gauged).cx.cfg 2 = shOf (shaped 2 2 32 3 gauged).cx.cfg 1
    ∧ packOk 2 (lanes32 0) [(0, 0), (1, 0)] = true ∧ leaves gauged (.grep 10 9 1 .first) = true ∧ leaves gauged (.gplane 1 2) = true
    ∧ (liveLanes (packLanes 4 [1, 0])).all (fun m => m.1 ≤ 191) = true
    ∧ leaves (lanes 5 ([1, 0] ++ List.replicate 190 0x80000000) gauged) (.gscat 20 30 5) = true
    ∧ leaves (lanes 5 ([1, 0] ++ List.replicate 190 0x80000000) gauged) (.ggsum 20 30 5) = true ∧ gK quiet.cx.cfg = 0 := by decide +kernel
/-- R288: with every plane +1 the row (1, 0) has code 3 and (−1, 0) code 0; lanes from ROWS up are DEAD. -/
theorem test_ghash : gets (.ghash 9 1) gauged 9 [3, 0, 0x80000000] = true := by decide +kernel
/-- R289, R290: the two codes are two buckets of one row each, both rows representatives. -/
theorem test_grep : gets (.grep 10 9 1 .first) (lanes 9 ([3, 0] ++ List.replicate 190 0x80000000) gauged) 11 [0x00010000, 0x00010001, 0] = true
    ∧ gets (.grep 10 9 1 .first) (lanes 9 ([3, 0] ++ List.replicate 190 0x80000000) gauged) 10 [0x20000000, 0x20000001, 0x80000000] = true := by decide +kernel
/-- R291: a count of 0 writes a zero row, and under FIRST the representative is copied; R292: GSCAT copies a bucket's row to its member. -/
theorem test_gpack : after (exec (.gpack 2 1 11) (lanes 10 ([0] ++ List.replicate 191 0x80000000) (lanes 11 [0x00010001, 0] (shaped 2 2 32 3 gauged))))
      (fun t => t.cx.t[2].rows[0] == 0xBF800000 && t.cx.t[2].rows[1] == 0) = true
    ∧ after (exec (.gscat 20 30 5) (lanes 31 [7] (lanes 5 ([1] ++ List.replicate 191 0x80000000) gauged))) (fun t => laneOf 4 (t.cx.v[20]).toNat 0 == 7) = true := by decide +kernel
/-- `GaugeMaps`: an aligned address in the window, and one that is not. -/
theorem witness_gauge_maps : leaves gauged (.gmap 1 4) = true ∧ leaves gauged (.glmap 1 4) = true ∧ (sget (regs [(1, 0x1020)]).cx 1).toNat % 64 ≠ 0 := by decide +kernel

/-- `GaugeMapsComplete`: the two rows in the task's part of the window. -/
theorem witness_gauge_maps_complete : InWindow 0x1000 1536 gauged := in_window _ _ _ (by decide +kernel)

/-! ## The task interface -/

/-- A packet of a task whose entry is the placed word. -/
def packet : List W64 := [0x0000080000000101, 0, 0x200008, 0]
/-- Such a packet in the window, and a record of one loop of two iterations (R34). -/
def packets : State := regs [(2, 0x100)] (spad 0x100 (bytesOf 32 (0x0000080000000101 + 0x200008 * 2 ^ 128)))
def nestPacket : List W64 := [0x0000080000000203, 0, 0x200008, 0, 0x100, 2, 0, 0, 0, 0, 0, 0]
/-- Where no slot is in use, a reservation gives a handle (which one is free, log 9). -/
theorem reserves_somewhere (s : State) (h : s.dist.slots = []) (o : Option W64) : ∃ x t, reserveSlot o s = (some x, t) := by
  unfold reserveSlot
  rw [h]
  exact ⟨_, _, rfl⟩
/-- A slot whose task is in a state, with its handle in S1. -/
def successor (st : SlotSt) : State :=
  { regs [(1, 0x7000001)] with dist := { quiet.dist with slots := [{ num := 7, gen := 1, st := st, counter := 2 }] } }
/-- `SpawnAndSignal`: a first run, a packet that breaks no rule, of a task and of a loop record, a free slot; a recovery run; a slot that
counts the signal. -/
theorem witness_spawn : gives (readPacket (sget packets.cx 2) packets) (fun p _ => p == packet) = true ∧ (packetRule packets 0 packet).1 = some none
    ∧ pktHandle packet = 0 ∧ pktKind packet = 1 ∧ (packetRule packets 0 nestPacket).1 = some none ∧ pktKind nestPacket = 2 ∧ packets.dist.slots = []
    ∧ unpublished true packets = none ∧ (asTask (fun t => { t with kind := .recovery })).cx.task.isSome = true
    ∧ (signalHere 0x7000001 (successor .waiting)).isSome = true := by
  decide +kernel
/-- R319: one signal lowers the counter; R49: in a recovery run a spawn gives 0. -/
theorem test_signal : after (exec (.tsig 1) (successor .waiting))
      (fun t => t.dist.slots.map (·.counter) == [1]) = true
    ∧ after (exec (.tspawn 1 2 false) (regs [(1, 5)] (asTask (fun t => { t with kind := .recovery })))) (fun t => t.cx.s[1] == 0) = true := by decide +kernel

/-- A version of 64 bytes in the commons, in a state. -/
def version (st : VState) (h : W64 := 0x1000001) : VRec :=
  { index := 1, tile := h, st := st, size := 64, place := ⟨.commons, 0, 0x20000000000, 0⟩ }
/-- A task whose shard holds that record, with the version's ID in S1 and its ASID able to read tiles (R420). -/
def withVersion (st : VState) (f : TaskRun → TaskRun := id) : State :=
  let s := asTask f (regs [(1, 0x1000001), (2, 0x1000000), (3, 64)])
  { s with lin := { s.lin with recs := [version st], versions := [(0x1000000, 1)], poolSize := 8 }
           xl := { s.xl with asids := s.xl.asids.map fun e => { e with twen := true } } }
/-- The run has made the version. -/
def made (t : TaskRun) : TaskRun := { t with acts := { t.acts with allocs := [0x1000001] } }
/-- The run has declared it. -/
def declared (t : TaskRun) : TaskRun := { t with decl := [0x1000001] }
/-- The run is replayable. -/
def canReplay (t : TaskRun) : TaskRun := { t with packet := 0x0000080000001101 :: t.packet.drop 1 }
/-- Where nothing is stored, storage is found (which place is free, log 8). -/
theorem stores_somewhere : ∃ pl t, allocStore quiet .hbm 0 64 = (some pl, t) := by
  have hd : dieInService quiet 0 = true := by decide +kernel
  have hl : storeRange quiet .hbm = (0, 120 * gib4) := by decide +kernel
  have hp : quiet.mem.poison = [] := by decide +kernel
  have hg : quiet.mem.gone = [] := by decide +kernel
  have hu : usedStore quiet = [] := by decide +kernel
  have hf : (storeFree quiet 0 (120 * gib4) 0 64 && !quarantined quiet (unitId 0 31 (Config.stackOfDie 0).val 11)) = true := by
    generalize Config.stackOfDie 0 = x
    revert x
    decide +kernel
  unfold allocStore
  rw [if_neg (by rw [hd]; decide), hl]
  dsimp only
  rw [hu, hp, hg]
  split
  · exact ⟨_, _, rfl⟩
  · next h =>
    refine absurd hf (List.find?_eq_none.mp h 0 (List.mem_append_left _ (List.mem_append_left _ ?_)))
    exact List.mem_cons_of_mem _ (List.mem_cons_self ..)
/-- `Versions`: a tile ID without a version, a size, a record's place; a declared version; a SEALED one that is not; an own unsealed one. -/
theorem witness_versions : bits (0x2000000 : W64) 23 0 = 0 ∧ servesShard quiet 0x2000000 = true ∧ lastVersion quiet 0x2000000 = 0
    ∧ (freeIndices quiet 1).isSome = true ∧ (actsOf quiet (placedTask quiet)).allocs[0]? = none ∧ shadowed (placedTask quiet) = false
    ∧ partnerAsks (placedTask quiet) quiet = false
    ∧ recOf (withVersion .sealed) 0x1000001 = some (version .sealed) ∧ (freeIndices (withVersion .sealed) (linkCost [])).isSome = true
    ∧ unlisted (withVersion .sealed) (placedTask quiet) 0x1000001 = [] ∧ ownPending (placedTask quiet) 0x1000001 (withVersion .sealed) = false
    ∧ VState.avail .sealed = true ∧ recOf (withVersion .pending made) 0x1000001 = some (version .pending)
    ∧ writtenAt (made (placedTask quiet)) 0x1000001 (withVersion .pending made) = some ((version .pending).place, 64)
    ∧ writtenAt (placedTask quiet) 0x1000001 (withVersion .sealed) = none
    ∧ (bindOf (withVersion .sealed).xl 0).map (·.twen) = some true ∧ replayPkt (canReplay (placedTask quiet)).packet = true := by decide +kernel
/-- R321, R322: TDECL notes a version; TREADV gives the address of a declared SEALED version in the tile window, and in a replayable task
an undeclared one is SEAL. -/
theorem test_versions : after (exec (.tdecl 1) (withVersion .sealed)) (fun t => (t.cx.task.map (·.decl)) == some [0x1000001]) = true
    ∧ after (exec (.treadv 4 1) (withVersion .sealed declared)) (fun t => t.cx.s[4] == tileVa (version .sealed).place) = true
    ∧ after (exec (.treadv 4 1) (withVersion .sealed canReplay)) (fun t => (t.cx.fl.drain.map (·.cause)) == some cSEAL) = true := by decide +kernel
/-- `Seals`: an own PENDING version with its bytes; a seal that waits for its replica, which has come; versions that TREPL and TPIN meet. -/
theorem witness_seals : gives (placeBytes (version .pending).place 64 (withVersion .pending made)) (fun bs t => bs.length == 64 && servesShard t 0x1000001) = true
    ∧ (made (placedTask quiet)).pair = none ∧ ownPending (made (placedTask quiet)) 0x1000001 (withVersion .pending made) = true
    ∧ unpublished true (withVersion .pending made) = none ∧ (withVersion .pending made).cx.fl.skid = 0
    ∧ ((withVersion .replica fun t => { made t with sealing := some 0x1000001 }).cx.task.map (·.sealing)) = some (some 0x1000001)
    ∧ (recOf (withVersion .replica) 0x1000001).map (·.st) = some .replica
    ∧ (version .sealed).hold = 1 ∧ (0 : Nat) < 1 ∧ (withVersion .sealed).cx.fl.wait = .none := by decide +kernel
/-- R323: TSEAL of a replayable task makes its version SEALED with the digest of its bytes; of another it is being replicated, and the word
waits for the replica (R48). -/
theorem test_seal : after (exec (.tseal 1) (withVersion .pending fun t => made (canReplay t))) (fun t =>
      t.lin.recs.map (fun r => (r.st, r.digest)) == [(.sealed, sealDigest (List.replicate 64 0))] && t.cx.retired == 1) = true
    ∧ after (exec (.tseal 1) (withVersion .pending made)) (fun t => t.lin.recs.map (·.st) == [.replicating] && t.cx.fl.wait == .other
      && t.cx.retired == 0) = true := by decide +kernel
/-- R326: TPIN adds a hold, and TPIN.rel with none faults; R325: TREPL of a PENDING version is SEAL. -/
theorem test_pin : after (exec (.tpin 1 false) (withVersion .sealed)) (fun t => t.lin.recs.map (·.hold) == [2]) = true
    ∧ after (exec (.trepl 1 false) (withVersion .pending)) (fun t => (t.cx.fl.drain.map (·.cause)) == some cSEAL) = true := by decide +kernel
/-- `StatusAndLeaving`: a handle of this device, no better task, nothing pending, no other member; a task without successors, and one whose
signal is counted; a PENDING version. -/
theorem witness_leaving : bits (0x7000001 : W64) 63 54 = 0 ∧ betterTask quiet 0 0 = false ∧ pendingOf quiet (placedTask quiet) = []
    ∧ (placedTask quiet).exiting = none ∧ (placedTask quiet).kind ≠ .recovery ∧ unpublished true quiet = none ∧ partnerLoc quiet (placedTask quiet) = none
    ∧ (if (placedTask quiet).idx.isEmpty then pktSuccs (placedTask quiet).packet else []) = []
    ∧ (match signalRest (placedTask quiet) [0x7000001] (successor .waiting) with | .left _ => true | _ => false) = true
    ∧ (signalHere 0x7000001 (successor .waiting)).isSome = true
    ∧ (pendingOf (withVersion .pending made) (made (placedTask quiet))).isEmpty = false := by decide +kernel
/-- R329: TEXIT with a PENDING version is SEAL. -/
theorem test_exit : after (exec .texit (withVersion .pending made)) (fun t => (t.cx.fl.drain.map (·.cause)) == some cSEAL) = true
    ∧ after (exec (.tstat 4 1 false) (withVersion .sealed)) (fun t => t.cx.s[4] == ctrlWord t (version .sealed)) = true := by decide +kernel

/-! ## The system words -/

/-- User mode. -/
def user : State := bank fun c => { c with pr := { c.pr with priv := false } }
/-- `SystemGuards`: user mode, and privileged mode in a replayable task. -/
theorem witness_system_guards : user.cx.pr.priv = false ∧ (replays).cx.pr.priv = true ∧ replayable (replays) = true := by decide +kernel
/-- R169, R355: MCACK is PRIVILEGE in user mode and ILLEGAL in a replayable task. -/
theorem test_system_guards : traps (exec .mcack user) cPRIVILEGE quiet.cx.pc = true ∧ traps (exec .mcack (replays)) cILLEGAL quiet.cx.pc = true := by decide +kernel
/-- `PrivilegedRegisters`: a privileged number, a user one, and one that is not assigned. -/
theorem witness_privileged_registers : (writePriv 0x83 1 quiet).isSome = true ∧ (readPriv 0x83 quiet).isSome = true ∧ regPending 2 quiet = false
    ∧ quiet.cx.pr.priv = true ∧ replayable quiet = false ∧ 0x90 ≤ (0x90 : BitVec 8).toNat := by decide +kernel
/-- R356: SMOVC writes TSCR0, SMOVCR reads TVEC, and a number that no rule assigns is ILLEGAL. -/
theorem test_privileged_registers : after (exec (.smovc 1 0x88) (regs [(1, 9)])) (fun t => t.cx.pr.tscr0 == 9) = true
    ∧ traps (exec (.smovcr 1 0x90) quiet) cILLEGAL quiet.cx.pc = true := by decide +kernel

/-- A device with a parity partition whose HBM-P view is mapped by one page of 512 MiB at 0x2000_0000 (R77, R409). -/
def imaged : State :=
  let s := bytes 0x10008 (bytesOf 8 (2 ^ 61 + 2 ^ 24 * 2 ^ 10 + 63)) (regs [(2, 0x20000000)])
  { s with mem := { s.mem with partU := 1 } }
/-- Its translation, as a cache holds it, and the translations and pointers that the caches hold after the first access. -/
def imageTlb (c : Cache) : TlbEnt := { asid := 0, page := 0x2000, pages := 8192, pte := BitVec.ofNat 64 (2 ^ 61 + 2 ^ 24 * 2 ^ 10 + 63), at_ := c }
def imageXl : Xlat := { imaged.xl with tlb := [imageTlb (.quad 0), imageTlb (.tlb 0 0)], ptrs := [⟨0, 0, 3, 0, 0x10000⟩] }
def imagedAgain : State := { imaged with xl := imageXl }
/-- The pages of the slot at 0x2000_0000. -/
def slotPage (i : Fin 64) : Nat := 0x20000000 + 65536 * i.val
def slotLeaf (va : Nat) : Page := .leaf (imageTlb (.quad 0)).pte (leafBase (imageTlb (.quad 0)).pte va 8192)
/-- The first page is walked and cached. -/
theorem image_first (s : State) (hx : s.xl = imaged.xl) (hm : s.mem = imaged.mem) (hd : s.dev = imaged.dev) :
    page (cachesOf 0 0) 0 s 0 0x20000000 = (slotLeaf 0x20000000, { s with xl := imageXl, free := s.free + 5 }) := by
  have hc : cachedPtr 0 s 0 0x20000000 = fun _ => none := by funext l; unfold cachedPtr; rw [hx]; rfl
  have hl : cachedLeaf (cachesOf 0 0) s 0 0x20000000 = none := by unfold cachedLeaf; rw [hx]; rfl
  have hw : walkPageBy (fun _ => none) imaged 0 0x20000000 = (slotLeaf 0x20000000, some (imageTlb (.tlb 0 0)), [(3, 0x10000)]) := by decide +kernel
  have hw' : walkPageBy (fun _ => none) s 0 0x20000000 = walkPageBy (fun _ => none) imaged 0 0x20000000 := by
    unfold walkPageBy; rw [hx, hm, hd]
  have hf : fillCaches (cachesOf 0 0) 0 0 0x20000000 (some (imageTlb (.tlb 0 0))) [(3, 0x10000)] imaged.xl = imageXl := by decide +kernel
  unfold page
  rw [if_neg (by decide), if_neg (by rw [hx]; decide +kernel), hl, hc, hw', hw, hx]
  dsimp only
  rw [hf]
  rfl
/-- Whichever of the cached entries have been evicted, a page of the slot has the same leaf again. -/
theorem image_again (s : State) (i : Fin 64) (hx : s.xl = imageXl) (hm : s.mem = imaged.mem) (hd : s.dev = imaged.dev) :
    page (cachesOf 0 0) 0 s 0 (slotPage i) = (slotLeaf (slotPage i), { s with free := s.free + 5 }) := by
  have hw : ∀ (a : Bool) (i : Fin 64), walkPageBy (fun l => if l = 3 then (if a then none else some 0x10000) else none) imagedAgain 0 (slotPage i)
      = (slotLeaf (slotPage i), some (imageTlb (.tlb 0 0)), if a then [(3, 0x10000)] else []) := by decide +kernel
  have hw' : ∀ f, walkPageBy f s 0 (slotPage i) = walkPageBy f imagedAgain 0 (slotPage i) := by
    intro f; unfold walkPageBy; rw [hx, hm, hd, show imaged.mem = imagedAgain.mem from rfl, show imaged.dev = imagedAgain.dev from rfl,
      show imageXl = imagedAgain.xl from rfl]
  have hf : ∀ (a : Bool) (i : Fin 64), fillCaches (cachesOf 0 0) 0 0 (slotPage i) (some (imageTlb (.tlb 0 0))) (if a then [(3, 0x10000)] else []) imageXl = imageXl := by
    decide +kernel
  have hix : ∀ i : Fin 64, ptrIx 3 (slotPage i) = 0 := by decide
  have h3 : imageXl.ptrs = [⟨0, 0, 3, 0, 0x10000⟩] := rfl
  have hc : ∃ a : Bool, cachedPtr 0 s 0 (slotPage i) = fun l => if l = 3 then (if a then none else some 0x10000) else none := by
    refine ⟨Config.tlbEvicted (s.free + 1 + 3), ?_⟩
    funext l
    unfold cachedPtr
    rw [hx, h3]
    by_cases l3 : l = 3
    · subst l3; simp [List.find?, hix i]
    · simp [List.find?, l3, beq_false_of_ne (Ne.symm l3)]
  have e1 : ∀ i : Fin 64, imageXl.tlb.find? (fun e : TlbEnt => e.at_ == Cache.tlb 0 0 && e.covers 0 (slotPage i)) = some (imageTlb (.tlb 0 0)) := by decide +kernel
  have e2 : ∀ i : Fin 64, imageXl.tlb.find? (fun e : TlbEnt => e.at_ == Cache.quad 0 && e.covers 0 (slotPage i)) = some (imageTlb (.quad 0)) := by decide +kernel
  have hl : ∃ c, c ∈ [none, some (imageTlb (.tlb 0 0)), some (imageTlb (.quad 0))] ∧ cachedLeaf (cachesOf 0 0) s 0 (slotPage i) = c := by
    refine ⟨_, ?_, rfl⟩
    unfold cachedLeaf
    simp only [cachesOf, engineOf, Nat.zero_div, if_true, List.zipIdx_cons, List.zipIdx_nil, List.findSome?_cons, List.findSome?_nil, hx, e1 i, e2 i]
    split_ifs <;> simp
  have hq : ∀ (i : Fin 64) (q : Cache), q = .tlb 0 0 ∨ q = .quad 0 → fillCaches (cachesOf 0 0) 0 0 (slotPage i) (some (imageTlb q)) [] imageXl = imageXl := by
    rintro i q (rfl | rfl) <;> rfl
  obtain ⟨a, hc⟩ := hc
  obtain ⟨c, hm', hl⟩ := hl
  have hh : ∀ i : Fin 64, ¬ (homeOf imageXl 0 (slotPage i)).isNone = true := by decide +kernel
  unfold page
  rw [if_neg (by decide), hx, if_neg (hh i), hl, hc, hw', hw]
  simp only [List.mem_cons, List.not_mem_nil, or_false] at hm'
  obtain rfl | rfl | rfl := hm'
  · dsimp only; rw [hf, ← hx]; rfl
  · dsimp only; rw [hq i _ (.inl rfl), ← hx]; rfl
  · dsimp only; rw [hq i _ (.inr rfl), ← hx]; rfl
/-- So have all pages of a list. -/
theorem images_again : ∀ (l : List (Fin 64)) (acc : List Page) (s : State), s.xl = imageXl → s.mem = imaged.mem → s.dev = imaged.dev → s.me = 0 →
    (l.map fun i => (slotPage i, 65536)).foldl (fun (acc, s) (a, _) => let (p, s) := pageAt (cachesOf 0 0) s 0 a; (acc ++ [p], s)) (acc, s)
      = (acc ++ l.map (fun i => slotLeaf (slotPage i)), { s with free := s.free + 5 * l.length }) := by
  intro l
  induction l with
  | nil => intro acc s _ _ _ _; simp
  | cons x r ih =>
    intro acc s hx hm hd he
    have hr : ∀ i : Fin 64, ¬ (slotPage i < 0x200000 || 2 ^ 52 ≤ slotPage i) = true := by decide
    have hp : pageAt (cachesOf 0 0) s 0 (slotPage x) = (slotLeaf (slotPage x), { s with free := s.free + 5 }) := by
      unfold pageAt
      rw [if_neg (hr x), show s.me / 96 = 0 by rw [he]]
      exact image_again s x hx hm hd
    simp only [List.map_cons, List.foldl_cons, hp]
    rw [ih _ { s with free := s.free + 5 } hx hm hd he, List.append_assoc, List.singleton_append]
    simp only [List.length_cons, Nat.mul_add, Nat.add_assoc, Nat.add_comm 5, Nat.mul_one]
/-- The slices of the slot at 0x2000_0000, and the segments that the checks give it. -/
def slotSlices : List (Nat × Nat) := (List.range 64).map fun i => (0x20000000 + 65536 * i, 65536)
def slotSegs : List Seg := (List.range 64).map fun i => ⟨1, false, 0, 2 ^ 40 + 65536 * i, 65536, none, none, 0x20000000 + 65536 * i, false⟩
/-- The checks of the slot's pages look at the device's keys, partition and windows only. -/
theorem slot_pages (perm : Perm) (s : State) (hk : s.xl.keys = []) (hm : s.mem.partU = 1) (ha : perm = .wr ∨ perm = .rd) :
    joinChk ((slotSlices.zip (slotSlices.map fun x => Page.leaf (imageTlb (.quad 0)).pte (leafBase (imageTlb (.quad 0)).pte x.1 8192))).map
      fun ((a, l), p) => checkPage s true (.ctl 8) perm a l p) = .ok slotSegs := by
  have hc : ∀ (q : Perm) (a l b : Nat), checkPage s true (.ctl 8) q a l (.leaf (imageTlb (.quad 0)).pte b) = checkPage imaged true (.ctl 8) q a l (.leaf (imageTlb (.quad 0)).pte b) := by
    intro q a l b
    have h5 : (bits (imageTlb (.quad 0)).pte 63 61 != 5) = true := by decide
    simp only [checkPage, hk, hm, h5, Bool.true_or, Bool.and_true]
    rfl
  rw [List.zip_map_right, List.map_map]
  have hf : ((fun (x : (Nat × Nat) × Page) => checkPage s true (.ctl 8) perm x.1.1 x.1.2 x.2)
      ∘ Prod.map id fun x : Nat × Nat => Page.leaf (imageTlb (.quad 0)).pte (leafBase (imageTlb (.quad 0)).pte x.1 8192))
      = ((fun (x : (Nat × Nat) × Page) => checkPage imaged true (.ctl 8) perm x.1.1 x.1.2 x.2)
      ∘ Prod.map id fun x : Nat × Nat => Page.leaf (imageTlb (.quad 0)).pte (leafBase (imageTlb (.quad 0)).pte x.1 8192)) := by
    funext x
    exact hc perm _ _ _
  rw [show (fun x : (Nat × Nat) × Page => match x with | ((a, l), p) => checkPage s true (.ctl 8) perm a l p)
    = (fun x => checkPage s true (.ctl 8) perm x.1.1 x.1.2 x.2) from rfl, hf]
  rcases ha with rfl | rfl <;> decide +kernel
/-- An image slot whose address checks, in a state with any standby bank and images. -/
theorem slot_checks (perm : Perm) (s : State) (hx : s.xl = imaged.xl) (hp : s.cx = imaged.cx) (hm : s.mem = imaged.mem) (hd : s.dev = imaged.dev) (he : s.me = 0)
    (ha : perm = .wr ∨ perm = .rd) : ∃ t, imageSlot 0x20000000 perm s = .ok (2 ^ 40) t ∧ t.co = s.co ∧ t.dist = s.dist ∧ t.me = s.me := by
  have hs : slices 0x20000000 (2 ^ 22) = slotSlices := by decide +kernel
  have hs' : slotSlices = (0x20000000, 65536) :: ((List.finRange 64).drop 1).map fun i => (slotPage i, 65536) := by decide +kernel
  have hf : pageAt (cachesOf 0 0) s 0 0x20000000 = (slotLeaf 0x20000000, { s with xl := imageXl, free := s.free + 5 }) := by
    unfold pageAt
    rw [if_neg (by decide), show s.me / 96 = 0 by rw [he]]
    exact image_first s hx hm hd
  have hl : [slotLeaf 0x20000000] ++ ((List.finRange 64).drop 1).map (fun i => slotLeaf (slotPage i))
      = slotSlices.map fun x => Page.leaf (imageTlb (.quad 0)).pte (leafBase (imageTlb (.quad 0)).pte x.1 8192) := by decide +kernel
  have hfold : slotSlices.foldl (fun (acc, s) (a, _) => let (p, s) := pageAt (cachesOf 0 0) s (0 : BitVec 16) a; (acc ++ [p], s)) ([], s)
      = (slotSlices.map fun x => Page.leaf (imageTlb (.quad 0)).pte (leafBase (imageTlb (.quad 0)).pte x.1 8192),
         { s with xl := imageXl, free := s.free + 320 }) := by
    rw [← hl, hs']
    simp only [List.foldl_cons, hf, List.nil_append]
    rw [images_again _ _ { s with xl := imageXl, free := s.free + 5 } rfl hm hd he]
    rfl
  have hpr : s.cx.pr = imaged.cx.pr := by rw [hp]
  have hj := slot_pages perm { s with xl := imageXl, free := s.free + 320 } rfl (by simp only [hm]; rfl) ha
  refine ⟨{ s with xl := imageXl, free := s.free + 320 }, ?_, rfl, rfl, rfl⟩
  have hch : checkAcc 0 s (.ctl 8) perm 0x20000000 (2 ^ 22) = (.ok slotSegs, { s with xl := imageXl, free := s.free + 320 }) := by
    unfold checkAcc check
    rw [if_neg (by decide), if_neg (by decide), hs, hpr, show cachesOf s.me 0 = cachesOf 0 0 by rw [he], show imaged.cx.pr.asid = 0 from rfl, show imaged.cx.pr.priv = true from rfl]
    dsimp only
    rw [hfold]
    dsimp only
    rw [hj]
    rfl
  unfold imageSlot
  rw [if_neg (by decide), show (0x20000000 : W64).toNat = 0x20000000 from rfl]
  unfold access
  rw [hch]
  dsimp only
  rw [if_neg (by have : slotSegs.any (·.ty == 4) = false := by decide +kernel
                 rw [this]; simp)]
  rfl

/-- `ContextImages`: with no standby bank; with one that only waits to run; with an ordinary one; with no image at the slot; and with one
there of a bound ASID and the state's image version. -/
theorem witness_context_images (perm : Perm) (f : CoreSt) (c : List Image) (h : perm = .wr ∨ perm = .rd) : ∃ t,
    imageSlot (sget imaged.cx 2) perm { imaged with co := f, dist := { imaged.dist with images := c } } = .ok (2 ^ 40) t
    ∧ t.co = f ∧ t.dist.images = c := by
  obtain ⟨t, h1, h2, h3, -⟩ := slot_checks perm { imaged with co := f, dist := { imaged.dist with images := c } } rfl rfl rfl rfl rfl h
  exact ⟨t, h1, h2, by rw [h3]⟩
/-- The image slot holds the state's image version. -/
def stored : State := bytes (2 ^ 40) [1] imaged
/-- A bank that waits to run its task for the first time, and an image. -/
def waiting1 : Ctx := (asTask fun t => { t with started := none }).cx
def image1 : Image := { id := 1, addr := 2 ^ 40, ctx := { quiet.cx with pr := { quiet.cx.pr with asid := 0 } }, spad := [], core := 0 }
theorem witness_images : preloaded waiting1 = true ∧ preloaded (asTask fun t => { t with started := some 0 }).cx = false ∧ image1.ctx.fl.unacked = [] ∧ image1.ctx.fl.loads = []
    ∧ image1.addr = 2 ^ 40 ∧ asidBound stored image1.ctx.pr.asid = true
    ∧ versionKnown imaged 1024 = false ∧ versionKnown stored (2 ^ 40) = true ∧ restorable image1.ctx stored = true
    ∧ imageReadable { stored with dist := { stored.dist with images := [image1] } } 1 = true := by decide +kernel

/-- A page translation of ASID 5, which is bound and has no holder but this device. -/
def twoAsids : State := { regs [(1, 5), (2, 0x200000), (3, 0x10000)] with xl := { quiet.xl with
  asids := { asid := 5, root := 0, mask := 1, tvec := 0, twen := false } :: quiet.xl.asids, tlb := [{ asid := 5, page := 0x20, pages := 1, pte := 63 }, { asid := 5, page := 0x40, pages := 1, pte := 63 },
    { asid := 0, page := 0x20, pages := 1, pte := 63 }] } }
/-- `TranslationWords`: TLBINV of a bound ASID with nothing outstanding, with and without ALL; ASIDRET of an ASID that is not bound, that a
context holds, and of one that can be retired. -/
theorem witness_tlbinv : farAccess (dropTlb 5 none twoAsids) 5 = false ∧ farAccess (dropTlb 5 (some (0x200000, 0x10000)) twoAsids) 5 = false
    ∧ (bindOf twoAsids.xl 5).map (holders (dropTlb 5 none twoAsids)) = some [] ∧ twoAsids.cx.fl.wait = .none
    ∧ bindOf twoAsids.xl 6 = none ∧ (bindOf twoAsids.xl 5).map (·.retiring) = some false
    ∧ (banks twoAsids).any (fun b => b.2.2.pr.asid == 5) = false
    ∧ (banks (bank (fun c => { c with pr := { c.pr with asid := 5 } }) twoAsids)).any (fun b => b.2.2.pr.asid == 5) = true := by decide +kernel
/-- R358: TLBINV drops the cached translation of the page, and of no other page or ASID; with ALL every one of the ASID. -/
theorem test_tlbinv : after (exec (.tlbinv 1 2 3 false false) twoAsids) (fun t => t.xl.tlb.map (fun e => (e.asid, e.page)) == [(5, 0x40), (0, 0x20)]) = true
    ∧ after (exec (.tlbinv 1 2 3 true false) twoAsids) (fun t => t.xl.tlb.map (fun e => (e.asid, e.page)) == [(0, 0x20)]) = true := by decide +kernel
/-- A descriptor of a translation table at 0x2000 with its mask at 0x200 (R362, R420). -/
def descriptor : State := regs [(1, 5), (2, 0x100)] (spad 0x200 (1 :: List.replicate 127 0)
  (spad 0x100 (bytesOf 8 0x2000 ++ bytesOf 8 0x208000 ++ bytesOf 8 (2 ^ 63 + 0x200) ++ bytesOf 8 0)))
theorem witness_asidbind : gives (windowBytes (sget descriptor.cx 2) 32 false descriptor) (fun bs s1 =>
      winWord bs 0 == 0x2000 && winWord bs 1 == 0x208000 && bits (winWord bs 2) 62 52 == 0 && winWord bs 3 == 0 && inHbm s1.mem.partU 0x2000
      && gives (windowBytes (BitVec.ofNat 64 (bits (winWord bs 2) 51 0)) 128 false s1) fun ms s2 => natOf ms == 1 && (bindOf s2.xl 5).isNone) = true
    ∧ (bindOf { descriptor.xl with asids := twoAsids.xl.asids } 5).isSome = true := by decide +kernel
/-- R362: ASIDBIND binds the ASID with the descriptor's root, vector and TWEN; one that is bound already is ASID_STATE. -/
theorem test_asidbind : after (exec (.asidbind 1 2) descriptor) (fun t => t.xl.asids.head?.map (fun e => (e.asid, e.root, e.tvec, e.twen, e.mask))
      == some (5, 0x2000, 0x208000, true, 1)) = true
    ∧ traps (exec (.asidbind 1 2) { descriptor with xl := { descriptor.xl with asids := twoAsids.xl.asids } }) cASID quiet.cx.pc = true := by decide +kernel

/-- A memory key, an entry of the ownership table and a link key in the window (R363, R404, R412). -/
def keyed : State := regs [(1, 7), (2, 0x100), (3, 8)] (spad 0x100 (bytesOf 8 (2 ^ 63 + 0x1000000) ++ bytesOf 8 (2 ^ 54 + 0x2000000) ++ List.replicate 48 3))
/-- `KeysAndOwnership`: an ID without a key and one with a key, windows of 64, 16 and 32 bytes, a legal entry with V set (and with V clear in 0x110),
a station's two selectors. -/
theorem witness_keys : assoc keyed.xl.keys (sget keyed.cx 1).toNat = none ∧ (assoc [(7, (0 : BitVec 512))] 7).isSome = true
    ∧ gives (windowBytes (sget keyed.cx 2) 64 true keyed) (fun _ _ => true) = true
    ∧ gives (windowBytes (sget keyed.cx 2) 16 false keyed) (fun bs _ => let x := winWord bs 0; let y := winWord bs 1
        bits x 62 52 == 0 && bits y 53 52 == 0 && bits y 15 0 == 0 && bits x 51 16 ≤ bits y 51 16 && 0x20 ≤ bits x 51 16) = true
    ∧ gives (windowBytes (sget keyed.cx 2) 32 false keyed) (fun _ s1 => (s1.fab.st[7 % 32]?).isSome) = true := by decide +kernel
/-- R363: KEYLD takes the key and zeroes its source; KEYINV drops it. -/
theorem test_keyld : after (exec (.keyld 1 2) keyed) (fun t => t.xl.keys.map (·.1) == [7] && t.mem.raw (spadBase t.me + 0x100) 8 == List.replicate 8 0
    && after (exec (.keyinv 1) t) fun u => u.xl.keys == []) = true := by decide +kernel
/-- R404: ARTSET sets the entry with its range in pages of 64 KiB and its home. -/
theorem test_artset : after (exec (.artset 1 2) keyed) (fun t => (t.xl.art.find? (·.ix == 7)).map (fun e => (e.base, e.last, e.home.val)) == some (0x100, 0x200, 1)) = true := by
  decide +kernel

/-- `UnitsPowerIdle`: a core's unit, a power step, an IDLE that a pending interrupt ends and one that nothing ends. -/
def pendingIrq : State := bank fun c => { c with pr := { c.pr with intpend := 4, intmask := 4 } }
theorem witness_units : unitOk ((sget (regs [(1, 0x200)]).cx 1).setWidth 16) = true ∧ (sget keyed.cx 1).toNat < 8
    ∧ idleOver pendingIrq = true ∧ idleOver quiet = false := by decide +kernel
/-- R360: PWRCAP sets the external step of every die. -/
theorem test_pwrcap : after (exec (.pwrcap 3 1) (regs [(1, 7), (3, 600)])) (fun t => t.pow[(2 : Fin 4)].ext == 7 && t.pow[(0 : Fin 4)].ext == 7) = true := by decide +kernel
/-- R361: IDLE waits where nothing ends it, with the pc in place. -/
theorem test_idle : after (exec .idle quiet) (fun t => t.cx.fl.wait == .idle && t.cx.pc == quiet.cx.pc) = true := by decide +kernel

/-! ## Events: occasions that the conditional clauses ask for, and single steps -/

/-- Every event clause speaks of an occurrence: any occurrence can be the one that takes place. -/
theorem witness_now (e : Event) (s : State) : ({ s with now := some e } : State).now = some e := rfl
/-- An event's step from a state. -/
def on (e : Event) (i : Instr) (s : State := quiet) : Host.Outcome State Fault Refusal := exec i { s with now := some e }
/-- The moving context waits, since clock 0, at a clock. -/
def waits (w : Wait) (clock : Nat) (s : State := quiet) : State := { bank (fun c => { c with fl := { c.fl with wait := w, waitSince := 0 } }) s with clock := clock }

/-- A load of S5 that is not answered, and a bound scalar stream that has fetched nothing (R192, R23). -/
def loading : State := bank fun c => { c with
  fl := { c.fl with loads := [{ uid := 1, ins := .ld64 5 (.s 1) 0, pc := 0x200008, dests := [5], addr := 0x100, tag := 3, got := some (.done, bytesOf 8 77) }] }
  streams := c.streams.set 2 (some { id := 1, kind := .scalar, addr := 0x100, count := 2, stride := 8 }) }
/-- `CoreAnswers`: an outstanding load, a stream with room, waits that are over and not over, a CWAIT at a frozen group's starved member. -/
theorem witness_core_answers : loading.co.standby.isNone = true ∧ (loading.cx.fl.loads.find? (fun l => l.tag == 3 && !isOpk l.ins)).isSome = true
    ∧ ((loading.cx.streams[(2 : Fin 8)]).map fun b => b.kind == StreamKind.scalar && b.fetched < b.count && b.buf.length < bufferSize b.kind
        && gives (fetchElem 2 b loading) (fun _ _ => true)) = some true := by decide +kernel
/-- A member of group 6 at number 4. -/
def member6 : Member := { g := 6, base := 0x1000000, key := none, size := 4096, applied := 4, joining := false, first := 0 }
def starving : State :=
  let s := regs [(1, 6), (2, 9)]
  let s := bank (fun c => { c with fl := { c.fl with pend := [{ uid := 1, queue := .copy, ins := .cwait 1 2, pc := 0x200008, s := c.s, cfg := c.cfg }] } }) s
  { s with clock := micros 50, fab := { s.fab with members := [{ member6 with frozen := true, starved := true }] } }
/-- A context that waits at a CWAIT of its group. -/
def atCwait (clock : Nat) : State := { waits (.cwait 6 9) clock with fab := { members := [member6] } }
theorem witness_bank_switch : (atCwait (micros 10)).me = 0 ∧ switchable (atCwait 0).cx = true ∧ waitOver (atCwait 0) (atCwait 0).cx = false
    ∧ Machine.quiet (atCwait 0) = true ∧ yieldsNow (atCwait (micros 10)) = true ∧ yieldsNow (atCwait 0) = false := by decide +kernel
theorem witness_cwait : waitOver { waits (.cwait 6 9) (micros 10) with fab := { members := [member6] } } (waits (.cwait 6 9) (micros 10)).cx = false
    ∧ ((starving.cx.fl.pend.find? (fun e => holdsControl e.ins && !e.retained)).map fun e =>
        e.ins == .cwait 1 2 && (memberOf starving (groupOf e 1)).map (fun m => m.frozen && m.starved && decide (m.frozenAt + micros 50 ≤ starving.clock)) == some true) = some true := by
  decide +kernel
/-- R192: the answer reaches the register. R23: a fetched element waits in the stream's buffer. -/
theorem test_answers : after (on (.loadResponse 0 3) .loadResponse loading) (fun t => sget t.cx 5 == 77) = true
    ∧ after (on (.streamDelivery 0 2) .streamDelivery loading) (fun t => (t.cx.streams[(2 : Fin 8)]).map (fun b => (b.fetched, b.buf.length)) == some (1, 1)) = true := by
  decide +kernel

/-- `BarrierEvents`: a barrier all of whose members have arrived, one that waits for a member, one of scope .quad, one whose time is
over and whose member waits. -/
def barrier1 (arrived : Bool) : Barrier := { k := 1, scope := .die, home := 0, members := [(5, [], none)], arrived := if arrived then [(5, [], none)] else [] }
def meets (b : Barrier) : State := { quiet with dist := { quiet.dist with barriers := [b] } }
theorem witness_barriers : ((meets (barrier1 true)).dist.barriers.find? (·.k == 1)).isSome = true
    ∧ (barrier1 true).members.all (barrier1 true).arrived.contains = true ∧ (barrier1 false).members.all (barrier1 false).arrived.contains = false
    ∧ ({ barrier1 false with scope := .quad } : Barrier).scope = .quad
    ∧ (let s := { waits (.barrier 1) (micros 1000) with dist := (meets (barrier1 false)).dist }
       (s.dist.barriers.find? (·.k == 1) == some (barrier1 false)) && (waitersOf s 1 == [.bank 0 true]) && decide (micros s.dist.barrierMicros ≤ s.clock)) = true := by
  decide +kernel

/-- `TrapAndInterruptEvents`, `PreemptionAndMachineChecks`: TIMER at 0, an IDLE that ends and one that does not, a core that may be halted and one
without a request, a unit and a number that is none. -/
theorem witness_interrupts : (bank fun c => { c with pr := { c.pr with expired := true } }).cx.pr.expired = true
    ∧ idleOver (waits .idle 0 pendingIrq) = true ∧ idleOver quiet = false
    ∧ haltable (dropRequest 0 { quiet with co := { quiet.co with preempt := true } }) 0 = true ∧ haltable (dropRequest 0 quiet) 0 = false
    ∧ unitOk 0x200 = true ∧ unitOk 0x3001 = false := by decide +kernel
/-- `TrapAndInterruptEvents`: an interrupt that has drained, with a vector that names a code line. -/
theorem witness_interrupt_entry : (let s := bank fun c => { c with fl := { c.fl with drain := some { cause := 0, taddr := 0, tepc := c.pc, tnpc := c.pc } }
                                                                   pr := { c.pr with tvec := 0x200008 } }
    s.cx.pr.intrap == false && s.cx.pr.tvec != 0 && gives (checkHandler s) fun _ t => t.cx == s.cx) = true := by decide +kernel
/-- R331: at TIMER's expiry INTPEND.TIMER is set. R354: a machine check's record holds unit, count and kind. -/
theorem test_interrupts : after (on (.timerExpiry 0) .timerExpiry (bank fun c => { c with pr := { c.pr with expired := true } })) (fun t => t.cx.pr.intpend == 1) = true
    ∧ mcRecord 0x200 1 3 = 0x0200000103000000 := by decide +kernel

/-- A slot in use, reserved by the host, with handle 0; and a state of it. -/
def slot0 (st : SlotSt) : Slot := { num := 0, gen := 0, st := st, counter := 2 }
def holding (st : SlotSt) : State := { quiet with dist := { quiet.dist with slots := [slot0 st] } }
/-- A waiting entry. -/
def entry0 (pk : List W64 := packet) : DqEntry := { w := { handle := 0, packet := pk, info := ⟨0, 0, 0, 0⟩, idx := [], kind := .first, since := 0, image := none } }
/-- A full table of early signals (R119). -/
def fullEarly : State := { holding .reserved with dist := { (holding .reserved).dist with early := List.replicate 16384 (1, 1) } }
/-- `SchedulingEvents`: a signal that is taken, one that no table has room for, a slot that is reserved, a handle without one, a core with both
banks in use. -/
theorem witness_signals : (signalHere 0 (holding .waiting)).isSome = true ∧ bits (0 : W64) 63 54 = quiet.dev.val
    ∧ ((slotOf (holding .reserved) (pktHandle [1, 0, 0, 0])).map (·.st) == some .reserved) = true ∧ (slotOf quiet (pktHandle [1, 0, 0, 0])).isNone = true
    ∧ (coreOf { quiet with co := { quiet.co with standby := some quiet.cx } } 0).1.task.isSome = true := by decide +kernel
theorem witness_full_early (s : State) (hd : s.dist = fullEarly.dist) (hv : s.dev = fullEarly.dev) : signalHere 0 s = none := by
  have h : (List.replicate 16384 ((1 : W64), 1)).find? (fun e => e.1 == 0) = none := List.find?_eq_none.2 fun x hx => by
    rw [(List.mem_replicate.1 hx).2]; decide
  have hs : slotOf s 0 = some (slot0 .reserved) := by unfold slotOf slotAt; rw [hd, hv]; rfl
  simp only [signalHere, hs, show (slot0 .reserved).st = .reserved from rfl, hd, show fullEarly.dist.early = List.replicate 16384 ((1 : W64), 1) from rfl, h,
    List.length_replicate]
  rfl
/-- `CoreAnswers`: a TEXIT one of whose signals waits. -/
def atTexit : State := asTask (fun t => { t with exiting := some [] }) (waits (.early 0) 0 fullEarly)
theorem witness_texit_yields : yieldsNow atTexit = true := by
  have h : waitOver atTexit atTexit.cx = false := by
    show (signalHere 0 atTexit).isSome = false
    rw [witness_full_early atTexit rfl rfl]; rfl
  unfold yieldsNow
  rw [h]
  decide +kernel
/-- R118: a signal lowers the counter of a waiting slot. -/
theorem test_signal_arrival : after (on (.signalArrival 9 0 0) .signalArrival (holding .waiting)) (fun t => t.dist.slots.map (·.counter) == [1]) = true := by decide +kernel
/-- `StealEvents`: a core that may take an offer; an offered entry with its thief; a pinned task, which is offered to nobody. -/
def offered : State := { quiet with co := { quiet.co with deque := [{ entry0 with cust := .offered 4 }] }, dist := { quiet.dist with steals := [(4, .core 7)] } }
def pinned : State := { quiet with co := { quiet.co with deque := [entry0 (0x4101 :: packet.drop 1)] } }
theorem witness_steals : (coreOf quiet 7).2.gated = false ∧ coreOut quiet 7 = false
    ∧ ((offered.dist.steals.find? (·.1 == 4)).map Prod.snd == some (.core 7)) = true ∧ (entryIn offered (.offered 4)).isSome = true
    ∧ (offerOf pinned 0).map (fun e => stealable e.w) = some false := by decide +kernel
/-- R115: a TAKE puts the entry into the custody of the acknowledgement. -/
theorem test_take : after (on (.take (.core 7) 4) .take offered) (fun t => t.co.deque.map (·.cust) == [.acking 4]) = true := by decide +kernel

/-- `PowerEvents`: temperatures where the clauses meet (R431: TLIM 0, HYST 5 after reset), ten cool samples and nine, a core with a task. -/
theorem witness_power : bits quiet.mmio.thermcfg 7 0 < 114 ∧ 0 ≤ bits quiet.mmio.thermcfg 7 0 ∧ 115 ≤ (115 : BitVec 8).toNat ∧ (114 : BitVec 8).toNat < 115
    ∧ 0 + bits quiet.mmio.thermcfg 15 8 < bits (0x0506 : W64) 7 0 ∧ 10 ≤ (powOf (updPow 1 (fun p => { p with cool := 10 }) quiet) 1).cool
    ∧ (powOf (updPow 1 (fun p => { p with cool := 9 }) quiet) 1).cool < 10 ∧ (coreOf quiet 0).1.task.isSome = true := by decide +kernel
/-- R431: a sample above TLIM raises the thermal request by one, and 115 °C turns the device off. -/
theorem test_thermal : after (on (.thermalSample 1 114) .thermalSample) (fun t => t.pow[(1 : Fin 4)].thermal == 1 && !t.bob.tripped) = true
    ∧ after (on (.thermalTrip 1 115) .thermalTrip) (fun t => t.bob.tripped) = true := by decide +kernel

/-- `WaitTimeouts`: each wait, 100 µs old and younger; what is recorded leaves the moving core alone. -/
theorem witness_wait_timeouts : ∀ x ∈ [(Wait.pool, lineageFull), (.record, lineageFull), (.storage, event 6 2 wholeDevice 1 0), (.slot, event 6 2 wholeDevice 0 0)],
    (waits x.1 (micros 100)).cx.fl.wait = x.1 ∧ (waits x.1 0).clock < (waits x.1 0).cx.fl.waitSince + micros 100
    ∧ (waits x.1 (micros 100)).cx.fl.waitSince + micros 100 ≤ (waits x.1 (micros 100)).clock ∧ (x.2 (waits x.1 (micros 100))).me = 0 := by
  intro x hx
  fin_cases hx <;> decide +kernel
/-- R53: a wait of 100 µs for the packet pool ends in a SEAL fault. -/
theorem test_pool_wait : traps (on (.poolWaitTimeout 0) .poolWaitTimeout (waits .pool (micros 100))) cSEAL quiet.cx.pc = true := by decide +kernel

/-- Station 0 has trained and has its keys, so that it carries every channel. -/
def linked (s : State) : State := updStation 0 (fun t => { t with width := 3, dorvia := true, tx := some 1, rx := some 1 }) s
/-- A shard with one record in a state; and one whose records are all but used up (R58). -/
def shard (r : VRec) : State := { quiet with lin := { quiet.lin with recs := [r] } }
def crowded (l : List Nat) : State := shard { version .sealed with chain := l }
theorem crowded_is (l : List Nat) (h : l.length = 2 ^ 28 - 2 ^ 24) : 2 ^ 28 - 1 - recordsUsed (crowded l) < 2 ^ 24
    ∧ retained (crowded l) = some { version .sealed with chain := l } := by
  refine ⟨?_, rfl⟩
  simp only [recordsUsed, crowded, shard, List.foldl, h]
  decide
/-- `ReplicaAndMirrorEvents`: enough free records and too few with one to retain; a version that is being replicated with a buddy that is up;
changes that are not acknowledged. -/
theorem witness_retention : 2 ^ 24 ≤ 2 ^ 28 - 1 - recordsUsed quiet ∧ ∃ l, 2 ^ 28 - 1 - recordsUsed (crowded l) < 2 ^ 24 ∧ (retained (crowded l)).isSome = true := by
  refine ⟨by decide, List.replicate (2 ^ 28 - 2 ^ 24) 0, ?_⟩
  obtain ⟨h1, h2⟩ := crowded_is _ (List.length_replicate (n := 2 ^ 28 - 2 ^ 24) (a := 0))
  exact ⟨h1, by rw [h2]; rfl⟩
/-- LINCFG with BUDDY 9 and BUDDYEN set, and REPLICA 0. -/
def buddied : State := updStation 0 (fun t => { t with width := 3, tx := some 1, rx := some 1 }) (updMmio (fun m => { m with lincfg := 0x0260040000000000 }) (shard (version .replicating)))
theorem witness_replica : (recOf buddied 0x1000001).map (·.st) = some .replicating ∧ replicaPlace buddied ≠ 1 ∧ buddyUp buddied = true
    ∧ buddyId buddied = (9 : Fin 1024).val := by decide +kernel
/-- A change sent to the buddy 50 µs ago, without an answer. -/
def unanswered : State := { quiet with clock := micros 50, lin := { quiet.lin with sent := [{ tile := 7, image := [], since := 0 }] } }
/-- A device that mirrors, and a change of its records that the buddy has not been sent, and that it has acknowledged. -/
def changes : State := setVState 0x1000001 .replica buddied
theorem witness_mirror_gate : mirroring buddied = true ∧ mirroring changes = true ∧ changedImages buddied changes ≠ []
    ∧ (changedImages buddied changes).all (ackedChange changes) = false
    ∧ (changedImages buddied changes).all (ackedChange { changes with lin := { changes.lin with sent := (changedImages buddied changes).map fun x =>
      { tile := x.1, image := x.2, acked := true, since := 0 } } }) = true := by decide +kernel
theorem witness_mirror : mirrorLate quiet = false ∧ mirrorLate unanswered = true
    ∧ quiet.lin.copying = false ∧ ({ quiet with lin := { quiet.lin with copying := true } } : State).lin.copying = true := by decide +kernel
/-- R56: without the buddy's acknowledgement the shard is unmirrored. -/
theorem test_mirror : after (on .mirrorTimeout .mirrorTimeout unanswered) (fun t => t.lin.unmirr && t.lin.sent == []) = true := by
  decide +kernel

/-- `ShardAndLossEvents`: a PENDING version, a word that waits for a shard, a block that is poisoned and one that is not, a lost device. -/
theorem witness_shard : (recOf (shard (version .pending)) 0x1000001).map (·.st) = some .pending ∧ (waits (.shard 8) 0).cx.fl.wait = .shard 8
    ∧ quiet.cx.task.isSome = true ∧ quiet.mem.poison.contains (0x1000 / 64) = false
    ∧ ({ quiet.mem with poison := [64] } : Memory).poison.contains (0x1000 / 64) = true
    ∧ devLost { quiet with lin := { quiet.lin with lostDevs := [(9, none)] } } 9 = true := by decide +kernel
/-- `ShardAndLossEvents`: a sealed version whose digest differs. -/
theorem witness_compare : (recOf (shard (version .sealed)) 0x1000001).map (fun r => (r.st, r.digest)) = some (.sealed, 0) ∧ (0 : W64) ≠ 5 := by decide +kernel
/-- R64: a query is answered with the version's state (SEALED is 2, R43). -/
theorem test_query : after (on (.stateQuery 9 7 0x1000001) .stateQuery (linked (shard (version .sealed)))) (fun t => t.outbox.getLast? == some (.answer 9 7 (.state 0x1000001 2))) = true := by decide +kernel

/-- `PeerRequests`: a range of HBM, a range past the device's memory, a key ID without a key and one with a key, bytes that can be read. -/
theorem witness_peers : memType quiet.mem.partU 0x210000 8 = some 0 ∧ memType quiet.mem.partU (2 ^ 43) 8 = none ∧ assoc quiet.xl.keys (3 : BitVec 10).toNat = none
    ∧ assoc [(3, (5 : BitVec 512))] (3 : BitVec 10).toNat = some 5 ∧ quiet.mem.poisoned 0x210000 8 = none ∧ memType quiet.mem.partU 0x210000 (bytesOf 8 1).length = some 0 := by
  decide +kernel
/-- `PeerRequests`: a range of a scratchpad. -/
theorem witness_scratchpad : memType quiet.mem.partU (spadBase 3) 128 = some 3 := by decide +kernel
/-- R86, R396: a store of a peer stands in memory and is acknowledged. -/
theorem test_peer_store : after (on (.remoteRequest 9 7 (.store 0x210000 [1, 2] none)) .remoteRequest (linked quiet)) (fun t => t.mem.raw 0x210000 3 == [1, 2, 0]
    && t.outbox.getLast? == some (.response 9 7 .done [])) = true := by decide +kernel
/-- `CastEvents`: a member with a store held behind a gap. -/
def item6 : CastItem := ⟨6, 9, 1, 0, List.replicate 64 5⟩
theorem witness_gap : memberOf { quiet with clock := micros 50, fab := { quiet.fab with members := [{ member6 with kept := [(7, item6, 0)] }] } } 6
      = some { member6 with kept := [(7, item6, 0)] }
    ∧ gapSince { member6 with kept := [(7, item6, 0)] } = some 0 ∧ member6.joining = false ∧ member6.frozen = false
    ∧ gapLate { quiet with clock := micros 50 } { member6 with kept := [(7, item6, 0)] } = true ∧ gapLate quiet { member6 with kept := [(7, item6, 0)] } = false := by
  decide +kernel
/-- `TranslationEvents`: a page with a waiter, a retiring ASID with a holder outstanding, an ASID that is not bound. -/
def retiring5 : AsidEnt := { asid := 5, retiring := true, root := 0, mask := 0, tvec := 0, twen := false, acks := [9] }
theorem witness_translation : ([⟨5, 0x20, .read, true, [(0, 1)]⟩] : List Waiters).any (fun w => w.asid == 5 && w.page == 0x20) = true
    ∧ bindOf { quiet.xl with asids := [retiring5] } 5 = some retiring5 ∧ retiring5.retiring = true ∧ retiring5.acks ≠ [] ∧ retiring5.since + micros 1000 ≤ micros 1000 ∧ (bindOf quiet.xl 5).isNone = true := by decide +kernel
/-- R421: the last acknowledgement makes a retiring ASID FREE. -/
theorem test_shootdown_ack : after (on (.shootdownAck 9 5) .shootdownAck { quiet with xl := { quiet.xl with asids := retiring5 :: quiet.xl.asids } })
    (fun t => t.xl.asids.map (·.asid) == [0]) = true := by decide +kernel
/-- `StationEvents`: stations with and without a next key, with a key held, with fewer failures than four. -/
theorem witness_stations : (({} : Station).nextRx = none) ∧ ({ nextRx := some 1 } : Station).nextRx = some 1 ∧ ({ heldKey := some 0 } : Station).heldKey = some 0 ∧ 0 + micros 100 ≤ ({ quiet with clock := micros 100 } : State).clock
    ∧ ({} : Station).heldKey = none ∧ ({} : Station).nextTx = none ∧ ({ nextTx := some 1 } : Station).nextTx ≠ none
    ∧ ({} : Station).mode = false ∧ ({ tagFails := 2 } : Station).tagFails + 1 < 4 ∧ (1 : Fin 4) ≠ 0 := by decide
/-- R404: at the toggled phase the next receive key is the one in use. -/
theorem test_key_changeover : after (on (.keyChangeover 3 true) .keyChangeover (updStation 3 (fun t => { t with nextRx := some 7 }) quiet))
    (fun t => (t.fab.st[(3 : Fin 24)]).rx == some 7 && (t.fab.st[(3 : Fin 24)]).nextRx == none) = true := by decide +kernel

/-- A session with a packet that has been sent. -/
def session1 (x : Kept := ⟨4, .inband, 1, 0, 0⟩) : Session := { num := 1, host := 3, mgmt := true, rx := 10, tx := 5, ackd := 4, kept := [x] }
def inSession (x : Session := session1) : State := { quiet with port := { quiet.port with sessions := [x] }, bob := { quiet.bob with hosts := [(3, true)] } }
/-- `SequencedPackets`: a PSN below the window, the first past it and the last that is above it, the one that is due; no session. -/
theorem witness_packets : sessionOf quiet 1 = none ∧ sessionOf inSession 1 = some session1 ∧ 2 ^ 31 ≤ (9 - session1.rx).toNat
    ∧ 256 ≤ (266 - session1.rx).toNat ∧ (266 - session1.rx).toNat < 2 ^ 31 ∧ (0x80000009 - session1.rx).toNat < 2 ^ 31 ∧ session1.early = [] := by decide +kernel
/-- `AcknowledgementAndDrops`: a packet that may not be sent again yet, one never sent, one sent 32 times whose timeout has passed. -/
theorem witness_resend : session1.kept.find? (·.psn == 4) = some ⟨4, .inband, 1, 0, 0⟩ ∧ 0 < 0 + micros session1.rto
    ∧ (session1 ⟨4, .inband, 32, 0, 0⟩).kept.find? (·.psn == 4) = some ⟨4, .inband, 32, 0, 0⟩ ∧ 0 + micros session1.rto ≤ micros 20
    ∧ (session1 ⟨4, .inband, 0, 0, 0⟩).kept.find? (·.psn == 4) = some ⟨4, .inband, 0, 0, 0⟩ := by decide
/-- `OpenSession`: an address that is not listed, a phase that is not READY, and a listed address of a READY device with a free session. -/
theorem witness_open : assoc quiet.bob.hosts 3 = none ∧ State.reset.bob.phase ≠ 6 ∧ assoc inSession.bob.hosts 3 = some true ∧ inSession.bob.phase = 6
    ∧ sessionOf inSession 64 = none := by decide +kernel
/-- R384: the ACK of a packet frees what is kept below it. -/
theorem test_ack : after (on (.farporAck 1 5 0 0) .farporAck inSession) (fun t => (sessionOf t 1).map (·.kept.length) == some 0) = true := by decide +kernel
/-- `HostAccesses`: a mapped range, an unmapped one, a read of its bytes, and each bad length and ASID. -/
theorem witness_host : (match hostSegs .wr 0x210000 0 8 quiet with | (.inr gs, _) => gs.length == 1 | _ => false) = true
    ∧ (match hostSegs .wr 0x90000000 0 8 quiet with | (.inl _, _) => true | _ => false) = true
    ∧ (match hostSegs .rd 0x210000 0 8 (bytes 0x210000 [7]) with | (.inr gs, s1) => (hostReadSegs gs s1).1 == some (bytesOf 8 7) | _ => false) = true
    ∧ (bytesOf 8 1).length = (8 : BitVec 32).toNat ∧ 8176 < 8177 ∧ asidBound quiet 5 = false := by decide +kernel

/-- `MmioEvents`: REPLICA 3 is reserved, so a LINCFG that has it had it before. -/
theorem witness_lincfg : bits (lincfgWriteOp .whole 0 (updMmio (fun m => { m with lincfg := 0x0018000000000000 }) quiet)).mmio.lincfg 52 51 = 0
    ∧ bits (lincfgWriteOp .whole 0x0018000000000000 (updMmio (fun m => { m with lincfg := 0x0018000000000000 }) quiet)).mmio.lincfg 52 51 = 3 := by decide +kernel
/-- R129: a power cap below 100 W is held at 100 (units of 1 W), and DWELL 20 stands. -/
theorem test_pwrcfg : after (on (.pwrcfgWrite .whole 0x0000000100140000) .pwrcfgWrite) (fun t => bits t.mmio.pwrcfg 47 32 == 100 && bits t.mmio.pwrcfg 21 16 == 20) = true := by
  decide +kernel

/-- A Bobbin in a boot phase. -/
def boots (f : Bobbin → Bobbin) : State := updBob f State.reset
/-- `RailsAndResets`: power on before the first rail and after the fifth, a rail that is not the next one, PLLs locked and not. -/
theorem witness_rails : State.reset.bob.power = true ∧ State.reset.bob.tripped = false ∧ State.reset.bob.phase = 0 ∧ nextRail State.reset.bob = some 2
    ∧ nextRail (boots fun b => { b with rails := 4, phase := 1 }).bob = some 5 ∧ nextRail State.reset.bob ≠ some 1 ∧ bobbinUp State.reset.bob = true
    ∧ (boots fun b => { b with pll := true }).bob.pll = true ∧ State.reset.bob.pll = false := by decide +kernel
/-- Flash with a configuration block of 12 × 4 GiB of parity partition, 512 save slots and 65,536 entries of the packet pool, and one that is erased. -/
def block : List Byte := bytesOf 128 (12 * 2 ^ 256 + 85 * 2 ^ 264 + 512 * 2 ^ 288 + 65536 * 2 ^ 320 + (96 * 2 ^ 16 + 192 * 2 ^ 32 + 288 * 2 ^ 48) * 2 ^ 384)
def configured : State := boots fun b => { b with phase := 4, flash := (block.zipIdx.map fun x => (imageBase false 2 + 288 + x.2, x.1)).filter (·.2 != 0xFF) }
/-- `BootPhases`: each phase, a block that keeps the limits and whose pools fit, one that breaks them. -/
theorem witness_boot : bobbinUp configured.bob = true ∧ configured.bob.phase = 4 ∧ configOk (configBlock configured.bob) = true ∧ poolsFit (configBlock configured.bob) = true
    ∧ configOk (configBlock (boots fun b => { b with phase := 4 }).bob) = false ∧ bobbinUp (boots fun b => { b with phase := 5, ports := true }).bob = true
    ∧ bobbinUp (boots fun b => { b with phase := 2 }).bob = true ∧ State.reset.bob.phase ≠ 5 := by decide +kernel
/-- R429, R431: the block's partition and TLIM hold after CONFIG. R428: BOOTSTAT.PHASE is 6 when READY. -/
theorem test_boot : after (on .bootConfig .bootConfig configured) (fun t => t.mem.partU == 12 && bits t.mmio.thermcfg 7 0 == 85 && t.bob.phase == 5) = true
    ∧ after (on .bootReady .bootReady (boots fun b => { b with phase := 5, ports := true })) (fun t => bits (bootstat t.bob |>.setWidth 64) 31 28 == 6) = true := by
  decide +kernel
/-- `BobbinRegisters`: Bobbin powered and not, its static address, an update slot that is open and not, a slot in which no image verifies. -/
theorem witness_bobbin : State.reset.bob.power = true ∧ (boots fun b => { b with power := false }).bob.power = false ∧ (0x4C : BitVec 7) ≠ 0 ∧ State.reset.bob.dyn = none
    ∧ State.reset.bob.updopen = false ∧ (boots fun b => { b with updopen := true }).bob.updopen = true ∧ (0 : BitVec 32).toNat < slotBytes
    ∧ imageValid State.reset.bob (!activeSlot State.reset.bob 1) 1 = false := by decide +kernel
/-- R434: CAPSTEP keeps bits 2..0. R436: UPDDATA stores a word at UPDADDR, in the inactive slot, and moves it on. -/
theorem test_bobbin : after (on (.capstepWrite 0xFD) .capstepWrite) (fun t => t.bob.capstep == 5) = true
    ∧ after (on (.upddataWrite 0x01020304) .upddataWrite (boots fun b => { b with updopen := true })) (fun t => t.bob.updaddr == 4) = true := by decide +kernel

/-! ## Scheduling and steals: occasions (R26, R41, R114, R115, R121, R126, R127) -/

/-- A waiting entry whose task has PRIO 5, and whose handle is 9. -/
def entry5 : DqEntry := { w := { handle := 9, packet := 0x0000080000050101 :: packet.drop 1, info := ⟨0, 0, 0, 0⟩, idx := [], kind := .first, since := 0, image := none } }
/-- Core 100, of the second die, runs nothing and has entries in its deque; the die has a budget. -/
def dequeOf (l : List DqEntry) (s : State := updPow 1 (fun p => { p with dbud := 1000 }) quiet) : State := { s with others := [(100, {}, { deque := l })] }
/-- The running core has an entry in its own deque. -/
def backlog (e : DqEntry := entry5) : State := { quiet with co := { quiet.co with deque := [e] } }
/-- `SchedulingEvents`: a free core with a candidate, and one with none; a core whose standby bank can be filled; a die whose only waiting task
another die's free core lacks, and one whose tasks none lacks. -/
theorem witness_selection : (coreOf (dequeOf [entry0, entry5]) 100).1.task.isNone = true ∧ (coreOf (dequeOf []) 100).2.gated = false ∧ coreOut (dequeOf []) 100 = false
    ∧ (coreOf (dequeOf []) 100).2.standby.isNone = true ∧ select (dequeOf [entry0, entry5]) 100 = some ⟨.deque, entry5.w⟩ ∧ select (dequeOf []) 100 = none
    ∧ nextPreload 0 (backlog { entry5 with w := { entry5.w with packet := 0x00000C0000050101 :: packet.drop 1 } }) = none
    ∧ (nextPreload 0 (asTask (fun t => { t with packet := 0x0000040000000101 :: packet.drop 1 })
        (backlog { entry5 with w := { entry5.w with packet := 0 :: packet.drop 1 } }))).isSome = true
    ∧ (waitPlaces backlog 0).filter (fun x => stealable x.2.w) = [(some 0, entry5)]
    ∧ betterDie backlog 0 entry5.w = some 1 ∧ waitPlaces quiet 1 = [] := by decide +kernel
theorem witness_report : returnPinned 0 backlog = backlog := by
  have h : (backlog.dist.pools[0]?).getD [] = [] := by decide +kernel
  have k : backlog.dist.pools.set! 0 [] = backlog.dist.pools := by decide +kernel
  simp only [returnPinned, h, List.filter_nil, List.foldl_nil, k]
/-- The waiting task is PINNED to the core that runs one of PRIO 0, so that no free core may run it. -/
def mustWait : State :=
  { backlog { entry5 with w := { entry5.w with packet := 0x0000080000054101 :: packet.drop 1 } } with
    clock := 800, dist := { quiet.dist with saveSlots := 512 } }
/-- `SchedulingEvents`: a task too young to go to its pool and one of 100 µs; a ready task before and after 800 clocks, with a free core and
without one; the running task that gives way. -/
theorem witness_ageing : aged backlog entry5.w = false ∧ aged { backlog with clock := micros 100 } entry5.w = true ∧ liveCores backlog = [0]
    ∧ findWaiting backlog 9 = some (none, entry5.w) ∧ backlog.clock < entry5.w.since + 800 ∧ entry5.w.since + 800 ≤ (800 : Nat) ∧ freeSaveSlots backlog = 0
    ∧ coreFree backlog 7 = true ∧ mayRun backlog 7 entry5.w = true := by decide +kernel
theorem witness_preemption : (findWaiting mustWait 9).map (fun x => (x.1, decide (x.2.since + 800 ≤ mustWait.clock), victimFor mustWait none x.2,
      (List.range 384).all fun n => !(coreFree mustWait n && mayRun mustWait n x.2))) = some (none, true, some 0, true)
    ∧ freeSaveSlots mustWait = 128 ∧ (coreOf (requestPreempt 0 mustWait) 0).1.task.bind (partnerLoc (requestPreempt 0 mustWait)) = none := by decide +kernel
/-- A record with iterations to issue, one that has ended, one that has failed; and its slot. -/
def walks (next : Nat) (failed : Bool) : State := { quiet with dist := { quiet.dist with
  slots := [{ num := 3, gen := 0, st := .running, counter := 0, packet := nestPacket, info := ⟨0, 0, 0, 0⟩ }]
  nests := [{ slot := 3, next := next, total := 2, live := if failed then 1 else 0, failed := failed }] } }
theorem witness_walker : ((walks 0 false).dist.nests.find? (·.slot == 3)).map (fun n => (nestDone n, n.failed, walkFirst n (walks 0 false) == n)) = some (false, false, true)
    ∧ ((walks 2 false).dist.nests.find? (·.slot == 3)).map nestDone = some true ∧ (closeNest 3 (walks 2 false)).1 = true
    ∧ ((walks 1 true).dist.nests.find? (·.slot == 3)).map (fun n => (nestDone n, n.failed)) = some (false, true)
    ∧ ((walks 0 false).dist.slots.find? (·.num == 3)).isSome = true := by decide +kernel
/-- A thief that keeps a copy. -/
def copies (v : Thief) : State := { quiet with co := { quiet.co with stolen := [⟨4, v, entry5.w⟩] } }
/-- `StealEvents`: an entry that a core, and another device, may be offered; a thief with a copy of a core's and of a device's, and without; a
steal that is known and one that is not. -/
theorem witness_steal_offers : offerOf (backlog) 0 = some entry5 ∧ mayOffer backlog (.core 7) 0 entry5.w = true
    ∧ mayOffer (linked { backlog with xl := { backlog.xl with asids := backlog.xl.asids.map fun b => { b with mask := 512 } } }) (.dev 9) 0 entry5.w = true
    ∧ ((coreOf (copies (.core 7)) 0).2.stolen.find? (copyFrom · (.core 7) 4)).isSome = true ∧ ((coreOf (copies (.dev 9)) 0).2.stolen.find? (copyFrom · (.dev 9) 4)).isSome = true
    ∧ (coreOf quiet 0).2.stolen.find? (copyFrom · (.core 7) 4) = none ∧ offered.dist.steals.contains (4, .core 7) = true ∧ quiet.dist.steals.contains (4, .core 7) = false
    ∧ (coreOf quiet 0).2.stolen.any (copyFrom · (.core 7) 4) = false ∧ (∀ d : Fin 4, dieInService quiet d.val = true)
    ∧ entryIn quiet (.offered 4) = none ∧ entryIn quiet (.acking 4) = none := by decide +kernel
/-- R126: the free core runs the task of the higher PRIO. R127: the running task of lower PRIO is asked to give way. -/
theorem test_selection : after (on (.taskSelection 100) .taskSelection (dequeOf [entry0, entry5])) (fun t => (coreOf t 100).1.task.map (·.handle) == some 9
      && (coreOf t 100).2.deque == [entry0]) = true
    ∧ after (on (.loopNestWalk 3) .loopNestWalk (walks 0 false)) (fun t => t.dist.nests.map (fun n => (n.next, n.live)) == [(2, 2)]) = true := by decide +kernel

/-! ## Other occasions of events -/

/-- `PowerEvents`: phases in which samples count and do not (R431). -/
theorem witness_phases : quiet.bob.phase = 6 ∧ State.reset.bob.phase < 5 ∧ (bootFail State.reset).bob.phase = 15 := by decide +kernel
/-- `ShardAndLossEvents`, `ReplicaAndMirrorEvents`: a pool entry and a record that are not there; a change that waits for the buddy; a device that does not mirror. -/
theorem witness_absent : quiet.lin.pool.find? (·.ix == 3) = none ∧ recOf quiet 0x1000001 = none ∧ mirroring quiet = false
    ∧ (unanswered.lin.sent.find? (fun m => m.tile == 7 && !m.acked)).isSome = true := by decide +kernel
/-- A fault queue of 16 records in HBM (R418). -/
def faultQ : State := bytes 0x210000 (bytesOf 16 (4 * 2 ^ 64)) { quiet with mmio := { quiet.mmio with fqcfg := 0x210000 } }
/-- `TranslationEvents`: without and with a fault queue. -/
theorem witness_fault_queue : faultQueue quiet = none ∧ (faultQueue faultQ).isSome = true := by decide +kernel
/-- `StationEvents`: a station with no counter value left, one with some, and one in skid mode. -/
theorem witness_spent : spent { tx := some 1, sent := 2 ^ 64 - 1 } = true ∧ spent { tx := some 1, sent := 2 ^ 64 - 2 } = false
    ∧ spent { tx := some 1, nextTx := some 2, sent := 2 ^ 64 - 1 } = false ∧ ({ mode := true } : Station).mode = true ∧ 4 ≤ ({ tagFails := 3 } : Station).tagFails + 1 := by decide
/-- A frame with a Farpor header of 24 bytes and no payload. -/
def frame24 : Frame := { host := 3, bytes := 86, tags := 1, ethertype := 0x86DD, nextHeader := 17, port := 47120, sumOk := true
                         payload := bytesOf 24 (2 ^ 60 + 6 * 2 ^ 56 + 2 ^ 32) }
/-- `AcknowledgementAndDrops`: frames that the tables admit and that they do not, each bound on both sides; a packet sent once, in credit. -/
theorem witness_frames : frameOk quiet frame24 = true ∧ headerOk frame24.payload = true ∧ frameOk quiet { frame24 with bytes := 9216 } = true
    ∧ frameOk quiet { frame24 with bytes := 9217 } = false ∧ frameOk quiet { frame24 with tags := 2 } = false ∧ headerOk (frame24.payload.take 23) = false
    ∧ headerOk (bytesOf 24 (2 ^ 60 + 7 * 2 ^ 56)) = false ∧ inCredit { session1 with credit := 1 } 4 = true ∧ inCredit session1 4 = false := by decide +kernel
/-- R381: a frame that is too long is dropped and counted; R382: so is one whose VER is not 1. -/
theorem test_frames : after (on (.frame { frame24 with bytes := 9217 }) .frameDrop) (fun t => t.port.drops == 1) = true
    ∧ after (on (.frame { frame24 with payload := bytesOf 24 (2 * 2 ^ 60) }) .frameDrop) (fun t => t.port.drops == 1) = true := by decide +kernel
/-- `RailsAndResets`, `BootPhases`, `BobbinRegisters`: Bobbin's image in use and not; each phase in which a failure ends the boot; five rails up. -/
theorem witness_boot_failures : State.reset.bob.booted = false ∧ (boots fun b => { b with booted := true }).bob.booted = true
    ∧ bobbinUp (boots fun b => { b with phase := 3 }).bob = true ∧ bobbinUp (boots fun b => { b with phase := 5 }).bob = true
    ∧ (boots fun b => { b with phase := 1, rails := 5 }).bob.rails = 5 := by decide +kernel
/-- `TimePasses`: no shard waits and nothing is withheld. -/
theorem witness_idle_device : quiet.lin.asks = [] ∧ quiet.fab.withheld = [] := by decide
/-- A context that waits for the array of its quad. -/
def asking : State := updLease (fun l => { l with session := some false, waiting := true }) quiet
/-- A die whose budget step is 1 and whose allocation is `n`. -/
def stepped (n : Nat) : State := updPow 1 (fun p => { p with budget := 1, dbud := n }) quiet
/-- `PowerEvents`: a request with the array free and one with it held; a lease that is over and one that is not; a request passed over; an array that is
neither held nor in a tail; a budget step that can fall, and one that cannot; a core without a task. -/
theorem witness_grants : (arrOf asking 0).holder = none ∧ (chooseReq (arrOf asking 0).last (leaseReqs asking 0)).map (·.core) = some 0
    ∧ asking.cx.lease.waiting = true ∧ asking.cx.lease.gang = false ∧ (arrOf (leased true) 0).holder = some 0
    ∧ leaseOver { leased true with clock := 4096 } 0 = true ∧ leaseOver { leased true with clock := 4095 } 0 = false
    ∧ (chooseReq 0 [⟨0, false, 9, 5, false⟩, ⟨1, false, 3, 6, true⟩]).map (·.core) = some 1 := by decide +kernel
theorem witness_budget_steps : heldArray quiet 5 = false ∧ tailing quiet 5 = false
    ∧ 0 < ((stepped 5000).pow[(1 : Fin 4)]).budget ∧ ((stepped 5000).pow[(1 : Fin 4)]).lowered = 0
    ∧ chargesAt (stepped 5000) 1 (issueStep (stepped 5000) { (stepped 5000).pow[(1 : Fin 4)] with budget := 0 }) + classWeight (stepped 5000) 7 ≤ 5000
    ∧ 0 < chargesAt (stepped 0) 1 (issueStep (stepped 0) { (stepped 0).pow[(1 : Fin 4)] with budget := 0 }) + classWeight (stepped 0) 7
    ∧ (coreOf quiet 1).1.task.isNone = true ∧ (coreOf quiet 1).2.standby.isNone = true := by decide +kernel
/-- A cast store of device 3 to group 5, and a switch at which group 5 of devices 0 and 3 stands. -/
def fromPeer : CastItem := { g := 5, src := 3, serial := 1, off := 64, data := [1, 2, 3, 4, 5, 6, 7, 8] }
def grouped (frozen : Bool) : State :=
  { joined with fab := { joined.fab with groups := [{ g := 5, members := [0, 3], next := 4, plane := 0, size := 4096, frozen := frozen }] } }
/-- `CastEvents`: what a switch receives of a member and of a stranger, on both sides of each clause; the next number and an old one at a member. -/
theorem witness_stamping : received fromPeer (grouped false) = some fromPeer ∧ (swGroup (grouped false) 5).isSome = true ∧ (grouped false).dev = 0
    ∧ (memberOf joined 5).map (fun m => [m.gap, m.joining, m.frozen, !m.kept.isEmpty, seqSucc m.applied != 4, seqLe 4 m.applied, !seqLe 3 m.applied,
        m.serials.contains (fromPeer.src, fromPeer.serial), !seqLe m.first 4, !m.ring.isEmpty]) = some (List.replicate 10 false)
    ∧ (memberOf joined 6).isNone = true ∧ ((grouped false).fab.groups.all (·.plane != 7)) = true := by decide +kernel
/-- R101: the switch stamps the store with its number; R102, R103: the member writes it at its offset and has then applied it. -/
theorem test_stamping : after (on (.castStamp fromPeer) .castStamp (grouped false)) (fun t => (swGroup t 5).map (·.next) == some 5) = true
    ∧ after (on (.castStamp fromPeer) .castStamp (grouped true)) (fun t => (swGroup t 5).map (·.next) == some 4) = true
    ∧ after (on (.stamped 4 fromPeer) .stamped joined) (fun t => t.mem.read none 0x210040 8 == fromPeer.data && (memberOf t 5).map (·.applied) == some 4) = true := by
  decide +kernel
/-- A contribution of device 3, and the slot that another one has opened. -/
def red3 : RedItem := { g := 5, tag := 3, src := 3, op := .add, int := true, nanskip := false, value := 7 }
def slot5 : RSlot := { g := 5, tag := 3, op := .add, int := true, nanskip := false, expected := [0, 3], got := [(0, 5)] }
/-- `ReductionEvents`: no slot and an open one, a pair that is fenced, a slot that is not due, a contribution that a NACK reaches and a pair with none. -/
theorem witness_contributions : fencedOf (grouped false) 5 3 = [] ∧ (grouped false).fab.rslots.isEmpty = true
    ∧ (fencedOf { quiet with fab := { quiet.fab with fences := [⟨5, 3, [3], 0⟩] } } 5 3).contains 3 = true ∧ slot5.op = red3.op
    ∧ slot5.got.any (·.1 == 3) = false ∧ { slot5 with got := [(3, 5)] }.got.any (·.1 == 3) = true
    ∧ slot5.since + redTimeout quiet 5 = micros 20 ∧ pendingFred quiet 5 3 = none
    ∧ pendingFred { quiet with fab := { quiet.fab with freds := [⟨2, { red3 with src := 0 }, false, false, false, 0, none⟩] } } 5 3 = some 2 := by decide +kernel
/-- R108, R109: the first contribution opens a slot for all members, and the last expected one releases it. -/
theorem test_contributions : after (on (.red red3) .red (grouped false)) (fun t => t.fab.rslots.map (·.expected) == [[0, 3]]) = true
    ∧ after (on (.red red3) .red { grouped false with fab := { (grouped false).fab with rslots := [slot5] } }) (fun t => t.fab.rslots == []) = true
    ∧ (redOutcome { slot5 with got := [(0, 5), (3, 7)] } 0).value = 12 := by decide +kernel
/-- `TranslationEvents`: a fault queue with room, no signal, and no waiter of the page. -/
theorem witness_first_fault : (faultQueue faultQ).map (fun q => decide ((q.2.1 + 2 ^ 32 - q.2.2.1) % 2 ^ 32 ≠ q.2.2.2)) = some true ∧ faultQ.mmio.fqsig = 0
    ∧ faultQ.xl.waiters.isEmpty = true := by decide +kernel
/-- `ShardAndLossEvents`: a record in each state that R44 names, and its storage. -/
theorem witness_losses : ([VState.pending, .sealed, .replicating, .replica, .recovering, .lost, .failed].map fun st =>
    (recOf (withVersion st) 0x1000001).map (·.st)) = [.pending, .sealed, .replicating, .replica, .recovering, .lost, .failed].map some
    ∧ (version .sealed).place.dev = (withVersion .sealed).dev ∧ (version .recovering).rep.isNone = true := by decide +kernel
/-- `PreemptionAndMachineChecks`: the task of core 0 leaves for an image, and is in no pair. -/
theorem witness_save : (saveOff (.bank 0 true) quiet).isSome = true
    ∧ ((saveOff (.bank 0 true) quiet).bind fun u => (coreOf quiet 0).1.task.bind (partnerLoc u.2)).isNone = true := by decide +kernel
/-- R412: the AES-256 example of FIPS 197, appendix C.3. -/
theorem test_aes : natOf (aesEnc (BitVec.ofNat 256 (natOf ((List.range 32).map (BitVec.ofNat 8)))) ((List.range 16).map fun i => BitVec.ofNat 8 (17 * i))).reverse
    = 0x8ea2b7ca516745bfeafc49904b496089 := by decide +kernel
/-- R427: the SHA-384 example "abc" of FIPS 180-4. -/
theorem test_sha : sha384 [0x61, 0x62, 0x63] = 0xcb00753f45a35e8bb5a03d699ac65007272c32ab0eded1631a8b605a43ff5bed8086072ba1e7cc2358baeca134c825a7 := by
  decide +kernel

/-! ## Steps, fetching and reset -/

/-- A placed state in user mode whose word is given. -/
def placedUser (v : Nat) : State := bank (fun c => { c with pr := { c.pr with priv := false } }) (placeWord v State.reset)
/-- What the fetch finds in a state: the line's kind, its check, and what the decoder says. -/
def fetched (s : State) (p : Nat → Nat → State → Bool) : Bool :=
  gives (fetchLine (s.cx.pc.toNat / 128 * 128) s) fun l t => p l (s.cx.pc.toNat % 128 / 4) t && t.cx.pc == s.cx.pc
/-- `StepRunsDecoded`: nothing scripted, nothing due, nothing holds the core, a code line, a START, a word that decodes. -/
theorem witness_step : quiet.script = [] ∧ quiet.due = [] ∧ (heldTurn (pump (gangAgain quiet))).isNone = true ∧ (pump (gangAgain quiet)).cx.pc = 0x200008
    ∧ mirroring quiet = false ∧ fetched (pump (gangAgain quiet)) (fun l j _ => lineKind l == 0 && lineOk l && 2 ≤ j && lineStart l j
      && decode (lineWord l j) (lineWord l (j + 1)) (lineWord l (j + 2)) == .ok .nop) = true := by decide +kernel
/-- `StepOccurrence`: an occurrence that is due, and one that the script lets happen. -/
theorem witness_occurrence (e : Event) (s : State) : ({ s with script := [], due := [e] } : State).due = e :: [] ∧ ({ s with script := [.input e] } : State).script = .input e :: [] :=
  ⟨rfl, rfl⟩
/-- `FetchChecks`: a line whose header is wrong (R177), an address in an instruction's middle, a word of engine 7 (R169), and a SYS word with a bad field. -/
theorem witness_fetch_checks : fetched (bytes 0x200004 [0x80] quiet) (fun l _ _ => lineKind l != 1 && lineKind l != 2 && !lineOk l) = true
    ∧ fetched (placeWord 0 State.reset) (fun l j _ => lineKind l == 0 && lineOk l && lineStart l j && !lineStart l (j + 1)) = true
    ∧ fetched (placeWord 0xE0000000 State.reset) (fun l j _ => lineOk l && lineStart l j
        && decode (lineWord l j) (lineWord l (j + 1)) (lineWord l (j + 2)) == .error .engine) = true
    ∧ fetched (placedUser 0xC0000001) (fun l j t => lineOk l && lineStart l j && t.cx.pr.priv == false
        && decode (lineWord l j) (lineWord l (j + 1)) (lineWord l (j + 2)) == .error (.field true)) = true := by decide +kernel
/-- R169: words of engine 7 are ILLEGAL at the fetch, a SYS field that must be zero PRIVILEGE in user mode. -/
theorem test_fetch : traps (step (placeWord 0xE0000000 State.reset)) cILLEGAL 0x200008 = true ∧ traps (step (placedUser 0xC0000001)) cPRIVILEGE 0x200008 = true := by
  decide +kernel
/-- A fetched word runs: LI S2, 256 (R195) is the first word of the machine with it placed after reset, and the pc goes to word 2 of the next line, since the line holds no other START (R178). -/
theorem test_step : after (step (State.reset.withFetchWord 32 0x08010100)) (fun t => sget t.cx 2 == 256 && t.cx.pc == 0x200088) = true := by decide +kernel
/-- `TimePasses`: with a task and with none; R331: TIMER is not above the time that has passed. -/
theorem witness_time : quiet.cx.task.isSome = true ∧ State.reset.cx.task = none := ⟨rfl, rfl⟩
/-- `ControlKeepsMemoryForm`, `ResetMemoryForm`: a word of the control engine in a state of canonical memory that answers a next state. -/
theorem witness_memory_form : wordsCtl .nop ≠ [] ∧ quiet.mem.wf = true ∧ after (exec .nop quiet) (fun _ => true) = true := by decide +kernel
/-- `DecodeEncodeCtl` and its fellows, `DecodeChecks`, `WordCounts`: well-formed instructions of every engine with their words, of one, two and three words. -/
theorem witness_encodings : (Instr.add 3 (.s 5) (.s 7)).WellFormed ∧ wordsCtl (.add 3 (.s 5) (.s 7)) ≠ []
    ∧ Instr.mcack.WellFormed ∧ wordsSys .mcack ≠ [] ∧ (Instr.mma 0 0 1 .tab false 0).WellFormed ∧ wordsMtx (.mma 0 0 1 .tab false 0) ≠ [] ∧ fullWords (.add 3 (.s 5) (.s 7)) ≠ []
    ∧ decode 0xE0000000 0 0 = .error .engine ∧ fld 0xE0000000 29 3 = 7 ∧ fld 0xC4000000 29 3 = 6 ∧ 16 ≤ fld 0xC4000000 22 7 := by decide +kernel

end Sys2Proof.Tests
end

section
namespace Sys2Proof.Machine

/-! ## Memory: a read after a write (O5) -/

/-- The key of a block is that of its first address. -/
theorem keyOf_block (m : Memory) (x : Nat) : m.keyOf (64 * (x / 64)) = m.keyOf x := by
  simp only [Memory.keyOf, Nat.mul_div_cancel_left _ (show 0 < 64 by decide)]

/-- Bytes that stand in memory under a key are what a read under that key gives. -/
theorem read_eq_of_get {m : Memory} {key : Option (BitVec 512)} {a : Nat} {bs : List Byte}
    (hk : ∀ i < bs.length, m.keyOf (a + i) = key) (hg : ∀ i < bs.length, m.get (a + i) = bs.getD i 0) :
    m.read key a bs.length = bs := by
  refine List.ext_getElem (by simp [Memory.read]) fun i hi hb => ?_
  simp [Memory.read, Memory.read1, hk i hb, hg i hb, hb]

/-- Settles O5: under the blocks' own key a write stores its bytes as they are and changes no key (`get_write_same`), so both the read
and the frame are those of the stored bytes (`get_setAll`). -/
theorem memoryReadAfterWrite : Obligations.MemoryReadAfterWrite := by
  intro m key a bs hkey
  have hget x : (m.write key a bs).get x = (m.setAll a bs).get x := (get_write_same hkey x).1
  have hkeyOf x : (m.write key a bs).keyOf x = m.keyOf x := by
    simp only [Memory.keyOf, (get_write_same hkey x).2]
  refine ⟨read_eq_of_get (fun i hi => ?_) (fun i hi => ?_), fun x hx => ?_, fun x _ => hkeyOf x⟩
  · rw [hkeyOf, ← keyOf_block]
    exact hkey _ (Nat.div_le_div_right (by omega)) (Nat.div_le_div_right (by omega))
  · rw [hget, get_setAll, if_pos (by omega), Nat.add_sub_cancel_left]
  · rw [hget, get_setAll, if_neg (by omega)]

end Sys2Proof.Machine
end

section
namespace Sys2Proof.Machine

/-! ## What sending and raising leave (R400, R403) -/

/-- From `s` to `t` at most the stations, the withheld messages, the occurrences that are due and the outbox change. -/
def OnlySends (s t : State) : Prop :=
  t = { s with fab := { s.fab with st := t.fab.st, withheld := t.fab.withheld }, due := t.due, outbox := t.outbox }

theorem OnlySends.refl (s : State) : OnlySends s s := rfl

theorem OnlySends.trans {s t u : State} (h : OnlySends s t) (k : OnlySends t u) : OnlySends s u := by
  unfold OnlySends at h k ⊢
  rw [k, h]

/-- Steps that only send, one after another, only send. -/
theorem OnlySends.foldl {α : Type} {f : State → α → State} (hf : ∀ s x, OnlySends s (f s x)) (l : List α) (s : State) :
    OnlySends s (l.foldl f s) := by
  induction l generalizing s with
  | nil => exact refl s
  | cons x r ih => exact (hf s x).trans (ih (f s x))

theorem OnlySends.mem {s t : State} (h : OnlySends s t) : t.mem = s.mem := (congrArg State.mem h :)

theorem OnlySends.cx {s t : State} (h : OnlySends s t) : t.cx = s.cx := (congrArg State.cx h :)

theorem OnlySends.clock {s t : State} (h : OnlySends s t) : t.clock = s.clock := (congrArg State.clock h :)

/-- An occurrence that is raised changes what is due and nothing else. -/
theorem raiseDue_eq (e : Event) (s : State) : ∃ d, raiseDue e s = { s with due := d } := by
  unfold raiseDue
  split <;> exact ⟨_, rfl⟩

theorem raiseDue_onlySends (e : Event) (s : State) : OnlySends s (raiseDue e s) := by
  obtain ⟨d, h⟩ := raiseDue_eq e s
  rw [h]
  rfl

/-- Occurrences that are raised one after another change what is due and nothing else. -/
theorem foldl_raiseDue_eq (l : List Event) (s : State) : ∃ d, l.foldl (fun s e => raiseDue e s) s = { s with due := d } := by
  induction l generalizing s with
  | nil => exact ⟨_, rfl⟩
  | cons e r ih =>
    obtain ⟨d, hd⟩ := raiseDue_eq e s
    obtain ⟨d', hd'⟩ := ih (raiseDue e s)
    exact ⟨d', by rw [List.foldl_cons, hd', hd]⟩

theorem sealOn_onlySends (n k : Nat) (s : State) : OnlySends s (sealOn n k s) := by
  simp only [sealOn]
  split
  · exact .refl s
  · split
    · refine .trans ?_ (raiseDue_onlySends _ _)
      rfl
    · rfl

theorem send_onlySends (m : Msg) (s : State) : OnlySends s (send m s) := by
  unfold send
  split
  · rfl
  · split
    · exact (sealOn_onlySends _ _ s).trans rfl
    · rfl

theorem sendWithheld_onlySends (s : State) : OnlySends s (sendWithheld s) :=
  .trans (t := { s with fab := { s.fab with withheld := [] } }) rfl (.foldl (fun s m => send_onlySends m s) _ _)

/-- Where nothing is withheld the fabric stands. -/
theorem sendWithheld_fab {s : State} (h : s.fab.withheld = []) : (sendWithheld s).fab = s.fab := by
  simp only [sendWithheld, h, List.foldl_nil]
  rw [← h]

/-! ## What time does to a context (R131, R136, R331) -/

/-- From `c` to `d` at most ENERGY, RAMPHOLD, TIMER and its expiry change. -/
def OnlyAges (c d : Ctx) : Prop :=
  d = { c with energy := d.energy, ramphold := d.ramphold, pr := { c.pr with timer := d.pr.timer, expired := d.pr.expired } }

theorem OnlyAges.trans {c d e : Ctx} (h : OnlyAges c d) (k : OnlyAges d e) : OnlyAges c e := by
  unfold OnlyAges at h k ⊢
  rw [k, h]

theorem tickCtx_onlyAges (n : Nat) (c : Ctx) : OnlyAges c (tickCtx n c) := by
  unfold tickCtx
  split <;> rfl

theorem addEnergy_onlyAges (n : Nat) (c : Ctx) : OnlyAges c (addEnergy n c) := by
  unfold addEnergy
  split <;> rfl

@[simp] theorem addEnergy_pr (n : Nat) (c : Ctx) : (addEnergy n c).pr = c.pr := by
  unfold addEnergy
  split <;> rfl

/-- TIMER of a context with a task counts down and stops at 0 (R331). -/
theorem tickCtx_timer_toNat {c : Ctx} (n : Nat) (h : c.task.isSome = true) :
    (tickCtx n c).pr.timer.toNat = c.pr.timer.toNat - n := by
  unfold tickCtx
  split
  · exact Nat.mod_eq_of_lt (Nat.lt_of_le_of_lt (Nat.sub_le _ _) c.pr.timer.isLt)
  · next hz =>
    have hz : c.pr.timer = 0 := by simpa [h] using hz
    simp [hz]

/-- The context of an empty bank spends no time. -/
theorem tickCtx_of_no_task {c : Ctx} (n : Nat) (h : c.task = none) : tickCtx n c = c := by simp [tickCtx, h]

/-! ## What time does to the device (R2, R331, R439) -/

/-- From `s` to `t` at most what the passing of time concerns changes: the clock and the free values, the moving context's share, the
other cores, power, IDLEEN and THRTIME, and what is sent or becomes due. -/
def OnlyTime (s t : State) : Prop :=
  OnlyAges s.cx t.cx ∧
  t = { s with clock := t.clock, free := t.free, cx := t.cx, others := t.others, pow := t.pow, gov := t.gov
               mmio := { s.mmio with idleen := t.mmio.idleen, thrtime := t.mmio.thrtime }
               fab := { s.fab with st := t.fab.st, withheld := t.fab.withheld }, due := t.due, held := t.held, outbox := t.outbox }

theorem OnlyTime.trans {s t u : State} (h : OnlyTime s t) (k : OnlyTime t u) : OnlyTime s u := by
  obtain ⟨hc, h⟩ := h
  obtain ⟨kc, k⟩ := k
  refine ⟨hc.trans kc, ?_⟩
  rw [k, h]

theorem OnlySends.onlyTime {s t : State} (h : OnlySends s t) : OnlyTime s t := by
  unfold OnlySends at h
  exact ⟨by rw [h]; rfl, by rw [h]⟩

theorem tick_onlyTime (n : Nat) (s : State) : OnlyTime s (tick n s) :=
  ⟨(tickCtx_onlyAges _ _).trans (addEnergy_onlyAges _ _), rfl⟩

theorem noteHolds_onlyTime (s : State) : OnlyTime s (noteHolds s) := ⟨rfl, rfl⟩

/-- A multiply held by ramp sets RAMPHOLD and asks for increments (R133). -/
theorem noteRamp_eq (s : State) : ∃ r d, noteRamp s = { s with cx := { s.cx with ramphold := r }, due := d } := by
  unfold noteRamp
  split
  · obtain ⟨d, h⟩ := raiseDue_eq .governorInterval { s with cx := { s.cx with ramphold := true } }
    exact ⟨true, d, h⟩
  · exact ⟨_, _, rfl⟩

theorem noteRamp_onlyTime (s : State) : OnlyTime s (noteRamp s) := by
  obtain ⟨r, d, h⟩ := noteRamp_eq s
  rw [h]
  exact ⟨rfl, rfl⟩

/-- A core's turn ends with the clocks it took, the ramp, what is sent, and what becomes due. -/
theorem passTurn_eq (s : State) :
    ∃ d, passTurn s = { sendWithheld (noteRamp (noteHolds (tick 1 s))) with due := d, held := [] } := by
  obtain ⟨d, h⟩ := foldl_raiseDue_eq (timely (sendWithheld (noteRamp (noteHolds (tick 1 s))))) (sendWithheld (noteRamp (noteHolds (tick 1 s))))
  exact ⟨_, congrArg (fun t : State => { t with due := t.due ++ t.held, held := [] }) h⟩

theorem passTurn_onlyTime (s : State) : OnlyTime s (passTurn s) := by
  obtain ⟨d, h⟩ := passTurn_eq s
  rw [h]
  have h1 := (tick_onlyTime 1 s).trans (noteHolds_onlyTime _)
  have h2 := h1.trans (noteRamp_onlyTime _)
  have h3 := h2.trans (sendWithheld_onlySends _).onlyTime
  exact h3.trans ⟨rfl, rfl⟩

/-- The clocks of a core's turn: one, and as many more as are free (log 4). -/
theorem passTurn_clock (s : State) : (passTurn s).clock = s.clock + (1 + Config.stepClocks s.free) := by
  obtain ⟨d, h⟩ := passTurn_eq s
  obtain ⟨r, d', h'⟩ := noteRamp_eq (noteHolds (tick 1 s))
  calc (passTurn s).clock = (sendWithheld (noteRamp (noteHolds (tick 1 s)))).clock := by rw [h]
    _ = (noteRamp (noteHolds (tick 1 s))).clock := (sendWithheld_onlySends _).clock
    _ = s.clock + (1 + Config.stepClocks s.free) := by rw [h']; rfl

/-- The privileged registers after a core's turn are those that its clocks leave. -/
theorem passTurn_pr (s : State) : (passTurn s).cx.pr = (tickCtx (1 + Config.stepClocks s.free) s.cx).pr := by
  obtain ⟨d, h⟩ := passTurn_eq s
  obtain ⟨r, d', h'⟩ := noteRamp_eq (noteHolds (tick 1 s))
  calc (passTurn s).cx.pr = (sendWithheld (noteRamp (noteHolds (tick 1 s)))).cx.pr := by rw [h]
    _ = (noteRamp (noteHolds (tick 1 s))).cx.pr := by rw [(sendWithheld_onlySends _).cx]
    _ = (addEnergy (Config.stepEnergy s.free) (tickCtx (1 + Config.stepClocks s.free) s.cx)).pr := by rw [h']; rfl
    _ = (tickCtx (1 + Config.stepClocks s.free) s.cx).pr := addEnergy_pr _ _

/-- Where nothing is withheld the fabric stands. -/
theorem passTurn_fab {s : State} (hw : s.fab.withheld = []) : (passTurn s).fab = s.fab := by
  obtain ⟨d, h⟩ := passTurn_eq s
  obtain ⟨r, d', h'⟩ := noteRamp_eq (noteHolds (tick 1 s))
  have hf : (noteRamp (noteHolds (tick 1 s))).fab = s.fab := by rw [h']; rfl
  calc (passTurn s).fab = (sendWithheld (noteRamp (noteHolds (tick 1 s)))).fab := by rw [h]
    _ = s.fab := by rw [sendWithheld_fab (hf ▸ hw), hf]

/-- Settles O58: every part of a turn's end stays within `OnlyTime`, which gives the frame; the clock and TIMER move by the same clocks. -/
theorem timePasses : Obligations.TimePasses := by
  refine ⟨fun s h => by simp [afterTurn, h], fun s => ?_⟩
  obtain ⟨hc, ht⟩ := passTurn_onlyTime s
  have hclock := passTurn_clock s
  have hpr := passTurn_pr s
  refine ⟨by omega, fun r _ => (congrArg (sget · r) hc :), ⟨(congrArg Ctx.v hc :), (congrArg Ctx.m hc :), (congrArg Ctx.t hc :)⟩,
    ⟨(congrArg Ctx.cfg hc :), (congrArg Ctx.flags hc :), (congrArg Ctx.qdepth hc :)⟩, (congrArg Ctx.pc hc :), (congrArg Ctx.retired hc :),
    (congrArg State.mem ht :), (congrArg State.mmio ht :), (congrArg State.lin ht :), (congrArg State.xl ht :), (congrArg State.fab ht :),
    passTurn_fab, (congrArg State.bob ht :), (congrArg State.me ht :), (congrArg (·.pr.priv) hc :), (congrArg (·.pr.intrap) hc :),
    (congrArg (·.pr.intpend) hc :), fun h => ?_, fun h => ?_⟩
  · rw [hpr, tickCtx_timer_toNat _ h]
    omega
  · rw [hpr, tickCtx_of_no_task _ h]

end Sys2Proof.Machine
end

section
namespace Sys2Proof.Machine

/-! ## Memory under what only sends, raises or notes -/

@[simp] theorem raiseDue_mem (e : Event) (s : State) : (raiseDue e s).mem = s.mem := (raiseDue_onlySends e s).mem
@[simp] theorem send_mem (m : Msg) (s : State) : (send m s).mem = s.mem := (send_onlySends m s).mem
@[simp] theorem takeUid_mem (s : State) : (takeUid s).2.mem = s.mem := rfl

/-- Steps that leave memory, one after another, leave it. -/
theorem foldl_mem {α : Type} {f : State → α → State} (hf : ∀ s x, (f s x).mem = s.mem) (l : List α) (s : State) :
    (l.foldl f s).mem = s.mem :=
  List.foldlRecOn (motive := fun t => t.mem = s.mem) l f rfl fun t ht x _ => (hf t x).trans ht

/-- The same where each step also gives a value. -/
theorem foldl_pair_mem {α β : Type} {f : β × State → α → β × State} (hf : ∀ p x, (f p x).2.mem = p.2.mem) (l : List α) (p : β × State) :
    (l.foldl f p).2.mem = p.2.mem :=
  List.foldlRecOn (motive := fun q => q.2.mem = p.2.mem) l f rfl fun q hq x _ => (hf q x).trans hq

/-- Two states of one memory, whichever is chosen. -/
theorem ite_mem {c : Prop} [Decidable c] {s t : State} {m : Memory} (hs : s.mem = m) (ht : t.mem = m) : (if c then s else t).mem = m :=
  iteInduction (motive := fun u : State => u.mem = m) (fun _ => hs) fun _ => ht

@[simp] theorem setCore_mem (s : State) (n : Nat) (c : Ctx × CoreSt) : (setCore s n c).mem = s.mem := by
  unfold setCore
  split <;> rfl

@[simp] theorem raiseInt_mem (cores : List Nat) (mask : BitVec 3) (s : State) : (raiseInt cores mask s).mem = s.mem :=
  foldl_mem (fun _ _ => setCore_mem _ _ _) _ _

@[simp] theorem sessSend_mem (sess ty : Nat) (resp : Bool) (asks : Option (Nat × W64 × Bool)) (body : List Byte) (s : State) :
    (sessSend sess ty resp asks body s).mem = s.mem := by
  simp only [sessSend]
  split
  · rfl
  · split <;> simp

@[simp] theorem event_mem (cls code : Nat) (unit : BitVec 16) (arg0 arg1 : W64) (s : State) :
    (event cls code unit arg0 arg1 s).mem = s.mem := by
  simp only [event]
  split
  · rw [raiseInt_mem]
    exact foldl_mem (fun s x => by split <;> simp) _ _
  · rfl

@[simp] theorem awaitTag_mem (k : Nat) (c : Ctx) (s : State) : (awaitTag k c s).2.mem = s.mem := by
  unfold awaitTag
  split
  · split <;> rfl
  · rfl

@[simp] theorem usesStation_mem (k : Nat) (op : RemoteOp) (s : State) : (usesStation k op s).mem = s.mem :=
  awaitTag_mem _ _ _

@[simp] theorem sendFar_mem (dev tag len : Nat) (op : RemoteOp) (s : State) : (sendFar dev tag len op s).mem = s.mem := by
  simp [sendFar]

@[simp] theorem askRemote_mem (g : Seg) (s : State) : (askRemote g s).2.mem = s.mem := by
  simp only [askRemote]
  split
  · simp
  · split <;> simp

/-! ## Memory under traps, page faults and barriers -/

@[simp] theorem tellPod_mem (b : Barrier) (all : Bool) (s : State) : (tellPod b all s).mem = s.mem :=
  foldl_mem (fun _ _ => send_mem _ _) _ _

@[simp] theorem barrierCheck_mem (s : State) : (barrierCheck s).mem = s.mem := by
  refine foldl_mem (fun s b => ?_) _ _
  split
  · split
    · simp
    · split <;> simp
  · split <;> simp

@[simp] theorem withdrawArrival_mem (t : TaskRun) (s : State) : (withdrawArrival t s).mem = s.mem := by simp [withdrawArrival]

@[simp] theorem withdrawWait_mem (keep : Option Nat) (s : State) : (withdrawWait keep s).mem = s.mem := by
  simp only [withdrawWait]
  split <;> split <;> simp

@[simp] theorem giveUpFault_mem (s : State) : (giveUpFault s).mem = s.mem := by
  simp only [giveUpFault]
  split <;> rfl

@[simp] theorem startTrap_mem (t : TrapInfo) (s : State) : (startTrap t s).mem = s.mem := by
  unfold startTrap
  exact ite_mem (withdrawWait_mem _ _) ((giveUpFault_mem _).trans (withdrawWait_mem _ _))

@[simp] theorem askHomeFault_mem (home : Fin 1024) (addr : W64) (kind : AccKind) (quid : Option Nat) (s : State) :
    (askHomeFault home addr kind quid s).mem = s.mem := by
  simp only [askHomeFault]
  split <;> simp

@[simp] theorem startFault_mem (home : Fin 1024) (addr : W64) (kind : AccKind) (quid : Option Nat) (s : State) :
    (startFault home addr kind quid s).mem = s.mem := by
  simp only [startFault]
  split <;> simp

@[simp] theorem unread_mem (s0 s : State) : (unread s0 s).mem = s.mem := by
  unfold unread
  split <;> rfl

@[simp] theorem forgetNotes_mem (s : State) : (forgetNotes s).mem = s.mem := rfl

/-! ## The state that an attempt leaves -/

/-- The state that an attempt at a word carries. -/
def Act.state : Act → State
  | .done s | .trap _ _ _ s | .absent _ _ _ s | .wait _ s | .late _ _ _ s | .left s => s

/-- The state that a step of a word carries, with its value or with its end. -/
def Res.state {α : Type} : Res α → State
  | .ok _ s => s
  | .stop x => x.state

@[simp] theorem Act.state_done (s : State) : (Act.done s).state = s := rfl
@[simp] theorem Act.state_trap (c : BitVec 8) (a : W64) (i : Nat) (s : State) : (Act.trap c a i s).state = s := rfl
@[simp] theorem Act.state_absent (h : Fin 1024) (a : W64) (k : AccKind) (s : State) : (Act.absent h a k s).state = s := rfl
@[simp] theorem Act.state_wait (w : Wait) (s : State) : (Act.wait w s).state = s := rfl
@[simp] theorem Act.state_late (c : BitVec 8) (p a : W64) (s : State) : (Act.late c p a s).state = s := rfl
@[simp] theorem Act.state_left (s : State) : (Act.left s).state = s := rfl

/-- What an attempt leaves has the memory that the attempt carries. -/
@[simp] theorem finish_mem (s0 : State) (a : Act) : (finish s0 a).mem = a.state.mem := by
  cases a with
  | done s | left s | trap c addr i s | late c pc addr s | wait w s => simp [finish]
  | absent h addr k s =>
    simp only [finish]
    split <;> simp

/-- What each step of a word keeps, the word keeps. -/
theorem Res.bind_keeps {P : State → Prop} {α : Type} {r : Res α} {f : α → State → Act} (hr : P r.state)
    (hf : ∀ x t, P t → P (f x t).state) : P (r.bind f).state := by
  cases r with
  | ok a s => exact hf a s hr
  | stop x => exact hr

/-- What each of two steps keeps, both keep. -/
theorem Res.andThen_keeps {P : State → Prop} {α β : Type} {r : Res α} {f : α → State → Res β} (hr : P r.state)
    (hf : ∀ x t, P t → P (f x t).state) : P (r.andThen f).state := by
  cases r with
  | ok a s => exact hf a s hr
  | stop x => exact hr

/-- What two steps keep, the one chosen keeps. -/
theorem Res.ite_keeps {P : State → Prop} {α : Type} {c : Prop} [Decidable c] {r r' : Res α} (hr : P r.state) (hr' : P r'.state) :
    P (if c then r else r').state :=
  iteInduction (motive := fun q : Res α => P q.state) (fun _ => hr) fun _ => hr'

/-- What each step of a list keeps, the list keeps. -/
theorem Res.mapM_keeps {P : State → Prop} {α β : Type} {f : α → State → Res β} (hf : ∀ x t, P t → P (f x t).state) (l : List α) {s : State}
    (hs : P s) : P (Res.mapM f l s).state := by
  induction l generalizing s with
  | nil => exact hs
  | cons x r ih => exact andThen_keeps (hf x s hs) fun y t ht => andThen_keeps (ih ht) fun ys u hu => hu

/-- A step that goes on with one that leaves memory leaves what the first one left. -/
theorem Res.andThen_mem {α β : Type} {r : Res α} {f : α → State → Res β} (hf : ∀ x t, (f x t).state.mem = t.mem) :
    (r.andThen f).state.mem = r.state.mem :=
  andThen_keeps (P := fun t => t.mem = r.state.mem) rfl fun x t ht => (hf x t).trans ht

end Sys2Proof.Machine
end

section
namespace Sys2Proof.Machine

/-! ## Memory under translation and checks (R79 to R82, R411, R414) -/

@[simp] theorem page_mem (cs : List Cache) (die : Nat) (s : State) (asid : BitVec 16) (va : Nat) : (page cs die s asid va).2.mem = s.mem := by
  unfold page
  split
  · rfl
  · split
    · rfl
    · split <;> rfl

@[simp] theorem pageAt_mem (cs : List Cache) (s : State) (asid : BitVec 16) (va : Nat) : (pageAt cs s asid va).2.mem = s.mem := by
  unfold pageAt
  split
  · rfl
  · exact page_mem _ _ _ _ _

@[simp] theorem check_mem (cs : List Cache) (s : State) (asid : BitVec 16) (priv : Bool) (spad : Nat) (cls : AccCls) (perm : Perm) (va n : Nat) :
    (check cs s asid priv spad cls perm va n).2.mem = s.mem := by
  unfold check
  split
  · rfl
  · split
    · rfl
    · show (List.foldl _ ([], s) (slices va n)).2.mem = s.mem
      refine foldl_pair_mem (fun p x => ?_) _ _
      exact pageAt_mem cs p.2 asid x.1

@[simp] theorem checkAcc_mem (q : Nat) (s : State) (cls : AccCls) (perm : Perm) (va n : Nat) : (checkAcc q s cls perm va n).2.mem = s.mem :=
  check_mem _ _ _ _ _ _ _ _ _

@[simp] theorem prefetchPage_mem (q va : Nat) (s : State) : (prefetchPage q va s).mem = s.mem := by
  simp only [prefetchPage, prefetchBy]
  split
  · rfl
  · split
    · exact page_mem _ _ _ _ _
    · rfl

@[simp] theorem access_mem (q : Nat) (cls : AccCls) (perm : Perm) (va n : Nat) (s : State) (down : Bool) :
    (access q cls perm va n s down).state.mem = s.mem := by
  have h := checkAcc_mem q s cls perm va n
  unfold access
  split
  · next gs t ht =>
    rw [ht] at h
    have hp : (if cls = .vec ∨ cls = .copy then prefetchPage q (nextPage va n down) t else t).mem = s.mem :=
      ite_mem ((prefetchPage_mem _ _ _).trans h) h
    exact Res.ite_keeps (P := fun u => u.mem = s.mem) hp hp
  · next c a t ht =>
    rw [ht] at h
    refine ite_mem ?_ h
    split
    · exact (event_mem _ _ _ _ _ _).trans h
    · exact h
  · next hm a t ht =>
    rw [ht] at h
    exact h

@[simp] theorem regionAt_mem (q : Nat) (s : State) (va : Nat) : (regionAt q s va).2.mem = s.mem := by
  have h := pageAt_mem (cachesOf s.me q) s s.cx.pr.asid va
  unfold regionAt
  split
  · rfl
  · split <;> next ht => rw [ht] at h; exact h

@[simp] theorem leavesRegion_mem (q at_ : Nat) (cmd : RegionAt) (l : List (Nat × Nat)) (s : State) : (leavesRegion q at_ cmd l s).2.mem = s.mem := by
  induction l generalizing s with
  | nil => rfl
  | cons p r ih =>
    have h := regionAt_mem q s p.1
    unfold leavesRegion
    split
    · next ht => rw [ht] at h; exact h
    · next ht => rw [ht] at h; exact (ih _).trans h
    · next ht =>
      rw [ht] at h
      split
      · exact h
      · exact (ih _).trans h

@[simp] theorem beatAccess_mem (q : Nat) (cmd : W64) (perm : Perm) (va : W64) (n : Nat) (s : State) :
    (beatAccess q cmd perm va n s).state.mem = s.mem := by
  have h := regionAt_mem q s cmd.toNat
  unfold beatAccess
  split
  · next t ht => rw [ht] at h; exact h
  · next r t _ ht =>
    rw [ht] at h
    have h' := leavesRegion_mem q cmd.toNat r (slices va.toNat n) t
    split
    · next ht' => rw [ht'] at h'; exact h'.trans h
    · next ht' => rw [ht'] at h'; exact (access_mem _ _ _ _ _ _ _).trans (h'.trans h)

/-! ## Memory under reads (R88 to R90) -/

@[simp] theorem readMomentOf_mem (s : State) (key : Option (BitVec 512)) (a n : Nat) (fixed : List (Option Byte)) :
    (readMomentOf s key a n fixed).2.mem = s.mem := by
  unfold readMomentOf
  dsimp only
  split <;> rfl

@[simp] theorem snapRead_mem (q : Nat) (key : Option (BitVec 512)) (a n : Nat) (s : State) : (snapRead q key a n s).2.mem = s.mem := by
  unfold snapRead
  dsimp only
  split
  · rfl
  · exact readMomentOf_mem _ _ _ _ _

@[simp] theorem snapReadAll_mem (q : Nat) (key : Option (BitVec 512)) (a n : Nat) (s : State) : (snapReadAll q key a n s).2.mem = s.mem := by
  unfold snapReadAll
  split
  · rfl
  · refine foldl_pair_mem (fun p i => ?_) _ _
    exact snapRead_mem q key _ _ p.2

/-- A read of another device or a host leaves this device's memory, where a refusal ends it in a state of that memory. -/
theorem readFar_mem {q : Nat} {loc : Seg → Nat} {bad : AccStatus → Seg → State → Act} (hb : ∀ e p t, (bad e p t).state.mem = t.mem)
    (g : Seg) (s : State) : (readFar q loc bad g s).state.mem = s.mem := by
  unfold readFar
  dsimp only
  split
  · rfl
  · split
    · exact hb _ _ _
    · split
      · rfl
      · refine foldl_mem (fun t p => ?_) _ _
        split
        · rfl
        · exact askRemote_mem p t

@[simp] theorem readSeg_mem (q : Nat) (g : Seg) (s : State) : (readSeg q g s).state.mem = s.mem := by
  unfold readSeg
  split
  · rfl
  · split
    · exact readFar_mem (fun _ _ _ => rfl) _ _
    · split
      · rfl
      · exact snapReadAll_mem _ _ _ _ _

@[simp] theorem readSegs_mem (q : Nat) (gs : List Seg) (s : State) : (readSegs q gs s).state.mem = s.mem :=
  Res.andThen_keeps (P := fun t => t.mem = s.mem) (Res.mapM_keeps (fun g t ht => (readSeg_mem q g t).trans ht) _ rfl) fun _ _ ht => ht

/-! ## Memory under the reads of operands and code lines (R23, R24, R176 to R179, R193, R301) -/

@[simp] theorem fetchBeats_mem (q : Fin 8) (b : Stream) (l : List (W64 × Nat)) (got : List (List Byte)) (s : State) :
    (fetchBeats q b l got s).state.mem = s.mem := by
  induction l generalizing got s with
  | nil => rfl
  | cons p r ih =>
    have h : ((beatAccess 5 b.addr .rd p.1 p.2 s).andThen fun gs s => readSegs 5 gs s).state.mem = s.mem :=
      (Res.andThen_mem fun gs t => readSegs_mem 5 gs t).trans (beatAccess_mem _ _ _ _ _ _)
    rw [fetchBeats]
    refine (Res.andThen_mem fun bs t => ?_).trans h
    exact ih _ _

@[simp] theorem fetchElem_mem (q : Fin 8) (b : Stream) (s : State) : (fetchElem q b s).state.mem = s.mem := by
  unfold fetchElem
  split
  · rfl
  · exact (Res.andThen_mem fun _ _ => rfl).trans (fetchBeats_mem _ _ _ _ _)

@[simp] theorem popStream_mem (pc : W64) (row : Bool) (q : Fin 8) (s : State) : (popStream pc row q s).state.mem = s.mem := by
  have hf (b : Stream) (f : Row → State → Stream) :
      ((fetchElem q b s).andThen fun x t => .ok x (setStream q (some (f x t)) t)).state.mem = s.mem :=
    (Res.andThen_mem fun _ _ => rfl).trans (fetchElem_mem q b s)
  unfold popStream
  split
  · rfl
  · next b _ =>
    dsimp only
    split
    · rfl
    · split
      · rfl
      · split
        · rfl
        · split
          · exact hf b fun _ _ => _
          · exact hf b fun _ _ => _
          · split <;> rfl

@[simp] theorem readSrc_mem (x : Src) (s : State) : (readSrc x s).state.mem = s.mem := by
  cases x with
  | s r => rfl
  | q q => exact (Res.andThen_mem fun _ _ => rfl).trans (popStream_mem _ _ _ _)

@[simp] theorem readSrc2_mem (a b : Src) (s : State) : (readSrc2 a b s).state.mem = s.mem :=
  (Res.andThen_mem fun _ t => (Res.andThen_mem fun _ _ => rfl).trans (readSrc_mem b t)).trans (readSrc_mem a s)

@[simp] theorem fetchLine_mem (va : Nat) (s : State) : (fetchLine va s).state.mem = s.mem := by
  unfold fetchLine
  split
  · rfl
  · refine (Res.andThen_mem fun gs t => ?_).trans (access_mem _ _ _ _ _ _ _)
    split
    · split
      · exact (Res.andThen_mem fun _ _ => rfl).trans (readFar_mem (fun _ _ _ => rfl) _ _)
      · split <;> rfl
    · rfl

@[simp] theorem checkTarget_mem (t : W64) (s : State) : (checkTarget t s).state.mem = s.mem := by
  refine (Res.andThen_mem fun l u => ?_).trans (fetchLine_mem _ s)
  dsimp only
  split <;> rfl

/-! ## Memory under the MMIO registers (R443) -/

@[simp] theorem mmioReadOp_mem (pa : Nat) (h : Half) (s : State) : (mmioReadOp pa h s).2.mem = s.mem := by
  unfold mmioReadOp
  cases mregAt pa with
  | linstat | fstat => exact ite_mem rfl rfl
  | _ => rfl

end Sys2Proof.Machine
end

section
namespace Sys2Proof.Machine

/-! ## Memory under writes of MMIO registers -/

@[simp] theorem answerWaiter_mem (ans : FaultAns) (w : Nat × Nat) (s : State) : (answerWaiter ans w s).mem = s.mem :=
  ite_mem (raiseDue_mem _ _) (send_mem _ _)

@[simp] theorem fansWriteOp_mem (h : Half) (v : W64) (s : State) : (fansWriteOp h v s).mem = s.mem := by
  unfold fansWriteOp
  refine ite_mem rfl ?_
  dsimp only
  split
  · rfl
  · split
    · rfl
    · exact foldl_mem (fun t x => answerWaiter_mem _ _ t) _ _

@[simp] theorem coreMapWriteOp_mem (n : Nat) (h : Half) (v : W64) (s : State) : (coreMapWriteOp n h v s).mem = s.mem := by
  unfold coreMapWriteOp
  split
  · rfl
  · exact ite_mem (event_mem _ _ _ _ _ _) rfl

@[simp] theorem lincfgWriteOp_mem (h : Half) (v : W64) (s : State) : (lincfgWriteOp h v s).mem = s.mem := ite_mem rfl rfl

@[simp] theorem stcfgWriteOp_mem (k : Nat) (h : Half) (v : W64) (s : State) : (stcfgWriteOp k h v s).mem = s.mem := by
  unfold stcfgWriteOp
  refine ite_mem rfl ?_
  split <;> rfl

@[simp] theorem plainMmioWriteOp_mem (pa : Nat) (h : Half) (v : W64) (s : State) : (plainMmioWriteOp pa h v s).mem = s.mem := by
  unfold plainMmioWriteOp
  cases mregAt pa with
  | fqcfg | fqsig => exact updMmio_mem _ s
  | _ => rfl

@[simp] theorem mmioWriteOp_mem (pa : Nat) (h : Half) (v : W64) (s : State) : (mmioWriteOp pa h v s).mem = s.mem := by
  unfold mmioWriteOp
  cases mregAt pa with
  | lincfg => exact lincfgWriteOp_mem h v s
  | pwrcfg | ecwt | thermcfg => exact updMmio_mem _ _
  | coreMap n => exact coreMapWriteOp_mem n h v s
  | fans => exact fansWriteOp_mem h v s
  | stcfg k => exact stcfgWriteOp_mem k h v s
  | _ => exact plainMmioWriteOp_mem pa h v s

/-! ## Stores keep the form of memory (R84, R86, R199) -/

@[simp] theorem sendStore_mem (q : Nat) (e : Option QEntry) (g : Seg) (bs : List (Option Byte)) (s : State) :
    (sendStore q e g bs s).mem = s.mem := by
  simp only [sendStore]
  split
  · simp
  · split <;> simp

theorem writeSegBy_wf (q : Nat) (e : Option QEntry) (g : Seg) (bs : List Byte) {s : State} (h : s.mem.wf = true) :
    (writeSegBy q e g bs s).mem.wf = true := by
  simp only [writeSegBy]
  split
  · exact wf_write _ _ _ h
  · split
    · rw [foldl_mem fun t p => sendStore_mem q e _ _ t]
      exact h
    · exact wf_write _ _ _ h

theorem writeSeg_wf (q : Nat) (g : Seg) (bs : List Byte) {s : State} (h : s.mem.wf = true) : (writeSeg q g bs s).mem.wf = true :=
  writeSegBy_wf _ _ _ _ h

/-! ## The units of atomics keep the form of memory (R201 to R205) -/

theorem unitAmo_wf (op : AmoOp) (n pa c e : Nat) (key : Option (BitVec 512)) {m : Memory} (h : m.wf = true) :
    (unitAmo op n pa c e key m).2.wf = true := by
  unfold unitAmo
  split
  · exact h
  · dsimp only
    split
    · exact wf_write _ _ _ h
    · exact h

theorem unitCas2_wf (pa e c : Nat) (key : Option (BitVec 512)) {m : Memory} (h : m.wf = true) : (unitCas2 pa e c key m).2.wf = true := by
  unfold unitCas2
  split
  · exact h
  · dsimp only
    split
    · exact wf_write _ _ _ h
    · exact h

theorem unitLenq_wf (pa hi c : Nat) (key : Option (BitVec 512)) {m : Memory} (h : m.wf = true) : (unitLenq pa hi c key m).2.wf = true := by
  unfold unitLenq
  split
  · exact h
  · split
    · exact h
    · split
      · exact h
      · exact wf_write _ _ _ (wf_write _ _ _ h)

theorem unitLdeq_wf (pa hi : Nat) (key : Option (BitVec 512)) {m : Memory} (h : m.wf = true) : (unitLdeq pa hi key m).2.wf = true := by
  unfold unitLdeq
  split
  · exact h
  · split
    · exact h
    · split
      · exact h
      · split
        · exact h
        · exact wf_write _ _ _ h

theorem unitChase_wf (pa b lo hi n link : Nat) (key : Option (BitVec 512)) {m : Memory} (h : m.wf = true) :
    (unitChase pa b lo hi n link key m).2.wf = true := by
  unfold unitChase
  split <;> exact h

/-! ## Bodies of control words -/

/-- An error of an earlier load that a word takes leaves memory (R192). -/
theorem lateOf_mem {rs : Option (List (Fin 32))} {s : State} {a : Act} (h : lateOf rs s = some a) : a.state.mem = s.mem := by
  unfold lateOf at h
  dsimp only at h
  split at h
  · cases h
    rfl
  · cases h

/-- A word that goes on with what leaves memory leaves what its first step left. -/
theorem Res.bind_mem {α : Type} {r : Res α} {f : α → State → Act} (hf : ∀ x t, (f x t).state.mem = t.mem) :
    (r.bind f).state.mem = r.state.mem :=
  bind_keeps (P := fun t => t.mem = r.state.mem) rfl fun x t ht => (hf x t).trans ht

/-- Of two ends in states of one memory, whichever is chosen. -/
theorem Act.ite_keeps {P : State → Prop} {c : Prop} [Decidable c] {a b : Act} (ha : P a.state) (hb : P b.state) :
    P (if c then a else b).state :=
  iteInduction (motive := fun x : Act => P x.state) (fun _ => ha) fun _ => hb

theorem ctlCheck_mem (cls : AccCls) (perm : Perm) (ea : W64) (n : Nat) (s : State) : (ctlCheck cls perm ea n s).state.mem = s.mem :=
  Res.ite_keeps (P := fun t => t.mem = s.mem) rfl (access_mem _ _ _ _ _ _ _)

/-! ### Loads and stores -/

theorem loadBody_mem (ins : Instr) (d : Fin 32) (a : Src) (i : BitVec 8) (s : State) : (loadBody ins d a i s).state.mem = s.mem := by
  unfold loadBody
  rcases accessWidth ins with ⟨n, signed⟩
  refine (Res.bind_mem fun base t => ?_).trans (readSrc_mem a s)
  refine (Res.bind_mem fun gs u => ?_).trans (ctlCheck_mem _ _ _ _ t)
  split
  · next g =>
    split
    · rfl
    · split
      · exact mmioReadOp_mem _ _ u
      · split
        · dsimp only
          split
          · rfl
          · split
            · rfl
            · split
              · rfl
              · exact askRemote_mem g u
        · split
          · rfl
          · exact (Res.bind_mem fun _ _ => rfl).trans (readSeg_mem 0 g u)
  · rfl

theorem storeBody_wf (ins : Instr) (d a : Src) (i : BitVec 8) {s : State} (h : s.mem.wf = true) :
    (storeBody ins d a i s).state.mem.wf = true := by
  unfold storeBody
  rcases accessWidth ins with ⟨n, signed⟩
  refine Res.bind_keeps (P := fun t => t.mem.wf = true) (by rwa [readSrc_mem]) fun base t ht => ?_
  refine Res.bind_keeps (P := fun t => t.mem.wf = true) (by rwa [readSrc_mem]) fun v u hu => ?_
  refine Res.bind_keeps (P := fun t => t.mem.wf = true) (by rwa [ctlCheck_mem]) fun gs w hw => ?_
  split
  · split
    · exact hw
    · split
      · exact (congrArg Memory.wf (mmioWriteOp_mem _ _ _ _)).trans hw
      · exact writeSeg_wf _ _ _ hw
  · exact hw

/-! ### Atomics and queues in memory -/

@[simp] theorem wrAll_mem (l : List (Fin 32 × W64)) (s : State) : (wrAll l s).mem = s.mem := by
  unfold wrAll
  exact foldl_mem (fun t x => wr_mem t _ _) _ _

/-- Registers that are to wait for an answer are written with what they hold. -/
theorem heldRegs_mem (dests : List (Fin 32)) (s : State) : (dests.foldl (fun s d => wr s d (sget s.cx d)) s).mem = s.mem :=
  foldl_mem (fun t _ => wr_mem t _ _) _ _

/-- An atomic keeps the form of memory where its unit does. -/
theorem atomicBody_wf {ins : Instr} {b : W64} {n align : Nat} {dests : List (Fin 32)} {here : Seg → Memory → UnitAns × Memory}
    {there : Seg → RemoteOp} (hh : ∀ g m, m.wf = true → (here g m).2.wf = true) {s : State} (h : s.mem.wf = true) :
    (atomicBody ins b n align dests here there s).state.mem.wf = true := by
  unfold atomicBody
  refine Act.ite_keeps (P := fun t => t.mem.wf = true) h (Act.ite_keeps (P := fun t => t.mem.wf = true) h ?_)
  refine Res.bind_keeps (P := fun t => t.mem.wf = true) (by rwa [access_mem]) fun gs t ht => ?_
  split
  · next g =>
    have hu := hh g t.mem ht
    split
    · exact ht
    · split
      · refine (congrArg Memory.wf ?_).trans ht
        exact (heldRegs_mem _ _).trans (sendFar_mem _ _ _ _ _)
      · split
        · next bs m hm =>
          rw [hm] at hu
          exact (congrArg Memory.wf (wrAll_mem _ _)).trans hu
        · next k m hm =>
          rw [hm] at hu
          exact (congrArg Memory.wf (heldRegs_mem _ _)).trans hu
  · exact ht

/-! ### Branches, loops and pops -/

/-- A branch leaves memory where what it writes does. -/
theorem takeBranch_mem (t : W64) {f : State → State} (hf : ∀ s, (f s).mem = s.mem) (s : State) : (takeBranch t f s).state.mem = s.mem :=
  (Res.bind_mem (f := fun _ u => .done (goto t (f u))) fun _ u => hf u).trans (checkTarget_mem t s)

theorem popEmpty_mem (x : Bool) (s : State) : (popEmpty x s).state.mem = s.mem :=
  Act.ite_keeps (P := fun t => t.mem = s.mem) rfl rfl

theorem branchCq_mem (want : Bool) (disp : BitVec 12) (slot : Fin 32) (s : State) : (branchCq want disp slot s).state.mem = s.mem := by
  unfold branchCq
  split
  · exact popEmpty_mem false s
  · dsimp only
    split
    · rfl
    · have h := checkTarget_mem (branchTarget s.cx.pc (disp.signExtend 64) slot) s
      split
      · next ht => rw [ht] at h; exact h
      · next ht => rw [ht] at h; exact ite_mem h h
      · next ht => rw [ht] at h; exact h

theorem jumpTo_mem (a : Src) {f : State → State} (hf : ∀ s, (f s).mem = s.mem) (s : State) : (jumpTo a f s).state.mem = s.mem :=
  (Res.bind_mem fun t u => takeBranch_mem t hf u).trans (readSrc_mem a s)

theorem closeLoop_mem (k : Fin 4) (count : W64) (disp : BitVec 12) (slot : Fin 32) (s : State) : (closeLoop k count disp slot s).state.mem = s.mem :=
  Act.ite_keeps (P := fun t => t.mem = s.mem) (takeBranch_mem _ (setL_mem k _) s) rfl

/-! ### Control registers, boundaries and barriers -/

/-- Where a write to a user register is taken, it is in a state of memory `m`. -/
def TakenOver (m : Memory) (o : Option (Option State)) : Prop := ∀ t, o = some (some t) → t.mem = m

theorem TakenOver.ite {m : Memory} {c : Prop} [Decidable c] {o o' : Option (Option State)} (h : TakenOver m o) (h' : TakenOver m o') :
    TakenOver m (if c then o else o') :=
  iteInduction (fun _ => h) fun _ => h'

theorem TakenOver.taken {m : Memory} {t : State} (h : t.mem = m) : TakenOver m (some (some t)) := by
  rintro _ ⟨⟩
  exact h

theorem TakenOver.checked {m : Memory} {c : Prop} [Decidable c] {t : State} (h : t.mem = m) : TakenOver m (some (if c then some t else none)) := by
  split
  · exact taken h
  · rintro _ ⟨⟩

/-- A write to a user register changes the moving context alone, whether the register takes the value or refuses it. -/
theorem writeUser_mem (n : Nat) (v : W64) (s : State) : TakenOver s.mem (writeUser n v s) :=
  have cfg (f : Cfg → Cfg) : (updCfg f s).mem = s.mem := updCfg_mem f s
  -- VTYPE, RMODE, FLAGS, QDEPTH, FMTSEL, TSHAPE, FMT
  .ite (.checked (cfg _)) <| .ite (.checked (cfg _)) <| .ite (.taken (by rfl)) <| .ite (.checked (by rfl)) <| .ite (.taken (cfg _)) <|
  .ite (.checked (cfg _)) <| .ite (.taken (cfg _)) <|
  -- GCFG, the generator's key and counter, the registers that ignore writes, and no register
  .ite (.checked (cfg _)) <| .ite (.checked (cfg _)) <| .ite (.taken (cfg _)) <| .ite (.taken (cfg _)) <| .ite (.taken (cfg _)) <|
  .ite (.taken (cfg _)) <| .ite (.taken (cfg _)) <| .ite (.taken (cfg _)) <| .ite (.taken (by rfl)) (by rintro _ ⟨⟩)

theorem readUser_mem (n : Nat) (s : State) : ∀ v t, readUser n s = some (v, t) → t.mem = s.mem := by
  unfold readUser
  dsimp only
  repeat' refine iteInduction (motive := fun o : Option (W64 × State) => ∀ v t, o = some (v, t) → t.mem = s.mem) (fun _ => ?_) (fun _ => ?_)
  all_goals rintro v t ⟨⟩
  all_goals rfl

theorem movcPriv_mem (s : State) : (movcPriv s).state.mem = s.mem := Act.ite_keeps (P := fun t => t.mem = s.mem) rfl rfl

/-- What a boundary still waits for leaves memory. -/
theorem unpublished_mem {far : Bool} {s : State} {a : Act} (h : unpublished far s = some a) : a.state.mem = s.mem := by
  unfold unpublished at h
  split at h
  · next b hb => cases h; exact lateOf_mem hb
  · split at h <;> cases h
    rfl

theorem arrive_mem (sc : Scope) (t : TaskRun) (s : State) : (arrive sc t s).state.mem = s.mem := by
  unfold arrive
  dsimp only
  split <;> exact barrierCheck_mem _

end Sys2Proof.Machine
end

section
namespace Sys2Proof.Machine

/-! ## Every control word keeps the form of memory (O60) -/

/-- A meaning keeps the canonical form of memory. -/
def KeepsForm (f : State → Host.Outcome State Fault Refusal) : Prop :=
  ∀ s t : State, s.mem.wf = true → f s = .next t → t.mem.wf = true

/-- A word that is done after what leaves memory leaves what its first step left. -/
theorem Res.bind_done_mem {α : Type} {r : Res α} {g : α → State → State} (hg : ∀ x t, (g x t).mem = t.mem) :
    (r.bind fun x t => .done (g x t)).state.mem = r.state.mem :=
  bind_mem hg

/-- What the body of a control word keeps, the word keeps. -/
theorem ctl_keepsForm {rs : List (Fin 32)} {body : State → Act} (hb : ∀ s, s.mem.wf = true → (body s).state.mem.wf = true) :
    KeepsForm (ctl rs body) := by
  rintro s _ hs ⟨⟩
  rw [finish_mem]
  unfold interlock
  split
  · next a ha => rw [lateOf_mem ha]; exact hs
  · split
    · exact hs
    · exact hb s hs

/-- A control word whose body leaves memory keeps its form. -/
theorem ctl_keepsForm_of_mem {rs : List (Fin 32)} {body : State → Act} (hb : ∀ s, (body s).state.mem = s.mem) : KeepsForm (ctl rs body) :=
  ctl_keepsForm fun s hs => (congrArg Memory.wf (hb s)).trans hs

section
variable (d x y z : Fin 32) (a b : Src)

theorem alu2_keepsForm (f : W64 → W64 → W64) : KeepsForm (alu2 f d a b) :=
  ctl_keepsForm_of_mem fun s => (Res.bind_done_mem fun _ t => wr_mem t d _).trans (readSrc2_mem a b s)

theorem alu1_keepsForm (f : W64 → W64) : KeepsForm (alu1 f d a) :=
  ctl_keepsForm_of_mem fun s => (Res.bind_done_mem fun _ t => wr_mem t d _).trans (readSrc_mem a s)

theorem setReg_keepsForm (v : W64) : KeepsForm (setReg d v) := ctl_keepsForm_of_mem fun s => wr_mem s d v

theorem load_keepsForm (ins : Instr) (i : BitVec 8) : KeepsForm (load ins d a i) := ctl_keepsForm_of_mem (loadBody_mem ins d a i)

theorem store_keepsForm (ins : Instr) (i : BitVec 8) : KeepsForm (store ins a b i) := ctl_keepsForm fun _ hs => storeBody_wf ins a b i hs

theorem amo_keepsForm (op : AmoOp) (ins : Instr) (dbl : Bool) : KeepsForm (amo op ins x y z dbl) :=
  ctl_keepsForm fun _ hs => atomicBody_wf (fun _ _ hm => unitAmo_wf _ _ _ _ _ _ hm) hs

theorem execAmocas2_keepsForm : KeepsForm (execAmocas2 x y z) :=
  ctl_keepsForm fun _ hs => atomicBody_wf (fun _ _ hm => unitCas2_wf _ _ _ _ hm) hs

theorem execLenq_keepsForm : KeepsForm (execLenq x y z) :=
  ctl_keepsForm fun _ hs => atomicBody_wf (fun _ _ hm => unitLenq_wf _ _ _ _ hm) hs

theorem execLdeq_keepsForm : KeepsForm (execLdeq x y z) :=
  ctl_keepsForm fun _ hs => atomicBody_wf (fun _ _ hm => unitLdeq_wf _ _ _ hm) hs

theorem execPchase_keepsForm (f : BitVec 7) : KeepsForm (execPchase x y z f) :=
  ctl_keepsForm fun _ hs => atomicBody_wf (fun _ _ hm => unitChase_wf _ _ _ _ _ _ _ hm) hs

/-- A branch on whether a register is zero, either way. -/
theorem execBz_keepsForm (disp : BitVec 12) (slot : Fin 32) : KeepsForm (execBz d disp slot) :=
  ctl_keepsForm_of_mem fun s => Act.ite_keeps (P := fun t => t.mem = s.mem) (takeBranch_mem _ (fun _ => rfl) s) rfl

theorem execBnz_keepsForm (disp : BitVec 12) (slot : Fin 32) : KeepsForm (execBnz d disp slot) :=
  ctl_keepsForm_of_mem fun s => Act.ite_keeps (P := fun t => t.mem = s.mem) rfl (takeBranch_mem _ (fun _ => rfl) s)

theorem execB_keepsForm (disp : BitVec 17) (slot : Fin 32) : KeepsForm (execB disp slot) :=
  ctl_keepsForm_of_mem fun s => takeBranch_mem _ (fun _ => rfl) s

theorem execCall_keepsForm (disp : BitVec 17) (slot : Fin 32) : KeepsForm (execCall disp slot) :=
  ctl_keepsForm_of_mem fun s => takeBranch_mem _ (fun t => wr_mem t 31 _) s

theorem execCallr_keepsForm : KeepsForm (execCallr d a) := ctl_keepsForm_of_mem (jumpTo_mem a fun t => wr_mem t d _)

theorem execJr_keepsForm : KeepsForm (execJr a) := ctl_keepsForm_of_mem (jumpTo_mem a fun _ => rfl)

theorem execLoop_keepsForm (op : LoopOp) (k : Fin 4) : KeepsForm (execLoop op k) := by
  cases op with
  | close r disp slot => exact ctl_keepsForm_of_mem fun s => closeLoop_mem k _ disp slot s
  | set r => exact ctl_keepsForm_of_mem fun s => setL_mem k _ s
  | get r => exact ctl_keepsForm_of_mem fun s => wr_mem s r _

theorem execLoopi_keepsForm (op : LoopIOp) (k : Fin 4) : KeepsForm (execLoopi op k) := by
  cases op with
  | close n disp slot => exact ctl_keepsForm_of_mem fun s => closeLoop_mem k _ disp slot s
  | set v => exact ctl_keepsForm_of_mem fun s => setL_mem k _ s

theorem execCqpop_keepsForm : KeepsForm (execCqpop d) :=
  ctl_keepsForm_of_mem fun s => by
    split
    · exact popEmpty_mem false s
    · exact wr_mem (dropCq s) d _

theorem execXqpop_keepsForm : KeepsForm (execXqpop d) :=
  ctl_keepsForm_of_mem fun s => by
    split
    · exact popEmpty_mem true s
    · exact wr_mem _ d _

theorem execMovc_keepsForm (n : BitVec 8) : KeepsForm (execMovc a n) :=
  ctl_keepsForm_of_mem fun s => by
    refine Act.ite_keeps (P := fun t => t.mem = s.mem) (movcPriv_mem s) (Act.ite_keeps (P := fun t => t.mem = s.mem) rfl ?_)
    refine (Res.bind_mem fun v t => ?_).trans (readSrc_mem a s)
    split
    · next u hu => exact writeUser_mem _ _ t u hu
    · rfl

theorem execMovcr_keepsForm (n : BitVec 8) : KeepsForm (execMovcr d n) :=
  ctl_keepsForm_of_mem fun s => by
    refine Act.ite_keeps (P := fun t => t.mem = s.mem) (movcPriv_mem s) (Act.ite_keeps (P := fun t => t.mem = s.mem) rfl ?_)
    split
    · next v t ht => exact (wr_mem t d v).trans (readUser_mem _ s v t ht)
    · rfl

theorem execPhase_keepsForm (sc : Scope) : KeepsForm (execPhase sc) :=
  ctl_keepsForm_of_mem fun s => by
    split
    · next act hact => exact unpublished_mem hact
    · rfl

theorem execBar_keepsForm (sc : Scope) : KeepsForm (execBar sc) :=
  ctl_keepsForm_of_mem fun s => by
    split
    · rfl
    · split
      · next act hact => exact unpublished_mem hact
      · refine Act.ite_keeps (P := fun t => t.mem = s.mem) rfl ?_
        split
        · exact arrive_mem sc _ s
        · rfl

theorem execFence_keepsForm : KeepsForm execFence :=
  ctl_keepsForm_of_mem fun s => by
    split
    · next act hact => exact lateOf_mem hact
    · exact Act.ite_keeps (P := fun t => t.mem = s.mem) rfl rfl

theorem execQfence_keepsForm (m : BitVec 7) : KeepsForm (execQfence m) :=
  ctl_keepsForm_of_mem fun s => Act.ite_keeps (P := fun t => t.mem = s.mem) rfl rfl

/-- The words that set the generator's key or counter from two sources (R220). -/
theorem setGenerator_keepsForm (f : W64 × W64 → Cfg → Cfg) :
    KeepsForm (ctl (srcRegs [a, b]) fun s => (readSrc2 a b s).bind fun v s => .done (updCfg (f v) s)) :=
  ctl_keepsForm_of_mem fun s => (Res.bind_done_mem fun v t => updCfg_mem (f v) t).trans (readSrc2_mem a b s)

theorem execTrap_keepsForm (code : BitVec 15) : KeepsForm (execTrap code) := by
  rintro s _ hs ⟨⟩
  exact (congrArg Memory.wf (startTrap_mem _ s)).trans hs

end

/-- Every word of the control engine keeps the canonical form of memory. -/
theorem exec_ctl_keepsForm {i : Instr} (hi : wordsCtl i ≠ []) : KeepsForm (exec i) := by
  cases i with
  | nop => exact ctl_keepsForm_of_mem fun _ => rfl
  | add d a b | sub d a b | and d a b | or d a b | xor d a b | shl d a b | shr d a b | sar d a b | mul d a b | mulh d a b | mulhu d a b
  | div d a b | divu d a b | rem d a b | remu d a b | min d a b | max d a b | minu d a b | maxu d a b | slt d a b | sltu d a b
  | seq d a b =>
    unfold exec
    exact alu2_keepsForm d a b _
  | clz d a | popc d a | addi d a | andi d a | ori d a | xori d a | shli d a | shri d a | sari d a => exact alu1_keepsForm d a _
  | li d | lix d | lix64 d => exact setReg_keepsForm d _
  | ld8 d a i | ld16 d a i | ld32 d a i | ld64 d a i | lds8 d a i | lds16 d a i | lds32 d a i => exact load_keepsForm d a _ i
  | st8 d a i | st16 d a i | st32 d a i | st64 d a i => exact store_keepsForm d a _ i
  | amoadd a b c dbl | amoswp a b c dbl | amocas a b c dbl | amomin a b c dbl | amomax a b c dbl | amoand a b c dbl | amoor a b c dbl
  | amoxor a b c dbl => exact amo_keepsForm a b c _ _ dbl
  | amocas2 a b c => exact execAmocas2_keepsForm a b c
  | lenq a b c => exact execLenq_keepsForm a b c
  | ldeq a b c => exact execLdeq_keepsForm a b c
  | pchase a b c f => exact execPchase_keepsForm a b c f
  | b disp slot => exact execB_keepsForm disp slot
  | bz r disp slot => exact execBz_keepsForm r disp slot
  | bnz r disp slot => exact execBnz_keepsForm r disp slot
  | bcq disp slot => exact ctl_keepsForm_of_mem (branchCq_mem true disp slot)
  | bcqn disp slot => exact ctl_keepsForm_of_mem (branchCq_mem false disp slot)
  | call disp slot => exact execCall_keepsForm disp slot
  | callr d a => exact execCallr_keepsForm d a
  | jr a | ret a => exact execJr_keepsForm a
  | loop op k => exact execLoop_keepsForm op k
  | loopi op k => exact execLoopi_keepsForm op k
  | cqpop d => exact execCqpop_keepsForm d
  | xqpop d => exact execXqpop_keepsForm d
  | movc a n => exact execMovc_keepsForm a n
  | movcr d n => exact execMovcr_keepsForm d n
  | bar sc => exact execBar_keepsForm sc
  | fence => exact execFence_keepsForm
  | phase sc => exact execPhase_keepsForm sc
  | qfence m => exact execQfence_keepsForm m
  | rkey a b | rctr a b | rskip a b => exact setGenerator_keepsForm a b _
  | rnext d => exact ctl_keepsForm_of_mem fun s => (wr_mem _ d _).trans (updCfg_mem _ s)
  | rden d | rdcyc d | rdret d => exact ctl_keepsForm_of_mem fun s => wr_mem s d _
  | rdpwr d => exact ctl_keepsForm_of_mem fun s => wr_mem (readPwrstat s).2 d _
  | trap code => exact execTrap_keepsForm code
  | _ => exact absurd rfl hi

/-- Settles O60: a control word changes memory by writes alone, each of which keeps the form (`wf_write`), and everything else of its
body, and what a fault in it begins, leaves memory. -/
theorem controlKeepsMemoryForm : Obligations.ControlKeepsMemoryForm := fun _ s t hi hs ht => exec_ctl_keepsForm hi s t hs ht

end Sys2Proof.Machine
end

section
namespace Sys2Proof.Machine

/-! ## Scalar sources (O1) and the state of reset (O59) -/

/-- An element that stands in the buffer of a scalar or result stream is read as a scalar, and leaves the buffer (R23). -/
theorem popStream_buffered {q : Fin 8} {s : State} {b : Stream} {x : Row} {rest : List Row} (pc : W64) (hq : s.cx.streams[q] = some b)
    (hk : b.kind = .scalar ∨ b.kind = .result) (hb : b.buf = x :: rest) :
    popStream pc false q s = .ok x (setStream q (some { b with buf := rest }) s) := by
  have hrow : (b.kind == .row || b.kind == .feed) = false := by rcases hk with h | h <;> rw [h] <;> rfl
  simp [popStream, hq, hrow, hb]

/-- A read of an unbound stream register is QUEUE (R24). -/
theorem popStream_unbound {q : Fin 8} {s : State} (pc : W64) (row : Bool) (hq : s.cx.streams[q] = none) :
    popStream pc row q s = .stop (.trap cQUEUE pc 0 s) := by
  simp [popStream, hq]

/-- Settles O1: the S registers by what a write leaves (`sget_sset_same`, `sget_wr_other`), the streams by what a pop gives. -/
theorem scalarSources : Obligations.ScalarSources := by
  refine ⟨⟨fun r s => rfl, fun s v => rfl, fun r s v hr => ⟨sget_sset_same s.cx v hr, fun k hk => ?_⟩, fun q s b x rest hq hk hb => ?_,
    fun q s hq => ?_⟩, fun c => rfl⟩
  · exact sget_wr_other s v fun h => hk (List.mem_singleton.mpr h)
  · simp [readSrc, popStream_buffered s.cx.pc hq hk hb, Res.andThen]
  · simp [readSrc, popStream_unbound s.cx.pc false hq, Res.andThen]

/-- CORE_MAP maps each logical core to itself (R122). -/
theorem reset_coreMap (n : Fin 384) : (State.reset.mmio.coreMap[n]).toNat = n.val := by
  have h : State.reset.mmio.coreMap[n] = BitVec.ofNat 9 n.val := by simp [State.reset]
  rw [h, BitVec.toNat_ofNat]
  exact Nat.mod_eq_of_lt (by omega)

/-- Settles O59: the values stand in the definition of the state of reset. -/
theorem reset : Obligations.Reset :=
  ⟨⟨rfl, rfl, by decide, rfl, rfl, fun _ => rfl, rfl, by decide, by decide, by decide, rfl, by decide, reset_coreMap, rfl, rfl, rfl, rfl, rfl,
    by decide, rfl, rfl, rfl, rfl, rfl⟩, wf_reset⟩

end Sys2Proof.Machine
end

section
namespace Sys2Proof.Machine

/-! ## Two statements about moves that fail (O22, O26) -/

/-- A queue word starts at its routing in a state in which nothing is in flight. -/
theorem starts_of_idle {q : Queue} {i : Instr} {rs : List (Fin 32)} {s : State} (hfl : s.cx.fl = {}) (hlease : s.cx.lease = {})
    (hst : s.cx.streams = Vector.replicate 8 none) (hdepth : s.cx.qdepth = 0x40) : Starts q i rs id s := by
  refine quiet_starts ⟨by rw [hfl], by rw [hfl], by rw [hst]; decide, by rw [hfl], by rw [hfl], by rw [hlease]; rfl, by simp [hfl]⟩
    ⟨⟨by simp [lateOf, hfl], by simp [regBusy, hfl]⟩, by simp [slip, hfl, hdepth]⟩ (fun _ => rfl) (fun _ => rfl) (fun _ => rfl) fun _ => rfl

/-- Whether an outcome is a next state that drains for a trap. -/
def drains (o : Host.Outcome State Fault Refusal) : Bool := match o with | .next t => t.cx.fl.drain.isSome | _ => false

/-- Tile registers of one row of one 4-bit element, which is no whole byte, and in S1 the first address behind the local window. TSHAPE
refuses this shape (R260), but the statement is about every context. -/
def narrowTile : State :=
  let s := wr State.reset 1 0x180000
  { s with cx := { s.cx with cfg := { tshape := Vector.replicate 8 0x10001 } } }

/-- A read of no bytes is checked by its address, which lies in no page (R80). -/
theorem mldt_narrowTile_drains : drains (exec (.mldt 1 0 0 0) narrowTile) = true := by decide +kernel

/-- Refutes O22: a row of no bytes at the end of the local window counts as lying in it, but MLDT of such a row is a PAGE_PERM trap. -/
theorem not_tileMoves : ¬ Obligations.TileMoves := by
  rintro ⟨-, h⟩
  have hrow (r : Nat) (hr : r < shRows (shOf narrowTile.cx.cfg 0)) :
      InWindow (sget narrowTile.cx 1 + BitVec.ofNat 64 r * sget narrowTile.cx 0).toNat (shRowBytes (shOf narrowTile.cx.cfg 0)) narrowTile := by
    obtain rfl : r = 0 := Nat.lt_one_iff.mp hr
    exact ⟨by decide, by decide⟩
  have hrun := (h 1 0 0 0 narrowTile (by decide) (by decide) hrow).1 (starts_of_idle rfl rfl rfl rfl)
  have hdrain := mldt_narrowTile_drains
  rw [hrun] at hdrain
  exact Bool.false_ne_true hdrain

/-- Two indices, both zero, at the start of the local window, and elements of one byte to move to byte 16 from byte 32. Memory holds their
block of 64 bytes under a key: no access of the machine writes a scratchpad under one (R410), but the statement is about every memory. -/
def keyedWindow : State :=
  { wr (wr State.reset 1 16) 2 32 with mem := { ckey := [(spadBase 0 / 64, 0)] } }

/-- The first element's write brings the block under no key, which leaves its ciphertext as its bytes (R412): the second index, read
after it, names an element outside the window. -/
theorem scatter_keyedWindow_drains : drains (exec (.scatter 1 2 0 0 2) keyedWindow) = true := by decide +kernel

/-- Refutes O26: SCATTER reads each index when its turn comes, and an element written to bytes apart from the index array may still
change it, where both share a block that is stored under a key. -/
theorem not_copyMoves : ¬ Obligations.CopyMoves := by
  rintro ⟨-, -, h⟩
  have hidx : InWindow (sget keyedWindow.cx 0).toNat (4 * (2 : BitVec 24).toNat) keyedWindow := ⟨by decide, by decide⟩
  have hsrc : InWindow (sget keyedWindow.cx 2).toNat (2 ^ (0 : Fin 4).val * (2 : BitVec 24).toNat) keyedWindow := ⟨by decide, by decide⟩
  have hzero (k : Nat) (hk : k < 2) : natOf (windowRaw keyedWindow ((sget keyedWindow.cx 0).toNat + 4 * k) 4) = 0 := by
    interval_cases k <;> decide
  have hrun := (h 1 2 0 0 2 keyedWindow hidx).2 (starts_of_idle rfl rfl rfl rfl) hsrc fun k hk _ => by
    beta_reduce
    rw [hzero k hk]
    exact ⟨⟨by decide, by decide⟩, .inr (by decide)⟩
  have hdrain := scatter_keyedWindow_drains
  rw [hrun] at hdrain
  exact Bool.false_ne_true hdrain

end Sys2Proof.Machine
end

section
namespace Sys2Proof.Machine

/-! ## Spawning and signalling (O31) -/

/-- A body that has the moving context's task. -/
theorem withTask_some {s : State} {t : TaskRun} (f : TaskRun → Act) (ht : s.cx.task = some t) : withTask f s = f t := by
  rw [withTask, ht]

/-- A boundary goes on once nothing is unpublished. -/
theorem published_none {s : State} (f : State → Act) (h : unpublished true s = none) : published f s = f s := by
  rw [published, h]

/-- A control word whose body completes. -/
theorem ctl_done {rs : List (Fin 32)} {body : State → Act} {s u : State} (h : Ready rs s) (hb : body s = .done u) :
    ctl rs body s = .next (complete u) := by
  rw [ctl_ready body h, hb, finish_done]

/-- A control word after whose body the context has left its word. -/
theorem ctl_left {rs : List (Fin 32)} {body : State → Act} {s u : State} (h : Ready rs s) (hb : body s = .left u) :
    ctl rs body s = .next u := by
  rw [ctl_ready body h, hb, finish]

/-- A word that has a new slot goes on with its handle (R318). -/
theorem withSlot_some {s s1 : State} {t : TaskRun} {h : W64} (k : W64 → State → Act) (hs : reserveSlot (some t.info.launch) s = (some h, s1)) :
    withSlot t k s = k h s1 := by
  rw [withSlot, hs]

/-- In a recovery run a spawn gives 0 (R49). -/
theorem spawnBody_recovery {s : State} {t : TaskRun} (kind : Nat) (a b : Fin 32) (res : Bool) (ht : s.cx.task = some t) (hk : t.kind = .recovery) :
    spawnBody kind a b res s = .done (wr s a 0) := by
  simp [spawnBody, withTask_some _ ht, hk]

/-- A reservation that no earlier run of the task has made gives a new slot's handle (R318). -/
theorem spawnBody_reserve {s s1 : State} {t : TaskRun} {h : W64} (kind : Nat) (a b : Fin 32) (ht : s.cx.task = some t) (hk : t.kind ≠ .recovery)
    (hp : t.prior.ress[t.acts.ress.length]? = none) (hs : reserveSlot (some t.info.launch) s = (some h, s1)) :
    spawnBody kind a b true s = .done (wr (addActs (fun x => { x with ress := x.ress ++ [h] }) s1) a h) := by
  simp [spawnBody, withTask_some _ ht, hk, hp, withSlot_some _ hs]

/-- A spawn that an earlier run of the task has made gives the handle that it had then (R345). -/
theorem spawnBody_again {s : State} {t : TaskRun} {h : W64} (kind : Nat) (a b : Fin 32) (ht : s.cx.task = some t) (hk : t.kind ≠ .recovery)
    (hp : t.prior.spawns[t.acts.spawns.length]? = some h) :
    spawnBody kind a b false s = .done (wr (addActs (fun x => { x with spawns := x.spawns ++ [h] }) s) a h) := by
  simp [spawnBody, withTask_some _ ht, hk, hp]

/-- A spawn of a packet of its kind that breaks no rule publishes it (R317). -/
theorem spawnBody_packet {s s1 s2 : State} {t : TaskRun} {p : List W64} {kind : Nat} {a b : Fin 32} (ht : s.cx.task = some t) (hk : t.kind ≠ .recovery)
    (hp : t.prior.spawns[t.acts.spawns.length]? = none) (hu : unpublished true s = none) (hr : readPacket (sget s.cx b) s = .ok p s1)
    (hrule : packetRule s1 s1.cx.pr.asid p = (some none, s2)) (hkind : pktKind p = kind) :
    spawnBody kind a b false s = spawnPacket a t p (dropLines s2) := by
  simp [spawnBody, withTask_some _ ht, hk, hp, published_none _ hu, hr, hrule, hkind, Res.bind]

/-- A packet without a handle is published under a new slot's (R317). -/
theorem spawnPacket_new {s s1 : State} {t : TaskRun} {p : List W64} {h : W64} (a : Fin 32) (hh : pktHandle p = 0)
    (hs : reserveSlot (some t.info.launch) s = (some h, s1)) :
    spawnPacket a t p s
      = spawned a h (countSpawn t.info.launch (publish h p ⟨t.info.launch, s.cx.pr.asid, s.cx.cfg.key, t.info.id⟩ (some s1.me) s1)) := by
  simp [spawnPacket, hh, withSlot_some _ hs]

/-- A signal that this device accepts goes on. -/
theorem signalFrom_here {s s1 : State} {h : W64} (k : State → Act) (hd : bits h 63 54 = s.dev.val) (hs : signalHere h s = some s1) :
    signalFrom h k s = k s1 := by
  simp [signalFrom, hd, hs]

/-- Settles O31. -/
theorem spawnAndSignal : Obligations.SpawnAndSignal := by
  refine ⟨fun a b s s1 t h hr ht hk hp hs => ⟨?_, ?_⟩, fun a b s s1 s2 s3 t p h hr ht hk hp hu hpk hrule hh hs => ⟨fun hkind => ?_, fun hkind => ?_⟩,
    fun a b s t h hr ht hk hp => ⟨?_, ?_⟩, fun a b res s t hr ht hk => ⟨?_, ?_⟩, fun a s s1 t hr ht ha hk hn hu hd hs => ?_, fun a s t hr ht hk => ?_⟩
  · exact ctl_done hr (spawnBody_reserve 1 a b ht hk hp hs)
  · exact ctl_done hr (spawnBody_reserve 2 a b ht hk hp hs)
  · exact ctl_done hr ((spawnBody_packet ht hk hp hu hpk hrule hkind).trans (spawnPacket_new a hh hs))
  · exact ctl_done hr ((spawnBody_packet ht hk hp hu hpk hrule hkind).trans (spawnPacket_new a hh hs))
  · exact ctl_done hr (spawnBody_again 1 a b ht hk hp)
  · exact ctl_done hr (spawnBody_again 2 a b ht hk hp)
  · exact ctl_done hr (spawnBody_recovery 1 a b res ht hk)
  · exact ctl_done hr (spawnBody_recovery 2 a b res ht hk)
  · refine ctl_done hr ?_
    simp only [tsigBody, withTask_some _ ht, if_neg hk, if_neg ha, published_none _ hu, if_neg (Nat.not_lt.mpr hn), signalFrom_here _ hd hs]
  · exact ctl_done hr (by simp [tsigBody, withTask_some _ ht, hk])

/-! ## TSTAT, TYIELD and TEXIT (O34) -/

/-- TEXIT of a task that is published and has no pending version leaves the task graph and signals its successors (R329). -/
theorem texitBody_leaves {s : State} {t : TaskRun} (ht : s.cx.task = some t) (he : t.exiting = none) (hk : t.kind ≠ .recovery)
    (hp : (pendingOf s t).isEmpty = true) (hu : unpublished true s = none) (hl : partnerLoc s t = none) :
    texitBody s = signalRest t (exitSuccs s t) (leaveGraph t (exitSuccs s t) (takeSuccs t s)) := by
  simp [texitBody, withTask_some _ ht, he, List.isEmpty_iff.mp hp, published_none _ hu, hk, hl]

/-- TEXIT with a pending version is a SEAL fault (R329). -/
theorem texitBody_pending {s : State} {t : TaskRun} (ht : s.cx.task = some t) (he : t.exiting = none) (hk : t.kind ≠ .recovery)
    (hp : (pendingOf s t).isEmpty = false) : texitBody s = sealFault 0 s := by
  simp [texitBody, withTask_some _ ht, he, List.isEmpty_eq_false_iff.mp hp, hk]

/-- Settles O34. -/
theorem statusAndLeaving : Obligations.StatusAndLeaving := by
  refine ⟨fun a b s hr => ⟨fun hd => ?_, fun hs => ?_⟩, fun s t ht => ⟨fun h => ?_, fun hf hb => ?_⟩,
    fun s t ht he hk hp hu hl => ⟨fun hs => ?_, fun u hs => ?_⟩, fun t h r s s1 hd hs => ?_, fun s t ht he hk hp => ?_⟩
  · exact ctl_done hr (by simp [tstatBody, hd])
  · refine ctl_done hr ?_
    cases hrec : recOf s (sget s.cx b) with
    | none => simp only [tstatBody, hs, hrec, Bool.false_eq_true, if_false, if_true]
    | some r => simp only [tstatBody, hs, hrec, Bool.false_eq_true, if_false, if_true]
  · exact ctl_done (ready_nil s) (by simp only [tyieldBody, withTask_some _ ht, h, if_true])
  · exact ctl_left (ready_nil s) (by simp [tyieldBody, withTask_some _ ht, hf, hb])
  · refine ctl_left (ready_nil s) ((texitBody_leaves ht he hk hp hu hl).trans ?_)
    rw [hs, signalRest]
  · exact ctl_left (ready_nil s) ((texitBody_leaves ht he hk hp hu hl).trans hs)
  · rw [signalRest, signalFrom_here _ hd hs]
  · exact (ctl_ready texitBody (ready_nil s)).trans (by rw [texitBody_pending ht he hk hp])

end Sys2Proof.Machine
end

section
namespace Sys2Proof.Machine

/-! ## Answers and bank switches (O39) -/

/-- An answer for the moving core whose standby bank is empty reaches the word that asked (R95, R192). -/
theorem answered_moving {s : State} {k : Nat} {l : OutLoad} (hs : s.co.standby = none)
    (hl : s.cx.fl.loads.find? (fun l => l.tag == k && !isOpk l.ins) = some l) : answered s.me k s = { s with cx := deliverLoad l s.cx } := by
  have hco : { s.co with standby := none } = s.co := by rw [← hs]
  simp [answered, onBanks, coreOf, setCore, hs, hl, hco]

/-- A stream in memory with room and elements left takes the next one into its buffer (R301). -/
theorem fetchAhead_ok {q : Fin 8} {b : Stream} {s t : State} {x : Row} (hb : s.cx.streams[q] = some b) (hk : b.kind = .scalar ∨ b.kind = .row)
    (hn : b.fetched < b.count) (hroom : b.buf.length < bufferSize b.kind) (hf : fetchElem q b s = .ok x t) :
    fetchAhead q s = setStream q (some { b with fetched := b.fetched + 1, buf := b.buf ++ [x], part := [] }) t := by
  have hmem : (b.kind == .scalar || b.kind == .row) = true := by simpa using hk
  simp [fetchAhead, hb, hmem, hn, hroom, hf]

/-- Whether a context that may switch gives way is decided by how long its word has waited (R119, R311, R315). -/
theorem yieldsNow_iff {s : State} (hs : switchable s.cx = true) (hw : waitOver s s.cx = false) (hq : quiet s = true) :
    yieldsNow s = true ↔ ∃ n, yieldAfter s = some n ∧ s.cx.fl.waitSince + micros n ≤ s.clock := by
  simp [yieldsNow, hs, hw, hq, Option.any_eq_true]

/-- The CWAIT at which a frozen member's group stays starved for 50 µs faults (R311). -/
theorem exec_cwaitStarvedTimeout {core : Nat} {e : QEntry} {a b : Fin 32} {m : Member} {s : State} (hnow : s.now = some (.cwaitStarvedTimeout core))
    (he : (focus core s).cx.fl.pend.find? (fun e => holdsControl e.ins && !e.retained) = some e) (hi : e.ins = .cwait a b)
    (hm : memberOf (focus core s) (groupOf e a) = some m) (hfz : m.frozen = true) (hst : m.starved = true)
    (ht : m.frozenAt + micros 50 ≤ (focus core s).clock) :
    exec .cwaitStarvedTimeout s = .next (focus s.me (settleEntry e (starved (focus core s), e.done))) := by
  show execCwaitStarvedTimeout s = _
  simp [execCwaitStarvedTimeout, hnow, onCore, he, hi, hm, hfz, hst, ht]

theorem coreAnswers : Sys2Proof.Parts.CoreAnswers := by
  refine ⟨fun core k => ⟨fun s h => ?_, fun s h => ?_⟩, fun s k l hs hl => answered_moving hs hl, fun core q s h => ?_,
    fun q b s t x hb hk hn hroom hf => fetchAhead_ok hb hk hn hroom hf, fun uid a s h => ?_, fun core s h => ?_, fun core s h => ⟨fun hy => ?_, fun hy => ?_⟩,
    fun s hs hw hq => ⟨fun h hwait => ?_, fun g n hwait => ?_, fun h t hwait ht => ?_⟩, fun s => ?_,
    fun core e a b m s hnow he hi hm hfz hst ht => exec_cwaitStarvedTimeout hnow he hi hm hfz hst ht⟩
  · show execLoadResponse s = _
    rw [execLoadResponse, h]
  · show execAtomicResponse s = _
    rw [execAtomicResponse, h]
  · show execStreamDelivery s = _
    rw [execStreamDelivery, h]
  · show execFaultAnswer s = _
    rw [execFaultAnswer, h]
  · show execFaultSwitchBackTimeout s = _
    rw [execFaultSwitchBackTimeout, h]
  · show execWaitBankSwitch s = _
    simp [execWaitBankSwitch, h, onCore, hy]
  · show execWaitBankSwitch s = _
    simp [execWaitBankSwitch, h, onCore, hy]
  · rw [yieldsNow_iff hs hw hq]
    rcases hwait with hwait | hwait <;> simp [yieldAfter, hwait]
  · rw [yieldsNow_iff hs hw hq]
    simp [yieldAfter, hwait]
  · rw [yieldsNow_iff hs hw hq]
    cases hx : t.exiting.isSome <;> simp [yieldAfter, hwait, ht, hx, micros]
  · simp [switchBack]

theorem barrierEvents : Sys2Proof.Parts.BarrierEvents := by
  refine ⟨fun k => ⟨fun s h => ?_, fun s h => ?_⟩, fun k b s hb hall => ?_, fun k b s hb hall => ?_, fun k b s hb h => ?_,
    fun k n b s hb hsc ht hw => ?_⟩
  · show execBarrierComplete s = _
    rw [execBarrierComplete, h]
  · show execBarrierTimeout s = _
    rw [execBarrierTimeout, h]
  · simp [completeBarrier, hb, hall]
  · simp [completeBarrier, hb, hall]
  · have hover : barrierOver s b = false := by
      rcases h with h | h <;> simp [barrierOver, h]
    simp [timeoutBarrier, hb, hover]
  · have hover : barrierOver s b = true := by
      rcases hsc with h | h | h <;> simp [barrierOver, h, ht]
    simp [timeoutBarrier, hb, hover, hw]

/-- Settles O39. -/
theorem coreAnswersAndBarriers : Obligations.CoreAnswersAndBarriers := ⟨coreAnswers, barrierEvents⟩

end Sys2Proof.Machine
end

section
namespace Sys2Proof.Machine

/-! ## What scheduling reads and writes (O41) -/

/-- A value that is written is the one read at its key. -/
@[simp] theorem assoc_assocSet_same {α : Type} (l : List (Nat × α)) (k : Nat) (v : α) : assoc (assocSet l k v) k = some v := by
  simp [assoc, assocSet]

/-- A core that is written holds what was written. -/
@[simp] theorem coreOf_setCore_same (s : State) (n : Nat) (x : Ctx × CoreSt) : coreOf (setCore s n x) n = x := by
  by_cases h : n = s.me <;> simp [coreOf, setCore, h]

@[simp] theorem setCore_dist (s : State) (n : Nat) (x : Ctx × CoreSt) : (setCore s n x).dist = s.dist := by
  unfold setCore
  split <;> rfl

@[simp] theorem raiseDue_dist (e : Event) (s : State) : (raiseDue e s).dist = s.dist := by
  obtain ⟨d, h⟩ := raiseDue_eq e s
  rw [h]

@[simp] theorem coreOf_raiseDue (e : Event) (s : State) (n : Nat) : coreOf (raiseDue e s) n = coreOf s n := by
  obtain ⟨d, h⟩ := raiseDue_eq e s
  rw [h]
  rfl

/-- What is raised is due. -/
theorem mem_raiseDue (e : Event) (s : State) : e ∈ (raiseDue e s).due := by
  unfold raiseDue
  split
  · next h => exact List.contains_iff_mem.mp h
  · simp

@[simp] theorem send_dist (m : Msg) (s : State) : (send m s).dist = s.dist := (congrArg State.dist (send_onlySends m s) :)

/-- PRIO has four bits. -/
theorem prioW_lt (w : Waiting) : prioW w < 16 := Nat.mod_lt _ (by decide)

/-! ## Selection and preloading -/

theorem mem_insertOld (c x : Cand) (l : List Cand) : x ∈ insertOld c l ↔ x = c ∨ x ∈ l := by
  induction l with
  | nil => simp [insertOld]
  | cons d r ih =>
    unfold insertOld
    split
    · simp
    · simp only [List.mem_cons, ih]
      tauto

/-- Putting candidates in the order of their age keeps them. -/
theorem mem_foldr_insertOld (x : Cand) (l : List Cand) : x ∈ l.foldr insertOld [] ↔ x ∈ l := by
  induction l with
  | nil => rfl
  | cons c r ih => rw [List.foldr_cons, mem_insertOld, ih, List.mem_cons]

/-- A candidate in selection order is one that the core sees, of the highest PRIO. -/
theorem mem_ordered {s : State} {core : Nat} {x : Cand} (h : x ∈ ordered s core) :
    x ∈ candidates s core ∧ ∀ y ∈ candidates s core, prioW y.w ≤ prioW x.w := by
  simp only [ordered, List.mem_append, mem_foldr_insertOld, List.mem_filter, List.all_eq_true, decide_eq_true_eq] at h
  obtain ⟨htop, -⟩ | ⟨htop, -⟩ := h <;> exact htop

/-- What is selected is a candidate of the highest PRIO that fits the budget (R126, R129). -/
theorem select_some {s : State} {core : Nat} {x : Cand} (h : select s core = some x) :
    x ∈ candidates s core ∧ (∀ y ∈ candidates s core, prioW y.w ≤ prioW x.w) ∧ candFits s core x = true := by
  obtain ⟨hmem, hmax⟩ := mem_ordered (List.mem_of_find?_eq_some h)
  exact ⟨hmem, hmax, List.find?_some h⟩

/-- A free core takes what is selected, where its standby bank holds no waiting context. -/
theorem selectTask_free {s : State} {c : Nat} (ht : (coreOf s c).1.task = none) (hg : (coreOf s c).2.gated = false) (ho : coreOut s c = false)
    (hp : ∀ d, (coreOf s c).2.standby = some d → preloaded d = true) :
    selectTask c s = (select s c).elim s (takeTask c · s) := by
  cases hs : (coreOf s c).2.standby with
  | none => cases hx : select s c <;> simp [selectTask, ht, hg, ho, hs, hx]
  | some d => cases hx : select s c <;> simp [selectTask, ht, hg, ho, hs, hp d hs, hx]

/-- A fresh task that was not preloaded, on a core whose standby bank is empty, starts. -/
theorem takeTask_fresh {s : State} {c : Nat} {x : Cand} (hx : x.src ≠ .standby) (hs : (coreOf (takeCand c x s) c).2.standby = none)
    (hi : x.w.image = none) : takeTask c x s = failUnbound c (startTask c x.w (takeCand c x s)) := by
  obtain ⟨src, w⟩ := x
  cases src with
  | standby => exact absurd rfl hx
  | deque => simp_all [takeTask]
  | pool => simp_all [takeTask]

theorem takeCand_deque (c : Nat) (w : Waiting) (s : State) :
    (coreOf (takeCand c ⟨.deque, w⟩ s) c).2.deque = dropFirst w (coreOf s c).2.deque := by
  simp [takeCand]

/-- A fresh task is preloaded from the deque. -/
theorem preloadTask_fresh {s : State} {c : Nat} {w : Waiting} (hn : nextPreload c s = some w) (hi : w.image = none) :
    (coreOf (preloadTask c s) c).2.standby = some (startCtx (takeCand c ⟨.deque, w⟩ s) w)
      ∧ (coreOf (preloadTask c s) c).2.deque = dropFirst w (coreOf s c).2.deque := by
  simp [preloadTask, hn, hi, takeCand_deque]

/-- A full standby bank is not preloaded. -/
theorem preloadTask_full {s : State} {c : Nat} {t : TaskRun} (ht : (coreOf s c).1.task = some t) (hs : (coreOf s c).2.standby.isSome = true) :
    preloadTask c s = s := by
  obtain ⟨d, hd⟩ := Option.isSome_iff_exists.mp hs
  simp [preloadTask, nextPreload, ht, hd]

/-! ## Dispatchers, ageing and pre-emption for priority -/

theorem report_eq {d : Nat} {s : State} (h : returnPinned d s = s) : report d s = feed (balance d { s with dist := { s.dist with
    reports := s.dist.reports.set! d (4096 - ((s.dist.pools[d]?).getD []).length, topPrio (waitingOn s d)) } }) := by
  rw [report, h]

/-- No task moves that no other die lacks. -/
theorem balance_none {d : Nat} {s : State} (h : ∀ x ∈ waitPlaces s d, stealable x.2.w = true → betterDie s d x.2.w = none) : balance d s = s := by
  have hnone : ((List.range 16).reverse.flatMap fun p => ((waitPlaces s d).filter fun x => stealable x.2.w).filter fun x => prioW x.2.w == p).findSome?
      (fun x => (betterDie s d x.2.w).map (x, ·)) = none := by
    simp only [List.findSome?_eq_none_iff, List.mem_flatMap, List.mem_filter, Option.map_eq_none_iff]
    rintro x ⟨p, -, ⟨hx, hst⟩, -⟩
    exact h x hx hst
  simp only [balance, hnone]

/-- Grouping one task by its PRIO gives the task. -/
theorem flatMap_prio_single (x : Option Nat × DqEntry) :
    ((List.range 16).reverse.flatMap fun p => [x].filter fun x => prioW x.2.w == p) = [x] := by
  have h := prioW_lt x.2.w
  generalize hp : prioW x.2.w = p at h
  interval_cases p <;> simp [List.range, List.range.loop, hp]

/-- The one task of a die that may move goes to a die that lacks it. -/
theorem balance_single {d k : Nat} {x : Option Nat × DqEntry} {s : State} (hl : (waitPlaces s d).filter (fun x => stealable x.2.w) = [x])
    (hb : betterDie s d x.2.w = some k) : balance d s = pushPool k x.2 (takeFrom d x s) := by
  simp only [balance, hl, flatMap_prio_single, List.findSome?_cons, hb, Option.map_some]

/-- A task that has not waited 100 µs stays. -/
theorem ageTask_none {h : W64} {s : State} (hyoung : ∀ n ∈ liveCores s, ∀ e ∈ (coreOf s n).2.deque, e.w.handle = h → aged s e.w = false) :
    ageTask h s = s := by
  have hnone : (liveCores s).findSome? (fun n =>
      ((coreOf s n).2.deque.find? fun e => e.w.handle == h && e.cust == .inDeque && aged s e.w).map (n, ·)) = none := by
    simp only [List.findSome?_eq_none_iff, Option.map_eq_none_iff, List.find?_eq_none, Bool.and_eq_true, beq_iff_eq, not_and, Bool.not_eq_true]
    exact fun n hn e he hw => hyoung n hn e he hw.1
  simp only [ageTask, hnone]

/-- A task that has waited 100 µs goes to the pool of its die. -/
theorem ageTask_single {h : W64} {n : Nat} {e : DqEntry} {s : State} (hl : liveCores s = [n])
    (he : (coreOf s n).2.deque.find? (fun e => e.w.handle == h && e.cust == .inDeque && aged s e.w) = some e) :
    ageTask h s = pushPool (dieOf n) e (setCore s n ((coreOf s n).1, { (coreOf s n).2 with deque := dropFirst e.w (coreOf s n).2.deque })) := by
  simp [ageTask, hl, he]

/-- A ready task asks for no core before 200 ns, without a free save slot, or where a free core may run it (R127). -/
theorem preemptFor_waits {h : W64} {w : Waiting} {s : State} (hf : findWaiting s h = some (none, w))
    (hc : s.clock < w.since + 800 ∨ freeSaveSlots s = 0 ∨ ∃ n, n < 384 ∧ coreFree s n = true ∧ mayRun s n w = true) : preemptFor h s = s := by
  simp only [preemptFor, hf]
  exact if_pos (by simpa [or_assoc] using hc)

/-- A ready task asks the core of the task that gives way. -/
theorem preemptFor_asks {h : W64} {n : Nat} {w : Waiting} {s : State} (hf : findWaiting s h = some (none, w)) (ht : w.since + 800 ≤ s.clock)
    (hs : freeSaveSlots s ≠ 0) (hn : ∀ n, n < 384 → coreFree s n = true → mayRun s n w = false) (hv : victimFor s none w = some n)
    (hp : (coreOf (requestPreempt n s) n).1.task.bind (partnerLoc (requestPreempt n s)) = none) : preemptFor h s = requestPreempt n s := by
  simp only [preemptFor, hf, hv, hp]
  exact if_neg (by simpa [hs, Nat.not_lt.mpr ht] using hn)

/-- The task that gives way runs on an eligible core, at a lower PRIO (R127). -/
theorem victimFor_some {s : State} {k : Option Nat} {w : Waiting} {n : Nat} (h : victimFor s k w = some n) :
    eligibleFor s n w = true ∧ ∃ (c : Ctx) (t : TaskRun), (n, true, c) ∈ banks s ∧ c.task = some t ∧ prioOf t.packet < prioW w := by
  obtain ⟨⟨m, t⟩, hfind, rfl⟩ := Option.map_eq_some_iff.mp h
  obtain ⟨⟨b, act, c⟩, hb, hok⟩ := List.mem_filterMap.mp (List.mem_of_find?_eq_some hfind)
  simp only at hok
  split at hok
  · next u hu =>
    split at hok
    · next hcond =>
      simp only [Option.some.injEq, Prod.mk.injEq] at hok
      obtain ⟨rfl, rfl⟩ := hok
      simp only [Bool.and_eq_true, decide_eq_true_eq] at hcond
      obtain ⟨⟨⟨⟨⟨rfl, -⟩, hprio⟩, -⟩, -⟩, helig⟩ := hcond
      exact ⟨helig, c, u, hb, hu, hprio⟩
    · cases hok
  · cases hok

/-! ## The walker -/

/-- A record of which nothing is left is closed, or its turn waits. -/
theorem walkTurn_done {k : Nat} {n : Nest} {s t : State} {b : Bool} (hn : s.dist.nests.find? (·.slot == k) = some n) (hd : nestDone n = true)
    (hc : closeNest k s = (b, t)) : walkTurn k s = if b then t else { t with held := t.held ++ [.loopNestWalk k] } := by
  cases b <;> simp [walkTurn, hn, hd, hc]

/-- A record of which something is left has a turn, unless it has failed. -/
theorem walkTurn_issue {k : Nat} {n : Nest} {s : State} (hn : s.dist.nests.find? (·.slot == k) = some n) (hd : nestDone n = false) :
    (n.failed = true → walkTurn k s = s) ∧ (n.failed = false → walkFirst n s = n → walkTurn k s = issueTurn n s) := by
  constructor
  · intro hf
    simp [walkTurn, hn, hd, hf]
  · intro hf hw
    simp [walkTurn, hn, hd, hf, hw]

/-- The events of selection, dispatchers and the walker name their operations. -/
theorem schedulingEvents : Sys2Proof.Parts.SchedulingEvents := by
  refine ⟨fun core => ⟨fun s h => ?_, fun s h => ?_⟩, fun d s h => ?_, fun w => ⟨fun s h => ?_, fun s h => ?_⟩, fun n s h => ?_,
    fun src tag w t s h hs => ?_, fun src tag w s h hs => ?_, fun w k b s h => ?_, fun src tag p j x s h hx => ?_, fun src tag p j s h hx => ?_,
    fun c s t ht hs => preloadTask_full ht hs, fun c s ht hg ho hp => ⟨fun x hx => ?_, fun hx => ?_⟩, fun c s x h => select_some h,
    fun c s x hx hs hi => takeTask_fresh hx hs hi, takeCand_deque, fun c w s hn hi => preloadTask_fresh hn hi, fun d s h => report_eq h,
    fun d s h => balance_none h, fun d k x s hl hb => balance_single hl hb, fun h s hy => ageTask_none hy, fun h n e s hl he => ageTask_single hl he,
    fun h w s hf hc => preemptFor_waits hf hc, fun h n w s hf ht hs hn hv hp => preemptFor_asks hf ht hs hn hv hp, fun k n w s h => victimFor_some h,
    fun n s => ?_, fun k n s t hn hd => ⟨fun hc => walkTurn_done hn hd hc, fun hc => walkTurn_done hn hd hc⟩, fun k n s hn hd => walkTurn_issue hn hd,
    fun n x s hx => ?_⟩
  · show execTaskSelection s = _
    rw [execTaskSelection, h]
  · show execPreload s = _
    rw [execPreload, h]
  · show execDispatcherReport s = _
    rw [execDispatcherReport, h]
  · show execAgeing s = _
    rw [execAgeing, h]
  · show execPriorityPreemptionRequest s = _
    rw [execPriorityPreemptionRequest, h]
  · show execLoopNestWalk s = _
    rw [execLoopNestWalk, h]
  · obtain ⟨hdev, hsig⟩ := hs
    show execSignalArrival s = _
    simp only [execSignalArrival, h, signalArrives, hdev, hsig, ne_eq, not_true_eq_false, if_false]
  · obtain ⟨hdev, hsig⟩ := hs
    show execSignalArrival s = _
    simp only [execSignalArrival, h, signalArrives, hdev, hsig, ne_eq, not_true_eq_false, if_false]
  · show execSignalArrival s = _
    rw [execSignalArrival, h]
  · obtain ⟨hslot, hst⟩ := hx
    show execRemoteSpawn s = _
    simp [execRemoteSpawn, h, acceptSpawn, hslot, hst]
  · show execRemoteSpawn s = _
    simp [execRemoteSpawn, h, acceptSpawn, hx]
  · rw [selectTask_free ht hg ho hp, hx, Option.elim_some]
  · rw [selectTask_free ht hg ho hp, hx, Option.elim_none]
  · simp [requestPreempt]
  · simp only [issueTurn, hx]

/-! ## Steals -/

/-- A thief that is in service keeps a copy and sends TAKE (R115). -/
theorem takeOffer_keeps {core sid : Nat} {v : Thief} {w : Waiting} {s : State} (hg : (coreOf s core).2.gated = false) (ho : coreOut s core = false) :
    takeOffer core v sid w s = stealMsg v (fun _ => .take (.core core) sid) [2, BitVec.ofNat 64 sid] (setCore s core ((coreOf s core).1,
      { (coreOf s core).2 with stolen := ⟨sid, v, w⟩ :: (coreOf s core).2.stolen })) := by
  simp [takeOffer, hg, ho]

/-- The timer of an entry that is offered no more does nothing. -/
theorem offerTimeout_none {sid : Nat} {s : State} (he : entryIn s (.offered sid) = none) : offerTimeout sid s = s := by
  simp only [offerTimeout, he]

/-- Before 10 µs the timer does nothing (R115). -/
theorem offerTimeout_early {sid : Nat} {e : DqEntry} {s : State} (he : entryIn s (.offered sid) = some e) (ht : s.clock < e.at_ + micros 10) :
    offerTimeout sid s = s := by
  simp [offerTimeout, he, offerOver, ht]

/-- After 10 µs the entry is back and the steal is over (R115). -/
theorem offerTimeout_over {sid : Nat} {e : DqEntry} {s : State} (he : entryIn s (.offered sid) = some e) (ht : e.at_ + micros 10 ≤ s.clock) :
    offerTimeout sid s = dropSteal sid (reinstate (.offered sid) s) := by
  simp [offerTimeout, he, offerOver, ht]

/-- TAKE before the timer passes the entry into ACKING, and ACK is sent (R115). -/
theorem takeArrives_early {sid : Nat} {th : Thief} {e : DqEntry} {s : State} (he : entryIn s (.offered sid) = some e)
    (ht : s.clock < e.at_ + micros 10) :
    takeArrives th sid s = stealMsg th (fun n => .ack n th sid) [3, BitVec.ofNat 64 sid]
      (mapEntries (fun l => l.map fun e => if e.cust = .offered sid then { e with cust := .acking sid } else e) s) := by
  simp [takeArrives, offerTimeout_early he ht, he]

/-- TAKE of an entry that is back is refused (R115). -/
theorem takeArrives_over {sid : Nat} {th : Thief} {s : State} (ho : entryIn s (.offered sid) = none) (ha : entryIn s (.acking sid) = none) :
    takeArrives th sid s = stealMsg th (fun n => .refuse n th sid) [4, BitVec.ofNat 64 sid] s := by
  simp [takeArrives, offerTimeout_none ho, ho, ha]

/-- What a victim offers waits in its deque, and has the highest waiting priority (R114). -/
theorem offerOf_some {v : Nat} {s : State} {e : DqEntry} (h : offerOf s v = some e) :
    e ∈ (coreOf s v).2.deque ∧ e.cust = .inDeque ∧ ∀ d ∈ (coreOf s v).2.deque, d.cust = .inDeque → prioW d.w ≤ prioW e.w := by
  have hmem := List.mem_of_find?_eq_some h
  have hmax := List.find?_some h
  simp only [List.mem_reverse, List.mem_filter, beq_iff_eq] at hmem
  simp only [List.all_eq_true, List.mem_reverse, List.mem_filter, beq_iff_eq, decide_eq_true_eq] at hmax
  exact ⟨hmem.1, hmem.2, fun d hd hc => hmax d ⟨hd, hc⟩⟩

/-- What may not be offered stays. -/
theorem offerSteal_denied {v : Nat} {th : Thief} {s : State} {e : DqEntry} (h : offerOf s v = some e) (hm : mayOffer s th v e.w = false) :
    offerSteal th v s = s := by
  simp [offerSteal, h, hm]

/-- The victim's core and the steals after an offer of an entry under the next serial number. -/
def offered (th : Thief) (v : Nat) (e : DqEntry) (s : State) : State :=
  let t := setCore (takeUid s).2 v ((coreOf s v).1, { (coreOf s v).2 with
    deque := (coreOf s v).2.deque.map fun x => if x = e then { x with cust := .offered s.uid, at_ := s.clock } else x })
  { t with dist := { t.dist with steals := (s.uid, th) :: t.dist.steals } }

@[simp] theorem offered_deque (th : Thief) (v : Nat) (e : DqEntry) (s : State) : (coreOf (offered th v e s) v).2.deque
    = (coreOf s v).2.deque.map fun x => if x = e then { x with cust := .offered s.uid, at_ := s.clock } else x :=
  congrArg (·.2.deque) (coreOf_setCore_same (takeUid s).2 v _)

@[simp] theorem offered_steals (th : Thief) (v : Nat) (e : DqEntry) (s : State) :
    (offered th v e s).dist.steals = (s.uid, th) :: s.dist.steals := by
  simp [offered, takeUid]

/-- An offer to a thief core of this device is raised. -/
theorem offerSteal_core {v n : Nat} {s : State} {e : DqEntry} (h : offerOf s v = some e) (hm : mayOffer s (.core n) v e.w = true) :
    offerSteal (.core n) v s = raiseDue (.offer n (.core v) s.uid e.w) (offered (.core n) v e s) := by
  simp only [offerSteal, h, hm, Bool.not_true, Bool.false_eq_true, if_false]
  rfl

/-- An offer to another device is sent. -/
theorem offerSteal_dev {v : Nat} {d : Fin 1024} {s : State} {e : DqEntry} (h : offerOf s v = some e) (hm : mayOffer s (.dev d) v e.w = true) :
    offerSteal (.dev d) v s = send (.offer d.val s.uid e.w) (offered (.dev d) v e s) := by
  simp only [offerSteal, h, hm, Bool.not_true, Bool.false_eq_true, if_false]
  rfl

theorem dieInService_mapEntries (f : List DqEntry → List DqEntry) (s : State) (d : Nat) :
    dieInService (mapEntries f s) d = dieInService s d := rfl

/-- Where every die is in service, entries that are reinstated stay at the thief end of their deques (R115). -/
theorem reinstate_deque {cu : Custody} {s : State} (h : ∀ d : Nat, d < 4 → dieInService s d = true) : (reinstate cu s).co.deque
    = s.co.deque.filter (·.cust != cu) ++ (s.co.deque.filter (·.cust == cu)).map fun e => { e with cust := .inDeque } := by
  have hnone : (List.range 4).filter (!dieInService s ·) = [] := by
    simpa [List.filter_eq_nil_iff] using h
  simp only [reinstate, dieInService_mapEntries, hnone]
  rfl

/-- ACK with a copy puts it into the thief's deque (R115). -/
theorem ackArrives_copy {core sid : Nat} {v : Thief} {x : Stolen} {s : State} (hx : (coreOf s core).2.stolen.find? (copyFrom · v sid) = some x) :
    let t := pushDeque core x.w (setCore s core ((coreOf s core).1,
      { (coreOf s core).2 with stolen := (coreOf s core).2.stolen.filter (· != x) }))
    (∀ n, v = .core n → ackArrives core v sid s = settleSteal sid true t)
    ∧ (∀ d, v = .dev d → ackArrives core v sid s = if chanUp t 5 then send (.words 5 d.val [5, BitVec.ofNat 64 sid]) t else t) := by
  refine ⟨fun n hv => ?_, fun d hv => ?_⟩ <;> subst hv <;> simp only [ackArrives, hx, stealMsg]

/-- ACK without a copy is refused (R115). -/
theorem ackArrives_noCopy {core sid n : Nat} {s : State} (hx : (coreOf s core).2.stolen.find? (copyFrom · (.core n) sid) = none) :
    ackArrives core (.core n) sid s
      = if s.dist.steals.contains (sid, .core n) then settleSteal sid false s else raiseDue (.refuse n (.core n) sid) s := by
  simp only [ackArrives, hx, stealMsg]

/-- The five messages and the timer of a steal do what the custody protocol says. -/
theorem stealEvents : Sys2Proof.Parts.StealEvents := by
  refine ⟨fun th v s h => ?_, fun core sid v w => ⟨fun s h => ?_, fun s h => ?_, fun s h => ?_⟩, fun th sid s h => ?_,
    fun sid e => ⟨fun s h he => ?_, fun s h he => ?_⟩, fun core sid v w s hg ho => takeOffer_keeps hg ho, fun sid s th e he ht => takeArrives_early he ht,
    fun v th s e he hst => offerSteal_denied he ?_, fun v s e h => offerOf_some h, fun v n s e he hm => ?_, fun v d s e he hm => ?_,
    fun core sid v x s hx => ackArrives_copy hx, fun core sid n s hx => ⟨fun hc => ?_, fun hc => ?_⟩, fun sid s => ⟨rfl, rfl⟩,
    fun cu s h => reinstate_deque h, fun core sid v s h => ?_, fun core sid n s h => ?_, fun th sid s ho ha => takeArrives_over ho ha⟩
  · show execStealRequest s = _
    rw [execStealRequest, h]
  · show execOffer s = _
    rw [execOffer, h]
  · show execAck s = _
    rw [execAck, h]
  · show execRefuse s = _
    rw [execRefuse, h]
  · show execTake s = _
    rw [execTake, h]
  · show execCustodyTimeout s = _
    rw [execCustodyTimeout, h, ← offerTimeout_over he.1 he.2]
  · show execCustodyTimeout s = _
    simp only [execCustodyTimeout, h, offerTimeout_early he.1 he.2]
  · simp only [mayOffer, hst, Bool.false_and]
  · rw [offerSteal_core he hm]
    exact ⟨by simp, by simp, mem_raiseDue _ _⟩
  · rw [offerSteal_dev he hm]
    simp
  · rw [ackArrives_noCopy hx, hc, if_pos rfl]
  · rw [ackArrives_noCopy hx, hc, if_neg Bool.false_ne_true]
  · simp [refuseArrives, h]
  · simp [refuseArrives, h]

/-- Settles O41. -/
theorem schedulingAndSteals : Obligations.SchedulingAndSteals := ⟨schedulingEvents, stealEvents⟩

end Sys2Proof.Machine
end

section
namespace Sys2Proof.Machine

/-! ## Versions: TNEWV, TDECL and TREADV (O32) -/

/-- A control word whose operands are ready leaves what its body comes to. -/
theorem ctl_body {rs : List (Fin 32)} {body : State → Act} {s : State} {x : Act} (h : Ready rs s) (hb : body s = x) :
    ctl rs body s = .next (finish s x) := by
  rw [ctl_ready body h, hb]

/-- A version of a task that is not replayable retains no packet and links no input (R42, R320). -/
theorem newVersion_made {src : Fin 1024} {id producer : W64} {n die outix : Nat} {ty : TileTgt} {info : SpawnInfo} {idx : List W64} {s s1 : State}
    {ixs : List Nat} {pl : Place} (hl : lastVersion s id < 0xFFFFFF) (hi : freeIndices s 1 = some ixs) (ha : allocStore s ty die n = (some pl, s1)) :
    let h := id + BitVec.ofNat 64 (lastVersion s id + 1)
    newVersion src id n ty die producer outix [] info idx none [] s = .made h pl none { s1 with lin := { s1.lin with
      recs := s1.lin.recs ++ [{ index := ixs.headD 0, tile := h, st := .pending, rplay := false, outix := outix, producer := producer
                                pkdev := s.dev, pool := 0, size := n, place := pl, chain := ixs.drop 1, owner := src, since := s1.clock }]
      versions := (id, h.toNat % 2 ^ 24) :: s1.lin.versions.filter (·.1 != id) } } := by
  simp [newVersion, Nat.not_le.mpr hl, hi, ha]

/-- TNEWV of a tile ID whose shard is here gives the version that the shard makes (R320). -/
theorem tnewvBody_made {a b c : Fin 32} {tt : TileTgt} {dsel : Bool} {die : Fin 4} {s s1 : State} {t : TaskRun} {h : W64} {pl : Place}
    {pool : Option (Fin 1024 × Nat)} (ht : s.cx.task = some t) (hid : bits (sget s.cx b) 23 0 = 0) (hc : 1 ≤ (sget s.cx c).toNat)
    (hc' : (sget s.cx c).toNat ≤ 0xFFFFFFC0) (hn : replayPkt t.packet = true → t.acts.allocs.length < 64) (hk : t.kind ≠ .recovery)
    (hf : (actsOf s t).allocs[t.acts.allocs.length]? = none) (hsh : shadowed t = false) (hp : partnerAsks t s = false)
    (hs : servesShard s (sget s.cx b) = true)
    (hm : newVersion s.dev (sget s.cx b) (((sget s.cx c).toNat + 63) / 64 * 64) tt (if dsel then die.val else homeDie (sget s.cx b)) t.handle
      t.acts.allocs.length (if replayPkt t.packet then retainPacket t.packet t.idx else []) t.info t.idx (actsOf s t).pool
      (if replayPkt t.packet then t.decl else []) s = .made h pl pool s1) :
    tnewvBody a b c tt dsel die s
      = .done (wr (updTask (fun t => { t with acts := { t.acts with allocs := t.acts.allocs ++ [h] } }) (notePool pool s1)) a h) := by
  have hcheck : ¬ (bits (sget s.cx b) 23 0 ≠ 0 ∨ (sget s.cx c).toNat < 1 ∨ 0xFFFFFFC0 < (sget s.cx c).toNat) := by omega
  have hroom : ¬ (replayPkt t.packet && decide (64 ≤ t.acts.allocs.length)) = true := by
    simpa using fun hr => hn hr
  have hfresh : freshVersion a (sget s.cx b) (((sget s.cx c).toNat + 63) / 64 * 64) tt (if dsel then die.val else homeDie (sget s.cx b)) t s
      = gotVersion a h none (notePool pool s1) := by
    simp only [freshVersion, hp, hs, hm, hsh, Bool.not_true, Bool.false_eq_true, if_false]
  simp only [tnewvBody, withTask_some _ ht, if_neg hcheck, if_neg hroom, if_neg hk, hf, hfresh]
  rfl

/-- The shards of outputs homed elsewhere that have listed an input are asked no more (R58). -/
theorem linkFar_noted {u : W64} {k : State → Act} {s : State} (l : List W64) {i : Nat} (hd : ∀ v ∈ l, (shardDev s v).isSome = true)
    (hn : ∀ j, j < l.length → s.cx.fl.notes[i + j]? = some .held) : linkFar u k l i s = k s := by
  induction l generalizing i with
  | nil => rfl
  | cons v r ih =>
    obtain ⟨d, hv⟩ := Option.isSome_iff_exists.mp (hd v List.mem_cons_self)
    have hfirst : s.cx.fl.notes[i]? = some .held := hn 0 (Nat.succ_pos _)
    have hrest : linkFar u k r (i + 1) s = k s :=
      ih (fun w hw => hd w (List.mem_cons_of_mem v hw)) fun j hj => by
        rw [Nat.add_right_comm]
        exact hn (j + 1) (Nat.succ_lt_succ hj)
    simp only [linkFar, askShard, hv, askDevice, await, hfirst, hrest, if_true]

/-- Outputs homed elsewhere have a device that serves their shard. -/
theorem shardDev_of_mem_farOutputs {t : TaskRun} {s : State} {v : W64} (h : v ∈ farOutputs t s) : (shardDev s v).isSome = true := by
  unfold farOutputs at h
  split at h
  · simp only [List.mem_filter, Bool.and_eq_true] at h
    exact h.2.1
  · cases h

/-- A version whose record is here is declared with the records that list it (R321). -/
theorem declare_here {t : TaskRun} {h : W64} {k : State → Act} {s : State} {r : VRec} {ixs : List Nat}
    (hl : t.decl.length < if replayPkt t.packet then 64 else 256) (ho : ownPending t h s = false)
    (hi : freeIndices s (linkCost (unlisted s t h)) = some ixs) (hs : servesShard s h = true) (hr : recOf s h = some r) (hst : r.st ≠ .failed)
    (hn : ∀ k, k < (farOutputs t s).length → s.cx.fl.notes[k]? = some .held) :
    declare t h k s = k (settle (settled (updTask (fun t => { t with decl := t.decl ++ [h] }) (linkInput h (unlisted s t h) ixs s)))) := by
  have hroom : ¬ (decide ((if replayPkt t.packet then 64 else 256) ≤ t.decl.length) || ownPending t h s) = true := by
    simpa [ho] using hl
  simp only [declare, if_neg hroom, hi, hs, hr, if_neg hst, if_true]
  exact linkFar_noted _ (fun v hv => shardDev_of_mem_farOutputs hv) fun j hj => by
    rw [Nat.zero_add]
    exact hn j hj

section
variable {s : State} {t : TaskRun} {h : W64}

/-- A run writes a version of its own that is PENDING in its recorded storage, unless it has a buffer for it. -/
theorem writtenAt_own {r : VRec} (hb : t.buffers.find? (·.1 == h) = none) (hr : recOf s h = some r) (ha : (actsOf s t).allocs.contains h = true)
    (hst : r.st = .pending) : writtenAt t h s = some (r.place, r.size) := by
  simp only [writtenAt, hb, ha, hr, hst, Bool.not_true, Bool.false_eq_true, if_false, true_or, if_true]

/-- A run writes no version that it has not allocated. -/
theorem writtenAt_other (hb : t.buffers.find? (·.1 == h) = none) (ha : (actsOf s t).allocs.contains h = false) : writtenAt t h s = none := by
  simp only [writtenAt, hb, ha, Bool.not_false, if_true]

end

section
variable {a b : Fin 32} {s : State} {t : TaskRun} {e : AsidEnt}

/-- TREADV of a version that the run writes gives the address at which it does (R322, R413). -/
theorem treadvBody_own {p : Place} {n : Nat} (ht : s.cx.task = some t) (he : bindOf s.xl s.cx.pr.asid = some e) (hw : e.twen = true)
    (hp : writtenAt t (sget s.cx b) s = some (p, n)) : treadvBody a b s = .done (wr s a (tileVa p)) := by
  simp only [treadvBody, withTask_some _ ht, he, hw, hp, Bool.not_true, Bool.false_eq_true, if_false]

/-- TREADV of a declared version reads its record (R322). -/
theorem treadvBody_declared (ht : s.cx.task = some t) (he : bindOf s.xl s.cx.pr.asid = some e) (hw : e.twen = true)
    (hp : writtenAt t (sget s.cx b) s = none) (hd : t.decl.contains (sget s.cx b) = true) : treadvBody a b s = readVersion a (sget s.cx b) s := by
  simp only [treadvBody, withTask_some _ ht, he, hw, hp, hd, Bool.not_true, Bool.false_eq_true, if_false, if_true]

/-- TREADV of an undeclared version in a replayable task is a SEAL fault (R322). -/
theorem treadvBody_undeclared (ht : s.cx.task = some t) (he : bindOf s.xl s.cx.pr.asid = some e) (hw : e.twen = true)
    (hp : writtenAt t (sget s.cx b) s = none) (hd : t.decl.contains (sget s.cx b) = false) (hr : replayPkt t.packet = true) :
    treadvBody a b s = sealFault (sget s.cx b) s := by
  simp only [treadvBody, withTask_some _ ht, he, hw, hp, hd, hr, Bool.not_true, Bool.false_eq_true, if_false, if_true]

end

/-- An available version of this shard is read at its place (R322). -/
theorem readVersion_avail {a : Fin 32} {h : W64} {s : State} {r : VRec} (hs : servesShard s h = true) (hr : recOf s h = some r) (hst : r.st ≠ .failed)
    (hav : r.st.avail = true) : readVersion a h s = sealedAddr a r.place r.size s := by
  simp only [readVersion, hs, hr, if_neg hst, hav, if_true]

/-- Settles O32: each word's body is taken to its one branch by the hypotheses, and `linkFar_noted` skips the shards that have answered. -/
theorem versions : Obligations.Versions := by
  refine ⟨fun src id producer n die outix ty info idx s s1 ixs pl hl hi ha => newVersion_made hl hi ha,
    fun a b c tt dsel die s s1 t h pl pool hr ht hid hc hc' hn hk hf hsh hp hs hm => ctl_done hr (tnewvBody_made ht hid hc hc' hn hk hf hsh hp hs hm),
    fun a s t hr ht hd => ctl_done hr ?_, fun a s t r ixs hr ht hd hl ho hi hs hrec hst hn => ctl_done hr ?_,
    fun a b s t e hr ht he hw => ⟨fun p n hp => ctl_done hr (treadvBody_own ht he hw hp), fun r hp hd hs hrec hst hav => ctl_done hr ?_,
      fun hp hd hrep => ctl_body hr (treadvBody_undeclared ht he hw hp hd hrep)⟩,
    fun s t h r hb hrec => ⟨writtenAt_own hb hrec, writtenAt_other hb⟩⟩
  · simp only [tdeclBody, withTask_some _ ht, hd, if_true]
  · simp only [tdeclBody, withTask_some _ ht, hd, Bool.false_eq_true, if_false, declare_here hl ho hi hs hrec hst hn]
  · rw [treadvBody_declared ht he hw hp hd, readVersion_avail hs hrec hst hav, sealedAddr]

end Sys2Proof.Machine
end

section
namespace Sys2Proof.Machine

/-! ## Seals, replicas and pins: TSEAL, TREPL and TPIN (O33) -/

/-- The inputs of a seal with their recorded depths; one without a record counts 0 (R59). -/
def recordedDepths (s : State) (l : List W64) : List (W64 × Nat) := l.map fun u => (u, ((recOf s u).map (·.depth)).getD 0)

/-- The depths of inputs whose shards are here are read without a question (R59). -/
theorem withDepths_here {k : List (W64 × Nat) → Nat → State → Act} {s : State} {i : Nat} (l : List W64) (acc : List (W64 × Nat))
    (hl : ∀ u ∈ l, (recOf s u).isSome = true ∨ servesShard s u = true) : withDepths k l i acc s = k (acc ++ recordedDepths s l) i s := by
  induction l generalizing acc with
  | nil => rw [withDepths, recordedDepths, List.map_nil, List.append_nil]
  | cons u r ih =>
    have hrest (d : Nat) (hd : ((recOf s u).map (·.depth)).getD 0 = d) :
        withDepths k r i (acc ++ [(u, d)]) s = k (acc ++ recordedDepths s (u :: r)) i s := by
      rw [ih _ fun v hv => hl v (List.mem_cons_of_mem u hv), List.append_assoc]
      simp only [recordedDepths, List.map_cons, hd, List.singleton_append]
    unfold withDepths
    split
    · next v hv => exact hrest v.depth (by rw [hv]; rfl)
    · next hv _ => exact hrest 0 (by rw [hv]; rfl)
    · next hv hd =>
      have hs : servesShard s u = true := (hl u List.mem_cons_self).resolve_left (by simp [hv])
      rw [if_pos hs]
      exact hrest 0 (by rw [hv]; rfl)

section
variable {h : W64} {t : TaskRun} {s : State}

/-- A recorded seal of a replayable task, of a version that another shard keeps, or of one at REPLICA is complete (R48, R324). -/
theorem finishSeal_done (hd : replayPkt t.packet = true ∨ servesShard s h = false ∨ ∃ r, recOf s h = some r ∧ r.st = .replica) :
    finishSeal h t s = sealDone h t s := by
  by_cases hfar : (replayPkt t.packet || !servesShard s h) = true
  · rw [finishSeal, if_pos hfar]
  · simp only [Bool.or_eq_true, Bool.not_eq_true', not_or] at hfar
    obtain ⟨r, hr, hst⟩ := (hd.resolve_left hfar.1).resolve_left hfar.2
    simp [finishSeal, hfar, hr, hst]

/-- Before REPLICA the seal of a task that is not replayable waits (R48). -/
theorem finishSeal_waits {r : VRec} (hp : replayPkt t.packet = false) (hs : servesShard s h = true) (hr : recOf s h = some r)
    (hst : r.st ≠ .replica) (hf : r.st ≠ .failed) : finishSeal h t s = .wait .other s := by
  simp [finishSeal, hp, hs, hr, hst, hf]

end

/-- The state in which a seal of this shard has been recorded, and the task has nothing left but to finish (R324 step 5). -/
def sealRecorded (h d : W64) (t : TaskRun) (s : State) : State :=
  updTask (fun t => { t with sealing := some h }) (tellPartner h t (noteRings h t
    (settled (recordSeal h d (replayPkt t.packet) (depthOver (recordedDepths s t.decl)) s))))

/-- A seal of this shard is recorded with the digest and the depth over its inputs, and finished (R324 step 5). -/
theorem sealStep_here {h d : W64} {t : TaskRun} {s : State} (hs : servesShard s h = true)
    (hl : ∀ u ∈ t.decl, (recOf s u).isSome = true ∨ servesShard s u = true) :
    sealStep h d t s = finishSeal h t (sealRecorded h d t s) := by
  rw [sealStep, withDepths_here t.decl [] hl, List.nil_append]
  simp only [hs, if_true]
  rfl

/-- A task without a partner seals at once (R324 step 4). -/
theorem pairSeal_single {h d : W64} {t : TaskRun} {k : State → Act} {s : State} (hp : t.pair = none) : pairSeal h d t k s = k s := by
  simp only [pairSeal, hp]
  cases partnerTask s t <;> rfl

/-- TSEAL of an own PENDING version whose bytes are read records their digest, and finishes (R324). -/
theorem tsealBody_here {a : Fin 32} {s s1 : State} {t : TaskRun} {p : Place} {n : Nat} {bs : List Byte} (ht : s.cx.task = some t)
    (hseal : t.sealing ≠ some (sget s.cx a)) (hpair : t.pair = none) (hk : t.kind ≠ .recovery)
    (ha : (actsOf s t).allocs.contains (sget s.cx a) = true) (ho : ownPending t (sget s.cx a) s = true) (hu : unpublished true s = none)
    (hskid : s.cx.fl.skid ≤ s.clock) (hw : writtenAt t (sget s.cx a) s = some (p, n)) (hb : placeBytes p n s = .ok bs s1)
    (hs : servesShard s1 (sget s.cx a) = true) (hl : ∀ u ∈ t.decl, (recOf s1 u).isSome = true ∨ servesShard s1 u = true) :
    tsealBody a s = finishSeal (sget s.cx a) t (sealRecorded (sget s.cx a) (sealDigest bs) t s1) := by
  have hkind : (t.kind == .recovery) = false := beq_eq_false_iff_ne.mpr hk
  have hnew : (t.sealing == some (sget s.cx a)) = false := beq_eq_false_iff_ne.mpr hseal
  simp only [tsealBody, withTask_some _ ht, hnew, ha, ho, hkind, published_none _ hu, if_neg (Nat.not_lt.mpr hskid), hw, hb, Res.bind,
    pairSeal_single hpair, Bool.not_true, Bool.and_false, Bool.false_and, Bool.or_self, Bool.false_eq_true, if_false]
  exact sealStep_here hs hl

/-- TSEAL whose seal has been recorded goes on to finish (R324). -/
theorem tsealBody_again {a : Fin 32} {s : State} {t : TaskRun} (ht : s.cx.task = some t) (hseal : t.sealing = some (sget s.cx a)) :
    tsealBody a s = finishSeal (sget s.cx a) t s := by
  simp only [tsealBody, withTask_some _ ht, hseal, beq_self_eq_true, if_true]

section
variable {a : Fin 32} {s : State} {t : TaskRun} {r : VRec}

/-- TREPL of a REPLICA version has nothing to do (R325). -/
theorem treplBody_replica (wait : Bool) (ht : s.cx.task = some t) (hs : servesShard s (sget s.cx a) = true)
    (hr : recOf s (sget s.cx a) = some r) (hst : r.st = .replica) : treplBody a wait s = .done s := by
  simp [treplBody, withTask_some _ ht, hs, hr, hst]

/-- TREPL without a wait asks for the replica of a SEALED version (R325). -/
theorem treplBody_sealed (ht : s.cx.task = some t) (hk : t.kind ≠ .recovery) (hs : servesShard s (sget s.cx a) = true)
    (hr : recOf s (sget s.cx a) = some r) (hst : r.st = .sealed) (hw : s.cx.fl.wait = .none) :
    treplBody a false s = .done (settle (requestReplica (sget s.cx a) s)) := by
  simp [treplBody, withTask_some _ ht, hk, hs, hr, hst, hw]

/-- TREPL of a PENDING version is a SEAL fault (R325). -/
theorem treplBody_pending (wait : Bool) (ht : s.cx.task = some t) (hk : t.kind ≠ .recovery) (hs : servesShard s (sget s.cx a) = true)
    (hr : recOf s (sget s.cx a) = some r) (hst : r.st = .pending) : treplBody a wait s = sealFault (sget s.cx a) s := by
  simp [treplBody, withTask_some _ ht, hk, hs, hr, hst]

end

/-- A hold count moves by one within 0 to 65,535, and no further (R326). -/
theorem pinVersion_rec {h : W64} (rel : Bool) {s : State} {r : VRec} (hr : recOf s h = some r) :
    ((if rel then 0 < r.hold else r.hold < 65535) →
      pinVersion h rel s = some (updRec h (fun r => { r with hold := if rel then r.hold - 1 else r.hold + 1 }) s))
    ∧ ((if rel then r.hold = 0 else 65535 ≤ r.hold) → pinVersion h rel s = none) := by
  cases rel <;> simp +contextual [pinVersion, hr, Nat.pos_iff_ne_zero]

/-- TPIN of a version of this shard counts the hold where it can be counted (R326). -/
theorem tpinBody_here {a : Fin 32} {rel : Bool} {s : State} {t : TaskRun} (ht : s.cx.task = some t) (hk : t.kind ≠ .recovery)
    (hs : servesShard s (sget s.cx a) = true) : tpinBody a rel s
      = (pinVersion (sget s.cx a) rel s).elim (sealFault (sget s.cx a) s) (fun u => .done (settle u)) := by
  simp only [tpinBody, withTask_some _ ht, if_neg hk, hs, if_true]
  cases pinVersion (sget s.cx a) rel s <;> rfl

/-- Settles O33: TSEAL comes to `finishSeal` in the state where the seal is recorded, which the version's state then decides. -/
theorem seals : Obligations.Seals := by
  refine ⟨fun a s s1 t p n bs hr ht hseal hpair hk ha ho hu hskid hw hb hs hs3 hl => ?_,
    fun a s t hr ht hseal hd => ctl_done hr ((tsealBody_again ht hseal).trans (finishSeal_done hd)),
    fun a wait s t r hr ht hk hs hrec => ⟨fun hst => ctl_done hr (treplBody_replica wait ht hs hrec hst), fun hst hw hfl => ?_,
      fun hst => ctl_body hr (treplBody_pending wait ht hk hs hrec hst)⟩,
    fun a rel s t r hr ht hk hs hrec => ⟨fun hh => ctl_done hr ?_, fun hh => ctl_body hr ?_⟩⟩
  · have hbody := tsealBody_here ht hseal hpair hk ha ho hu hskid hw hb hs hl
    exact ⟨fun hp => ctl_done hr (hbody.trans (finishSeal_done (.inl hp))),
      fun r hp hrec hst => ctl_done hr (hbody.trans (finishSeal_done (.inr (.inr ⟨r, hrec, hst⟩)))),
      fun r hp hrec hst hf => ctl_body hr (hbody.trans (finishSeal_waits hp hs3 hrec hst hf))⟩
  · subst hw
    exact ctl_done hr (treplBody_sealed ht hk hs hrec hst hfl)
  · rw [tpinBody_here ht hk hs, (pinVersion_rec rel hrec).1 hh]
    rfl
  · rw [tpinBody_here ht hk hs, (pinVersion_rec rel hrec).2 hh]
    rfl

end Sys2Proof.Machine
end

section
namespace Sys2Proof.Machine

/-! ## Waits that time out, replicas and the mirror (O43) -/

/-- An outcome that is the end of a core's wait: where it has lasted 100 µs its word faults after the event, and nothing happens before
(R53, R58, R318, R320). -/
theorem next_endWait {w : Wait} {cause : BitVec 8} {note : State → State} {core : Nat} {s : State} {o : Host.Outcome State Fault Refusal}
    (h : o = .next (endWait w cause note core s)) : let u := focus core s
    (u.cx.fl.wait = w → u.cx.fl.waitSince + micros 100 ≤ u.clock → o
      = .next (focus s.me (startTrap { cause := cause, taddr := u.cx.pc, tepc := u.cx.pc, tnpc := u.cx.pc } (note u))))
    ∧ ((u.cx.fl.wait ≠ w ∨ u.clock < u.cx.fl.waitSince + micros 100) → o = .next (focus s.me u)) := by
  subst h
  refine ⟨fun hw ht => ?_, fun h => ?_⟩
  · have hover : ((focus core s).cx.fl.wait == w && decide ((focus core s).cx.fl.waitSince + micros 100 ≤ (focus core s).clock)) = true := by
      simp [hw, ht]
    rw [endWait, onCore, if_pos hover]
  · have hearly : ¬ ((focus core s).cx.fl.wait == w && decide ((focus core s).cx.fl.waitSince + micros 100 ≤ (focus core s).clock)) = true := by
      rcases h with h | h <;> simp [h]
    rw [endWait, onCore, if_neg hearly]

/-- The waits of 100 µs. -/
theorem waitTimeouts : Sys2Proof.Parts.WaitTimeouts := by
  refine ⟨fun core s h => next_endWait ?_, fun core s h => next_endWait ?_, fun core s h => next_endWait ?_, fun core s h => next_endWait ?_,
    fun tile s h => ?_⟩
  · show execPoolWaitTimeout s = _
    rw [execPoolWaitTimeout, h]
  · show execRecordWaitTimeout s = _
    rw [execRecordWaitTimeout, h]
  · show execStorageWaitTimeout s = _
    rw [execStorageWaitTimeout, h]
  · show execSlotWaitTimeout s = _
    rw [execSlotWaitTimeout, h]
  · show execRecoveryStorageTimeout s = _
    rw [execRecoveryStorageTimeout, h]

/-! ## Replicas and the mirror -/

/-- A replica that the buddy has written makes its version REPLICA, without input links (R44, R59, R60). -/
theorem writeReplica_buddy {tile : W64} {p : Place} {r : VRec} {s : State} (hr : recOf s tile = some r) (hst : r.st = .replicating)
    (hp : replicaPlace s ≠ 1) (hb : buddyUp s = true) (hd : p.dev.val = buddyId s) (ht : p.ty = .hbmp) :
    writeReplica tile (some p) s = settle (setVState tile .replica
      (updRec tile (fun r => { r with rep := some p, inputs := [], links := false, chain := [] }) s)) := by
  simp [writeReplica, hr, hst, hp, hb, hd, ht]

/-- The acknowledged change stands among those that were sent (R55). -/
theorem mem_mirrorAcked {tile : W64} {m : MirSend} {s : State} (h : s.lin.sent.find? (fun m => m.tile == tile && !m.acked) = some m) :
    { m with acked := true } ∈ (mirrorAcked tile s).lin.sent := by
  simp only [mirrorAcked, h, List.mem_cons_self]

/-- While both states mirror and records change, the change waits until all of it is acknowledged (R55). -/
theorem mirrorGate_mirroring {b a : State} (later : State → State) (hb : mirroring b = true) (ha : mirroring a = true)
    (hc : changedImages b a ≠ []) : mirrorGate b later a
      = if (changedImages b a).all (ackedChange a) then backRecords (changedImages b a) { a with lin := { a.lin with
          sent := a.lin.sent.filter fun m => !(changedImages b a).any (·.1 == m.tile) } }
        else later (sendChanges (changedImages b a) b) := by
  have hopen : ¬ (!mirroring b || !mirroring a || (changedImages b a).isEmpty) = true := by simp [hb, ha, hc]
  rw [mirrorGate, if_neg hopen]

/-- Where the device did not mirror, a change goes on to the backing region (R56, R430). -/
theorem mirrorGate_unmirrored {b : State} (a : State) (later : State → State) (hb : mirroring b = false) :
    mirrorGate b later a = backRecords (changedImages b a) a := by
  simp [mirrorGate, hb]

/-- What sending leaves of the lineage shard. -/
theorem OnlySends.lin {s t : State} (h : OnlySends s t) : t.lin = s.lin := (congrArg State.lin h :)

/-- What is sent changes no word of a record: REFCNT counts the tasks in banks and images and the records themselves (R51, R60). -/
theorem OnlySends.imagesOf_eq {s t : State} (h : OnlySends s t) : imagesOf t = imagesOf s := by
  unfold OnlySends at h
  rw [h]
  rfl

/-- Every record goes to the buddy. -/
def sendImages (s : State) : State :=
  (imagesOf s).foldl (fun s x => x.2.foldl (fun s y => send (.mirrorRec (buddyId s) y.1 y.2) s) s) s

theorem sendImages_onlySends (s : State) : OnlySends s (sendImages s) := by
  unfold sendImages
  exact .foldl (fun s (x : W64 × List (Nat × List W64)) => .foldl (fun s _ => send_onlySends _ s) x.2 s) _ s

/-- BUDDY_COPY_COMPLETE while a copy is made ends it, with every record sent (R56). -/
theorem execBuddyCopyComplete_copying {s : State} (h : s.now = some .buddyCopyComplete) (hc : s.lin.copying = true) :
    execBuddyCopyComplete s = .next { sendImages s with lin := { (sendImages s).lin with
      copying := false, unmirr := false, sent := [], mirrored := imagesOf (sendImages s) } } := by
  rw [execBuddyCopyComplete, h]
  exact congrArg Host.Outcome.next (if_pos hc)

/-- Replicas and the mirror. -/
theorem replicaAndMirrorEvents : Sys2Proof.Parts.ReplicaAndMirrorEvents := by
  refine ⟨fun s h hn => ?_, fun r s h hn => ?_, fun tile p s h => ?_, fun tile p r s hr hst hp hb hd ht => writeReplica_buddy hr hst hp hb hd ht,
    fun tile bs s h => ?_, fun src ix d s h => ?_, fun tile s h => ?_, fun tile m s h => mem_mirrorAcked h, fun s h hl => ?_, fun s h hl => ?_,
    fun b a later hb ha hc => ⟨fun hk => ?_, fun hk => ?_⟩, fun b a later hb => mirrorGate_unmirrored a later hb, fun s h hc => ?_, fun s h hc => ?_⟩
  · show execRetentionReplication s = _
    rw [execRetentionReplication, h]
    exact congrArg Host.Outcome.next (if_neg (Nat.not_lt.mpr hn))
  · obtain ⟨hfew, hret⟩ := hn
    show execRetentionReplication s = _
    rw [execRetentionReplication, h]
    exact congrArg Host.Outcome.next ((if_pos hfew).trans (by rw [hret]))
  · show execReplicaWritten s = _
    rw [execReplicaWritten, h]
  · show execPrimaryRebuilt s = _
    rw [execPrimaryRebuilt, h]
  · show execMirrorChange s = _
    rw [execMirrorChange, h]
  · show execMirrorAck s = _
    rw [execMirrorAck, h]
  · show execMirrorTimeout s = _
    simp [execMirrorTimeout, h, hl]
  · show execMirrorTimeout s = _
    simp [execMirrorTimeout, h, hl]
  · rw [mirrorGate_mirroring later hb ha hc, if_neg (by simp [hk])]
  · rw [mirrorGate_mirroring later hb ha hc, if_pos hk]
  · show execBuddyCopyComplete s = _
    simp [execBuddyCopyComplete, h, hc]
  · have hs := sendImages_onlySends s
    exact ⟨_, execBuddyCopyComplete_copying h hc, rfl, rfl, rfl, hs.imagesOf_eq, (congrArg Lineage.recs hs.lin :), hs.mem, hs.cx⟩

/-- Settles O43: the waits by `next_endWait`, the mirror by what sending leaves (`OnlySends`). -/
theorem timeoutsAndReplicas : Obligations.TimeoutsAndReplicas := ⟨waitTimeouts, replicaAndMirrorEvents⟩

end Sys2Proof.Machine
end

section
namespace Sys2Proof.Machine

/-! ## Requests between shards and losses (O44) -/

/-- Whether a word of the moving context waits for an answer (R54). -/
theorem awaits_moving {s : State} {uid : Nat} (ht : s.cx.task.isSome = true) (hw : s.cx.fl.wait = .shard uid) : awaits s uid = true := by
  have hmem : Loc.bank s.me true ∈ locsOf s := by
    refine List.mem_append_left _ (List.mem_map.mpr ⟨(s.me, true, s.cx), ?_, rfl⟩)
    simp [banks, ht]
  have hcx : ctxAt s (.bank s.me true) = some s.cx := by simp [ctxAt, coreOf]
  refine List.any_eq_true.mpr ⟨_, hmem, ?_⟩
  simp [hcx, hw]

section
variable {src : Fin 1024} {tag : Nat} {tile : W64} {s : State}

/-- A version that this shard does not have is free (R43). -/
theorem stateAsked_none (h : recOf s tile = none) : stateAsked src tag tile s = send (.answer src.val tag (.state tile 0)) s := by
  simp only [stateAsked, h, Bool.false_and, Bool.false_eq_true, if_false]
  rfl

/-- A seal from another device records the seal of a PENDING version; that of a replayable task is acknowledged at once (R48, R54). -/
theorem sealFrom_pending {d : W64} {r : VRec} (rp : Bool) (ins : List (W64 × Nat)) (hr : recOf s tile = some r) (hst : r.st = .pending) :
    sealFrom src tag tile d rp ins s = if rp then send (.answer src.val tag .sealed) (recordSeal tile d rp (depthOver ins) s)
      else shardAsked ⟨src, tag, .repl tile true, (recordSeal tile d rp (depthOver ins) s).clock⟩ (recordSeal tile d rp (depthOver ins) s) := by
  simp only [sealFrom, hr, hst, if_true]

/-- A re-seal whose digest differs from the record's is refused (R73). -/
theorem compareFrom_differs {d : W64} {r : VRec} (hr : recOf s tile = some r) (hd : r.digest ≠ d) :
    compareFrom src tag tile d s = send (.answer src.val tag .refused) s := by
  simp only [compareFrom, hr, hd, and_false, if_false]

/-- A version trimmed since is not compared (R73). -/
theorem compareFrom_none {d : W64} (h : recOf s tile = none) : compareFrom src tag tile d s = send (.answer src.val tag .sealed) s := by
  simp only [compareFrom, h]

end

/-- A scrub that finds one block handles it unless it is poisoned already (R439, R444). -/
theorem execScrub_single {k : Fin 8} {pa : Nat} {e : EccKind} {s : State} (h : s.now = some (.scrub k [(pa, e)])) :
    execScrub s = .next (if s.mem.poison.contains (pa / 64) then s else scrubBlock k pa e s) := by
  rw [execScrub, h]
  rfl

section
variable {t : W64} {r : VRec} {s : State} (prim rep : Bool) (hr : recOf s t = some r)
include hr

/-- The loss of the bytes of a PENDING version kills a replayable producer's run, and fails the version of any other (R44). -/
theorem loseVersion_pending (hst : r.st = .pending) : loseVersion t true rep s = if r.rplay then (s, true) else (failVersion t s, false) := by
  simp [loseVersion, hr, hst]

/-- A SEALED version whose bytes are lost is LOST (R44). -/
theorem loseVersion_sealed (hst : r.st = .sealed) : loseVersion t true rep s = (setVState t .lost s, false) := by
  simp [loseVersion, hr, hst]

/-- A REPLICATING version whose bytes are lost is LOST where it has lineage, and else FAILED (R44; log 73). -/
theorem loseVersion_replicating (hst : r.st = .replicating) :
    loseVersion t true rep s = (if r.rplay && r.links then setVState t .lost s else failVersion t s, false) := by
  simp [loseVersion, hr, hst]

/-- A REPLICA version loses both copies, its bytes, or its replica (R44). -/
theorem loseVersion_replica (hst : r.st = .replica) :
    loseVersion t true true s = (failVersion t s, false) ∧ loseVersion t true false s = (setVState t .recovering s, false)
    ∧ loseVersion t false true s = (setVState t .replicating (updRec t (fun r => { r with rep := none }) s), false) := by
  simp [loseVersion, hr, hst]

/-- The loss of the new storage of a RECOVERING version without a replica concerns its recovery run (R70). -/
theorem loseVersion_recovering (hst : r.st = .recovering) (hrep : r.rep.isNone = true) : loseVersion t prim rep s = (s, prim) := by
  simp [loseVersion, hr, hst, Option.isNone_iff_eq_none.mp hrep]

/-- A LOST or FAILED version has nothing more to lose (R44). -/
theorem loseVersion_gone (hst : r.st = .lost ∨ r.st = .failed) : loseVersion t prim rep s = (s, false) := by
  rcases hst with hst | hst <;> simp [loseVersion, hr, hst]

/-- Only a REPLICA or RECOVERING version has a replica to lose (R44). -/
theorem loseVersion_replica_only (h : r.st ≠ .recovering) (h' : r.st ≠ .replica) : loseVersion t false rep s = (s, false) := by
  cases hst : r.st with
  | recovering => exact absurd hst h
  | replica => exact absurd hst h'
  | free | pending | sealed | replicating | lost | failed => simp [loseVersion, hr, hst]

end

/-- A version with a byte in a range of this device is among those that a loss of that range meets (R61). -/
theorem mem_versionsAt {s : State} {r : VRec} {a n b : Nat} (hr : r ∈ s.lin.recs) (hd : r.place.dev = s.dev) (ha : a ≤ b) (hb : b < a + n)
    (hp : r.place.addr.toNat ≤ b) (hp' : b < r.place.addr.toNat + r.size) : ∃ x ∈ versionsAt s a n, x.1 = r.tile ∧ x.2.1 = true := by
  have hhit : (r.place.dev == s.dev && decide (r.place.addr.toNat < a + n) && decide (a < r.place.addr.toNat + r.size)) = true := by
    simp only [hd, beq_self_eq_true, Bool.true_and, Bool.and_eq_true, decide_eq_true_eq]
    omega
  exact ⟨_, List.mem_filterMap.mpr ⟨r, hr, if_pos (Bool.or_eq_true_iff.mpr (.inl hhit))⟩, rfl, hhit⟩

/-- Settles O44: each event is its operation, and the operations answer by the record that they find. -/
theorem shardAndLossEvents : Obligations.ShardAndLossEvents := by
  refine ⟨fun src tile pool ox n pr pl ins s h => ?_, fun x pool s h => ?_, fun src tag tile s h => ?_, fun src tag tile s h => stateAsked_none h,
    fun src tag tile d rp ins => ⟨fun s h => ?_, fun s h => ?_⟩,
    fun src tag tile d ins r s hr hst => ⟨(sealFrom_pending true ins hr hst).trans (if_pos rfl),
      (sealFrom_pending false ins hr hst).trans (if_neg Bool.false_ne_true)⟩,
    fun src tag tile d s => ⟨fun r hr _ hd => compareFrom_differs hr hd, compareFrom_none⟩, fun uid a s h => ?_, fun uid a s ht hw => ?_,
    fun k s h => ?_, fun k pa e => ⟨fun s h hp => ?_, fun s h hp => ?_⟩, fun d s h => ?_, fun d b => ⟨fun s h => ?_, fun s h hl => ?_⟩,
    fun tile p r s h => ?_, fun tile p r s h => ?_, fun t prim rep r s hr => ?_,
    fun a n b r s hr hd ha hb hp hp' => mem_versionsAt hr hd ha hb hp hp'⟩
  · show execRecoverRequest s = _
    rw [execRecoverRequest, h]
  · simp only [recoverAsked, h]
  · show execStateQuery s = _
    rw [execStateQuery, h]
  · show execRemoteSeal s = _
    rw [execRemoteSeal, h]
    rfl
  · show execRemoteSeal s = _
    rw [execRemoteSeal, h]
    rfl
  · show execShardAcknowledgement s = _
    rw [execShardAcknowledgement, h]
  · exact if_pos (awaits_moving ht hw)
  · show execScrub s = _
    rw [execScrub, h]
    rfl
  · exact (execScrub_single h).trans (by rw [hp, if_neg Bool.false_ne_true])
  · exact (execScrub_single h).trans (by rw [hp, if_pos rfl])
  · show execDieLoss s = _
    rw [execDieLoss, h]
  · show execDeviceLoss s = _
    rw [execDeviceLoss, h]
  · show execDeviceLoss s = _
    rw [execDeviceLoss, h]
    simp [loseDevice, hl]
  · show execLossReport s = _
    rw [execLossReport, h]
  · simp [lossHeard, h]
  · exact ⟨loseVersion_pending rep hr, loseVersion_sealed rep hr, loseVersion_replicating rep hr, loseVersion_replica hr,
      loseVersion_recovering prim rep hr, loseVersion_gone prim rep hr, loseVersion_replica_only rep hr⟩

end Sys2Proof.Machine
end

section
namespace Sys2Proof.Machine

/-! ## Reads and writes of MMIO registers (O49) -/

/-- The fields of PWRCFG, in the places of R135, with the reserved bits between them. -/
theorem bits_pwrcfg_fields {c r g : Nat} (hc : c < 2 ^ 16) (hr : r < 2 ^ 6) (hg : g < 2 ^ 8) :
    let w := fields [(c, 32), (r, 16), (g, 0)]
    bits w 47 32 = c ∧ bits w 63 48 = 0 ∧ bits w 31 22 = 0 ∧ bits w 15 8 = 0 ∧ bits w 21 16 = r ∧ bits w 7 0 = g := by
  have hw : (fields [(c, 32), (r, 16), (g, 0)]).toNat = c * 2 ^ 32 + r * 2 ^ 16 + g := by
    simp only [fields, List.foldl_cons, List.foldl_nil, BitVec.toNat_ofNat]
    omega
  simp only [bits, hw]
  omega

theorem clampCap_mem (n : Nat) : 100 ≤ clampCap n ∧ clampCap n ≤ 1800 :=
  ⟨Nat.le_max_left _ _, Nat.max_le.mpr ⟨by decide, Nat.min_le_left _ _⟩⟩

/-- A field of `hi − lo + 1` bits. -/
theorem bits_lt (v : W64) (hi lo : Nat) : bits v hi lo < 2 ^ (hi - lo + 1) := Nat.mod_lt _ (Nat.two_pow_pos _)

/-- The value of a field that keeps its old value where the new one is not within its limits (R135). -/
def keepLegal (lo hi new old : Nat) : Nat := if lo ≤ new ∧ new ≤ hi then new else old

theorem keepLegal_cases (lo hi new old : Nat) :
    (lo ≤ keepLegal lo hi new old ∧ keepLegal lo hi new old ≤ hi) ∨ keepLegal lo hi new old = old := by
  unfold keepLegal
  split
  · next h => exact .inl h
  · exact .inr rfl

theorem keepLegal_lt {lo hi new old b : Nat} (hn : new < b) (ho : old < b) : keepLegal lo hi new old < b := by
  unfold keepLegal
  split <;> assumption

/-- What PWRCFG holds after a write. -/
theorem pwrcfgWriteOp_pwrcfg (h : Half) (v : W64) (s : State) :
    let x := mergeHalf s.mmio.pwrcfg v h
    (pwrcfgWriteOp h v s).mmio.pwrcfg = fields [(clampCap (bits x 47 32), 32),
      (keepLegal 5 40 (bits x 21 16) (bits s.mmio.pwrcfg 21 16), 16), (keepLegal 1 200 (bits x 7 0) (bits s.mmio.pwrcfg 7 0), 0)] := rfl

/-- Whatever is written to PWRCFG, CAPW is within its limits, RAMP and GINC are legal or as they were, and reserved bits read 0 (R135). -/
theorem pwrcfgWriteOp_legal (h : Half) (v : W64) (s : State) :
    let w := (pwrcfgWriteOp h v s).mmio.pwrcfg
    100 ≤ bits w 47 32 ∧ bits w 47 32 ≤ 1800 ∧ bits w 63 48 = 0 ∧ bits w 31 22 = 0 ∧ bits w 15 8 = 0
    ∧ ((5 ≤ bits w 21 16 ∧ bits w 21 16 ≤ 40) ∨ bits w 21 16 = bits s.mmio.pwrcfg 21 16)
    ∧ ((1 ≤ bits w 7 0 ∧ bits w 7 0 ≤ 200) ∨ bits w 7 0 = bits s.mmio.pwrcfg 7 0) := by
  obtain ⟨hcap, hcap'⟩ := clampCap_mem (bits (mergeHalf s.mmio.pwrcfg v h) 47 32)
  have hfields := bits_pwrcfg_fields (Nat.lt_of_le_of_lt hcap' (by decide))
    (keepLegal_lt (lo := 5) (hi := 40) (bits_lt (mergeHalf s.mmio.pwrcfg v h) 21 16) (bits_lt s.mmio.pwrcfg 21 16))
    (keepLegal_lt (lo := 1) (hi := 200) (bits_lt (mergeHalf s.mmio.pwrcfg v h) 7 0) (bits_lt s.mmio.pwrcfg 7 0))
  rw [← pwrcfgWriteOp_pwrcfg] at hfields
  obtain ⟨hc, hhigh, hmid, hlow, hr, hg⟩ := hfields
  dsimp only
  rw [hc, hr, hg]
  exact ⟨hcap, hcap', hhigh, hmid, hlow, keepLegal_cases _ _ _ _, keepLegal_cases _ _ _ _⟩

/-- A field of two bits holds 3 where both are set. -/
theorem bits_eq_three_iff (v : W64) (lo : Nat) : bits v (lo + 1) lo = 3 ↔ v.getLsbD lo = true ∧ v.getLsbD (lo + 1) = true := by
  have hwidth : lo + 1 - lo + 1 = 2 := by omega
  have hnext : v.toNat / 2 ^ (lo + 1) = v.toNat / 2 ^ lo / 2 := by rw [Nat.div_div_eq_div_mul, Nat.pow_succ]
  simp only [bits, hwidth, BitVec.getLsbD, Nat.testBit_eq_decide_div_mod_eq, decide_eq_true_eq, hnext]
  omega

/-- A word whose field of bits 52 and 51 is put back where it would be 3 holds 3 there only if the old word did (R57). -/
theorem place_kept {x old : W64}
    (h : bits (if bits x 52 51 = 3 then (x &&& ~~~ (0x18000000000000 : W64)) ||| (old &&& 0x18000000000000) else x) 52 51 = 3) :
    bits old 52 51 = 3 := by
  split at h
  · rw [bits_eq_three_iff] at h ⊢
    simpa [BitVec.getLsbD_or, BitVec.getLsbD_and, BitVec.getLsbD_not] using h
  · next hx => exact absurd h hx

/-- What LINCFG holds after a write. -/
theorem lincfgWriteOp_lincfg (h : Half) (v : W64) (s : State) :
    let x := keep (mergeHalf s.mmio.lincfg v h) 0xFFF80F0000000000
    (lincfgWriteOp h v s).mmio.lincfg
      = if bits x 52 51 = 3 then (x &&& ~~~ (0x18000000000000 : W64)) ||| (s.mmio.lincfg &&& 0x18000000000000) else x := by
  unfold lincfgWriteOp
  exact (apply_ite (fun t : State => t.mmio.lincfg) _ _ _).trans (ite_self _)

/-- A write at an index that is in bounds. -/
theorem vector_set!_val {α : Type} {n : Nat} (v : Vector α n) (k : Fin n) (x : α) : v.set! k x = v.set k x := by
  ext i hi
  rw [Vector.set!_eq_setIfInBounds, Vector.getElem_setIfInBounds hi, Vector.getElem_set]

/-- A read of a stack's health register clears the counts of the part that is read (R439). -/
theorem hbmhlthReadOp_state (k : Fin 8) (h : Half) (s : State) : (hbmhlthReadOp k.val h s).2
    = updMmio (fun m => { m with hbmhlth := m.hbmhlth.set k (m.hbmhlth[k] &&& ~~~ halfMask h) }) s := by
  simp only [hbmhlthReadOp, updMmio, vector_set!_val, Fin.is_lt, getElem?_pos, Option.getD_some]
  rfl

/-- Settles O49: each event is its operation; PWRCFG is put together from legal fields, and PLACE keeps its bits where 3 is written. -/
theorem mmioEvents : Obligations.MmioEvents := by
  refine ⟨fun pa h v s hn => ?_, fun h v => ⟨fun s hn => ?_, fun s hn => ?_, fun s hn => ?_, fun s hn => ?_, fun s hn => ?_⟩,
    fun n h v s hn => ?_, fun k h v s hn => ?_, fun h => ⟨fun s hn => ?_, fun s hn => ?_⟩, fun k h s hn => ?_, pwrcfgWriteOp_legal,
    fun h v s hp => place_kept (lincfgWriteOp_lincfg h v s ▸ hp)⟩
  · show execMmioWrite s = _
    rw [execMmioWrite, hn]
  · show execLincfgWrite s = _
    rw [execLincfgWrite, hn]
  · show execPwrcfgWrite s = _
    rw [execPwrcfgWrite, hn]
  · show execEcwtWrite s = _
    rw [execEcwtWrite, hn]
    rfl
  · show execThermcfgWrite s = _
    rw [execThermcfgWrite, hn]
  · show execFansWrite s = _
    rw [execFansWrite, hn]
  · show execCoreMapWrite s = _
    rw [execCoreMapWrite, hn]
  · show execStcfgWrite s = _
    rw [execStcfgWrite, hn]
  · show execLinstatRead s = _
    rw [execLinstatRead, hn]
    rfl
  · show execFstatRead s = _
    rw [execFstatRead, hn]
    rfl
  · show execHbmhlthRead s = _
    rw [execHbmhlthRead, hn]
    exact congrArg Host.Outcome.next (hbmhlthReadOp_state k h s)

end Sys2Proof.Machine
end

section
namespace Sys2Proof.Machine

/-! ## The fetch (O56) -/

section
variable {s p : State} {l : Nat}

/-- A line that is malformed, and a pc at which no instruction of it starts, are ILLEGAL (R177; log 59). -/
theorem fetchInstr_illegal (hf : fetchLine (s.cx.pc.toNat / 128 * 128) s = .ok l p) (hpc : p.cx.pc = s.cx.pc) (h1 : lineKind l ≠ 1)
    (h2 : lineKind l ≠ 2) (hbad : lineOk l = false ∨ lineStart l (s.cx.pc.toNat % 128 / 4) = false) :
    fetchInstr s = .stop (illegal s.cx.pc p) := by
  have hcond : (!lineOk l || s.cx.pc.toNat % 4 != 0 || decide (s.cx.pc.toNat % 128 / 4 < 2) || !lineStart l (s.cx.pc.toNat % 128 / 4)) = true := by
    rcases hbad with h | h <;> simp [h]
  simp only [fetchInstr, hf, Res.andThen, hpc, h1, h2, or_self, if_false, if_pos hcond]

variable (hf : fetchLine (s.cx.pc.toNat / 128 * 128) s = .ok l p) (hpc : p.cx.pc = s.cx.pc) (h1 : lineKind l ≠ 1) (h2 : lineKind l ≠ 2)
  (hok : lineOk l = true) (ha : s.cx.pc.toNat % 4 = 0) (hj : 2 ≤ s.cx.pc.toNat % 128 / 4) (hst : lineStart l (s.cx.pc.toNat % 128 / 4) = true)
include hf hpc h1 h2 hok ha hj hst

/-- The words at which an instruction of a well-formed line starts are decoded (R169, R178). -/
theorem fetchInstr_ok {i : Instr} (hd : decode (lineWord l (s.cx.pc.toNat % 128 / 4)) (lineWord l (s.cx.pc.toNat % 128 / 4 + 1))
      (lineWord l (s.cx.pc.toNat % 128 / 4 + 2)) = .ok i) :
    fetchInstr s = .ok (some i) { p with cx := { p.cx with
      npc := nextPc (s.cx.pc.toNat / 128 * 128) l (s.cx.pc.toNat % 128 / 4) } } := by
  simp [fetchInstr, hf, Res.andThen, hpc, h1, h2, hok, ha, Nat.not_lt.mpr hj, hst, hd]

/-- Words that decode to nothing are ILLEGAL; in user mode a bad field of a SYS word is PRIVILEGE (R169). -/
theorem fetchInstr_error {e : DecodeErr} (hd : decode (lineWord l (s.cx.pc.toNat % 128 / 4)) (lineWord l (s.cx.pc.toNat % 128 / 4 + 1))
      (lineWord l (s.cx.pc.toNat % 128 / 4 + 2)) = .error e) :
    fetchInstr s = .stop (if e = .field true ∧ p.cx.pr.priv = false then .trap cPRIVILEGE s.cx.pc 0 p else illegal s.cx.pc p) := by
  by_cases he : e = .field true
  · subst he
    cases hp : p.cx.pr.priv <;> simp [fetchInstr, hf, Res.andThen, hpc, h1, h2, hok, ha, Nat.not_lt.mpr hj, hst, hd, hp]
  · simp [fetchInstr, hf, Res.andThen, hpc, h1, h2, hok, ha, Nat.not_lt.mpr hj, hst, hd, he]

end

/-- The checks of a fetch. -/
theorem fetchChecks : Sys2Proof.Parts.FetchChecks := fun _ _ _ hf hpc h1 h2 =>
  ⟨fun h => fetchInstr_illegal hf hpc h1 h2 (.inl h), fun h => fetchInstr_illegal hf hpc h1 h2 (.inr h),
    fun _ hok ha hj hst hd => fetchInstr_error hf hpc h1 h2 hok ha hj hst hd⟩

/-! ## A step (O56) -/

/-- The turn of a core that nothing holds is its instruction. -/
theorem coreTurn_issues {s t : State} {i : Instr} (hh : heldTurn (pump (gangAgain s)) = none)
    (hf : fetchInstr (pump (gangAgain s)) = .ok (some i) t) :
    coreTurn s = thenDo (fun u => mirrorGate s passTurn (afterTurn u)) (exec i t) := by
  simp only [coreTurn, hh, issue, hf]

/-- What follows on a device that does not mirror goes on to the backing region (R430). -/
theorem mirrorGate_unmirrored_fun {s : State} (later after : State → State) (h : mirroring s = false) :
    (fun u => mirrorGate s later (after u)) = fun u => backRecords (changedImages s (after u)) (after u) :=
  funext fun u => mirrorGate_unmirrored (after u) later h

/-- What follows a next state may be looked at in that state alone. -/
theorem thenDo_congr {f g : State → State} {o : Host.Outcome State Fault Refusal} (h : ∀ t, o = .next t → f t = g t) : thenDo f o = thenDo g o := by
  cases o with
  | next t => exact congrArg Host.Outcome.next (h t rfl)
  | fault e | refused e => rfl

/-- A step runs the decoded instruction. -/
theorem step_runs_instruction : Sys2Proof.Parts.StepRunsDecoded := by
  intro s p l i u line j hs hd hh hf hpc hk hok ha hj hst hdec run
  have hstep : step s = thenDo (fun t => mirrorGate s passTurn (afterTurn t)) run := by
    rw [step, hs, hd]
    exact coreTurn_issues hh (fetchInstr_ok hf hpc (by rw [hk]; decide) (by rw [hk]; decide) hok ha hj hst hdec)
  refine ⟨hstep, fun hm => ?_, fun hm hc => hstep.trans (thenDo_congr fun t ht => ?_)⟩
  · rw [hstep, mirrorGate_unmirrored_fun _ _ hm]
  · rw [mirrorGate_unmirrored _ _ hm, hc t ht]
    rfl

/-- An occurrence that is due or given takes place. -/
theorem stepOccurrence : Sys2Proof.Parts.StepOccurrence := by
  refine ⟨fun s e r hs hd => ?_, fun s e r hs => ?_, fun s e => ⟨rfl, fun hm => ?_⟩, fun s k pa r hs => ?_, fun s u r hs => ?_⟩
  · rw [step, hs, hd]
  · rw [step, hs]
  · rw [occur, mirrorGate_unmirrored_fun _ _ hm]
  · rw [step, hs]
  · rw [step, hs]

/-- The placed word is what runs next. -/
theorem placedWordRuns : Sys2Proof.Parts.PlacedWordRuns := fun _ _ _ =>
  ⟨rfl, rfl, rfl, rfl, rfl, rfl, rfl, fun _ _ => rfl, ⟨rfl, rfl, rfl⟩, ⟨rfl, rfl, rfl⟩⟩

/-- Settles O56: where nothing holds the core, its turn is the word that the fetch decodes. -/
theorem stepRunsDecoded : Obligations.StepRunsDecoded := ⟨step_runs_instruction, stepOccurrence, fetchChecks, placedWordRuns⟩

end Sys2Proof.Machine
end

section
namespace Sys2Proof.Machine

/-! ## A store to local memory (O6) -/

/-- A store to a segment of this device's memory writes its bytes under the key of its page, and else changes at most the bytes that the
phase has fixed (R84, R89). -/
theorem writeSeg_local {q : Nat} {g : Seg} (bs : List Byte) (s : State) (hty : g.ty ≤ 3) (hown : g.own = true → g.key = none) :
    ∃ l, writeSeg q g bs s = { s with cx := { s.cx with fl := { s.cx.fl with snap := l } }, mem := s.mem.write g.key g.pa bs } := by
  have hfar : ¬ (g.ty = 4 ∨ g.ty = 5) := by omega
  cases ho : g.own with
  | true => exact ⟨s.cx.fl.snap, by simp [writeSeg, writeSegBy, ho, hown ho]⟩
  | false => exact ⟨_, by simp only [writeSeg, writeSegBy, ho, hfar, if_false]; rfl⟩

/-- Settles O6: the write leaves what every other address reads as under its key (`read1_write`), and the rest of the state stands in
what such a store comes to (`writeSeg_local`). -/
theorem storeFrame : Obligations.StoreFrame := by
  intro q g bs s hty hlen hown
  obtain ⟨l, h⟩ := writeSeg_local (q := q) bs s hty hown
  rw [h]
  refine ⟨fun x hx => read1_write s.mem g.key g.pa x bs (hlen ▸ hx), fun _ _ => rfl, ⟨rfl, rfl, rfl⟩, ⟨rfl, rfl, rfl⟩, rfl,
    rfl, rfl, rfl, rfl, rfl, rfl, rfl, rfl, partU_write _ _ _ _⟩

end Sys2Proof.Machine
end

section
namespace Sys2Proof.Machine

/-! ## The beats of a move (O27) -/

/-- Where the beats of a move of `n` bytes from `x` meet: the edge of block `j`, counted from the block of the first byte, as far as it
lies within the move. -/
def beatEdge (x n j : Nat) : Nat := min (x + n) (max x (64 * (x / 64 + j)))

/-- The blocks that the bytes of a move lie in. -/
def beatBlocks (x n : Nat) : Nat := (x + n - 1) / 64 - x / 64 + 1

variable {x n j : Nat}

/-- The beat of each block that a move touches lies from the block's edge to the next one (R83). -/
theorem beatParts_eq (a : W64) (hn : n ≠ 0) : beatParts a n = (List.range (beatBlocks a.toNat n)).map fun j =>
    (BitVec.ofNat 64 (beatEdge a.toNat n j), beatEdge a.toNat n (j + 1) - beatEdge a.toNat n j) := by
  rw [beatParts, if_neg hn]
  refine List.map_congr_left fun j hj => ?_
  have hj := List.mem_range.mp hj
  have hlo : Nat.max a.toNat (64 * (a.toNat / 64 + j)) = beatEdge a.toNat n j := by
    show max _ _ = _
    unfold beatEdge
    omega
  have hhi : Nat.min (a.toNat + n) (64 * (a.toNat / 64 + j) + 64) = beatEdge a.toNat n (j + 1) := by
    show min _ _ = _
    unfold beatEdge
    omega
  simp only [hlo, hhi]

/-- A beat holds at least a byte and stays within its block. -/
theorem beatEdge_succ (hn : n ≠ 0) (hj : j < beatBlocks x n) :
    beatEdge x n j < beatEdge x n (j + 1) ∧ beatEdge x n j % 64 + (beatEdge x n (j + 1) - beatEdge x n j) ≤ 64 := by
  unfold beatBlocks at hj
  unfold beatEdge
  omega

/-- The edges of beats lie within the move. -/
theorem beatEdge_mem (x n j : Nat) : x ≤ beatEdge x n j ∧ beatEdge x n j ≤ x + n := by
  unfold beatEdge
  omega

/-- The last beat ends where the move does. -/
theorem beatEdge_blocks (x n : Nat) : beatEdge x n (beatBlocks x n) = x + n := by
  unfold beatBlocks beatEdge
  omega

/-- The beats of the first blocks cover the bytes up to the next block's edge. -/
theorem add_sum_beats (x n k : Nat) :
    x + ((List.range k).map fun j => beatEdge x n (j + 1) - beatEdge x n j).sum = beatEdge x n k := by
  induction k with
  | zero => simp only [List.range_zero, List.map_nil, List.sum_nil, beatEdge]; omega
  | succ k ih =>
    have hmono : beatEdge x n k ≤ beatEdge x n (k + 1) := by unfold beatEdge; omega
    rw [List.range_succ, List.map_append, List.sum_append, List.map_singleton, List.sum_singleton]
    omega

/-- Settles O27: the beats lie between successive edges (`beatParts_eq`), so their lengths add up to the edges (`add_sum_beats`). -/
theorem beatsOfAMove : Obligations.BeatsOfAMove := by
  intro a n hend
  by_cases hn : n = 0
  · subst hn
    simp [beatParts]
  have hsum := add_sum_beats a.toNat n
  have hword {j} (hj : j < beatBlocks a.toNat n) : (BitVec.ofNat 64 (beatEdge a.toNat n j)).toNat = beatEdge a.toNat n j := by
    have hlt := (beatEdge_succ hn hj).1
    have hle := (beatEdge_mem a.toNat n (j + 1)).2
    exact (BitVec.toNat_ofNat _ _).trans (Nat.mod_eq_of_lt (by omega))
  rw [beatParts_eq a hn]
  refine ⟨?_, fun p hp => ?_, fun k hk => ?_⟩
  · have hall := (hsum (beatBlocks a.toNat n)).trans (beatEdge_blocks _ _)
    rw [List.map_map]
    exact Nat.add_left_cancel hall
  · obtain ⟨j, hj, rfl⟩ := List.mem_map.mp hp
    have hj := List.mem_range.mp hj
    have hbeat := beatEdge_succ hn hj
    have hmem := beatEdge_mem a.toNat n
    have hfst := hmem j
    have hlst := hmem (j + 1)
    simp only [hword hj]
    omega
  · have hk : k < beatBlocks a.toNat n := by simpa using hk
    rw [List.getElem?_map, List.getElem?_range hk, ← List.map_take, List.take_range, List.map_map, Nat.min_eq_left hk.le]
    exact (hword hk).trans (hsum k).symm

end Sys2Proof.Machine
end

section
namespace Sys2Proof.Machine

/-! ## Every row of the table answers a next state (O57) -/

/-- A meaning answers a next state from every state. -/
def Answers (f : State → Host.Outcome State Fault Refusal) : Prop := ∀ s, ∃ t, f s = .next t

theorem vecRoute_answers (q : Queue) (i : Instr) (m : VMod) (rs : List (Fin 32)) (body : QEntry → State → QAct) :
    Answers (vecRoute q i m rs body) := by
  intro s
  unfold vecRoute
  split <;> exact ⟨_, rfl⟩

theorem sysWord_answers (rs : List (Fin 32)) (body : State → Act) : Answers (sysWord rs body) := by
  intro s
  unfold sysWord
  split
  · exact ⟨_, rfl⟩
  · split
    · exact ⟨_, rfl⟩
    · exact ctl_next rs body s

/-- Each row of the table answers a next state. A word of the control engine (`ctl`) or of another queue than the vector engine's (`routeQ`)
does so in one form whatever comes of it, a VEC word and a SYS word in each of their branches, and an operation or event whether its
occurrence stands or not. -/
theorem exec_answers (i : Instr) : Answers (exec i) := by
  intro s
  cases i with
  | loop op | loopi op => cases op <;> exact ctl_next _ _ s
  | vadd | vsub | vmul | vfma | vfms | vfnma | vmin | vmax | vabs | vneg | vand | vor | vxor | vshl | vshr | vsar | vmov | vsel | vbcast
    | viota | vcmp | vclass | vcvt | vquant | vdeq | vrcp | vrsq | vsqrt | vexp2f | vlog2f | vrint | vfint | vexpi | vgetexp | vgetmant
    | vredadd | vredmax | vredamax | vredmin | vscan | vperm | vshuf | vrot | vslide | vcomp | vrng | vld | vst | vlds | vsts | vgath
    | vscat | mand | mor | mxor | mnot | mpop | mfirst | vanyq | vallq | vxq => exact vecRoute_answers _ _ _ _ _ s
  | sret | ctxsave | ctxload | tlbinv | asidbind | asidret | keyld | keyinv | quar | pwrcap | idle | mcack | smovc | smovcr | artset
    | linkkey => exact sysWord_answers _ _ s
  | loadResponse | atomicResponse | streamDelivery | faultAnswer | faultSwitchBackTimeout | waitBankSwitch | cwaitStarvedTimeout
    | barrierComplete | barrierTimeout | trapEntry | asyncInterrupt | timerExpiry | idleWake | preEmption | contextRestore | machineCheck =>
    unfold exec
    dsimp only [execLoadResponse, execAtomicResponse, execStreamDelivery, execFaultAnswer, execFaultSwitchBackTimeout, execWaitBankSwitch,
      execCwaitStarvedTimeout, execBarrierComplete, execBarrierTimeout, execTrapEntry, execAsyncInterrupt, execTimerExpiry,
      execIdleWake, execPreEmption, execContextRestore, execMachineCheck]
    split <;> exact ⟨_, rfl⟩
  | taskSelection | preload | dispatcherReport | ageing | priorityPreemptionRequest | loopNestWalk | signalArrival | remoteSpawn
    | stealRequest | offer | take | ack | refuse | custodyTimeout | leaseGrant | leaseExpiry | governorInterval | budgetHoldTimeout
    | budgetStepLower | thermalSample | thermalLower | thermalTrip | powerGating | budgetCalculation =>
    unfold exec
    dsimp only [execTaskSelection, execPreload, execDispatcherReport, execAgeing, execPriorityPreemptionRequest, execLoopNestWalk,
      execSignalArrival, execRemoteSpawn, execStealRequest, execOffer, execTake, execAck, execRefuse, execCustodyTimeout,
      execLeaseGrant, execLeaseExpiry, execGovernorInterval, execBudgetHoldTimeout, execBudgetStepLower, execThermalSample,
      execThermalLower, execThermalTrip, execPowerGating, execBudgetCalculation]
    split <;> exact ⟨_, rfl⟩
  | poolWaitTimeout | recordWaitTimeout | storageWaitTimeout | slotWaitTimeout | recoveryStorageTimeout | retentionReplication
    | replicaWritten | primaryRebuilt | recoverRequest | stateQuery | remoteSeal | mirrorChange | mirrorAck | mirrorTimeout
    | buddyCopyComplete | scrub | dieLoss | deviceLoss | shardAcknowledgement | lossReport =>
    unfold exec
    dsimp only [execPoolWaitTimeout, execRecordWaitTimeout, execStorageWaitTimeout, execSlotWaitTimeout, execRecoveryStorageTimeout,
      execRetentionReplication, execReplicaWritten, execPrimaryRebuilt, execRecoverRequest, execStateQuery, execRemoteSeal,
      execMirrorChange, execMirrorAck, execMirrorTimeout, execBuddyCopyComplete, execScrub, execDieLoss, execDeviceLoss,
      execShardAcknowledgement, execLossReport]
    split <;> exact ⟨_, rfl⟩
  | remoteRequest | remoteResponse | castStamp | stamped | gapreq | replay | gapTimeout | planeFailure | memberRemoval | red
    | reductionTimeout | reductionFenceExpiry | redres | rednack | fredResend | rel | reldone | pageFaultMessage | tlbShootdown
    | shootdownAck | holdersOutstanding | stationRetrain | tagFailure | keyChangeover | keyHoldTimeout | keyExhausted =>
    unfold exec
    dsimp only [execRemoteRequest, execRemoteResponse, execCastStamp, execStamped, execGapreq, execReplay, execGapTimeout,
      execPlaneFailure, execMemberRemoval, execRed, execReductionTimeout, execReductionFenceExpiry, execRedres, execRednack,
      execFredResend, execRel, execReldone, execPageFaultMessage, execTlbShootdown, execShootdownAck, execHoldersOutstanding,
      execStationRetrain, execTagFailure, execKeyChangeover, execKeyHoldTimeout, execKeyExhausted]
    split <;> exact ⟨_, rfl⟩
  | launch | hostRead | hostWrite | farporAck | hostReadResponse | hostWriteResponse | mgmtOpen | mgmtClose | mgmtReserve | mgmtRelease
    | mgmtWindow | mgmtRto | retransmissionTimeout | frameDrop | headerDrop | mmioWrite | lincfgWrite | linstatRead | pwrcfgWrite
    | ecwtWrite | thermcfgWrite | coreMapWrite | fansWrite | fstatRead | stcfgWrite | hbmhlthRead =>
    unfold exec
    dsimp only [execLaunch, execHostRead, execHostWrite, execFarporAck, execHostReadResponse, execHostWriteResponse, execMgmtOpen,
      execMgmtClose, execMgmtReserve, execMgmtRelease, execMgmtWindow, execMgmtRto, execRetransmissionTimeout, execFrameDrop,
      execHeaderDrop, execMmioWrite, execLincfgWrite, execLinstatRead, execPwrcfgWrite, execEcwtWrite, execThermcfgWrite,
      execCoreMapWrite, execFansWrite, execFstatRead, execStcfgWrite, execHbmhlthRead]
    split <;> exact ⟨_, rfl⟩
  | resetctl | capstepWrite | updateErase | updateOpen | updateVerify | upddataWrite | setdasa | entdaa | coldReset | warmReset
    | railFault | railEnable | pllLock | clockLockLoss | bootImage | bootMemory | bootConfig | bootPorts | bootReady | powerLoss =>
    unfold exec
    dsimp only [execResetctl, execCapstepWrite, execUpdateErase, execUpdateOpen, execUpdateVerify, execUpddataWrite, execSetdasa,
      execEntdaa, execColdReset, execWarmReset, execRailFault, execRailEnable, execPllLock, execClockLockLoss, execBootImage,
      execBootMemory, execBootConfig, execBootPorts, execBootReady, execPowerLoss]
    split <;> exact ⟨_, rfl⟩
  | i3cRegisterWrite =>
    show ∃ t, execI3cRegisterWrite s = _
    unfold execI3cRegisterWrite
    generalize s.now = e
    rcases e with _ | e
    · exact ⟨_, rfl⟩
    · cases e <;> exact ⟨_, rfl⟩
  | _ => exact ⟨_, rfl⟩

/-- What follows a next state is a next state. -/
theorem thenDo_next {o : Host.Outcome State Fault Refusal} (f : State → State) (h : ∃ t, o = .next t) : ∃ t, thenDo f o = .next t := by
  obtain ⟨t, rfl⟩ := h
  exact ⟨f t, rfl⟩

theorem occur_answers (e : Event) : Answers (occur e) := fun _ => thenDo_next _ (exec_answers e.row _)

theorem issue_answers : Answers issue := by
  intro s
  unfold issue
  split
  · exact exec_answers _ _
  · exact ⟨_, rfl⟩
  · exact ⟨_, rfl⟩

theorem coreTurn_answers : Answers coreTurn := by
  intro s
  refine thenDo_next _ ?_
  split
  · exact ⟨_, rfl⟩
  · exact issue_answers _

/-- Settles O57: every turn of a step runs a row of the table (`exec_answers`) or changes the state by itself, save one of a core that the
device does not have. -/
theorem nothingRefused : Obligations.NothingRefused := by
  refine ⟨exec_answers, fun s => ?_⟩
  unfold step
  split
  case h_1 hs =>
    dsimp only
    split
    · exact .inl (coreTurn_answers _)
    · next hn => exact .inr ⟨_, _, hs, Nat.not_lt.mp hn, rfl⟩
  case h_2 => exact .inl (occur_answers _ _)
  case h_3 =>
    dsimp only
    split
    · exact .inl (occur_answers _ _)
    · exact .inl ⟨_, rfl⟩
  case h_4 => exact .inl (occur_answers _ _)
  case h_5 => exact .inl ⟨_, rfl⟩
  case h_6 => exact .inl (occur_answers _ _)
  case h_7 => exact .inl (coreTurn_answers s)

end Sys2Proof.Machine
end

section
namespace Sys2Proof.Machine

/-! ## Loads and stores of local memory (O4) -/

variable {ins : Instr} {n : Nat} {signed : Bool} {d : Fin 32} {v a : Src} {i : BitVec 8} {s s1 s2 s3 : State} {base x : W64} {g : Seg}

/-- No change of station and no FREL holds a store to a page of this device (R98, R398). -/
theorem storeHeld_local (u : Nat) (s : State) (hty : g.ty ≤ 3) : storeHeld u [g] s = false := by
  have h : (g.ty == 4) = false := beq_eq_false_iff_ne.mpr (by omega)
  simp [storeHeld, h]

/-- An address that is a multiple of the access's size goes on to the other checks (R82). -/
theorem ctlCheck_aligned (cls : AccCls) (perm : Perm) {ea : W64} (s : State) (h : ea.toNat % n = 0) :
    ctlCheck cls perm ea n s = access 0 cls perm ea.toNat n s := if_neg (not_not.mpr h)

/-- An address that is no multiple of the access's size is ALIGN (R199). -/
theorem ctlCheck_misaligned (cls : AccCls) (perm : Perm) {ea : W64} (s : State) (h : ea.toNat % n ≠ 0) :
    ctlCheck cls perm ea n s = .stop (.trap cALIGN ea 0 s) := if_pos h

section
variable (hw : accessWidth ins = (n, signed)) (hbase : readSrc a s = .ok base s1)
include hw hbase

/-- A load whose checked bytes lie in readable local memory, and that nothing holds, writes them to its register (R198, R199). -/
theorem loadBody_local {bs : List Byte} (hal : (effAddr base i n).toNat % n = 0)
    (hacc : access 0 (if signed then .ctlSigned else .ctl n) .rd (effAddr base i n).toNat n s1 = .ok [g] s2) (hty : g.ty ≤ 3)
    (hf : ctlFenced s2 = false) (hspad : g.own = true → spadHeld s2 (effAddr base i n).toNat n false = false)
    (hp : g.own = false → s2.mem.poisoned g.pa n = none) (hr : readSeg 0 g s2 = .ok bs s3) :
    loadBody ins d a i s = .done (wr s3 d (extended n signed bs)) := by
  have hheld : (g.own && spadHeld s2 (effAddr base i n).toNat n false) = false := by simpa using hspad
  have hpois : (if g.own then none else s2.mem.poisoned g.pa n) = none := by
    cases ho : g.own with
    | true => rfl
    | false => exact hp ho
  have h6 : g.ty ≠ 6 := by omega
  have h45 : ¬ (g.ty = 4 ∨ g.ty = 5) := by omega
  simp only [loadBody, hw, hbase, Res.bind, ctlCheck_aligned _ _ _ hal, hacc, hf, hheld, h6, h45, hpois, hr, Bool.or_false, Bool.false_eq_true,
    if_false]
  rfl

/-- A load from a misaligned address is ALIGN. -/
theorem loadBody_misaligned (hal : (effAddr base i n).toNat % n ≠ 0) : loadBody ins d a i s = .trap cALIGN (effAddr base i n) 0 s1 := by
  simp only [loadBody, hw, hbase, Res.bind, ctlCheck_misaligned _ _ _ hal]

variable (hv : readSrc v s1 = .ok x s2)
include hv

/-- A store whose checked bytes lie in local memory, and that nothing holds, writes them (R198, R199). -/
theorem storeBody_local (hal : (effAddr base i n).toNat % n = 0) (hacc : access 0 (.ctl n) .wr (effAddr base i n).toNat n s2 = .ok [g] s3)
    (hty : g.ty ≤ 3) (hf : ctlFenced s3 = false) (hspad : g.own = true → spadHeld s3 (effAddr base i n).toNat n true = false) :
    storeBody ins v a i s = .done (writeSeg 0 g (bytesOf n x.toNat) s3) := by
  have hheld : (g.own && spadHeld s3 (effAddr base i n).toNat n true) = false := by simpa using hspad
  have h6 : g.ty ≠ 6 := by omega
  simp only [storeBody, hw, hbase, hv, Res.bind, ctlCheck_aligned _ _ _ hal, hacc, hf, hheld, storeHeld_local _ _ hty, h6, Bool.or_false,
    Bool.false_eq_true, if_false]

/-- A store to a misaligned address is ALIGN. -/
theorem storeBody_misaligned (hal : (effAddr base i n).toNat % n ≠ 0) : storeBody ins v a i s = .trap cALIGN (effAddr base i n) 0 s2 := by
  simp only [storeBody, hw, hbase, hv, Res.bind, ctlCheck_misaligned _ _ _ hal]

end

/-- A form that loads completes from local memory. -/
theorem loadsLocal {mk : Fin 32 → Src → BitVec 8 → Instr} (hx : ∀ d a i, exec (mk d a i) = load (mk d a i) d a i)
    (hw : ∀ d a i, accessWidth (mk d a i) = (n, signed)) : LoadsLocal mk n signed := by
  intro d a i s s1 s2 s3 base g bs hready hbase hal hacc hty hf hspad hp hr
  rw [hx]
  exact ctl_done hready (loadBody_local (hw d a i) hbase hal hacc hty hf hspad hp hr)

/-- A form that stores completes in local memory. -/
theorem storesLocal {mk : Src → Src → BitVec 8 → Instr} (hx : ∀ d a i, exec (mk d a i) = store (mk d a i) d a i)
    (hw : ∀ d a i, accessWidth (mk d a i) = (n, signed)) : StoresLocal mk n := by
  intro d a i s s1 s2 s3 base v g hready hbase hv hal hacc hty hf hspad
  rw [hx]
  exact ctl_done hready (storeBody_local (hw d a i) hbase hv hal hacc hty hf hspad)

theorem loadsAndStores_complete : Sys2Proof.Parts.LoadsAndStores :=
  ⟨loadsLocal (fun _ _ _ => rfl) fun _ _ _ => rfl, loadsLocal (fun _ _ _ => rfl) fun _ _ _ => rfl,
   loadsLocal (fun _ _ _ => rfl) fun _ _ _ => rfl, loadsLocal (fun _ _ _ => rfl) fun _ _ _ => rfl,
   loadsLocal (fun _ _ _ => rfl) fun _ _ _ => rfl, loadsLocal (fun _ _ _ => rfl) fun _ _ _ => rfl,
   loadsLocal (fun _ _ _ => rfl) fun _ _ _ => rfl, storesLocal (fun _ _ _ => rfl) fun _ _ _ => rfl,
   storesLocal (fun _ _ _ => rfl) fun _ _ _ => rfl, storesLocal (fun _ _ _ => rfl) fun _ _ _ => rfl,
   storesLocal (fun _ _ _ => rfl) fun _ _ _ => rfl⟩

theorem misalignedAccess : Sys2Proof.Parts.MisalignedAccess := by
  intro d v a i s s1 s2 base x hl hst hbase hv
  have ld {ins : Instr} {n : Nat} {signed : Bool} (hw : accessWidth ins = (n, signed)) (hal : (effAddr base i n).toNat % n ≠ 0) :
      load ins d a i s = .next (finish s (.trap cALIGN (effAddr base i n) 0 s1)) := ctl_body hl (loadBody_misaligned hw hbase hal)
  have st {ins : Instr} {n : Nat} {signed : Bool} (hw : accessWidth ins = (n, signed)) (hal : (effAddr base i n).toNat % n ≠ 0) :
      store ins v a i s = .next (finish s (.trap cALIGN (effAddr base i n) 0 s2)) := ctl_body hst (storeBody_misaligned hw hbase hv hal)
  exact ⟨fun h => ⟨ld rfl h, ld rfl h, st rfl h⟩, fun h => ⟨ld rfl h, ld rfl h, st rfl h⟩, fun h => ⟨ld rfl h, st rfl h⟩⟩

/-- Settles O4: every form is `load` or `store` of its width, whose body local memory lets complete (`loadBody_local`,
`storeBody_local`), and which checks the alignment first. -/
theorem loadsAndStores : Obligations.LoadsAndStores := ⟨loadsAndStores_complete, misalignedAccess⟩

end Sys2Proof.Machine
end

section
namespace Sys2Proof.Machine

/-! ## Bytes of a number (R3) -/

@[simp] theorem natOf_cons (b : Byte) (l : List Byte) : natOf (b :: l) = natOf l * 256 + b.toNat := rfl

theorem bytesOf_succ (n v : Nat) : bytesOf (n + 1) v = BitVec.ofNat 8 v :: bytesOf n (v / 256) := by
  simp only [bytesOf, List.range_succ_eq_map, List.map_cons, List.map_map, Nat.mul_zero, Nat.pow_zero, Nat.div_one, List.cons.injEq, true_and]
  refine List.map_congr_left fun i _ => ?_
  rw [Function.comp_apply, Nat.succ_eq_add_one, Nat.mul_add, Nat.mul_one, Nat.add_comm, Nat.pow_add, ← Nat.div_div_eq_div_mul]

/-- Some bytes hold less than one more byte's place. -/
theorem natOf_lt (l : List Byte) : natOf l < 2 ^ (8 * l.length) := by
  induction l with
  | nil => exact Nat.one_pos
  | cons b l ih =>
    have hb := b.isLt
    rw [natOf_cons, List.length_cons, Nat.mul_succ 8, Nat.pow_add]
    omega

/-- The bytes of a number make it, as far as they reach. -/
@[simp] theorem natOf_bytesOf (n v : Nat) : natOf (bytesOf n v) = v % 2 ^ (8 * n) := by
  induction n generalizing v with
  | zero => exact (Nat.mod_one v).symm
  | succ n ih =>
    rw [bytesOf_succ, natOf_cons, ih, BitVec.toNat_ofNat, Nat.mul_succ 8, Nat.pow_add, Nat.mul_comm (2 ^ (8 * n)) (2 ^ 8), Nat.mod_mul]
    show v / 256 % 2 ^ (8 * n) * 256 + v % 256 = v % 256 + 256 * (v / 256 % 2 ^ (8 * n))
    omega

/-- Some bytes of a number from one place are those of what stands above it. -/
theorem bytesOf_drop_take {n k m : Nat} (v : Nat) (h : k + m ≤ n) : ((bytesOf n v).drop k).take m = bytesOf m (v / 2 ^ (8 * k)) := by
  refine List.ext_getElem (by simp; omega) fun i h1 h2 => ?_
  simp [bytesOf, Nat.div_div_eq_div_mul, ← Nat.pow_add, Nat.mul_add]

theorem length_read (m : Memory) (key : Option (BitVec 512)) (a n : Nat) : (m.read key a n).length = n := by simp [Memory.read]

/-! ## What a translation leaves (R414) -/

/-- From `s` to `t` at most the free values and the caches of translations change. -/
def OnlyTranslates (s t : State) : Prop := t = { s with free := t.free, xl := t.xl }

theorem OnlyTranslates.refl (s : State) : OnlyTranslates s s := rfl

theorem OnlyTranslates.trans {s t u : State} (h : OnlyTranslates s t) (k : OnlyTranslates t u) : OnlyTranslates s u := by
  unfold OnlyTranslates at h k ⊢
  rw [k, h]

theorem OnlyTranslates.ctlFenced {s t : State} (h : OnlyTranslates s t) : ctlFenced t = ctlFenced s := (congrArg Machine.ctlFenced h :)

theorem page_onlyTranslates (cs : List Cache) (die : Nat) (s : State) (asid : BitVec 16) (va : Nat) :
    OnlyTranslates s (page cs die s asid va).2 := by
  unfold page
  split
  · exact .refl s
  · split
    · exact .refl s
    · split <;> rfl

theorem pageAt_onlyTranslates (cs : List Cache) (s : State) (asid : BitVec 16) (va : Nat) : OnlyTranslates s (pageAt cs s asid va).2 := by
  unfold pageAt
  split
  · exact .refl s
  · exact page_onlyTranslates _ _ _ _ _

theorem checkAcc_onlyTranslates (q : Nat) (s : State) (cls : AccCls) (perm : Perm) (va n : Nat) :
    OnlyTranslates s (checkAcc q s cls perm va n).2 := by
  unfold checkAcc check
  split
  · exact .refl s
  · split
    · exact .refl s
    · exact List.foldlRecOn (motive := fun p : List Page × State => OnlyTranslates s p.2) _ _ (.refl s)
        fun p hp x _ => hp.trans (pageAt_onlyTranslates _ p.2 _ x.1)

/-! ## Operands that are ready (R191, R192) -/

/-- No late error stands for registers where none names one of them. -/
theorem lateOf_none_iff {rs : List (Fin 32)} {s : State} : lateOf (some rs) s = none ↔ ∀ l ∈ s.cx.fl.late, ∀ d ∈ l.dests, d ∉ rs := by
  have h : lateOf (some rs) s = none ↔ s.cx.fl.late.find? (fun l => l.dests.any (rs.contains ·)) = none := by
    cases hf : s.cx.fl.late.find? (fun l => l.dests.any (rs.contains ·)) <;> simp only [lateOf, hf, reduceCtorEq]
  rw [h]
  simp

/-- Some of the registers of a word that is ready are ready. -/
theorem Ready.mono {rs ss : List (Fin 32)} {s : State} (h : Ready ss s) (hsub : rs ⊆ ss) : Ready rs s := by
  obtain ⟨hlate, hbusy⟩ := h
  refine ⟨lateOf_none_iff.mpr fun l hl d hd hmem => lateOf_none_iff.mp hlate l hl d hd ?_, ?_⟩
  · obtain ⟨hr, hz⟩ := List.mem_filter.mp hmem
    exact List.mem_filter.mpr ⟨hsub hr, hz⟩
  · rw [List.any_eq_false] at hbusy ⊢
    exact fun r hr => hbusy r (hsub hr)

end Sys2Proof.Machine
end

section
namespace Sys2Proof.Machine

/-! ## Atomics on this device (O7) -/

variable {a b c : Fin 32} {dbl : Bool} {s s' : State} {g : Seg}

/-- The checks of an atomic of this device's memory are a step of its word as they stand. -/
theorem access_atomic {q va n : Nat} (h : (checkAcc q s .atomic .rw va n).1 = .ok [g]) (hty : g.ty ≤ 2) :
    access q .atomic .rw va n s = .ok [g] (checkAcc q s .atomic .rw va n).2 := by
  have h4 : (g.ty == 4) = false := beq_eq_false_iff_ne.mpr (by omega)
  rcases hc : checkAcc q s .atomic .rw va n with ⟨chk, t⟩
  rw [hc] at h
  subst h
  simp [access, hc, h4]

/-- An atomic of this device's memory that nothing holds delivers what its unit answers (R95, R200). -/
theorem atomicBody_local {ins : Instr} {x : W64} {n align : Nat} {dests : List (Fin 32)} {here : Seg → Memory → UnitAns × Memory}
    {there : Seg → RemoteOp} {bs : List Byte} {m : Memory} (hr : replayable s = false) (hal : x.toNat % align = 0)
    (hacc : access 0 .atomic .rw x.toNat n s = .ok [g] s') (hty : g.ty ≤ 2) (hf : ctlFenced s' = false) (hh : here g s'.mem = (.inl bs, m)) :
    atomicBody ins x n align dests here there s = .done (wrAll (answerRegs bs dests) { s' with mem := m }) := by
  have h4 : g.ty ≠ 4 := by omega
  have hheld := storeHeld_local s'.uid s' (show g.ty ≤ 3 by omega)
  simp [atomicBody, hr, hal, hacc, Res.bind, hf, hheld, h4, hh]

/-- In a replayable task an atomic is ILLEGAL (R47, R200). -/
theorem atomicBody_replayable {ins : Instr} {x : W64} {n align : Nat} {dests : List (Fin 32)} {here : Seg → Memory → UnitAns × Memory}
    {there : Seg → RemoteOp} (hr : replayable s = true) : atomicBody ins x n align dests here there s = illegal s.cx.pc s := by
  rw [atomicBody, if_pos hr]

theorem unitRead_readable {m : Memory} {pa n : Nat} (key : Option (BitVec 512)) (h : m.poisoned pa n = none) :
    unitRead m key pa n = .inl (natOf (m.read key pa n)) := by
  rw [unitRead, h]

/-- The unit of readable bytes answers the old value and writes the new one, where there is one (R201). -/
theorem unitAmo_readable {m : Memory} {op : AmoOp} {n pa : Nat} (c e : Nat) (key : Option (BitVec 512)) (h : m.poisoned pa n = none) :
    unitAmo op n pa c e key m = (.inl (bytesOf n (natOf (m.read key pa n))),
      ((amoNew op (8 * n) (natOf (m.read key pa n)) c e).map fun v => m.write key pa (bytesOf n v)).getD m) := by
  rw [unitAmo, unitRead_readable key h]
  dsimp only
  cases amoNew op (8 * n) (natOf (m.read key pa n)) c e <;> rfl

/-- One register takes an answer of at most 8 bytes. -/
theorem wrAll_answer_one {bs : List Byte} (r : Fin 32) (s : State) (h : bs.length ≤ 8) :
    wrAll (answerRegs bs [r]) s = wr s r (BitVec.ofNat 64 (natOf bs)) := by
  simp [wrAll, answerRegs, List.take_of_length_le h]

/-- The bytes of an atomic of 4 or 8 (R200). -/
def amoBytes (dbl : Bool) : Nat := if dbl then 8 else 4

theorem amoBytes_le (dbl : Bool) : amoBytes dbl ≤ 8 := by cases dbl <;> decide

/-- An atomic of 4 or 8 bytes on this device gives A the old value and leaves memory as its unit does (R201). -/
theorem amo_local {op : AmoOp} {ins : Instr} (hready : Ready ([b, c] ++ if op = .cas then [a] else []) s) (hr : replayable s = false)
    (hal : (sget s.cx b).toNat % amoBytes dbl = 0) (hacc : access 0 .atomic .rw (sget s.cx b).toNat (amoBytes dbl) s = .ok [g] s')
    (hty : g.ty ≤ 2) (hf : ctlFenced s' = false) (hp : s'.mem.poisoned g.pa (amoBytes dbl) = none) :
    let n := amoBytes dbl
    let old := natOf (s'.mem.read g.key g.pa n)
    let new := amoNew op (8 * n) old (sget s.cx c).toNat (sget s.cx a).toNat
    amo op ins a b c dbl s = .next (complete (wr { s' with mem := (new.map fun v => s'.mem.write g.key g.pa (bytesOf n v)).getD s'.mem } a
      (BitVec.ofNat 64 (natOf (bytesOf n old))))) := by
  intro n old new
  refine ctl_done hready ((atomicBody_local hr hal hacc hty hf (unitAmo_readable _ _ _ hp)).trans ?_)
  rw [wrAll_answer_one _ _ (by rw [bytesOf_length]; exact amoBytes_le dbl)]

/-- The same under conditions on the state before the checks, which change no more than the caches of translations. -/
theorem amo_checked {op : AmoOp} {ins : Instr} {new : Option Nat} (hready : Ready ([b, c] ++ if op = .cas then [a] else []) s)
    (hr : replayable s = false) (hal : (sget s.cx b).toNat % amoBytes dbl = 0)
    (hchk : (checkAcc 0 s .atomic .rw (sget s.cx b).toNat (amoBytes dbl)).1 = .ok [g]) (hty : g.ty ≤ 2) (hf : ctlFenced s = false)
    (hp : s.mem.poisoned g.pa (amoBytes dbl) = none)
    (hnew : amoNew op (8 * amoBytes dbl) (natOf (s.mem.read g.key g.pa (amoBytes dbl))) (sget s.cx c).toNat (sget s.cx a).toNat = new) :
    amo op ins a b c dbl s = .next (complete (wr { (checkAcc 0 s .atomic .rw (sget s.cx b).toNat (amoBytes dbl)).2 with
      mem := (new.map fun v => s.mem.write g.key g.pa (bytesOf (amoBytes dbl) v)).getD s.mem } a
      (BitVec.ofNat 64 (BitVec.ofNat (8 * amoBytes dbl) (natOf (s.mem.read g.key g.pa (amoBytes dbl)))).toNat))) := by
  have hmem := checkAcc_mem 0 s .atomic .rw (sget s.cx b).toNat (amoBytes dbl)
  have hfence := (checkAcc_onlyTranslates 0 s .atomic .rw (sget s.cx b).toNat (amoBytes dbl)).ctlFenced
  rw [amo_local hready hr hal (access_atomic hchk hty) hty (hfence.trans hf) (by rw [hmem]; exact hp)]
  simp only [hmem, hnew, natOf_bytesOf, BitVec.toNat_ofNat]

/-- A form whose new value is that of a function completes. -/
theorem atomicLocal {op : AmoOp} {mk : Fin 32 → Fin 32 → Fin 32 → Bool → Instr} {f : (w : Nat) → BitVec w → BitVec w → BitVec w}
    (hop : op ≠ .cas) (hx : ∀ a b c dbl, exec (mk a b c dbl) = amo op (mk a b c dbl) a b c dbl)
    (hnew : ∀ w old c e, amoNew op w old c e = some (f w (BitVec.ofNat w old) (BitVec.ofNat w c)).toNat) : AtomicLocal mk f := by
  intro a b c dbl s s' g hready hr n hal hacc hty hf hp old new after
  rw [hx, amo_local (by simpa [hop] using hready) hr hal hacc hty hf hp, hnew]
  rfl

/-- The smaller and the greater value as R201 compares them, signed or not. -/
theorem amoNew_min_max (w old c e : Nat) :
    let x := BitVec.ofNat w old
    let y := BitVec.ofNat w c
    amoNew .min w old c e = some (if y.toInt < x.toInt then y else x).toNat
    ∧ amoNew .minu w old c e = some (if y.toNat < x.toNat then y else x).toNat
    ∧ amoNew .max w old c e = some (if x.toInt < y.toInt then y else x).toNat
    ∧ amoNew .maxu w old c e = some (if x.toNat < y.toNat then y else x).toNat := by
  simp only [amoNew, BitVec.slt, BitVec.ult, decide_eq_true_eq, and_self]

theorem atomics_complete : Sys2Proof.Parts.Atomics :=
  ⟨atomicLocal (op := .add) (by decide) (fun _ _ _ _ => rfl) fun _ _ _ _ => rfl,
    atomicLocal (op := .swp) (by decide) (fun _ _ _ _ => rfl) fun _ _ _ _ => rfl,
    atomicLocal (op := .and) (by decide) (fun _ _ _ _ => rfl) fun _ _ _ _ => rfl,
    atomicLocal (op := .or) (by decide) (fun _ _ _ _ => rfl) fun _ _ _ _ => rfl,
    atomicLocal (op := .xor) (by decide) (fun _ _ _ _ => rfl) fun _ _ _ _ => rfl,
    atomicLocal (op := .min) (by decide) (fun _ _ _ _ => rfl) fun w old c e => (amoNew_min_max w old c e).1,
    atomicLocal (op := .minu) (by decide) (fun _ _ _ _ => rfl) fun w old c e => (amoNew_min_max w old c e).2.1,
    atomicLocal (op := .max) (by decide) (fun _ _ _ _ => rfl) fun w old c e => (amoNew_min_max w old c e).2.2.1,
    atomicLocal (op := .maxu) (by decide) (fun _ _ _ _ => rfl) fun w old c e => (amoNew_min_max w old c e).2.2.2,
    fun _ _ _ _ _ hready hr => ctl_body hready (atomicBody_replayable hr)⟩

/-- A state whose memory is put back is the state. -/
theorem checkAcc_withMem (q : Nat) (s : State) (cls : AccCls) (perm : Perm) (va n : Nat) :
    ({ (checkAcc q s cls perm va n).2 with mem := s.mem } : State) = (checkAcc q s cls perm va n).2 :=
  (congrArg (fun m => ({ (checkAcc q s cls perm va n).2 with mem := m } : State)) (checkAcc_mem q s cls perm va n).symm :)

theorem atomicsComplete : Sys2Proof.Parts.AtomicsComplete := by
  intro a b c dbl s g n s' old new store gives hready hr hal hchk hty hf hp
  have h2 : Ready [b, c] s := hready.mono (by simp)
  obtain ⟨hmin, hminu, hmax, hmaxu⟩ := amoNew_min_max (8 * n) (natOf (s.mem.read g.key g.pa n)) (sget s.cx c).toNat (sget s.cx a).toNat
  refine ⟨(amo_checked (op := .add) h2 hr hal hchk hty hf hp rfl :), (amo_checked (op := .swp) h2 hr hal hchk hty hf hp rfl :),
    (amo_checked (op := .and) h2 hr hal hchk hty hf hp rfl :), (amo_checked (op := .or) h2 hr hal hchk hty hf hp rfl :),
    (amo_checked (op := .xor) h2 hr hal hchk hty hf hp rfl :), (amo_checked (op := .min) h2 hr hal hchk hty hf hp hmin :),
    (amo_checked (op := .minu) h2 hr hal hchk hty hf hp hminu :), (amo_checked (op := .max) h2 hr hal hchk hty hf hp hmax :),
    (amo_checked (op := .maxu) h2 hr hal hchk hty hf hp hmaxu :), ?_⟩
  by_cases h : old = BitVec.ofNat (8 * n) (sget s.cx a).toNat
  · rw [if_pos h]
    exact (amo_checked (op := .cas) hready hr hal hchk hty hf hp (if_pos h) :)
  · rw [if_neg h]
    refine (amo_checked (op := .cas) hready hr hal hchk hty hf hp (if_neg h)).trans ?_
    exact congrArg gives (checkAcc_withMem 0 s .atomic .rw (sget s.cx b).toNat n)

/-- Settles O7: each form is `amo`, which `amo_local` brings to its unit's new value (`amoNew`), and the checks change no more than the
caches of translations (`checkAcc_onlyTranslates`). -/
theorem atomics : Obligations.Atomics := ⟨atomics_complete, atomicsComplete⟩

end Sys2Proof.Machine
end

section
namespace Sys2Proof.Machine

/-! ## Compare-and-swap and queues in memory (O8) -/

variable {a b c : Fin 32} {s s' : State} {g : Seg}

/-- A word whose body is an atomic of this device's memory delivers what its unit answers, under conditions on the state before the checks. -/
theorem atomicBody_checked {ins : Instr} {x : W64} {n align : Nat} {dests : List (Fin 32)} {here : Seg → Memory → UnitAns × Memory}
    {there : Seg → RemoteOp} {bs : List Byte} {m : Memory} (hr : replayable s = false) (hal : x.toNat % align = 0)
    (hchk : (checkAcc 0 s .atomic .rw x.toNat n).1 = .ok [g]) (hty : g.ty ≤ 2) (hf : ctlFenced s = false) (hh : here g s.mem = (.inl bs, m)) :
    atomicBody ins x n align dests here there s
      = .done (wrAll (answerRegs bs dests) { (checkAcc 0 s .atomic .rw x.toNat n).2 with mem := m }) :=
  atomicBody_local hr hal (access_atomic hchk hty) hty ((checkAcc_onlyTranslates 0 s .atomic .rw x.toNat n).ctlFenced.trans hf)
    (by rw [checkAcc_mem]; exact hh)

/-- What AMOCAS leaves in memory: the new value where the old one is the expected one (R201). -/
theorem amoNew_cas_write (w old c e : Nat) (f : Nat → Memory) (m : Memory) : ((amoNew .cas w old c e).map f).getD m
    = if (BitVec.ofNat w old == BitVec.ofNat w e) = true then f (BitVec.ofNat w c).toNat else m := by
  simp only [amoNew, beq_iff_eq]
  split <;> rfl

theorem compareSwapAndQueues_complete : Sys2Proof.Parts.CompareSwapAndQueues := by
  refine ⟨?_, fun a b c s s' g bs m hready hr hal hacc hty hf hu => ?_,
    fun a b c s s' g bs m hready hr hal hacc hty hf hu => ?_, fun a b c s s' g bs m hready hr hal hacc hty hf hu => ?_,
    fun a b c f s s' g bs m hready hr hacc hty hf hu => ?_⟩
  · intro a b c dbl s s' g hready hr n hal hacc hty hf hp old new same after
    refine (amo_local (op := .cas) hready hr hal hacc hty hf hp).trans ?_
    rw [amoNew_cas_write]
    rfl
  · exact ctl_done hready (atomicBody_local hr hal hacc hty hf hu)
  · exact ctl_done hready (atomicBody_local hr hal hacc hty hf hu)
  · exact ctl_done hready (atomicBody_local hr hal hacc hty hf hu)
  · exact ctl_done hready (atomicBody_local hr (Nat.mod_one _) hacc hty hf hu)

variable {m : Memory} {key : Option (BitVec 512)} {pa hi d tail head cap : Nat}

/-- The answers of LENQ at a full queue and of LDEQ at an empty one, and the flag of LDEQ at another, byte by byte (R203). -/
theorem queue_answer_bytes : bytesOf 8 0xFFFFFFFFFFFFFFFF = List.replicate 8 0xFF ∧ bytesOf 8 0 ++ bytesOf 8 0 = List.replicate 16 0
    ∧ bytesOf 8 1 = [1, 0, 0, 0, 0, 0, 0, 0] := by decide

section
variable (hd : unitRead m key pa 16 = .inl d) (hq : queueDesc d pa hi = some (tail, head, cap))
include hd hq

/-- LENQ by the fill of its queue (R203). -/
theorem unitLenq_eq (c : Nat) : unitLenq pa hi c key m = if (tail + 2 ^ 32 - head) % 2 ^ 32 = cap then (.inl (List.replicate 8 0xFF), m)
    else (.inl (bytesOf 8 tail),
      (m.write key (pa + 16 + 8 * (tail % cap)) (bytesOf 8 c)).write key (pa + 4) (bytesOf 4 ((tail + 1) % 2 ^ 32))) := by
  simp only [unitLenq, hd, hq, queue_answer_bytes.1]

/-- LDEQ of an empty queue (R203). -/
theorem unitLdeq_empty (h : tail = head) : unitLdeq pa hi key m = (.inl (List.replicate 16 0), m) := by
  simp only [unitLdeq, hd, hq, if_pos h, queue_answer_bytes.2.1]

/-- LDEQ of a queue whose oldest entry is readable (R203). -/
theorem unitLdeq_entry {v : Nat} (h : tail ≠ head) (hv : unitRead m key (pa + 16 + 8 * (head % cap)) 8 = .inl v) :
    unitLdeq pa hi key m
      = (.inl (bytesOf 8 v ++ [1, 0, 0, 0, 0, 0, 0, 0]), m.write key pa (bytesOf 4 ((head + 1) % 2 ^ 32))) := by
  simp only [unitLdeq, hd, hq, if_neg h, hv, queue_answer_bytes.2.2]

end

theorem memoryQueue : Sys2Proof.Parts.MemoryQueue := fun _ _ _ _ _ _ _ _ _ hd hq =>
  ⟨fun h => (unitLenq_eq hd hq _).trans (if_pos h), fun h => (unitLenq_eq hd hq _).trans (if_neg h), unitLdeq_empty hd hq,
    fun _ h hv => unitLdeq_entry hd hq h hv⟩

/-- The slots of a queue lie in its page (R203). -/
theorem queueDesc_slot (hq : queueDesc d pa hi = some (tail, head, cap)) (k : Nat) :
    pa + 16 ≤ pa + 16 + 8 * (k % cap) ∧ pa + 16 + 8 * (k % cap) + 8 ≤ hi := by
  unfold queueDesc at hq
  dsimp only at hq
  split at hq
  · cases hq
  · next h =>
    simp only [Option.some.injEq, Prod.mk.injEq] at hq
    obtain ⟨-, -, rfl⟩ := hq
    have hk := Nat.mod_lt k (Nat.two_pow_pos (d / 2 ^ 64 % 32))
    omega

/-- LENQ on a readable descriptor answers. -/
theorem unitLenq_answers (c : Nat) (hp : m.poisoned pa 16 = none) : ∃ bs n, unitLenq pa hi c key m = (.inl bs, n) := by
  unfold unitLenq
  rw [unitRead_readable key hp]
  dsimp only
  split
  · exact ⟨_, _, rfl⟩
  · split <;> exact ⟨_, _, rfl⟩

/-- LDEQ on a readable descriptor, whose page can be read, answers. -/
theorem unitLdeq_answers (hp : m.poisoned pa 16 = none) (hslots : ∀ x, pa + 16 ≤ x → x + 8 ≤ hi → m.poisoned x 8 = none) :
    ∃ bs n, unitLdeq pa hi key m = (.inl bs, n) := by
  unfold unitLdeq
  rw [unitRead_readable key hp]
  dsimp only
  split
  · exact ⟨_, _, rfl⟩
  · next tail head cap hq =>
    split
    · exact ⟨_, _, rfl⟩
    · obtain ⟨hlo, hhi⟩ := queueDesc_slot hq head
      rw [unitRead_readable key (hslots _ hlo hhi)]
      exact ⟨_, _, rfl⟩

/-- A chase of pointers in a page that can be read ends at one (R205). -/
theorem chaseFrom_answers {lo hi link : Nat} {toPa : Nat → Nat} (h : ∀ x, lo ≤ x → x + 8 ≤ hi → m.poisoned (toPa x) 8 = none) (n p : Nat) :
    ∃ q, chaseFrom m key lo hi link toPa n p = .inl q := by
  induction n generalizing p with
  | zero => exact ⟨p, rfl⟩
  | succ n ih =>
    unfold chaseFrom
    dsimp only
    split
    · exact ⟨p, rfl⟩
    · rw [unitRead_readable key (h _ (by omega) (by omega))]
      exact ih _

/-- PCHASE in a page that can be read answers, and leaves memory. -/
theorem unitChase_answers {base lo hi n link : Nat} (h : ∀ x, lo ≤ x → x + 8 ≤ hi → m.poisoned (pa + x - base) 8 = none) :
    ∃ bs, unitChase pa base lo hi n link key m = (.inl bs, m) := by
  obtain ⟨q, hq⟩ := chaseFrom_answers (key := key) (link := link) (toPa := fun x => pa + x - base) h n base
  exact ⟨bytesOf 8 q, by rw [unitChase, hq]⟩

/-- A pair of registers takes the 16 bytes of a number, the low half first (R202). -/
theorem wrAll_answer_pair (v : BitVec 128) (r k : Fin 32) (s : State) :
    wrAll (answerRegs (bytesOf 16 v.toNat) [r, k]) s = wr (wr s r (v.setWidth 64)) k ((v >>> 64).setWidth 64) := by
  have hlo : BitVec.ofNat 64 (natOf ((bytesOf 16 v.toNat).take 8)) = v.setWidth 64 := by
    have h := bytesOf_drop_take (n := 16) (k := 0) (m := 8) v.toNat (by decide)
    rw [List.drop_zero] at h
    apply BitVec.eq_of_toNat_eq
    simp [h]
  have hhi : BitVec.ofNat 64 (natOf (((bytesOf 16 v.toNat).drop 8).take 8)) = (v >>> 64).setWidth 64 := by
    rw [bytesOf_drop_take v.toNat (by decide)]
    apply BitVec.eq_of_toNat_eq
    simp [Nat.shiftRight_eq_div_pow]
  simp [wrAll, answerRegs, hlo, hhi]

/-- AMOCAS2 on readable bytes (R202). -/
theorem unitCas2_readable (e c : BitVec 128) (hp : m.poisoned pa 16 = none) :
    let old := BitVec.ofNat 128 (natOf (m.read key pa 16))
    unitCas2 pa e.toNat c.toNat key m = (.inl (bytesOf 16 old.toNat), if old = e then m.write key pa (bytesOf 16 c.toNat) else m) := by
  have hlt := natOf_lt (m.read key pa 16)
  rw [length_read] at hlt
  have hold : (BitVec.ofNat 128 (natOf (m.read key pa 16))).toNat = natOf (m.read key pa 16) :=
    (BitVec.toNat_ofNat _ _).trans (Nat.mod_eq_of_lt hlt)
  simp only [unitCas2, unitRead_readable key hp, BitVec.toNat_eq, hold]

/-- AMOCAS2 completes on readable bytes of this device: A and A + 1 take the old 16 bytes (R202). -/
theorem amocas2_checked (hready : Ready [a, oddOf a, b, c, oddOf c] s) (hr : replayable s = false) (hal : (sget s.cx b).toNat % 16 = 0)
    (hchk : (checkAcc 0 s .atomic .rw (sget s.cx b).toNat 16).1 = .ok [g]) (hty : g.ty ≤ 2) (hf : ctlFenced s = false)
    (hp : s.mem.poisoned g.pa 16 = none) :
    let old : BitVec 128 := BitVec.ofNat 128 (natOf (s.mem.read g.key g.pa 16))
    let m := if old = sget s.cx (oddOf a) ++ sget s.cx a then s.mem.write g.key g.pa (bytesOf 16 (sget s.cx (oddOf c) ++ sget s.cx c).toNat)
      else s.mem
    exec (.amocas2 a b c) s = .next (complete (wr (wr { (checkAcc 0 s .atomic .rw (sget s.cx b).toNat 16).2 with mem := m } a (old.setWidth 64))
      (oddOf a) ((old >>> 64).setWidth 64))) := by
  intro old m
  have hbody := atomicBody_checked (ins := .amocas2 a b c) (dests := [a, oddOf a]) (n := 16) (align := 16)
    (here := fun g m => unitCas2 g.pa (cat128 (sget s.cx (oddOf a)) (sget s.cx a)).toNat (cat128 (sget s.cx (oddOf c)) (sget s.cx c)).toNat
      g.key m)
    (there := fun g => .cas2 g.pa (cat128 (sget s.cx (oddOf a)) (sget s.cx a)) (cat128 (sget s.cx (oddOf c)) (sget s.cx c)) g.rkey)
    hr hal hchk hty hf (unitCas2_readable _ _ hp)
  rw [wrAll_answer_pair] at hbody
  exact ctl_done hready hbody

/-- LENQ on this device delivers what its unit answers (R203). -/
theorem lenq_checked {bs : List Byte} (hready : Ready [b, c] s) (hr : replayable s = false) (hal : (sget s.cx b).toNat % 16 = 0)
    (hchk : (checkAcc 0 s .atomic .rw (sget s.cx b).toNat 16).1 = .ok [g]) (hty : g.ty ≤ 2) (hf : ctlFenced s = false)
    (hu : unitLenq g.pa (pageEnd s g) (sget s.cx c).toNat g.key s.mem = (.inl bs, m)) :
    exec (.lenq a b c) s
      = .next (complete (wrAll (answerRegs bs [a]) { (checkAcc 0 s .atomic .rw (sget s.cx b).toNat 16).2 with mem := m })) := by
  have hbody := atomicBody_checked (ins := .lenq a b c) (dests := [a]) (align := 16)
    (here := fun g m => unitLenq g.pa (pageEnd s g) (sget s.cx c).toNat g.key m)
    (there := fun g => .lenq g.pa (pageEnd s g) (sget s.cx c) g.rkey) hr hal hchk hty hf hu
  exact ctl_done hready hbody

/-- LDEQ on this device delivers what its unit answers (R203). -/
theorem ldeq_checked {bs : List Byte} (hready : Ready [b] s) (hr : replayable s = false) (hal : (sget s.cx b).toNat % 16 = 0)
    (hchk : (checkAcc 0 s .atomic .rw (sget s.cx b).toNat 16).1 = .ok [g]) (hty : g.ty ≤ 2) (hf : ctlFenced s = false)
    (hu : unitLdeq g.pa (pageEnd s g) g.key s.mem = (.inl bs, m)) :
    exec (.ldeq a b c) s
      = .next (complete (wrAll (answerRegs bs [a, c]) { (checkAcc 0 s .atomic .rw (sget s.cx b).toNat 16).2 with mem := m })) := by
  have hbody := atomicBody_checked (ins := .ldeq a b c) (dests := [a, c]) (align := 16)
    (here := fun g m => unitLdeq g.pa (pageEnd s g) g.key m) (there := fun g => .ldeq g.pa (pageEnd s g) g.rkey) hr hal hchk hty hf hu
  exact ctl_done hready hbody

/-- PCHASE on this device delivers what its unit answers (R205). -/
theorem pchase_checked {f : BitVec 7} {bs : List Byte} (hready : Ready [b, c] s) (hr : replayable s = false)
    (hchk : (checkAcc 0 s .atomic .rw (sget s.cx b).toNat 1).1 = .ok [g]) (hty : g.ty ≤ 2) (hf : ctlFenced s = false)
    (hu : unitChase g.pa g.va (pageSpan s g.va).1 (pageSpan s g.va).2 (Nat.min (sget s.cx c).toNat 256) (8 * f.toNat) g.key s.mem
      = (.inl bs, s.mem)) :
    exec (.pchase a b c f) s = .next (complete (wrAll (answerRegs bs [a]) (checkAcc 0 s .atomic .rw (sget s.cx b).toNat 1).2)) := by
  have hbody := atomicBody_checked (ins := .pchase a b c f) (dests := [a]) (align := 1)
    (here := fun g m => unitChase g.pa g.va (pageSpan s g.va).1 (pageSpan s g.va).2 (Nat.min (sget s.cx c).toNat 256) (8 * f.toNat) g.key m)
    (there := fun g => .chase g.pa g.va (pageSpan s g.va).1 (pageSpan s g.va).2 (Nat.min (sget s.cx c).toNat 256) (8 * f.toNat) g.rkey)
    hr (Nat.mod_one _) hchk hty hf hu
  rw [checkAcc_withMem] at hbody
  exact ctl_done hready hbody

theorem nearMemoryComplete : Sys2Proof.Parts.NearMemoryComplete := by
  intro a b c f s g hready hr hf hty hpage hslots hp
  have hbc : Ready [b, c] s := hready.mono (by simp)
  refine ⟨fun hal hchk => ⟨amocas2_checked hready hr hal hchk hty hf hp, ?_, ?_⟩, fun hchk => ?_⟩
  · obtain ⟨bs, m, hu⟩ := unitLenq_answers (hi := pageEnd s g) (key := g.key) (sget s.cx c).toNat hp
    exact ⟨bs, m, hu, lenq_checked hbc hr hal hchk hty hf hu⟩
  · obtain ⟨bs, m, hu⟩ := unitLdeq_answers (key := g.key) hp hslots
    exact ⟨bs, m, hu, ldeq_checked (hbc.mono (by simp)) hr hal hchk hty hf hu⟩
  · obtain ⟨bs, hu⟩ := unitChase_answers (key := g.key) (n := Nat.min (sget s.cx c).toNat 256) (link := 8 * f.toNat) hpage
    exact ⟨bs, hu, pchase_checked hbc hr hchk hty hf hu⟩

/-- Settles O8: each form delivers what its unit answers (`atomicBody_local`, `atomicBody_checked`), and a unit whose bytes are readable
answers (`unitLenq_answers`, `unitLdeq_answers`, `unitChase_answers`). -/
theorem compareSwapAndQueues : Obligations.CompareSwapAndQueues := ⟨compareSwapAndQueues_complete, memoryQueue, nearMemoryComplete⟩

end Sys2Proof.Machine
end

section
namespace Sys2Proof.Machine

/-! ## Boundaries and fences (O12) -/

variable {s : State}

theorem execPhase_published {sc : Scope} (h : unpublished (sc == .pod) s = none) :
    exec (.phase sc) s = .next (complete (boundaryDone s)) :=
  ctl_done (ready_nil s) (by rw [h])

/-- A BAR.core that has not arrived, with nothing unpublished, is a boundary of its core (R214). -/
theorem execBar_core (hw : ∀ k, s.cx.fl.wait ≠ .barrier k) (h : unpublished false s = none) :
    exec (.bar .core) s = .next (complete (boundaryDone s)) := by
  refine ctl_done (ready_nil s) ?_
  split
  · next k hk => exact absurd hk (hw k)
  · rw [show (Scope.core == Scope.pod) = false from rfl, h]
    rfl

/-- A wider BAR of a task arrives at its barrier (R11, R215). -/
theorem execBar_arrives {sc : Scope} {t : TaskRun} (hsc : sc ≠ .core) (hw : ∀ k, s.cx.fl.wait ≠ .barrier k)
    (h : unpublished (sc == .pod) s = none) (ht : s.cx.task = some t) : exec (.bar sc) s = .next (finish s (arrive sc t s)) := by
  refine ctl_body (ready_nil s) ?_
  split
  · next k hk => exact absurd hk (hw k)
  · simp only [h, if_neg hsc, ht]

/-- FENCE completes with no late error, atomic or operation packet ahead of it (R216). -/
theorem execFence_answered (hlate : lateOf none s = none) (hloads : s.cx.fl.loads.all (fun l => plainLoad l.ins) = true)
    (hpend : s.cx.fl.pend.all (fun e => e.retained || !isOpk e.ins) = true) : exec .fence s = .next (complete s) := by
  have hl : s.cx.fl.loads.any (fun l => !plainLoad l.ins) = false := by simpa using hloads
  have hp : s.cx.fl.pend.any (fun e => !e.retained && isOpk e.ins) = false := by
    simpa [or_iff_not_imp_left] using hpend
  refine ctl_done (ready_nil s) ?_
  simp only [hlate, hl, hp, Bool.or_self, Bool.false_eq_true, if_false]

/-- What QFENCE leaves (R217): its group behind the queued words, and the snapshot that knows it. -/
def fencedState (m : BitVec 7) (s : State) : State :=
  { s with uid := s.uid + 1, cx := joinPins m { s.cx with fl := { s.cx.fl with
    fences := if s.cx.fl.pend.isEmpty && s.cx.fl.unacked.isEmpty then s.cx.fl.fences else s.cx.fl.fences ++ [(m, s.uid)] } } }

theorem execQfence_answered {m : BitVec 7} (h : m.getLsbD 0 = true → s.cx.fl.loads.all (fun l => isOpk l.ins) = true) :
    exec (.qfence m) s = .next (complete (fencedState m s)) := by
  refine ctl_done (ready_nil s) ?_
  have hb : (m.getLsbD 0 && s.cx.fl.loads.any fun l => !isOpk l.ins) = false := by
    cases hm : m.getLsbD 0 with
    | false => rfl
    | true => simpa using h hm
  simp only [hb, Bool.false_eq_true, if_false]
  rfl

theorem boundariesAndFences_complete : Sys2Proof.Parts.BoundariesAndFences := by
  refine ⟨fun sc s h => ⟨execPhase_published h, rfl, rfl⟩, fun s => execBar_core, fun sc s t => execBar_arrives,
    fun s => execFence_answered, fun m s h => ⟨fencedState m s, execQfence_answered h, rfl, fun _ _ => rfl, ⟨rfl, rfl, rfl⟩, ⟨rfl, rfl, rfl⟩,
      rfl, ⟨rfl, ⟨rfl, rfl⟩, rfl, rfl, rfl, rfl, ⟨rfl, rfl⟩, rfl, rfl, rfl, rfl, rfl, ⟨rfl, rfl, rfl⟩, rfl⟩⟩⟩

/-- Settles O12: the interlocks of these words name no register, so each comes to its body (`ctl_done`), whose waits the premises rule
out. -/
theorem boundariesAndFences : Obligations.BoundariesAndFences := boundariesAndFences_complete

end Sys2Proof.Machine
end

section
namespace Sys2Proof.Machine

/-! ## Streams and operation packets (O28) -/

theorem need_pass {b : State → Bool} {s : State} (h : b s = true) : need b s = none := if_pos h

theorem need_fail {b : State → Bool} {s : State} (h : b s = false) : need b s = some (illegal s.cx.pc s) :=
  if_neg (ne_true_of_eq_false h)

/-- SBIND gives its register a binding with a new serial and leaves the others (R301). -/
theorem bindStream_streams (a b c : Fin 32) (k : StreamKind) (q j : Fin 8) (s : State) :
    (bindStream a b c k q s).cx.streams[j] = if j = q then
      some { id := s.uid, kind := k, addr := sget s.cx a, count := (sget s.cx b).toNat, stride := sget s.cx c } else s.cx.streams[j] := by
  show (s.cx.streams.set q _)[j] = _
  simp only [Fin.getElem_fin, Vector.getElem_set, Fin.ext_iff, eq_comm (a := j.val)]

theorem setStream_none_streams (q j : Fin 8) (s : State) :
    (setStream q none s).cx.streams[j] = if j = q then none else s.cx.streams[j] := by
  rw [setStream_cx_streams]
  simp only [Fin.getElem_fin, Vector.getElem_set, Fin.ext_iff, eq_comm (a := j.val)]

theorem sbindOk_bound {b : Fin 32} {k : StreamKind} {q : Fin 8} {s : State} (h : (s.cx.streams[q]).isSome = true) : sbindOk b k q s = false := by
  exact (congrArg (· && _) (Option.isNone_eq_false_iff.mpr h)).trans (Bool.false_and _)

theorem streamBinding : Sys2Proof.Parts.StreamBinding :=
  ⟨fun _ _ _ _ _ _ hs hok => routeQ_done hs (need_pass hok) rfl (by decide) rfl,
    fun _ _ hs _ => routeQ_done (chk := noChk) (body := bodySunbind) hs rfl rfl (by decide) rfl, bindStream_streams, setStream_none_streams,
    fun _ _ _ _ _ _ hr hb => routeQ_refused hr (need_fail (sbindOk_bound hb))⟩

/-! ### Operation packets -/

variable {p : OpPacket} {pa t : Nat} {src : List Byte} {key : Option (BitVec 512)} {m : Memory} {s : State}

/-- The elements that a packet finds. -/
def opOlds (p : OpPacket) (t : Nat) : List Nat := (List.range p.n).map (laneOf p.f.width t)

theorem unitOpk_sum (h : unitRead m key pa (p.n * p.f.width) = .inl t) (hop : p.op = 4) :
    unitOpk p pa src key m = (.inl (bytesOf 8 (opExtend p.f (opSum p (opOlds p t)))), m) := by
  rw [unitOpk, h]
  exact if_pos hop

theorem unitOpk_replaces (h : unitRead m key pa (p.n * p.f.width) = .inl t) (hop : p.op ≠ 4) :
    unitOpk p pa src key m = (.inl (bytesOf 8 (opExtend p.f ((opOlds p t).headD 0))), m.write key pa (bytesOf (p.n * p.f.width)
      (packLanes p.f.width ((opOlds p t).mapIdx fun k o => opElem p o (laneOf p.f.width (natOf src) k))))) := by
  rw [unitOpk, h]
  exact if_neg hop

/-- The element that a unit answers has 8 bytes. -/
theorem unitOpk_answer_length {v : List Byte} {n : Memory} (h : unitOpk p pa src key m = (.inl v, n)) : v.length = 8 := by
  cases hr : unitRead m key pa (p.n * p.f.width) with
  | inr k => simp [unitOpk, hr] at h
  | inl t =>
    by_cases hop : p.op = 4
    · rw [unitOpk_sum hr hop] at h
      simp only [Prod.mk.injEq, Sum.inl.injEq] at h
      rw [← h.1, bytesOf_length]
    · rw [unitOpk_replaces hr hop] at h
      simp only [Prod.mk.injEq, Sum.inl.injEq] at h
      rw [← h.1, bytesOf_length]

theorem isF_of_isI {f : Fmt} (h : f.isI = true) : f.isF = false := by
  cases f <;> simp_all [Fmt.isI, Fmt.isF]

/-- The elements of an integer packet (R305). -/
theorem opElem_integer (hI : p.f.isI = true) (old src : Nat) :
    (p.op = 0 → opElem p old src = p.imm)
    ∧ (p.op = 1 → (opElem p old src : Int) = (ival p.f old + ival p.f src) % 2 ^ (8 * p.f.width))
    ∧ (p.op = 2 → opElem p old src = if ival p.f old < ival p.f src then src else old)
    ∧ (p.op = 3 → opElem p old src = if ival p.f old < ival p.f src then old else src) := by
  have hF := isF_of_isI hI
  refine ⟨fun h => ?_, fun h => ?_, fun h => ?_, fun h => ?_⟩
  · simp only [opElem, h]
  · simp only [opElem, h, hF, Bool.false_eq_true, if_false, wrapInt]
    exact Int.toNat_of_nonneg (Int.emod_nonneg _ (by positivity))
  · by_cases hlt : ival p.f old < ival p.f src <;> simp [opElem, h, minmaxLane, hF, hlt]
  · simp [opElem, h, minmaxLane, hF]

/-- What an operation packet's routing checks, where nothing is refused (R306). -/
theorem opkChecks_pass {b : Fin 32} {q : Option (Fin 8)} (hr : replayable s = false)
    (hq : ∀ k, q = some k → (s.cx.streams[k]).any (·.kind == .result) = true) (hal : (sget s.cx b).toNat % 16 = 0)
    (hin : inPart (sget s.cx b) 16 s = none) :
    firstOf [notReplayed, feedChk q .result, alignChk b 16, fun s => inPart (sget s.cx b) 16 s] s = none := by
  have h1 : notReplayed s = none := need_pass (by rw [hr]; rfl)
  have h2 : feedChk q .result s = none := by
    cases q with
    | none => rfl
    | some k => exact if_pos (hq k rfl)
  have h3 : alignChk b 16 s = none := if_neg (not_not.mpr hal)
  simp [firstOf, h1, h2, h3, hin]

theorem operationPackets : Sys2Proof.Parts.OperationPackets :=
  ⟨fun _ _ _ _ _ _ _ hs ⟨hr, hq, hal, hin⟩ hb => routeQ_done hs (opkChecks_pass hr hq hal hin) rfl (by decide) hb,
    fun _ _ _ _ _ _ h => ⟨unitOpk_sum h, unitOpk_replaces h⟩, fun _ old src hI => opElem_integer hI old src⟩

/-- A result whose stream has room is delivered (R313). -/
theorem giveResult_deliver {e : QEntry} (v : W64) (h : canDeliver e s = true) :
    giveResult e v s = (.done (deliver e (v.setWidth 6144) s), e.done) := if_pos h

/-- A number of 64 bits, as an element of a stream. -/
theorem setWidth_ofNat_of_lt {v : Nat} (h : v < 2 ^ 64) : (BitVec.ofNat 64 v).setWidth 6144 = BitVec.ofNat 6144 v := by
  apply BitVec.eq_of_toNat_eq
  rw [BitVec.toNat_setWidth, BitVec.toNat_ofNat, BitVec.toNat_ofNat, Nat.mod_eq_of_lt h]

section
variable {a b c : Fin 32} {q : Option (Fin 8)} {e : QEntry} {p1 p2 p3 p4 : State} {gs : List Seg} {bs v : List Byte} {g : Seg}

/-- The attempt of an operation packet for a block of this device: with its packet and its source read, its target checked and readable
and room for its element, its unit does what the packet says and its answer is delivered (R93, R305, R306). -/
theorem bodyOpk_local (hfresh : e.done = 0) (hgot : e.got = none) (hpkt : access 5 .copy .rd (qs e b).toNat 16 s = .ok gs p1)
    (hread : readSegs 5 gs p1 = .ok bs p2)
    (hp : opPacket (BitVec.ofNat 64 (natOf bs)) (BitVec.ofNat 64 (natOf bs / 2 ^ 64)) = some p) (hc : p.op = 0 ∨ p.op = 4 → c = 0)
    (hq : p.op = 4 → q.isSome = true) (hal : (qs e a).toNat % p.f.width = 0)
    (hblock : (qs e a).toNat / 256 = ((qs e a).toNat + p.n * p.f.width - 1) / 256)
    (hacc : access 5 .atomic .rw (qs e a).toNat (p.n * p.f.width) p2 = .ok [g] p3) (hty : g.ty ≤ 2)
    (hsrc : opSource p (qs e c) p3 = .ok src p4) (hroom : canDeliver e p4 = true) (hu : unitOpk p g.pa src g.key p4.mem = (.inl v, m)) :
    bodyOpk a b c q e s = (.done (deliver e (BitVec.ofNat 6144 (natOf v)) { p4 with mem := m }), 0) := by
  have hops : ¬ (((p.op = 0 ∨ p.op = 4) ∧ c ≠ 0) ∨ (p.op = 4 ∧ q = none)) := by
    rintro (⟨h, hne⟩ | ⟨h, rfl⟩)
    · exact hne (hc h)
    · exact absurd (hq h) (by decide)
  have hplace : ¬ ((qs e a).toNat % p.f.width ≠ 0 ∨ (qs e a).toNat / 256 ≠ ((qs e a).toNat + p.n * p.f.width - 1) / 256) := by
    simp [hal, hblock]
  have h4 : g.ty ≠ 4 := by omega
  have hlt := natOf_lt v
  rw [unitOpk_answer_length hu] at hlt
  have hgive := giveResult_deliver (s := { p4 with mem := m }) (BitVec.ofNat 64 (natOf v)) (show canDeliver e { p4 with mem := m } = true from hroom)
  rw [setWidth_ofNat_of_lt hlt, hfresh] at hgive
  simp only [bodyOpk, hfresh, hgot, hpkt, Res.andThen, hread, hp, hops, hplace, hacc, hsrc, storeHeld_local _ _ (show g.ty ≤ 3 by omega), h4, hu,
    ne_eq, not_true_eq_false, if_false, Bool.false_eq_true]
  exact hgive

end

theorem operationPacketCompletes : Sys2Proof.Parts.OperationPacketCompletes := by
  intro a b c q s p1 p2 p3 p4 gs bs src v pk g m i e t n hs hr hq hal hin hpkt hread hp hc hsum hta hblock hacc hty hsrc hroom hu
  exact routeQ_done hs (opkChecks_pass hr hq hal hin) rfl (by decide)
    (bodyOpk_local rfl rfl hpkt hread hp hc hsum hta hblock hacc hty hsrc hroom hu)

/-- Settles O28: SBIND and SUNBIND act at their routing and complete at once; an operation packet's attempt comes to its unit's answer
(`bodyOpk_local`), which `unitOpk_sum`, `unitOpk_replaces` and `opElem_integer` give. -/
theorem streamsAndOperations : Obligations.StreamsAndOperations := ⟨streamBinding, operationPackets, operationPacketCompletes⟩

end Sys2Proof.Machine
end

section
namespace Sys2Proof.Machine

/-! ## Requests of peers and translation (O45) -/

variable {s : State} {pa n ty : Nat} {key : Option (BitVec 10)}

/-! ### Requests of peers (R79, R93, R412) -/

section
variable {noSpad : Bool} {f : Option (BitVec 512) → (AccStatus × List Byte) × State} {range : Option Nat}

/-- What an access of a peer gives by the range that holds its bytes. -/
def peerAccessIn (range : Option Nat) (noSpad : Bool) (key : Option (BitVec 10)) (f : Option (BitVec 512) → (AccStatus × List Byte) × State)
    (s : State) : (AccStatus × List Byte) × State :=
  match range with
  | none => ((.pagePerm, []), s)
  | some ty =>
    if noSpad && ty == 3 then ((.pagePerm, []), s)
    else match peerKey s ty key with
      | none => ((.pagePerm, []), s)
      | some k => f k

/-- The kernel would evaluate the range of bytes that are not known when it compares a call of `peerAccess` with what it computes; so the
equation is taken between the functions, and the range is a variable when the two sides meet. -/
theorem peerAccess_eq (h : memType s.mem.partU pa n = range) : peerAccess noSpad pa n key f s = peerAccessIn range noSpad key f s := by
  have hdef : peerAccess = peerAccess := rfl
  conv at hdef => rhs; delta peerAccess
  rw [hdef]
  beta_reduce
  rw [h]
  cases range <;> rfl

/-- Bytes outside this device's memory are refused. -/
theorem peerAccess_outside (h : memType s.mem.partU pa n = none) : peerAccess noSpad pa n key f s = ((.pagePerm, []), s) := peerAccess_eq h

/-- A scratchpad is refused where it does not admit the access. -/
theorem peerAccess_scratchpad (h : memType s.mem.partU pa n = some 3) : peerAccess true pa n key f s = ((.pagePerm, []), s) := peerAccess_eq h

/-- A key ID without a key is refused. -/
theorem peerAccess_keyless {k : BitVec 10} (h : memType s.mem.partU pa n = some ty) (hk : assoc s.xl.keys k.toNat = none) :
    peerAccess noSpad pa n (some k) f s = ((.pagePerm, []), s) := by
  rw [peerAccess_eq h]
  simp only [peerAccessIn, peerKey, hk, ite_self]

/-- Another access runs under its key. -/
theorem peerAccess_admitted {k : Option (BitVec 512)} (h : memType s.mem.partU pa n = some ty) (hk : peerKey s ty key = some k) :
    peerAccess false pa n key f s = f k := by
  rw [peerAccess_eq h]
  simp only [peerAccessIn, hk, Bool.false_and, Bool.false_eq_true, if_false]

end

/-- A peer's load of readable bytes answers with them. -/
theorem perform_load {k : Option (BitVec 512)} (h : memType s.mem.partU pa n = some ty) (hk : peerKey s ty key = some k)
    (hp : s.mem.poisoned pa n = none) : perform (.load pa n key) s = ((.done, s.mem.read k pa n), s) := by
  rw [perform, peerRead, peerAccess_admitted h hk, hp]

/-- A peer's store that names no key is written. -/
theorem perform_store {bs : List Byte} (h : memType s.mem.partU pa bs.length = some ty) :
    perform (.store pa bs none) s = ((.done, []), { s with mem := s.mem.write none pa bs }) := by
  rw [perform, peerAccess_admitted h (show peerKey s ty none = some none from rfl)]

/-- Bytes that their range refuses are neither read nor written. -/
theorem perform_outside {bs : List Byte} : (memType s.mem.partU pa n = none → perform (.load pa n key) s = ((.pagePerm, []), s))
    ∧ (memType s.mem.partU pa bs.length = none → perform (.store pa bs key) s = ((.pagePerm, []), s)) := by
  constructor <;> intro h
  · rw [perform, peerRead, peerAccess_outside h]
  · rw [perform, peerAccess_outside h]

theorem perform_fetch_scratchpad (h : memType s.mem.partU pa n = some 3) : perform (.fetch pa n key) s = ((.pagePerm, []), s) := by
  rw [perform, peerRead, peerAccess_scratchpad h]

theorem perform_load_keyless {k : BitVec 10} (h : memType s.mem.partU pa n = some ty) (hk : assoc s.xl.keys k.toNat = none) :
    perform (.load pa n (some k)) s = ((.pagePerm, []), s) := by
  rw [perform, peerRead, peerAccess_keyless h hk]

/-- The key of a request for encrypted memory is that of its ID (R412). -/
theorem peerKey_some {k : BitVec 10} {v : BitVec 512} (hty : ty ≤ 1) (hk : assoc s.xl.keys k.toNat = some v) :
    peerKey s ty (some k) = some (some v) := by
  simp only [peerKey, hk, if_pos hty]

theorem execRemoteRequest_eq {src : Fin 1024} {tag : Nat} {op : RemoteOp} (hn : s.now = some (.remoteRequest src tag op)) :
    execRemoteRequest s = .next (send (.response src.val tag (perform op s).1.1 (perform op s).1.2) (perform op s).2) := by
  rw [execRemoteRequest, hn]

theorem execRemoteResponse_eq {tag : Nat} {st : AccStatus} {bs : List Byte} (hn : s.now = some (.remoteResponse tag st bs)) :
    execRemoteResponse s = .next (answerArrives tag st bs s) := by
  rw [execRemoteResponse, hn]

theorem peerRequests : Sys2Proof.Parts.PeerRequests :=
  ⟨fun _ _ _ _ hn => execRemoteRequest_eq hn, fun _ _ _ _ hn => execRemoteResponse_eq hn, fun _ _ _ _ h hp => perform_load h rfl hp,
    fun _ _ _ _ h => perform_store h, fun _ _ _ _ _ => perform_outside, fun _ _ _ _ h => perform_fetch_scratchpad h,
    fun _ _ _ _ _ h hk => perform_load_keyless h hk, fun _ _ _ _ _ _ h hty hk hp => perform_load h (peerKey_some hty hk) hp⟩

/-! ### Page faults at their home (R418) -/

section
variable {src : Fin 1024} {asid : BitVec 16} {page : BitVec 36} {k : AccKind} {uid tail head cap : Nat}

/-- Without a fault queue a fault is refused. -/
theorem openFault_unserved (h : faultQueue s = none) : openFault src asid page k uid s = answerWaiter .refuseAbsent (src.val, uid) s := by
  simp only [openFault, h]

/-- A fault on a page that waits joins its waiters. -/
theorem openFault_joins (hq : (faultQueue s).isSome = true) (hw : s.xl.waiters.any (fun w => w.asid == asid && w.page == page) = true) :
    openFault src asid page k uid s = { s with xl := { s.xl with waiters := s.xl.waiters.map fun w =>
      if w.asid = asid ∧ w.page = page then { w with who := w.who ++ [(src.val, uid)] } else w } } := by
  obtain ⟨⟨pa, tail, head, cap⟩, hq⟩ := Option.isSome_iff_exists.mp hq
  simp only [openFault, hq, hw, if_true, Bool.and_eq_true, beq_iff_eq]

section
variable (hq : faultQueue s = some (pa, tail, head, cap)) (hw : s.xl.waiters.any (fun w => w.asid == asid && w.page == page) = false)
include hq hw

/-- A first fault on a page is held while the table or the queue is full. -/
theorem openFault_held (hfull : 4096 ≤ s.xl.waiters.length ∨ (tail + 2 ^ 32 - head) % 2 ^ 32 = cap) :
    openFault src asid page k uid s = { s with held := s.held ++ [.pageFaultMessage src asid page k uid] } := by
  simp only [openFault, hq, hw, Bool.false_eq_true, if_false, if_pos hfull]

/-- A first fault on a page opens its waiters, with a record in the queue. -/
theorem openFault_opens (hroom : s.xl.waiters.length < 4096) (hqueue : (tail + 2 ^ 32 - head) % 2 ^ 32 ≠ cap) (hsig : s.mmio.fqsig = 0) :
    openFault src asid page k uid s
      = { s with mem := (unitLenq pa (pa + 16 + 8 * cap) (fields [(asid.toNat, 48), (page.toNat, 12), (kindCode k, 0)]).toNat none s.mem).2
                 xl := { s.xl with waiters := s.xl.waiters ++ [⟨asid, page, k, true, [(src.val, uid)]⟩] } } := by
  have hfull : ¬ (4096 ≤ s.xl.waiters.length ∨ (tail + 2 ^ 32 - head) % 2 ^ 32 = cap) := by omega
  simp only [openFault, hq, hw, Bool.false_eq_true, if_false, if_neg hfull, signalPager, hsig, if_true]

end
end

/-! ### Shootdowns (R416, R421) -/

/-- HOLDERS_OUTSTANDING of a retiring ASID whose holders have been late for 1 ms, or for 1 ms more. -/
theorem execHoldersOutstanding_late {asid : BitVec 16} {b : AsidEnt} (hn : s.now = some (.holdersOutstanding asid))
    (hb : bindOf s.xl asid = some b) (hr : b.retiring = true) (ha : b.acks ≠ []) (hc : b.since + micros 1000 ≤ s.clock) :
    exec .holdersOutstanding s = .next (event 4 5 wholeDevice (asid.setWidth 64) (BitVec.ofNat 64 b.acks.eraseDups.length)
      { s with xl := { s.xl with asids := s.xl.asids.map fun e => if e.asid = asid then { e with since := s.clock } else e } }) := by
  have hlate : holdersLate s b = true := by simp [holdersLate, hr, ha, hc]
  show execHoldersOutstanding s = _
  simp only [execHoldersOutstanding, hn, hb, hlate, if_true]

theorem translationEvents : Sys2Proof.Parts.TranslationEvents := by
  refine ⟨fun src asid page k uid s hn => ?_, fun src asid page k uid s => ⟨openFault_unserved, fun hq hw => ?_⟩,
    fun src asid r => ⟨fun s hn => ?_, fun s hn => ?_⟩, fun asid b s hn ⟨hb, hr, ha, hc⟩ => execHoldersOutstanding_late hn hb hr ha hc,
    fun asid s hn hb => ?_, fun src asid page k uid pa tail head cap s hq hw => ⟨openFault_held hq hw, fun hroom hqueue hsig => ?_⟩⟩
  · show execPageFaultMessage s = _
    rw [execPageFaultMessage, hn]
  · rw [openFault_joins hq hw]
    exact ⟨rfl, rfl⟩
  · show execTlbShootdown s = _
    rw [execTlbShootdown, hn]
  · show execShootdownAck s = _
    rw [execShootdownAck, hn]
  · show execHoldersOutstanding s = _
    simp only [execHoldersOutstanding, hn, hb]
  · rw [openFault_opens hq hw hroom hqueue hsig]
    exact ⟨rfl, rfl⟩

/-- Settles O45: a peer's access is refused or runs as `peerAccess_outside`, `peerAccess_scratchpad`, `peerAccess_keyless` and
`peerAccess_admitted` say, and a page fault at its home takes one of the four ways of `openFault`. -/
theorem peersAndTranslation : Obligations.PeersAndTranslation := ⟨peerRequests, translationEvents⟩

end Sys2Proof.Machine
end

section
namespace Sys2Proof.Machine

/-! ## Cast groups at the switch and at the member (O46) -/

variable {s : State} {g : Fin 4096} {m : Member} {n : BitVec 32} {c : CastItem} {w : SwGroup}

/-- In a list whose entries of one key change, and keep their key, the first entry of that key is the first one before, changed. -/
theorem find?_map_key {α κ : Type} [DecidableEq κ] (key : α → κ) (k : κ) {f : α → α} (hf : ∀ x, key (f x) = key x) (l : List α) :
    (l.map fun x => if key x = k then f x else x).find? (key · == k) = (l.find? (key · == k)).map f := by
  induction l with
  | nil => rfl
  | cons x l ih =>
    rw [List.map_cons]
    by_cases h : key x = k
    · have hx : key (f x) = k := (hf x).trans h
      simp [h, hx]
    · simp [h, ih]

theorem memberOf_updMember {f : Member → Member} (hf : ∀ m, (f m).g = m.g) (hm : memberOf s g = some m) :
    memberOf (updMember g f s) g = some (f m) := by
  have h := find?_map_key Member.g g hf s.fab.members
  rw [show s.fab.members.find? (Member.g · == g) = some m from hm] at h
  exact h

theorem swGroup_updSw {f : SwGroup → SwGroup} (hf : ∀ w, (f w).g = w.g) (hw : swGroup s g = some w) :
    swGroup (updSw g f s) g = some (f w) := by
  have h := find?_map_key SwGroup.g g hf s.fab.groups
  rw [show s.fab.groups.find? (SwGroup.g · == g) = some w from hw] at h
  exact h

/-! ### At the switch (R101, R105) -/

/-- What the switch sends to a member of a group. -/
def stampedTo (n : BitVec 32) (c : CastItem) (s : State) (d : Fin 1024) : State :=
  if d = s.dev then raiseDue (.stamped n c) s else switchSend (castMsg d.val 2 n c) s

theorem stampedTo_onlySends (n : BitVec 32) (c : CastItem) (s : State) (d : Fin 1024) : OnlySends s (stampedTo n c s d) := by
  unfold stampedTo
  split
  · exact raiseDue_onlySends _ s
  · rfl

/-- The group's number goes on, and this device's copy of the store is marked. -/
def takeNumber (c : CastItem) (s : State) : State :=
  let s := updSw c.g (fun w => { w with next := seqSucc w.next }) s
  { s with fab := { s.fab with sends := s.fab.sends.map fun x => if x.item = c then { x with stamped := true } else x } }

theorem OnlySends.dev {s t : State} (h : OnlySends s t) : t.dev = s.dev := (congrArg State.dev h :)

theorem OnlySends.groups {s t : State} (h : OnlySends s t) : t.fab.groups = s.fab.groups := (congrArg (·.fab.groups) h :)

theorem OnlySends.rslots {s t : State} (h : OnlySends s t) : t.fab.rslots = s.fab.rslots := (congrArg (·.fab.rslots) h :)

theorem mem_raiseDue_of_mem {e i : Event} (h : e ∈ s.due) : e ∈ (raiseDue i s).due := by
  unfold raiseDue
  split
  · exact h
  · exact List.mem_append_left _ h

theorem mem_stampedTo {e : Event} {d : Fin 1024} (h : e ∈ s.due) : e ∈ (stampedTo n c s d).due := by
  unfold stampedTo
  split
  · exact mem_raiseDue_of_mem h
  · exact h

/-- Where this device is a member, the stamped store reaches it. -/
theorem stamped_mem_due {l : List (Fin 1024)} (h : s.dev ∈ l) : .stamped n c ∈ (l.foldl (stampedTo n c) s).due := by
  obtain ⟨l1, l2, rfl⟩ := List.append_of_mem h
  have hdev : (l1.foldl (stampedTo n c) s).dev = s.dev := (OnlySends.foldl (stampedTo_onlySends n c) l1 s).dev
  rw [List.foldl_append, List.foldl_cons]
  refine List.foldlRecOn (motive := fun s : State => .stamped n c ∈ s.due) l2 _ ?_ fun _ h _ _ => mem_stampedTo h
  rw [← hdev, stampedTo, if_pos rfl]
  exact mem_raiseDue _ _

section
variable {c0 : CastItem} (hr : received c0 s = some c) (hw : swGroup s c.g = some w)
include hr hw

/-- A member's store is stamped with the group's next number, which goes on, and reaches every member. -/
theorem stampStore_stamps (hmem : w.members.contains c.src = true) (hfr : w.frozen = false) (hdev : s.dev ∈ w.members) :
    swGroup (stampStore c0 s) c.g = some { w with next := seqSucc w.next } ∧ .stamped w.next c ∈ (stampStore c0 s).due := by
  have hstore : stampStore c0 s = w.members.foldl (stampedTo w.next c) (takeNumber c s) := by
    simp only [stampStore, hr, hw, hmem, hfr, Bool.not_true, Bool.false_eq_true, if_false]
    rfl
  have hnext : swGroup (takeNumber c s) c.g = some { w with next := seqSucc w.next } :=
    swGroup_updSw (f := fun w => { w with next := seqSucc w.next }) (fun _ => rfl) hw
  rw [hstore]
  refine ⟨?_, stamped_mem_due hdev⟩
  rw [swGroup, (OnlySends.foldl (stampedTo_onlySends w.next c) w.members _).groups]
  exact hnext

/-- A frozen group stamps nothing (R105). -/
theorem stampStore_frozen (hmem : w.members.contains c.src = true) (hfr : w.frozen = true) : stampStore c0 s = s := by
  simp only [stampStore, hr, hw, hmem, hfr, Bool.not_true, Bool.false_eq_true, if_false, if_true]

/-- A store of a device that is no member is discarded. -/
theorem stampStore_stranger (hmem : w.members.contains c.src = false) :
    swGroup (stampStore c0 s) c.g = some w ∧ ∀ x ∈ (stampStore c0 s).fab.sends, x.item ≠ c := by
  have h : stampStore c0 s = { s with fab := { s.fab with sends := s.fab.sends.filter fun x => x.item != c } } := by
    simp only [stampStore, hr, hw, hmem, Bool.not_false, if_true]
  rw [h]
  exact ⟨hw, fun x hx => bne_iff_ne.mp (List.mem_filter.mp hx).2⟩

end

/-! ### At the member (R102 to R104, R107) -/

/-- A store that was not applied before is written and is the highest applied one. -/
theorem applyStore_fresh (hm : memberOf s g = some m) (hs : m.serials.contains (c.src, c.serial) = false) :
    (applyStore g n c s).mem = s.mem.write m.key (m.base + c.off.toNat) c.data
    ∧ ∃ m', memberOf (applyStore g n c s) g = some m' ∧ m'.applied = n ∧ m'.kept = m.kept := by
  simp only [applyStore, hm, hs, Bool.false_eq_true, if_false]
  exact ⟨rfl, _, memberOf_updMember (fun _ => rfl) hm, rfl, rfl⟩

/-- A member that holds no store asks for none. -/
theorem askMissing_nothing (hm : memberOf s g = some m) (hk : m.kept = []) : askMissing g s = s := by
  have hlen : gapLength m = 0 := by simp [gapLength, hk]
  simp only [askMissing, hm, hlen, askNumbers]
  split <;> rfl

theorem drainKept_nothing (hm : memberOf s g = some m) (hk : m.kept = []) (k : Nat) : drainKept g k s = s := by
  cases k with
  | zero => rfl
  | succ k => simp only [drainKept, hm, hk, List.find?_nil]

/-- A member without the store that it held under a number. -/
def dropKept (n : BitVec 32) (m : Member) : Member := { m with kept := m.kept.filter (·.1 != n) }

/-- The next store in order, with none held behind it, is applied. -/
theorem drainMember_next {t : Nat} (hm : memberOf s g = some m) (hk : m.kept = [(n, c, t)]) (hn : n = seqSucc m.applied)
    (hs : m.serials.contains (c.src, c.serial) = false) :
    (drainMember g s).mem = s.mem.write m.key (m.base + c.off.toNat) c.data
    ∧ (memberOf (drainMember g s) g).map (·.applied) = some n := by
  obtain ⟨hmem, m', hm', happ, hkept⟩ := applyStore_fresh (n := n) hm hs
  have hdrop : memberOf (updMember g (dropKept n) (applyStore g n c s)) g = some (dropKept n m') := memberOf_updMember (fun _ => rfl) hm'
  have hnil : (dropKept n m').kept = [] := by simp [dropKept, hkept, hk]
  have hdrain : drainMember g s = updMember g (dropKept n) (applyStore g n c s) := by
    have h1 : drainKept g 2 s = drainKept g 1 (updMember g (dropKept n) (applyStore g n c s)) := by
      rw [drainKept, hm]
      simp only [hk, ← hn, List.find?_singleton, beq_self_eq_true, if_true]
      rfl
    simp only [drainMember, hm, Option.map_some, Option.getD_some, hk, List.length_singleton, h1, drainKept_nothing hdrop hnil,
      askMissing_nothing hdrop hnil]
  rw [hdrain, hdrop]
  exact ⟨hmem, congrArg some happ⟩

/-- A member with one more store held, since `t`. -/
def keepStore (n : BitVec 32) (c : CastItem) (t : Nat) (m : Member) : Member := { m with kept := m.kept ++ [(n, c, t)] }

section
variable (hm : memberOf s g = some m)
include hm

/-- The next store of a member that holds none is applied (R102). -/
theorem receiveStore_next (hgap : m.gap = false) (hj : m.joining = false) (hfr : m.frozen = false) (hk : m.kept = [])
    (hn : n = seqSucc m.applied) (hnew : seqLe n m.applied = false) (hs : m.serials.contains (c.src, c.serial) = false) :
    (receiveStore g n c s).mem = s.mem.write m.key (m.base + c.off.toNat) c.data
    ∧ (memberOf (receiveStore g n c s) g).map (·.applied) = some n := by
  have hr : receiveStore g n c s = drainMember g (updMember g (keepStore n c s.clock) s) := by
    simp only [receiveStore, hm, hgap, hj, hfr, hk, hnew, ← hn, List.any_nil, List.isEmpty_nil, Bool.or_self, Bool.false_eq_true, if_false]
    rfl
  have hkept : memberOf (updMember g (keepStore n c s.clock) s) g = some (keepStore n c s.clock m) := memberOf_updMember (fun _ => rfl) hm
  rw [hr]
  exact drainMember_next (m := keepStore n c s.clock m) (t := s.clock) hkept (by simp [keepStore, hk]) hn hs

/-- A member in GAP receives nothing (R104). -/
theorem receiveStore_gap (h : m.gap = true) : receiveStore g n c s = s := by
  simp only [receiveStore, hm, h, if_true]

/-- A store that is not above the highest applied one has no effect. -/
theorem receiveStore_old (hj : m.joining = false) (h : seqLe n m.applied = true) : receiveStore g n c s = s := by
  simp [receiveStore, hm, hj, h]

/-- A joining member records a store (R107). -/
theorem receiveStore_joining (hgap : m.gap = false) (hj : m.joining = true) (hk : m.kept.any (·.1 == n) = false)
    (hn : seqLe m.first n = true) (hlen : m.kept.length < 256) :
    (receiveStore g n c s).mem = s.mem ∧ memberOf (receiveStore g n c s) g = some { m with kept := m.kept ++ [(n, c, s.clock)] } := by
  have hr : receiveStore g n c s = updMember g (fun m => { m with kept := m.kept ++ [(n, c, s.clock)] }) s := by
    simp only [receiveStore, hm, hgap, hj, hk, hn, Nat.not_le.mpr hlen, Bool.not_true, Bool.or_self, Bool.false_eq_true, if_false, if_true]
  rw [hr]
  exact ⟨rfl, memberOf_updMember (fun _ => rfl) hm⟩

/-- A gap of 50 µs puts a member in GAP (R104). -/
theorem memberOf_gapOver : memberOf (gapOver g s) g = some (if gapLate s m then { m with gap := true, kept := [] } else m) :=
  memberOf_updMember (f := fun m => if gapLate s m then { m with gap := true, kept := [] } else m) (fun m => by split <;> rfl) hm

/-- A request for one number is answered where the ring holds it (R104). -/
theorem answerGap_held {x : BitVec 32 × CastItem} (src : Fin 1024) (hx : m.ring.find? (·.1 == n) = some x) :
    answerGap src g n 1 s = send (castMsg src.val 3 n x.2) s := by
  simp [answerGap, hm, hx]

theorem answerGap_lost (src : Fin 1024) (hx : m.ring.find? (·.1 == n) = none) : answerGap src g n 1 s = s := by
  simp [answerGap, hm, hx]

end

theorem gapLate_iff {t : Nat} (hj : m.joining = false) (hfr : m.frozen = false) (ht : gapSince m = some t) :
    gapLate s m = true ↔ t + micros 50 ≤ s.clock := by
  simp [gapLate, hj, hfr, ht]

/-- A plane that carries no group fails without effect on groups (R105). -/
theorem failPlane_unused {k : Nat} (h : ∀ w ∈ s.fab.groups, w.plane ≠ k) : failPlane k s = s := by
  have hnone : s.fab.groups.filter (·.plane == k) = [] := by simpa using h
  simp [failPlane, hnone]


/-! ## Reductions and releases (O46) -/

section
variable {tag : BitVec 16} {c : RedItem} {r : RSlot} {st : BitVec 3}

theorem switchSend_onlySends (x : Msg) (s : State) : OnlySends s (switchSend x s) := rfl

theorem sendOutcome_onlySends (o : RedOutcome) (d : Fin 1024) (s : State) : OnlySends s (sendOutcome g tag o d s) := by
  unfold sendOutcome
  split
  · exact raiseDue_onlySends _ s
  · exact switchSend_onlySends _ s

theorem markCounted_rslots (c : RedItem) (s : State) : (markCounted c s).fab.rslots = s.fab.rslots := by
  unfold markCounted
  split <;> rfl

/-- A fenced member's contribution is refused, and its fence ends (R110). -/
theorem contribute_fenced (h : (fencedOf s c.g c.tag).contains c.src = true) :
    ∃ t, contribute c s = sendNack c.g c.tag 2 c.src t ∧ t.fab.rslots = s.fab.rslots :=
  ⟨_, if_pos h, rfl⟩

/-- A contribution to a slot that does not take it is refused (R109). -/
theorem contribute_refused (hf : fencedOf s c.g c.tag = []) (hslot : s.fab.rslots.find? (fun x => x.g == c.g && x.tag == c.tag) = some r)
    (h : r.op ≠ c.op ∨ r.int ≠ c.int ∨ r.nanskip ≠ c.nanskip ∨ r.got.any (·.1 == c.src) = true) :
    contribute c s = sendNack c.g c.tag 3 c.src s := by
  have hb : (r.op != c.op || r.int != c.int || r.nanskip != c.nanskip || r.got.any (·.1 == c.src)) = true := by
    simpa only [Bool.or_eq_true, bne_iff_ne, or_assoc] using h
  simp only [contribute, hf, List.contains_nil, hslot, hb, Bool.false_eq_true, if_false, if_true]

section
variable (hf : fencedOf s c.g c.tag = []) (hslot : s.fab.rslots.find? (fun x => x.g == c.g && x.tag == c.tag) = none)
  (hw : swGroup s c.g = some w)
include hf hslot hw

/-- A first contribution that finds no slot free is refused (R108). -/
theorem contribute_noSlot (h : 1024 ≤ (s.fab.rslots.filter (·.plane == w.plane)).length) : contribute c s = sendNack c.g c.tag 5 c.src s := by
  simp only [contribute, hf, List.contains_nil, hslot, hw, Bool.false_eq_true, if_false, if_pos h]

/-- A first contribution to a group of more members opens a slot (R108). -/
theorem contribute_opens (h : (s.fab.rslots.filter (·.plane == w.plane)).length < 1024) (hd : ∃ d ∈ w.members, d ≠ c.src) :
    (contribute c s).fab.rslots = ⟨c.g, c.tag, c.op, c.int, c.nanskip, w.members, [(c.src, c.value)], w.plane, s.clock⟩ :: s.fab.rslots := by
  obtain ⟨d, hmem, hne⟩ := hd
  have hopen : (w.members.all fun d => [(c.src, c.value)].any (·.1 == d)) = false :=
    List.all_eq_false.mpr ⟨d, hmem, by simpa using hne.symm⟩
  simp only [contribute, hf, List.contains_nil, hslot, hw, if_neg (Nat.not_le.mpr h), Bool.not_false, List.filter_true, hopen,
    Bool.false_eq_true, if_false]
  exact markCounted_rslots c _

end

/-- Bit d of a contributor bitmap under construction: it was set, or device d contributed. -/
theorem getLsbD_contributors (l : List (Fin 1024 × BitVec 32)) (b : BitVec 1024) (d : Fin 1024) :
    (l.foldl (fun b x => b ||| (1 : BitVec 1024) <<< x.1.val) b).getLsbD d.val = (b.getLsbD d.val || l.any (·.1 == d)) := by
  induction l generalizing b with
  | nil => simp
  | cons x l ih =>
    have hbit : ((1 : BitVec 1024) <<< x.1.val).getLsbD d.val = (x.1 == d) := by
      have hd := d.isLt
      rw [BitVec.getLsbD_shiftLeft, show (1 : BitVec 1024) = 1#1024 from rfl, BitVec.getLsbD_one, Bool.eq_iff_iff]
      simp only [Bool.and_eq_true, decide_eq_true_eq, Bool.not_eq_true', decide_eq_false_iff_not, beq_iff_eq, Fin.ext_iff]
      omega
    rw [List.foldl_cons, ih, BitVec.getLsbD_or, hbit, List.any_cons, Bool.or_assoc]

/-- The bitmap of an outcome names the contributors (R313). -/
theorem redOutcome_bitmap (r : RSlot) (st : BitVec 3) :
    (redOutcome r st).bitmap = r.got.foldl (fun b x => b ||| (1 : BitVec 1024) <<< x.1.val) 0 := by
  simp only [redOutcome]
  split
  · rfl
  · split <;> rfl

theorem redOutcome_status (r : RSlot) (st : BitVec 3) : (redOutcome r st).status = st := by
  simp only [redOutcome]
  split
  · rfl
  · split <;> rfl

theorem redOutcome_ncont_le (r : RSlot) (st : BitVec 3) : (redOutcome r st).ncont ≤ r.got.length := by
  simp only [redOutcome]
  split
  · exact (List.length_map _).le
  · split
    · exact (List.length_map _).le
    · exact (List.length_filter_le _ _).trans (List.length_map _).le

/-- A slot that is released is gone, and no other. -/
theorem mem_releaseSlot {x : RSlot} : x ∈ (releaseSlot r st s).fab.rslots ↔ x ∈ s.fab.rslots ∧ ¬(x.g = r.g ∧ x.tag = r.tag) := by
  rw [releaseSlot, (OnlySends.foldl (fun s y => sendOutcome_onlySends _ y.1 s) r.got _).rslots]
  simp [List.mem_filter, imp_iff_not_or]

/-- A fence ends after its sixteen timeouts, and no other (R110). -/
theorem mem_fenceOver {x : RedFence} : x ∈ (fenceOver g tag s).fab.fences ↔
    x ∈ s.fab.fences ∧ (x.g = g → x.tag = tag → s.clock < x.since + 16 * redTimeout s g) := by
  simp [fenceOver, List.mem_filter, imp_iff_not_or, or_assoc]

/-- Before its time is over a slot stays as it is (R110). -/
theorem slotTimeout_early (hslots : ∀ x ∈ s.fab.rslots, x.g = g → x.tag = tag → s.clock < x.since + redTimeout s g)
    (hfreds : ∀ f ∈ s.fab.freds, f.resend = false) : slotTimeout g tag s = s := by
  have hnone : s.fab.rslots.find? (fun x => x.g == g && x.tag == tag && decide (x.since + redTimeout s g ≤ s.clock)) = none := by
    simpa using hslots
  have hsame : (s.fab.freds.map fun f => if f.item.g = g ∧ f.item.tag = tag ∧ f.resend = true ∧ f.since + redTimeout s g ≤ s.clock then
      { f with resend := false, out := some ⟨4, false, 0, 0, 0⟩ } else f) = s.fab.freds :=
    (List.map_congr_left fun f hf => if_neg fun ⟨_, _, hr, _⟩ => absurd hr (by simp [hfreds f hf])).trans (List.map_id _)
  simp only [slotTimeout, hnone, hsame]

/-- A NACK without a contribution that waits has no effect. -/
theorem nack_nothing (h : pendingFred s g tag = none) : nack g tag st s = s := by
  simp only [nack, h]

/-- A NACK of another status than 5 is the outcome of the earliest contribution that waits (R111, R402). -/
theorem mem_nack {f : FredRec} (hp : pendingFred s g tag = some f.id) (hf : f ∈ s.fab.freds) (hg : f.item.g = g) (ht : f.item.tag = tag)
    (hst : st ≠ 5) : { f with resend := false, out := some ⟨st, false, 0, 0, 0⟩ } ∈ (nack g tag st s).fab.freds := by
  simp only [nack, hp, updFreds]
  exact List.mem_map.mpr ⟨f, hf, (if_pos ⟨hg, ht⟩).trans ((if_neg (not_not.mpr rfl)).trans (if_neg hst))⟩

/-- A plane that has returned release-done is waited for no longer (R98). -/
theorem releaseDone_planes {p : Nat} {k : BitVec 32} {f : FrelRec} (hf : f ∈ (releaseDone p k s).fab.frels) (hk : f.marker = k) :
    p ∉ f.planes := by
  obtain ⟨x, -, rfl⟩ := List.mem_map.mp (List.mem_filter.mp hf).1
  by_cases hx : x.marker = k
  · simp [hx]
  · simp [hx] at hk

end

/-! ## Stations (O46) -/

section
variable {k : Fin 24} {skid : Bool} {tiles : List W64} {tags : List Nat}

/-- A tag group that no receiver has used counts as a failure, the fourth in a row retrains the link (R406). -/
theorem tagFails_held (h : skid = false ∨ (s.fab.st[k]).mode = false) : tagFails k skid tiles tags s = heldGroupFails k s :=
  if_pos (by cases h with | inl h => rw [h]; rfl | inr h => rw [h]; simp)

theorem heldGroupFails_counts (h : (s.fab.st[k]).tagFails + 1 < 4) :
    heldGroupFails k s = updStation k (fun t => { t with tagFails := (s.fab.st[k]).tagFails + 1 }) s := if_pos h

theorem heldGroupFails_retrains (h : 4 ≤ (s.fab.st[k]).tagFails + 1) :
    heldGroupFails k s = retrainLink k (updStation k (fun t => { t with tagFails := 0 }) s) := if_neg (Nat.not_lt.mpr h)

/-- A toggled group without a next receive key is held for one, with one it uses it (R404). -/
theorem toggledGroup_keyless {t : Station} (c : Nat) (passed : Bool) (h : t.nextRx = none) :
    toggledGroup passed c t = { t with heldKey := t.heldKey.or (some c) } := by simp [toggledGroup, h]

theorem toggledGroup_keyed {t : Station} (c : Nat) (h : t.nextRx.isSome = true) :
    toggledGroup true c t = { t with rx := t.nextRx, nextRx := none, tagFails := 0 } ∧ toggledGroup false c t = t := by
  have hn : t.nextRx.isNone = false := Option.isNone_eq_false_iff.mpr h
  simp [toggledGroup, hn]

/-- A group that has been held for a receive key for 100 µs (R404). -/
theorem keyHeldOver_late {t : Station} {c : Nat} (hk : t.heldKey = some c) (hc : c + micros 100 ≤ s.clock) : keyHeldOver s t = true := by
  simp only [keyHeldOver, hk, hc, decide_true]

theorem keyHeldOver_none {t : Station} (hk : t.heldKey = none) : keyHeldOver s t = false := by
  simp only [keyHeldOver, hk]

/-- The channels that a width parks leave room for the others (R399, R400). -/
theorem reserves_parkedAt : ∀ w : Fin 4, w ≠ 0 → reserves (parkedAt w) ≤ bufferFlits w := by decide

end

/-! ## The occurrences (O46) -/

theorem castEvents : Sys2Proof.Parts.CastEvents := by
  refine ⟨fun c s hn => ?_, fun n c => ⟨fun s hn => ?_, fun s hn => ?_⟩, fun src g first count s hn => ?_, fun g s hn => ?_, fun k s hn => ?_,
    fun d s hn => ?_, fun g m s hm => ⟨fun h => ?_, fun h => ?_⟩, fun m t s => gapLate_iff, fun src g j n p s hn => ?_,
    fun k w0 w1 d s hn => ?_, fun c0 c w s hr hw => ⟨stampStore_stamps hr hw, stampStore_frozen hr hw, stampStore_stranger hr hw⟩,
    fun g n c m s hm => ⟨receiveStore_next hm, receiveStore_gap hm, receiveStore_old hm, receiveStore_joining hm⟩,
    fun g n c s hm => ?_, fun src g n m s hm => ⟨fun x => answerGap_held hm src, answerGap_lost hm src⟩, fun k s => failPlane_unused⟩
  · show execCastStamp s = _
    rw [execCastStamp, hn]
  · show execStamped s = _
    rw [execStamped, hn]
  · show execReplay s = _
    rw [execReplay, hn]
  · show execGapreq s = _
    rw [execGapreq, hn]
  · show execGapTimeout s = _
    rw [execGapTimeout, hn]
  · show execPlaneFailure s = _
    rw [execPlaneFailure, hn]
  · show execMemberRemoval s = _
    rw [execMemberRemoval, hn]
  · rw [memberOf_gapOver hm, if_pos h]
  · rw [memberOf_gapOver hm, h]
    rfl
  · show execCastStamp s = _
    rw [execCastStamp, hn]
  · show execCastStamp s = _
    rw [execCastStamp, hn]
  · rw [receiveStore, hm]

theorem reductionEvents : Sys2Proof.Parts.ReductionEvents := by
  refine ⟨fun c s hn => ?_, fun g tag => ⟨fun s hn => ?_, fun s hn => ?_, fun s hn => ?_⟩, fun g tag r s hn => ?_, fun g tag s x => mem_fenceOver,
    fun g tag st s hn => ?_, fun p src m => ⟨fun s hn => ?_, fun s hn => ?_⟩, fun c s => contribute_fenced,
    fun c w s hf hslot hw => ⟨contribute_noSlot hf hslot hw, contribute_opens hf hslot hw⟩, fun c r s => contribute_refused,
    fun r st d => ⟨redOutcome_status r st, ?_, redOutcome_ncont_le r st⟩, fun r st s x => mem_releaseSlot, fun g tag s => slotTimeout_early,
    fun g tag st s => nack_nothing, fun g tag st f s => mem_nack, fun p m s f => releaseDone_planes⟩
  · show execRed s = _
    rw [execRed, hn]
  · show execReductionTimeout s = _
    rw [execReductionTimeout, hn]
  · show execReductionFenceExpiry s = _
    rw [execReductionFenceExpiry, hn]
  · show execFredResend s = _
    rw [execFredResend, hn]
  · show execRedres s = _
    rw [execRedres, hn]
  · show execRednack s = _
    rw [execRednack, hn]
  · show execRel s = _
    rw [execRel, hn]
  · show execReldone s = _
    rw [execReldone, hn]
  · rw [redOutcome_bitmap, getLsbD_contributors]
    simp

theorem stationEvents : Sys2Proof.Parts.StationEvents := by
  refine ⟨fun k w dv s hn => ?_, fun k skid tiles tags s hn => ?_, fun k tiles tags s skid h => ?_, fun k s hn => ?_, fun k s => mem_raiseDue _ s,
    fun k passed s hn => ?_, fun t c passed => ⟨toggledGroup_keyless c passed, toggledGroup_keyed c⟩,
    fun k c => ⟨fun s hn hk hc => ?_, fun s hn hk => ?_, fun s hn hs => ?_, fun s hn hs => ?_⟩, reserves_parkedAt⟩
  · show execStationRetrain s = _
    rw [execStationRetrain, hn]
  · show execTagFailure s = _
    rw [execTagFailure, hn]
  · rw [tagFails_held h]
    exact ⟨heldGroupFails_counts, heldGroupFails_retrains⟩
  · show execTagFailure s = _
    rw [execTagFailure, hn]
  · show execKeyChangeover s = _
    rw [execKeyChangeover, hn]
  · show execKeyHoldTimeout s = _
    rw [execKeyHoldTimeout, hn]
    simp only [keyHeldOver_late hk hc, if_true]
  · show execKeyHoldTimeout s = _
    rw [execKeyHoldTimeout, hn]
    simp only [keyHeldOver_none hk, Bool.false_eq_true, if_false]
  · show execKeyExhausted s = _
    rw [execKeyExhausted, hn]
    simp only [hs, if_true]
  · show execKeyExhausted s = _
    rw [execKeyExhausted, hn]
    simp only [hs, Bool.false_eq_true, if_false]

/-- Settles O46: each occurrence comes to the function of its row, and the rows on the switch, the member, the slot and the station are the
lemmas above (`stampStore_stamps`, `receiveStore_next`, `contribute_opens`, `heldGroupFails_retrains` and their neighbours). -/
theorem castAndReductionEvents : Obligations.CastAndReductionEvents := ⟨castEvents, reductionEvents, stationEvents⟩

end Sys2Proof.Machine
end

section
namespace Sys2Proof.Machine

/-! ## What operations on the cores, and on routed words, leave -/

variable {f : Ctx → Ctx} {s : State} {e : QEntry}

/-! ### The moving core stays the same -/

@[simp] theorem setCore_me (s : State) (n : Nat) (x : Ctx × CoreSt) : (setCore s n x).me = s.me := by
  unfold setCore
  split <;> rfl

@[simp] theorem raiseDue_me (e : Event) (s : State) : (raiseDue e s).me = s.me := by
  obtain ⟨d, h⟩ := raiseDue_eq e s
  rw [h]

/-- Steps that leave the moving core, one after another, leave it. -/
theorem foldl_me {α : Type} {f : State → α → State} (hf : ∀ s x, (f s x).me = s.me) (l : List α) (s : State) : (l.foldl f s).me = s.me :=
  List.foldlRecOn (motive := fun t => t.me = s.me) l f rfl fun t ht x _ => (hf t x).trans ht

@[simp] theorem endLease_me (n : Nat) (s : State) : (endLease n s).me = s.me :=
  (raiseDue_me _ _).trans (foldl_me (fun _ _ => setCore_me _ _ _) _ _)

@[simp] theorem updLoc_me (l : Loc) (f : Ctx → Ctx) (s : State) : (updLoc l f s).me = s.me := by
  unfold updLoc
  split
  · exact setCore_me _ _ _
  · exact setCore_me _ _ _
  · rfl

/-! ### The cores of a quad -/

theorem onBanks_moving (f : Ctx → Ctx) (s : State) :
    onBanks s.me f s = { s with cx := f s.cx, co := { s.co with standby := s.co.standby.map f } } := by
  simp [onBanks, setCore, coreOf]

theorem onBanks_other {n : Nat} (h : n ≠ s.me) : ∃ l, onBanks n f s = { s with others := l } :=
  ⟨_, if_neg h⟩

/-- An operation on cores among which the moving one is not leaves everything but the other cores. -/
theorem foldl_onBanks_other {l : List Nat} (h : s.me ∉ l) : ∃ r, l.foldl (fun s n => onBanks n f s) s = { s with others := r } := by
  induction l generalizing s with
  | nil => exact ⟨_, rfl⟩
  | cons n l ih =>
    obtain ⟨hn, hl⟩ := not_or.mp (mt List.mem_cons.mpr h)
    obtain ⟨r, hr⟩ := onBanks_other (f := f) (Ne.symm hn)
    rw [List.foldl_cons, hr]
    exact ih (s := { s with others := r }) hl

/-- An operation on cores among which the moving one is applies to its context once. -/
theorem foldl_onBanks_moving {l : List Nat} (hd : l.Nodup) (h : s.me ∈ l) :
    ∃ k r, l.foldl (fun s n => onBanks n f s) s = { s with cx := f s.cx, co := k, others := r } := by
  induction l generalizing s with
  | nil => cases h
  | cons n l ih =>
    obtain ⟨hn, hd⟩ := List.nodup_cons.mp hd
    rw [List.foldl_cons]
    by_cases hm : n = s.me
    · subst hm
      rw [onBanks_moving]
      obtain ⟨r, hr⟩ := foldl_onBanks_other (f := f) (s := { s with cx := f s.cx, co := { s.co with standby := s.co.standby.map f } }) hn
      exact ⟨_, r, hr⟩
    · obtain ⟨r, hr⟩ := onBanks_other (f := f) hm
      rw [hr]
      obtain ⟨k, r', hr'⟩ := ih (s := { s with others := r }) hd ((List.mem_cons.mp h).resolve_left (Ne.symm hm))
      exact ⟨k, r', hr'⟩

/-- An operation on the quad of the moving core applies to its context, and otherwise to standby banks and other cores alone. -/
theorem mapQuad_eq (f : Ctx → Ctx) (s : State) : ∃ k r, mapQuad (quadOf s.me) f s = { s with cx := f s.cx, co := k, others := r } := by
  have hd : ((List.range 4).map (4 * quadOf s.me + ·)).Nodup := List.nodup_range.map (add_right_injective _)
  have hm : s.me ∈ (List.range 4).map (4 * quadOf s.me + ·) :=
    List.mem_map.mpr ⟨s.me % 4, List.mem_range.mpr (Nat.mod_lt _ (by decide)), Nat.div_add_mod _ _⟩
  obtain ⟨k, r, h⟩ := foldl_onBanks_moving (f := f) hd hm
  rw [List.foldl_map] at h
  exact ⟨k, r, h⟩

/-! ### Routed words -/

/-- What a word is placed as stands in the list of routed words. -/
theorem entryOf_mem_placedWord (q : Queue) (i : Instr) (f : State → State) (s : State) : entryOf q i s ∈ (placedWord q i f s).cx.fl.pend :=
  List.mem_append_right _ (List.mem_singleton_self _)

/-- Where an entry of its number stands in the list, the entry that replaces it does so too. -/
theorem mem_setEntry {e' : QEntry} (h : e ∈ s.cx.fl.pend) (hu : e.uid = e'.uid) : e' ∈ (setEntry e' s).cx.fl.pend :=
  List.mem_map.mpr ⟨e, h, if_pos hu⟩

/-- A word that waits in the foreground, without holding the control engine, stays in its queue with its count. -/
theorem settle_wait {w : Wait} {n : Nat} (hc : holdsControl e.ins = false) (hb : inBackground e.ins = false) :
    ∃ b, settleEntry e (.wait w s, n) = setEntry { e with done := n, begun := b, counted := true } s := by
  simp only [settleEntry, hc, hb, Bool.false_and, Bool.or_false, Bool.false_eq_true, if_false]
  exact ⟨_, rfl⟩

theorem settle_left (e : QEntry) (n : Nat) (s : State) : settleEntry e (.left s, n) = s := rfl

/-! ### Registers and memory -/

/-- From `s` to `t` no register of the moving context has changed, and no memory. -/
structure SameRegisters (s t : State) : Prop where
  scalar : t.cx.s = s.cx.s
  vector : SameVector s t
  control : SameControl s t
  priv : SamePriv s t
  mem : t.mem = s.mem

theorem SameRegisters.trans {s t u : State} (h : SameRegisters s t) (h' : SameRegisters t u) : SameRegisters s u := by
  obtain ⟨hs, ⟨hv, hm, ht⟩, ⟨hc, hf, hq⟩, hp, hmem⟩ := h
  obtain ⟨hs', ⟨hv', hm', ht'⟩, ⟨hc', hf', hq'⟩, hp', hmem'⟩ := h'
  exact ⟨hs'.trans hs, ⟨hv'.trans hv, hm'.trans hm, ht'.trans ht⟩, ⟨hc'.trans hc, hf'.trans hf, hq'.trans hq⟩, Eq.trans hp' hp, hmem'.trans hmem⟩

theorem SameRegisters.sameS {s t : State} (h : SameRegisters s t) : SameS [] s t := fun r _ => by
  simp only [sget, h.scalar]

theorem placedWord_same (q : Queue) (i : Instr) (s : State) : SameRegisters s (placedWord q i id s) :=
  ⟨rfl, ⟨rfl, rfl, rfl⟩, ⟨rfl, rfl, rfl⟩, rfl, rfl⟩

theorem setEntry_same (e : QEntry) (s : State) : SameRegisters s (setEntry e s) :=
  ⟨rfl, ⟨rfl, rfl, rfl⟩, ⟨rfl, rfl, rfl⟩, rfl, rfl⟩

theorem noteRamp_same (s : State) : SameRegisters s (noteRamp s) := by
  obtain ⟨r, d, h⟩ := noteRamp_eq s
  rw [h]
  exact ⟨rfl, ⟨rfl, rfl, rfl⟩, ⟨rfl, rfl, rfl⟩, rfl, rfl⟩

end Sys2Proof.Machine
end

section
namespace Sys2Proof.Machine

/-! ## Sessions and leases (O21) -/

variable {g k : Bool} {e : QEntry} {s : State}

/-- A matrix word without routing checks whose attempt completes runs to what its attempt leaves. -/
theorem runsTo_matrix {i : Instr} {ok : State → QEntry → State → Prop} {after : QEntry → State → State} {body : QEntry → State → QAct} {n : Nat}
    (hexec : ∀ s, exec i s = mtxRoute i [] noChk id body s) (hfree : holdsControl i = false)
    (hbody : ∀ s, ok s (entryOf .matrix i s) (placedWord .matrix i id s) →
      body (entryOf .matrix i s) (placedWord .matrix i id s) = (.done (after (entryOf .matrix i s) (placedWord .matrix i id s)), n)) :
    RunsTo .matrix i (fun _ => []) id ok after := fun s hs hok =>
  (hexec s).trans (routeQ_done hs rfl hfree (by decide) (hbody s hok))

/-! ### MLEASE (R267) -/

/-- The state in which MLEASE has opened a session, of a gang with the shapes that its word has captured, and has requested the array. -/
def leaseRequested (g : Bool) (c : Cfg) (s : State) : State :=
  requestLease g (updLease (fun l => { l with session := some g, shapes := if g then c.tshape else l.shapes }) s)

/-- Opening a session changes the lease, a serial number and what is due. -/
theorem leaseRequested_eq (g : Bool) (c : Cfg) (s : State) : ∃ d, leaseRequested g c s = { s with
    cx := { s.cx with lease := { s.cx.lease with
      session := some g, shapes := if g then c.tshape else s.cx.lease.shapes, waiting := true, passed := false, gang := g, age := s.uid } }
    uid := s.uid + 1, due := d } :=
  raiseDue_eq _ _

theorem leaseRequested_cx (g : Bool) (c : Cfg) (s : State) : (leaseRequested g c s).cx = { s.cx with lease := { s.cx.lease with
    session := some g, shapes := if g then c.tshape else s.cx.lease.shapes, waiting := true, passed := false, gang := g, age := s.uid } } := by
  obtain ⟨d, h⟩ := leaseRequested_eq g c s
  rw [h]

theorem leaseRequested_same (g : Bool) (c : Cfg) (s : State) : SameRegisters s (leaseRequested g c s) := by
  obtain ⟨d, h⟩ := leaseRequested_eq g c s
  rw [h]
  exact ⟨rfl, ⟨rfl, rfl, rfl⟩, ⟨rfl, rfl, rfl⟩, rfl, rfl⟩

theorem bodyMlease_open (he : e.done = 0) (hs : s.cx.lease.session = some g) : bodyMlease g e s = (.done s, 0) := by
  simp only [bodyMlease, he, hs, if_true]

theorem bodyMlease_other (he : e.done = 0) (hs : s.cx.lease.session = some k) (hk : k ≠ g) :
    bodyMlease g e s = (.trap cLEASE e.pc 0 s, 0) := by
  simp only [bodyMlease, he, hs, hk, if_true, if_false]

theorem bodyMlease_opens (he : e.done = 0) (hs : s.cx.lease.session = none) :
    bodyMlease g e s = (.wait .other (leaseRequested g e.cfg s), 1) := by
  simp only [bodyMlease, leaseRequested, he, hs, if_true]

theorem bodyMlease_granted (he : e.done ≠ 0) (hh : s.cx.lease.held = true) : bodyMlease g e s = (.done s, 1) := by
  simp only [bodyMlease, he, hh, Bool.true_or, if_true, if_false]

/-- MLEASE without a session waits for the array under the session that it has opened, and has changed no register and no memory. -/
theorem mlease_opens (hs : Starts .matrix (.mlease g) [] id s) (hn : s.cx.lease.session = none) :
    ∃ t, exec (.mlease g) s = .next t ∧ t.cx.lease.session = some g ∧ t.cx.lease.waiting = true ∧ t.cx.lease.gang = g
      ∧ t.cx.lease.held = s.cx.lease.held ∧ SameS [] s t ∧ SameVector s t ∧ SameControl s t ∧ SamePriv s t ∧ t.mem = s.mem
      ∧ (∃ e ∈ t.cx.fl.pend, e.uid = s.uid ∧ e.ins = .mlease g ∧ e.done = 1) := by
  have hrun : exec (.mlease g) s = _ := routeQ_starts (chk := noChk) (body := bodyMlease g) hs rfl
  have hopen : (placedWord .matrix (.mlease g) id s).cx.lease.session = none := hn
  have hcx := leaseRequested_cx g s.cx.cfg (placedWord .matrix (.mlease g) id s)
  obtain ⟨b, hwait⟩ := settle_wait (e := entryOf .matrix (.mlease g) s) (n := 1) (w := .other)
    (s := leaseRequested g s.cx.cfg (placedWord .matrix (.mlease g) id s)) rfl rfl
  rw [bodyMlease_opens rfl hopen] at hrun
  replace hrun := hrun.trans (congrArg Host.Outcome.next hwait)
  have hsame := (placedWord_same .matrix (.mlease g) s).trans ((leaseRequested_same g s.cx.cfg _).trans (setEntry_same
    { entryOf .matrix (.mlease g) s with done := 1, begun := b, counted := true } _))
  have hlease := (setEntry_cx_lease { entryOf .matrix (.mlease g) s with done := 1, begun := b, counted := true } _).trans (congrArg Ctx.lease hcx)
  have hmem : entryOf .matrix (.mlease g) s ∈ (leaseRequested g s.cx.cfg (placedWord .matrix (.mlease g) id s)).cx.fl.pend := by
    rw [hcx]
    exact entryOf_mem_placedWord _ _ _ _
  exact ⟨_, hrun, (congrArg Lease.session hlease :), (congrArg Lease.waiting hlease :), (congrArg Lease.gang hlease :),
    (congrArg Lease.held hlease :), hsame.sameS, hsame.vector, hsame.control, hsame.priv, hsame.mem, _, mem_setEntry hmem rfl, rfl, rfl, rfl⟩

/-! ### MREL (R268) -/

/-- The lease state without its session. -/
def withoutSession (l : Lease) : Lease := { l with session := none, waiting := false, passed := false, holder := false }

theorem bodyMrel_none (hs : s.cx.lease.session = none) : bodyMrel e s = (.done s, 0) := by
  simp only [bodyMrel, hs]

theorem bodyMrel_core (hs : s.cx.lease.session = some false) : bodyMrel e s = (.done
    (updLease withoutSession (if s.cx.lease.held then endLease s.me s else s)), 0) := by
  simp only [bodyMrel, hs, updLease, withoutSession]

theorem bodyMrel_member (hs : s.cx.lease.session = some true) (hh : s.cx.lease.holder = false) : bodyMrel e s = (.done s, 0) := by
  simp only [bodyMrel, hs, hh, Bool.false_eq_true, if_false]

theorem bodyMrel_holder (hs : s.cx.lease.session = some true) (hh : s.cx.lease.holder = true) : bodyMrel e s = (.done
    (mapQuad (quadOf s.me) (fun c => if c.lease.session = some true then { c with lease := withoutSession c.lease } else c)
      (if s.cx.lease.held then endLease s.me s else s)), 0) := by
  have hme : (if s.cx.lease.held then endLease s.me s else s).me = s.me := by
    split
    · exact endLease_me _ _
    · rfl
  simp only [bodyMrel, hs, hh, if_true, hme, withoutSession]

/-- Settles O21: MLEASE and MREL by the case of the session that stands (`bodyMlease_open`, `bodyMrel_core` and their neighbours). -/
theorem leases : Obligations.Leases :=
  ⟨fun _ => runsTo_matrix (fun _ => rfl) rfl fun _ h => bodyMlease_open rfl h, fun _ _ => mlease_opens, fun _ _ _ => bodyMlease_granted,
    fun _ _ _ _ => bodyMlease_other,
    runsTo_matrix (fun _ => rfl) rfl fun _ h => bodyMrel_none h,
    runsTo_matrix (fun _ => rfl) rfl fun _ ⟨h, hh⟩ => by rw [bodyMrel_core h, hh]; rfl,
    runsTo_matrix (fun _ => rfl) rfl fun _ ⟨h, hh⟩ => by rw [bodyMrel_core h, hh]; rfl,
    runsTo_matrix (fun _ => rfl) rfl fun _ ⟨h, hh⟩ => bodyMrel_member h hh,
    runsTo_matrix (fun _ => rfl) rfl fun _ ⟨h, hh⟩ => bodyMrel_holder h hh⟩

end Sys2Proof.Machine
end

section
namespace Sys2Proof.Machine

/-! ## Multiplies (O24) -/

section
variable {s : State} {o : MmaOp} {e : QEntry}

/-! ### The start (R123, R132, R272, R282) -/

theorem arrOf_updArr {q : Nat} (h : q < 96) (f : ArrayQ → ArrayQ) (s : State) : arrOf (updArr q f s) q = f (arrOf s q) := by
  simp [arrOf, updArr, h]

theorem nextCount_lt (h : s.cx.mchkCount.toNat < 65535) : nextCount s = (s.cx.mchkCount + 1, s) :=
  if_neg fun hc => by rw [hc] at h; exact absurd h (by decide)

/-- The clock at which an operation ends that starts now on the array of the moving core, at what the die's issue step admits. -/
def multiplyEndClock (slots : Nat) (s : State) : Nat :=
  s.clock + slotClocks s.clock slots (Nat.min (arrOf s (quadOf s.me)).density (maxDensity s (dieOf s.me)))

/-- The array of the moving core with an operation that starts now. -/
def startedArray (o : MmaOp) (s : State) (a : ArrayQ) : ArrayQ :=
  { a with busy := multiplyEndClock o.slots s, slots := o.slots, from_ := s.clock, step := issueStep s (powOf s (dieOf s.me)), run := o.quads }

/-- Whether a multiply of a quad runs is a matter of its banks and of what the moving context has routed. -/
theorem quadMultiplies_congr (s t : State) (hme : t.me = s.me) (hco : t.co = s.co) (ho : t.others = s.others) (ht : t.cx.task = s.cx.task)
    (hm : multiplies t.cx = multiplies s.cx) (q : Nat) : quadMultiplies t q = quadMultiplies s q := by
  simp only [quadMultiplies, banks, ht, hme, hco, ho, List.flatMap_cons, List.any_append]
  cases s.cx.task <;> simp [hm]

/-- A multiply that has just been placed does not run yet. -/
theorem multiplies_placedWord (q : Queue) (i : Instr) (s : State) : multiplies (placedWord q i id s).cx = multiplies s.cx := by
  simp [multiplies, placedWord, complete, entryOf]

/-- What a multiply needs still holds once its word is placed. -/
theorem MultiplyReady.placed {g : Bool} {n : Nat} (h : MultiplyReady g n s) (i : Instr) : MultiplyReady g n (placedWord .matrix i id s) := by
  obtain ⟨hme, hs, hh, hm, hb, hq, hrest⟩ := h
  exact ⟨hme, hs, hh, hm, hb, (quadMultiplies_congr s (placedWord .matrix i id s) rfl rfl rfl rfl (multiplies_placedWord _ _ _) _).trans hq, hrest⟩

/-- What a multiply needs still holds once the ramp that may hold it has been noted. -/
theorem MultiplyReady.noted {g : Bool} {n : Nat} (h : MultiplyReady g n s) : MultiplyReady g n (noteRamp s) := by
  obtain ⟨r, d, hw⟩ := noteRamp_eq s
  obtain ⟨hme, hs, hh, hm, hb, hq, hrest⟩ := h
  rw [hw]
  exact ⟨hme, hs, hh, hm, hb, (quadMultiplies_congr s { s with cx := { s.cx with ramphold := r }, due := d } rfl rfl rfl rfl rfl _).trans hq, hrest⟩

/-- A context that holds the lease counts a multiply that starts. -/
def countMultiply (c : Ctx) : Ctx :=
  if c.lease.held then { c with lease := { c.lease with mmas := c.lease.mmas - 1, fresh := false } } else c

/-- The moving context with a multiply counted for MCHKN, on an array that its task has used. -/
def multiplyNoted (s : State) : Ctx :=
  { s.cx with mchkCount := s.cx.mchkCount + 1
              task := s.cx.task.map fun t => { t with mmaOn := quadOf s.me :: t.mmaOn.filter (· != quadOf s.me) } }

/-- The state in which the array of the moving core runs a multiply that starts now. -/
def multiplyStarted (o : MmaOp) (s : State) : State := updArr (quadOf s.me) (startedArray o s) { s with cx := multiplyNoted s }

/-- The same with the lease of a gang's members, or of the moving context, one multiply shorter. -/
def multiplyCounted (o : MmaOp) (s : State) : State :=
  if o.gang then mapQuad (quadOf s.me) countMultiply (multiplyStarted o s)
  else { multiplyStarted o s with cx := countMultiply (multiplyNoted s) }

/-- The entry of a multiply that has issued for a number of issue clocks and is not self-checked (R14, R266). -/
def issuedEntry (n : Nat) (e : QEntry) : QEntry := { e with issued := true, ends := 0, time := n + 24, done := 1 }

/-- A multiply with all that it needs starts: the array runs it, the lease and MCHKN have counted it, and its entry has issued. -/
theorem mmaStart_ready (h : MultiplyReady o.gang o.slots (noteRamp s)) (he : e.ends = 0) :
    mmaStart o e s = .left (setEntry (issuedEntry o.slots e) (multiplyCounted o (noteRamp s))) := by
  rw [mmaStart]
  generalize noteRamp s = w at *
  obtain ⟨hme, -, hh, hm, hb, hq, hd, hend, hper, hcnt, hring, hfit⟩ := h
  have hlate : ¬ (w.cx.lease.mmas = 0 ∨ w.clock < (arrOf w (quadOf w.me)).busy ∨ quadMultiplies w (quadOf w.me) = true
      ∨ (arrOf w (quadOf w.me)).density = 0) := by
    simp only [hm, hd, hq, Bool.false_eq_true, false_or, or_false]
    exact Nat.not_lt.mpr hb
  have hfits : (!w.cx.lease.fresh && decide (w.cx.lease.ends < multiplyEndClock o.slots w)) = false := by
    obtain hf | hf := hfit
    · simp [hf]
    · simp only [multiplyEndClock, Nat.not_lt.mpr hf, decide_false, Bool.and_false]
  have hnone : (w.cx.mchkPeriod != 0) = false := by rw [hper]; rfl
  simp only [hh, hlate, he, nextCount_lt hcnt, hnone, Nat.not_le.mpr hend, Nat.not_le.mpr hring, Nat.lt_irrefl, decide_false, Bool.not_true,
    Bool.not_false, Bool.and_false, Bool.false_and, Bool.or_false, Bool.false_eq_true, if_false]
  exact if_neg (ne_true_of_eq_false hfits)

theorem multiplyCounted_eq (o : MmaOp) (s : State) : ∃ k l,
    multiplyCounted o s = { multiplyStarted o s with cx := countMultiply (multiplyNoted s), co := k, others := l } := by
  unfold multiplyCounted
  split
  · exact mapQuad_eq countMultiply (multiplyStarted o s)
  · exact ⟨_, _, rfl⟩

theorem multiplyCounted_cx (o : MmaOp) (h : s.cx.lease.held = true) : (multiplyCounted o s).cx
    = { multiplyNoted s with lease := { s.cx.lease with mmas := s.cx.lease.mmas - 1, fresh := false } } := by
  obtain ⟨k, l, he⟩ := multiplyCounted_eq o s
  rw [he]
  exact if_pos h

theorem multiplyCounted_mem (o : MmaOp) (s : State) : (multiplyCounted o s).mem = s.mem := by
  obtain ⟨k, l, he⟩ := multiplyCounted_eq o s
  rw [he]
  rfl

theorem multiplyCounted_same (o : MmaOp) (h : s.cx.lease.held = true) : SameRegisters s (multiplyCounted o s) := by
  have hcx := multiplyCounted_cx o h
  exact ⟨(congrArg Ctx.s hcx :), ⟨(congrArg Ctx.v hcx :), (congrArg Ctx.m hcx :), (congrArg Ctx.t hcx :)⟩,
    ⟨(congrArg Ctx.cfg hcx :), (congrArg Ctx.flags hcx :), (congrArg Ctx.qdepth hcx :)⟩, (congrArg Ctx.pr hcx :), multiplyCounted_mem o s⟩

theorem arrOf_multiplyCounted (o : MmaOp) (h : s.me < 384) :
    arrOf (multiplyCounted o s) (quadOf s.me) = startedArray o s (arrOf s (quadOf s.me)) := by
  obtain ⟨k, l, he⟩ := multiplyCounted_eq o s
  rw [he]
  exact arrOf_updArr (Nat.div_lt_of_lt_mul h) _ _

@[simp] theorem noteRamp_me (s : State) : (noteRamp s).me = s.me := by
  obtain ⟨r, d, h⟩ := noteRamp_eq s
  rw [h]

theorem arrOf_noteRamp (q : Nat) (s : State) : arrOf (noteRamp s) q = arrOf s q := by
  obtain ⟨r, d, h⟩ := noteRamp_eq s
  rw [h]
  rfl

theorem startedArray_noteRamp (o : MmaOp) (s : State) : startedArray o (noteRamp s) = startedArray o s := by
  obtain ⟨r, d, h⟩ := noteRamp_eq s
  rw [h]
  rfl

theorem arrOf_placedWord (q : Queue) (i : Instr) (s : State) (n : Nat) : arrOf (placedWord q i id s) n = arrOf s n := rfl

theorem startedArray_placedWord (o : MmaOp) (q : Queue) (i : Instr) (s : State) : startedArray o (placedWord q i id s) = startedArray o s := rfl

/-- A multiply with all that it needs runs once it is routed: its entry has issued, the array is busy to its end, the lease and MCHKN have
counted it, and no register and no memory has changed. -/
theorem multiply_starts {i : Instr} {chk : State → Option Act} {body : QEntry → State → QAct} (hs : Starts .matrix i [] id s)
    (hexec : exec i s = mtxRoute i [] chk id body s) (hc : chk s = none)
    (hb : body (entryOf .matrix i s) (placedWord .matrix i id s) = mmaTurn o (entryOf .matrix i s) (placedWord .matrix i id s))
    (h : MultiplyReady o.gang o.slots s) :
    ∃ t, exec i s = .next t ∧ issuedEntry o.slots (entryOf .matrix i s) ∈ t.cx.fl.pend
      ∧ arrOf t (quadOf s.me) = startedArray o s (arrOf s (quadOf s.me)) ∧ t.cx.lease.mmas = s.cx.lease.mmas - 1 ∧ t.cx.lease.held = true
      ∧ t.cx.mchkCount = s.cx.mchkCount + 1 ∧ t.cx.pc = s.cx.npc ∧ SameRegisters s t := by
  have hready := (h.placed i).noted
  obtain ⟨hme, -, hheld, -⟩ := id hready
  have hrun : exec i s = _ := hexec.trans (routeQ_starts hs hc)
  rw [hb] at hrun
  replace hrun := hrun.trans (congrArg (fun a => Host.Outcome.next (settleEntry (entryOf .matrix i s) (a, 0))) (mmaStart_ready hready rfl))
  rw [settle_left] at hrun
  have hcx := multiplyCounted_cx o hheld
  obtain ⟨r, d, hw⟩ := noteRamp_eq (placedWord .matrix i id s)
  refine ⟨_, hrun, mem_setEntry (e := entryOf .matrix i s) ?_ rfl, ?_, ?_, ?_, ?_, ?_, (placedWord_same .matrix i s).trans
    ((noteRamp_same _).trans ((multiplyCounted_same o hheld).trans (setEntry_same _ _)))⟩
  · rw [hcx, hw]
    exact entryOf_mem_placedWord _ _ _ _
  · have harr := arrOf_multiplyCounted o hme
    rw [noteRamp_me, arrOf_noteRamp, startedArray_noteRamp, startedArray_placedWord, arrOf_placedWord] at harr
    exact harr
  · rw [setEntry_cx_lease, hcx, hw]
    rfl
  · rw [setEntry_cx_lease, hcx]
    exact hheld
  · rw [setEntry_cx_mchkCount, hcx, hw]
    rfl
  · rw [setEntry_cx_pc, hcx, hw]
    rfl

end

/-! ### The operations of the two forms (R273, R274) -/

section
variable {f : Fmt} {m : MFmt} {acc : Bool} {d : Fin 128} {a b : Fin 8} {zc : BitVec 8} {e : QEntry} {s u : State} {o : MmaOp}

theorem bodyMma_noSession (hi : e.issued = false) (hs : s.cx.lease.session ≠ some false) :
    bodyMma d a b m acc zc e s = (.trap cLEASE e.pc 0 s, 0) :=
  if_pos (by simp [hi, hs])

theorem bodyMma_starts (hs : s.cx.lease.session = some false) (hg : ((arrOf s (quadOf s.me)).gang && (arrOf s (quadOf s.me)).holder.isSome) = false)
    (hf : mtxFmt e.cfg m = some f) : bodyMma d a b m acc zc e s = mmaTurn (mmaOp d a b f acc zc e.cfg s.me) e s := by
  simp only [bodyMma, hs, hg, hf, bne_self_eq_false, Bool.or_false, Bool.and_false, Bool.false_eq_true, if_false]

theorem bodyMma_issued (hi : e.issued = true) (hf : mtxFmt e.cfg m = some f) :
    bodyMma d a b m acc zc e s = mmaTurn (mmaOp d a b f acc zc e.cfg s.me) e s := by
  simp only [bodyMma, hi, hf, Bool.not_true, Bool.false_and, Bool.false_eq_true, if_false]

theorem bodyMmag_refused (hi : e.issued = false) (hs : s.cx.lease.session ≠ some true ∨ (s.cx.lease.held = true ∧ s.cx.lease.holder = false)) :
    bodyMmag a b m acc e s = (.trap cLEASE e.pc 0 s, 0) := by
  refine if_pos ?_
  obtain hs | ⟨hh, ho⟩ := hs
  · simp [hi, hs]
  · simp [hi, hh, ho]

/-- The halves of the gang's members, under the conditions of R270. -/
def gangFits (f : Fmt) (a b : Fin 8) (s : State) : Bool :=
  gangOk f (gangHalf s (quadOf s.me) 0 a).1 (gangHalf s (quadOf s.me) 2 a).1 (gangHalf s (quadOf s.me) 0 b).1 (gangHalf s (quadOf s.me) 1 b).1

theorem bodyMmag_starts (hi : e.issued = false) (hs : s.cx.lease.session = some true) (hh : s.cx.lease.held = true) (ho : s.cx.lease.holder = true)
    (hf : mtxFmt e.cfg m = some f) (hg : gangFits f a b s = true) :
    bodyMmag a b m acc e s = mmaTurn (mmagOp f acc (quadOf s.me) (gangQuads s (quadOf s.me) a b) s) e s := by
  rw [gangFits] at hg
  simp only [bodyMmag, hi, hs, hh, ho, hf, hg, bne_self_eq_false, Bool.not_true, Bool.not_false, Bool.and_false, Bool.false_and, Bool.or_false,
    Bool.false_eq_true, if_false]

theorem bodyMmag_issued (hi : e.issued = true) (hf : mtxFmt e.cfg m = some f) :
    bodyMmag a b m acc e s = mmaTurn (mmagOp f acc (quadOf s.me) (arrOf s (quadOf s.me)).run s) e s := by
  simp only [bodyMmag, hi, hf, Bool.not_true, Bool.false_and, Bool.false_eq_true, if_false, if_true]

/-- Under the conditions of R270 the first halves of all quadrants have the columns of the holder's. -/
theorem gangQuads_cols (h : gangFits f a b s = true) {x : GangQuad} (hx : x ∈ gangQuads s (quadOf s.me) a b) :
    shCols x.a.1 = shCols (gangHalf s (quadOf s.me) 0 a).1 := by
  have ha1 : shEmpty (gangHalf s (quadOf s.me) 2 a).1 = false →
      shCols (gangHalf s (quadOf s.me) 2 a).1 = shCols (gangHalf s (quadOf s.me) 0 a).1 := by
    intro hne
    simp only [gangFits, gangOk, hne, Bool.and_eq_true, Bool.false_or, beq_iff_eq] at h
    tauto
  simp only [gangQuads, List.mem_filter, List.mem_cons, List.not_mem_nil, or_false, Bool.and_eq_true, Bool.not_eq_true'] at hx
  obtain ⟨rfl | rfl | rfl | rfl, hne, -⟩ := hx
  · rfl
  · rfl
  · exact ha1 hne
  · exact ha1 hne

/-- The issue clocks of an MMAG are those of one quadrant, as often as there are quadrants (R274). -/
theorem mmagOp_slots (h : gangFits f a b s = true) : (mmagOp f acc (quadOf s.me) (gangQuads s (quadOf s.me) a b) s).slots
    = (gangQuads s (quadOf s.me) a b).length * issueSlots f (shCols (gangHalf s (quadOf s.me) 0 a).1) := by
  have hconst : ∀ n ∈ (gangQuads s (quadOf s.me) a b).map fun x => issueSlots f (shCols x.a.1),
      n = issueSlots f (shCols (gangHalf s (quadOf s.me) 0 a).1) := by
    intro n hn
    obtain ⟨x, hx, rfl⟩ := List.mem_map.mp hn
    rw [gangQuads_cols h hx]
  have hsum := List.sum_eq_card_nsmul _ _ hconst
  rw [List.length_map, smul_eq_mul] at hsum
  exact List.sum_eq_foldl.symm.trans hsum

theorem mmagOp_run_me (l : List GangQuad) (t : State) : ((mmagOp f acc q l t).run s).me = s.me :=
  foldl_me (fun t x => by
    split
    · exact updLoc_me _ _ _
    · rfl) _ _

/-! ### The end (R123, R273, R283) -/

/-- A self-checked operation's array has passed a check (R283). -/
def selfChecked (e : QEntry) (u : State) : State := if e.done = 2 then passCheck (quadOf u.me) u else u

/-- A lease ends with its last operation, or with one that ran past it (R123). -/
def leaseSpent (u : State) : State := if u.cx.lease.held && (u.cx.lease.mmas == 0 || u.cx.lease.ends ≤ u.clock) then endRenew u.me u else u

/-- On an array that computes rightly an operation whose clock has come writes its results. -/
theorem mmaEnd_computes (hb : (arrOf u (quadOf u.me)).busy ≤ u.clock) (hw : u.broken.contains (coreUnit u.me 2) = false)
    (hme : (o.run u).me = u.me) : mmaEnd o e u = .done (leaseSpent (selfChecked e (o.run u))) := by
  simp only [mmaEnd, hw, Nat.not_lt.mpr hb, Bool.false_eq_true, and_false, if_false, selfChecked, leaseSpent, hme]

/-- A self-check that differs takes the silent-error path, with no result written. -/
theorem mmaEnd_differs {x : Loc × Nat × Nat × Nat × Nat} {r : List (Loc × Nat × Nat × Nat × Nat)} {t : TaskRun} (ho : o.blocks = x :: r)
    (ht : u.cx.task = some t) (hb : (arrOf u (quadOf u.me)).busy ≤ u.clock) (hd : e.done = 2)
    (hw : u.broken.contains (coreUnit u.me 2) = true) :
    ∃ w, mmaEnd o e u = .left (selfcheckFail (.bank u.me true) t u.me w) ∧ w.cx = u.cx ∧ w.others = u.others ∧ w.mem = u.mem := by
  simp only [mmaEnd, hw, ho, ht, hd, Nat.not_lt.mpr hb, and_self, if_true, if_false]
  exact ⟨_, rfl, rfl, rfl, rfl⟩

/-- The attempt at a matrix word whose body completes. -/
theorem attempt_completes {t : State} {n : Nat} (hu : u.cx.fl.pend.find? (·.uid == e.uid) = some e) (hc : e.counted = true)
    (hs : canStart u e = true) (hq : e.queue = .matrix) (hh : holdsControl e.ins = false) (hb : queueBody e.ins e u = (.done t, n)) :
    attempt u e.uid = dropEntry e.uid t := by
  have hcount : countEntry e u = u := if_pos hc
  simp only [attempt, hu, hs, hcount, hb, settle_done hh, hq, if_true, reduceCtorEq, if_false]

theorem mmaTurn_ends (hi : e.issued = true) (hb : (arrOf u (quadOf u.me)).busy ≤ u.clock) (hw : u.broken.contains (coreUnit u.me 2) = false)
    (hme : (o.run u).me = u.me) : mmaTurn o e u = (.done (leaseSpent (selfChecked e (o.run u))), e.done) := by
  simp only [mmaTurn, hi, if_true, mmaEnd_computes hb hw hme]

end

theorem multiplyStarts : Sys2Proof.Parts.MultiplyStarts := by
  refine ⟨fun _ _ _ _ _ _ _ _ => bodyMma_noSession, fun _ _ _ _ _ _ => bodyMmag_refused, ?_, ?_⟩
  · intro d a b m f acc zc s i slots arr fin hs hok hf hg hr
    obtain ⟨-, hsession, -⟩ := id hr
    obtain ⟨t, hrun, hmem, harr, hmmas, hheld, hcnt, hpc, hsame⟩ := multiply_starts
      (o := mmaOp d a b f acc zc s.cx.cfg s.me) (body := bodyMma d a b m acc zc) hs rfl (need_pass hok) (bodyMma_starts hsession hg hf) hr
    exact ⟨t, hrun, hmem, congrArg ArrayQ.busy harr, hmmas, hheld, hcnt, hpc, hsame.sameS, hsame.vector, hsame.control, hsame.priv, hsame.mem⟩
  · intro a b m f acc s i q p h slots fin hs hf hholder hgang hr
    have hfits : gangFits f a b p = true := hgang
    obtain ⟨-, hsession, hheld, -⟩ := id hr
    have hslots : (mmagOp f acc (quadOf p.me) (gangQuads p (quadOf p.me) a b) p).slots = slots := mmagOp_slots hfits
    obtain ⟨t, hrun, hmem, harr, hmmas, -, hcnt, hpc, hsame⟩ := multiply_starts
      (o := mmagOp f acc (quadOf p.me) (gangQuads p (quadOf p.me) a b) p) (body := bodyMmag a b m acc) hs rfl (need_pass (by rw [hf]; rfl))
      (bodyMmag_starts rfl hsession hheld hholder hf hfits) (hslots ▸ hr)
    rw [hslots] at hmem
    refine ⟨t, hrun, hmem, (congrArg ArrayQ.busy harr).trans ?_, congrArg ArrayQ.run harr, hmmas, hcnt, hpc, hsame.sameS, hsame.vector, hsame.control,
      hsame.priv, hsame.mem⟩
    show multiplyEndClock _ s = fin
    rw [hslots]
    rfl

theorem multiplyEnds : Sys2Proof.Parts.MultiplyEnds := by
  refine ⟨fun e u m f acc hu hi hc hs hb hw hq hf => ⟨fun d a b zc hins => ?_, fun a b hins => ?_⟩, fun _ _ _ _ _ _ => mmaEnd_differs⟩
  · refine attempt_completes hu hc hs hq (by rw [hins]; rfl) ?_ (n := e.done)
    rw [hins]
    exact (bodyMma_issued hi hf).trans (mmaTurn_ends hi hb hw rfl)
  · refine attempt_completes hu hc hs hq (by rw [hins]; rfl) ?_ (n := e.done)
    rw [hins]
    exact (bodyMmag_issued hi hf).trans (mmaTurn_ends hi hb hw (mmagOp_run_me _ _))

/-- Settles O24: a multiply that may start comes to `mmaStart_ready`, one that has issued to `mmaEnd_computes` or `mmaEnd_differs`. (The name
`multiply` is the model's.) -/
theorem multiply_starts_and_ends : Obligations.Multiply := ⟨multiplyStarts, multiplyEnds⟩

end Sys2Proof.Machine
end

section
namespace Sys2Proof.Machine

/-! ## One lane of integer arithmetic (O16) -/

section
variable {f : Fmt} {v : Int}

/-- The low `n` bits of an integer are its residue modulo 2^n. -/
theorem wrapInt_cast (n : Nat) (v : Int) : (wrapInt n v : Int) = v % 2 ^ n :=
  Int.toNat_of_nonneg (Int.emod_nonneg v (by positivity))

theorem wrapInt_lt (n : Nat) (v : Int) : wrapInt n v < 2 ^ n := by
  have h : (wrapInt n v : Int) < 2 ^ n := wrapInt_cast n v ▸ Int.emod_lt_of_pos v (by positivity)
  exact_mod_cast h

/-- An integer within the bounds of a format is the one that its low bits encode: its residue is itself, or where it is negative lies 2^n
above it, in the upper half of the encodings. -/
theorem ival_wrapInt (hlo : (ibounds f).1 ≤ v) (hhi : v ≤ (ibounds f).2) : ival f (wrapInt (8 * f.width) v) = v := by
  obtain ⟨k, hk⟩ : ∃ k, 8 * f.width = k + 1 := by cases f <;> exact ⟨_, rfl⟩
  simp only [ibounds, hk, Nat.add_sub_cancel] at hlo hhi
  have hval := wrapInt_cast (k + 1) v
  have hpow : (2 : Int) ^ (k + 1) = 2 * 2 ^ k := pow_succ' 2 k
  simp only [ival, hk, Nat.add_sub_cancel, Nat.mod_eq_of_lt (wrapInt_lt (k + 1) v)]
  have hhalf : 2 ^ k ≤ wrapInt (k + 1) v ↔ (2 : Int) ^ k ≤ wrapInt (k + 1) v := by norm_cast
  rcases hs : f.signed
  · simp only [hs, Bool.false_eq_true, if_false, Bool.false_and] at hlo hhi ⊢
    exact hval.trans (Int.emod_eq_of_lt hlo (by omega))
  · simp only [hs, if_true, Bool.true_and, decide_eq_true_eq] at hlo hhi ⊢
    rcases Int.lt_or_le v 0 with hv | hv
    · have hres : v % 2 ^ (k + 1) = v + 2 ^ (k + 1) :=
        (Int.add_emod_right v _).symm.trans (Int.emod_eq_of_lt (by omega) (by omega))
      rw [if_pos (hhalf.mpr (by omega))]
      omega
    · have hres : v % 2 ^ (k + 1) = v := Int.emod_eq_of_lt hv (by omega)
      rw [if_neg (mt hhalf.mp (by omega))]
      omega

theorem ibounds_le (f : Fmt) : (ibounds f).1 ≤ (ibounds f).2 := by cases f <;> decide

theorem intResult_wraps (f : Fmt) (v : Int) : intResult f false v = (wrapInt (8 * f.width) v, 0) := rfl

theorem intResult_inRange (hlo : (ibounds f).1 ≤ v) (hhi : v ≤ (ibounds f).2) : intResult f true v = (wrapInt (8 * f.width) v, 0) := by
  simp only [intResult, if_true, if_neg (Int.not_lt.mpr hlo), if_neg (Int.not_lt.mpr hhi)]

theorem intResult_below (h : v < (ibounds f).1) : intResult f true v = (wrapInt (8 * f.width) (ibounds f).1, fSAT) := by
  simp only [intResult, if_true, if_pos h]

theorem intResult_above (h : (ibounds f).2 < v) : intResult f true v = (wrapInt (8 * f.width) (ibounds f).2, fSAT) := by
  simp only [intResult, if_true, if_neg (Int.not_lt.mpr ((ibounds_le f).trans h.le)), if_pos h]

end

/-- An integer lane is the exact result taken into the format. -/
theorem arithLane_integer {e : LaneEnv} (h : e.f.isI = true) (fop : Rm → XVal → XVal → XVal → Option XVal) (iop : Int → Int → Int → Int)
    (third : Bool) (a b c i : Nat) :
    arithLane e fop iop third a b c i = intResult e.f e.sat (iop (ival e.f a) (ival e.f b) (ival e.f c)) :=
  if_neg (by simp [isF_of_isI h])

theorem arithLane_wraps_or_clamps : Sys2Proof.Parts.IntegerLanes := by
  intro e fop iop third a b c i hi
  rw [arithLane_integer hi]
  refine ⟨fun hs => ?wraps, fun hs hlo hhi => ?inRange, fun hs hlt => ?below, fun hs hgt => ?above⟩ <;> rw [hs]
  case wraps => exact ⟨wrapInt_cast _ _, rfl⟩
  case inRange =>
    rw [intResult_inRange hlo hhi]
    exact ⟨ival_wrapInt hlo hhi, rfl⟩
  case below =>
    rw [intResult_below hlt]
    exact ⟨ival_wrapInt le_rfl (ibounds_le _), rfl⟩
  case above =>
    rw [intResult_above hgt]
    exact ⟨ival_wrapInt (ibounds_le _) le_rfl, rfl⟩

/-! ## Lanes of rows (O16) -/

/-- A row above its first lane is the row of the lanes that follow. -/
theorem laneOf_succ (w row i : Nat) : laneOf w row (i + 1) = laneOf w (row / 2 ^ (8 * w)) i := by
  rw [laneOf, laneOf, Nat.div_div_eq_div_mul, ← pow_add, Nat.mul_add_one, Nat.add_comm]

theorem packLanes_cons_div (w v : Nat) (l : List Nat) : packLanes w (v :: l) / 2 ^ (8 * w) = packLanes w l := by
  show (packLanes w l * 2 ^ (8 * w) + v % 2 ^ (8 * w)) / 2 ^ (8 * w) = packLanes w l
  rw [Nat.mul_comm, Nat.mul_add_div (by positivity), Nat.div_eq_of_lt (Nat.mod_lt _ (by positivity)), Nat.add_zero]

theorem laneOf_packLanes (w : Nat) (l : List Nat) (i : Nat) : laneOf w (packLanes w l) i = l.getD i 0 % 2 ^ (8 * w) := by
  induction l generalizing i with
  | nil => simp [laneOf, packLanes]
  | cons v l ih =>
    cases i with
    | zero => simp [laneOf, packLanes]
    | succ i => rw [laneOf_succ, packLanes_cons_div, ih, List.getD_cons_succ]

theorem laneOf_collect {w n i : Nat} (g : Nat → Nat × Flg) (h : i < n) : laneOf w (collect w n g).1 i = (g i).1 % 2 ^ (8 * w) := by
  simp [collect, laneOf_packLanes, h]

theorem lanesOfRows : Sys2Proof.Parts.LanesOfRows := by
  refine ⟨fun w l i _ => laneOf_packLanes w l i, fun e g i hi _ => ?_, fun e g h => ?_⟩
  · rw [mapLanes, laneOf_collect _ hi]
    split
    · rfl
    · exact Nat.zero_mod _
  · simp only [mapLanes, collect, h, Bool.false_eq_true, if_false, List.foldl_map]
    exact List.foldl_fixed' (fun _ => rfl) _

/-- Settles O16: an integer lane is `intResult` of the exact value, whose encodings `ival_wrapInt` reads back; rows by `laneOf_packLanes`. -/
theorem integerLanes : Obligations.IntegerLanes := ⟨arithLane_wraps_or_clamps, lanesOfRows⟩

end Sys2Proof.Machine
end

section
namespace Sys2Proof.Machine

/-! ## What a word of the arithmetic queue leaves (O20) -/

/-- The registers of a file after a result, if there is one, has been written into the one that it names. -/
def setNamed {n : Nat} {α : Type} (o : Option (Fin n × Nat)) (enc : Nat → α) (v : Vector α n) : Vector α n :=
  o.elim v fun x => v.set x.1 (enc x.2)

section
variable {n : Nat} {α : Type} {o : Option (Fin n × Nat)} {r : Fin n}

theorem setNamed_other (h : ∀ x, o ≠ some (r, x)) (enc : Nat → α) (v : Vector α n) : (setNamed o enc v)[r] = v[r] := by
  rcases o with _ | ⟨d, x⟩
  · rfl
  · have hd : d.val ≠ r.val := fun he => h x (Fin.ext he ▸ rfl)
    simp [setNamed, hd]

theorem setNamed_same {x : Nat} (h : o = some (r, x)) (enc : Nat → α) (v : Vector α n) : (setNamed o enc v)[r] = enc x := by
  simp [setNamed, h]

end

/-- The context after what a word gives has been written, with `f` as what is in flight then. -/
def wroteOut (o : VOut) (f : Flight) (c : Ctx) : Ctx :=
  { c with
    v := setNamed o.v (BitVec.ofNat 6144) c.v
    m := setNamed o.mask (BitVec.ofNat 768) c.m
    flags := c.flags ||| BitVec.ofNat 64 o.fl
    cq := o.cq.elim c.cq fun b => c.cq ++ [b]
    xq := o.xq.elim c.xq fun w => c.xq ++ [w]
    fl := f }

section
variable {o : VOut} {c : Ctx} {f : Flight}

/-- FLAGS only gather bits (R157, R230). -/
theorem wroteOut_flags_gather {k : Nat} (h : c.flags.getLsbD k = true) : (wroteOut o f c).flags.getLsbD k = true := by
  simp [wroteOut, h]

theorem wroteOut_flags_none (h : o.fl = 0) : (wroteOut o f c).flags = c.flags := by
  simp [wroteOut, h]

theorem wroteOut_cq_none (h : o.cq = none) : (wroteOut o f c).cq = c.cq := by
  simp [wroteOut, h]

theorem wroteOut_xq_none (h : o.xq = none) : (wroteOut o f c).xq = c.xq := by
  simp [wroteOut, h]

end

/-- Writing what a word gives changes the registers that it names, FLAGS, CQ and XQ, and what is in flight, where the shadows stand. -/
theorem writeOut_eq (o : VOut) (n : Nat) (s : State) : ∃ f, writeOut o n s = { s with cx := wroteOut o f s.cx } := by
  rcases o with ⟨_ | v, _ | m, _ | b, _ | w, fl⟩ <;> exact ⟨_, rfl⟩

/-- A change of the moving context and of the next serial number leaves the rest of the device. -/
theorem sameDevice_of_cx (s : State) (c : Ctx) (k : Nat) : SameDevice s { s with cx := c, uid := k } :=
  ⟨rfl, ⟨rfl, rfl⟩, rfl, rfl, rfl, rfl, ⟨rfl, rfl⟩, rfl, rfl, rfl, rfl, rfl, ⟨rfl, rfl, rfl⟩, rfl⟩

/-- A word of the arithmetic queue that completes leaves its context as `wroteOut` does, whatever it has in flight. -/
theorem arith_completed (o : VOut) (n u : Nat) (s : State) :
    ∃ f, noteArith (dropEntry u (writeOut o n s)) = { s with cx := wroteOut o f s.cx } := by
  obtain ⟨f, h⟩ := writeOut_eq o n s
  rw [h]
  exact ⟨_, rfl⟩

theorem arith_writes_its_result : Sys2Proof.Parts.VectorFrame := by
  refine ⟨fun o n u p => ?_, fun i s => ?_⟩
  · obtain ⟨f, h⟩ := arith_completed o n u p
    rw [h]
    exact ⟨fun _ hr => setNamed_other hr _ _, fun _ hr => setNamed_other hr _ _, fun _ _ hr => setNamed_same hr _ _,
      fun _ _ hr => setNamed_same hr _ _, fun _ _ => wroteOut_flags_gather, wroteOut_flags_none, wroteOut_cq_none, wroteOut_xq_none,
      rfl, rfl, rfl, rfl, rfl, rfl, rfl, sameDevice_of_cx _ _ _⟩
  · exact ⟨rfl, ⟨rfl, rfl, rfl⟩, rfl, rfl, rfl, rfl, rfl, rfl, rfl, sameDevice_of_cx s _ _⟩

/-! ## A format that a word does not allow (O20) -/

/-- A word is routed as a VEC word with modifier `m`: its format is checked first. -/
def RoutedAsVec (i : Instr) (m : VMod) : Prop := ∃ q rs body, exec i = vecRoute q i m rs body

/-- Every row of R231's table is routed with the modifier that stands there. -/
theorem exec_vec {i : Instr} {vi : VecForm} {m : VMod} {srcs : List VSrc} (h : vecInfo i = some (vi, m, srcs)) : RoutedAsVec i m := by
  cases i with
  | vadd | vsub | vmul | vfma | vfms | vfnma | vmin | vmax | vabs | vneg | vand | vor | vxor | vshl | vshr | vsar | vmov | vsel | vbcast
    | viota | vcmp | vclass | vcvt | vquant | vdeq | vrcp | vrsq | vsqrt | vexp2f | vlog2f | vrint | vfint | vexpi | vgetexp | vgetmant
    | vredadd | vredmax | vredamax | vredmin | vscan | vperm | vshuf | vrot | vslide | vcomp | vrng | vld | vst | vlds | vsts | vgath
    | vscat | mand | mor | mxor | mnot | mpop | mfirst | vanyq | vallq | vxq =>
    cases h
    exact ⟨_, _, _, rfl⟩
  | _ => cases h

theorem vecRoute_refused {q : Queue} {i : Instr} {m : VMod} {rs : List (Fin 32)} {body : QEntry → State → QAct} {s : State}
    (h : vecOk (vecFmt m s.cx.cfg) i = false) : vecRoute q i m rs body s = .next (finish s (illegal s.cx.pc s)) := by
  simp only [vecRoute, h, Bool.false_eq_true, if_false]

theorem formatNotAllowed : Sys2Proof.Parts.FormatNotAllowed := by
  intro i vi m srcs s hi hok
  obtain ⟨q, rs, body, hexec⟩ := exec_vec hi
  rw [hexec, vecRoute_refused hok]

/-- Settles O20: a word that completes leaves `wroteOut` of its context (`arith_completed`), and every VEC word is routed by `vecRoute`
(`exec_vec`), which turns away a format that the word does not allow. -/
theorem vectorFrame : Obligations.VectorFrame := ⟨arith_writes_its_result, formatNotAllowed⟩

end Sys2Proof.Machine
end

section
namespace Sys2Proof.Machine

/-! ## Scalar arithmetic (O2) -/

/-! ### The forms that compute a register -/

theorem alu2_done {f : W64 → W64 → W64} {a b : Src} {s s' : State} {x y : W64} (d : Fin 32) (hr : Ready (srcRegs [a, b]) s)
    (hs : readSrc2 a b s = .ok (x, y) s') : alu2 f d a b s = .next (complete (wr s' d (f x y))) :=
  ctl_done hr (by rw [hs]; rfl)

theorem alu1_done {f : W64 → W64} {a : Src} {s s' : State} {x : W64} (d : Fin 32) (hr : Ready (srcRegs [a]) s)
    (hs : readSrc a s = .ok x s') : alu1 f d a s = .next (complete (wr s' d (f x))) :=
  ctl_done hr (by rw [hs]; rfl)

/-- A form whose meaning is `alu2 g` computes any function that agrees with `g`. -/
theorem ComputesTwo.of_alu2 {mk : Fin 32 → Src → Src → Instr} {f g : W64 → W64 → W64} (hg : ∀ x y, g x y = f x y)
    (hmk : ∀ d a b s, exec (mk d a b) s = alu2 g d a b s := by intros; rfl) : ComputesTwo mk f := by
  intro d a b s s' x y hr hs
  rw [hmk, alu2_done d hr hs, hg]

/-- A form whose meaning is `alu1 g` computes any function that agrees with `g`. -/
theorem ComputesOne.of_alu1 {mk : Fin 32 → Src → Instr} {f g : W64 → W64} (hg : ∀ x, g x = f x)
    (hmk : ∀ d a s, exec (mk d a) s = alu1 g d a s := by intros; rfl) : ComputesOne mk f := by
  intro d a s s' x hr hs
  rw [hmk, alu1_done d hr hs, hg]

/-- A form that sets its register to a constant reads the constant into it. -/
theorem ReadsInto.of_setReg {mk : Fin 32 → Instr} {v : W64} (hmk : ∀ d s, exec (mk d) s = setReg d v s := by intros; rfl) :
    ReadsInto mk fun _ => v := fun d s => (hmk d s).trans (ctl_done (ready_nil s) rfl)

/-! ### The functions of R194's table -/

theorem ofBool64_iff {b : Bool} {p : Prop} [Decidable p] (h : b = true ↔ p) : ofBool64 b = if p then 1 else 0 := if_congr h rfl rfl

theorem divU_eq (x y : W64) : divU x y = if y = 0 then BitVec.allOnes 64 else x / y :=
  if_congr Iff.rfl rfl (BitVec.eq_of_toNat_eq (by
    rw [BitVec.toNat_ofNat, BitVec.toNat_udiv, Nat.mod_eq_of_lt ((Nat.div_le_self _ _).trans_lt x.isLt)]))

theorem remU_eq (x y : W64) : remU x y = if y = 0 then BitVec.allOnes 64 else x % y :=
  if_congr Iff.rfl rfl (BitVec.eq_of_toNat_eq (by
    rw [BitVec.toNat_ofNat, BitVec.toNat_umod, Nat.mod_eq_of_lt ((Nat.mod_le _ _).trans_lt x.isLt)]))

theorem clz64_eq (x : W64) : clz64 x = BitVec.ofNat 64 (if x = 0 then 64 else 63 - Nat.log2 x.toNat) := by
  unfold clz64
  split <;> rfl

/-- Every register form is `alu2` or `alu1` of its function. Those of the model that compare by a Boolean, or divide natural numbers, agree
with the table's. -/
theorem registerArithmetic_computes : Sys2Proof.Parts.RegisterArithmetic :=
  have same {mk : Fin 32 → Src → Src → Instr} {f : W64 → W64 → W64}
      (hmk : ∀ d a b s, exec (mk d a b) s = alu2 f d a b s := by intros; rfl) : ComputesTwo mk f := .of_alu2 (fun _ _ => rfl) hmk
  -- ADD to XOR, SHL to SAR, MUL to MULHU
  ⟨same, same, same, same, same, same, same, same, same, same, same,
    -- DIV to REMU
    same, .of_alu2 divU_eq, same, .of_alu2 remU_eq,
    -- MIN to MAXU
    .of_alu2 fun _ _ => if_congr BitVec.slt_iff_toInt_lt rfl rfl, .of_alu2 fun _ _ => if_congr BitVec.slt_iff_toInt_lt rfl rfl,
    .of_alu2 fun _ _ => if_congr BitVec.ult_iff_lt rfl rfl, .of_alu2 fun _ _ => if_congr BitVec.ult_iff_lt rfl rfl,
    -- SLT to SEQ
    .of_alu2 fun _ _ => ofBool64_iff BitVec.slt_iff_toInt_lt, .of_alu2 fun _ _ => ofBool64_iff BitVec.ult_iff_lt,
    .of_alu2 fun _ _ => ofBool64_iff beq_iff_eq,
    -- CLZ and POPC
    .of_alu1 clz64_eq, .of_alu1 fun _ => rfl⟩

/-! ### Division (R195) -/

/-- The quotient that does not fit wraps to the dividend, and nothing remains. -/
theorem div_overflow {x y : W64} (hx : x.toInt = -2 ^ 63) (hy : y.toInt = -1) : divS x y = x ∧ remS x y = 0 := by
  obtain rfl : x = BitVec.intMin 64 := BitVec.eq_of_toInt_eq (hx.trans (by decide))
  obtain rfl : y = BitVec.allOnes 64 := BitVec.eq_of_toInt_eq (hy.trans (by decide))
  decide

theorem division_never_traps : Sys2Proof.Parts.DivisionNeverTraps := by
  intro d a b s s' x y hr hs
  have alu (f : W64 → W64 → W64) : alu2 f d a b s = .next (complete (wr s' d (f x y))) := alu2_done d hr hs
  refine ⟨?_, fun hx hy => ?_⟩
  · rintro rfl
    exact ⟨alu divS, alu divU, alu remS, alu remU⟩
  · obtain ⟨hq, hm⟩ := div_overflow hx hy
    exact ⟨(alu divS).trans (by rw [hq]), (alu remS).trans (by rw [hm])⟩

/-! ### Immediates and constants (R196, R197) -/

/-- The word of a shift by a constant has zeros above the six bits of its amount (R196). -/
theorem wordsAre_shift {i : Instr} {d : Fin 32} {a : Src} {j : BitVec 6} {w : Nat} (x y op : Nat) (hv : vecInfo i = none)
    (hw : fullWords i = [op * 2 ^ 22 + sh d.val 15 + sh a.code 8 + j.toNat]) (h : fld w 6 2 ≠ 0) : wordsAre i w x y = false := by
  have hne : op * 2 ^ 22 + sh d.val 15 + sh a.code 8 + j.toNat ≠ w := by
    rintro rfl
    exact h (by unfold fld sh; omega)
  simpa [wordsAre, hv, hw] using hne

/-- A CTL word whose fields do not make up the word that its form has is no instruction (R169). -/
theorem decode_field {i : Instr} {w x y : Nat} (he : fld w 29 3 = 0) (hi : rawCtl (fld w 22 7) w x y = some i)
    (hw : wordsAre i w x y = false) : decode w x y = .error (.field false) := by
  simp [decode, rawInstr, he, hi, hw]

theorem shift_amount_refused {w x y : Nat} (he : fld w 29 3 = 0) (hlo : 29 ≤ fld w 22 7) (hhi : fld w 22 7 ≤ 31) (h : fld w 6 2 ≠ 0) :
    decode w x y = .error (.field false) := by
  have hop : fld w 22 7 = 29 ∨ fld w 22 7 = 30 ∨ fld w 22 7 = 31 := by omega
  rcases hop with hop | hop | hop
  · exact decode_field he (by rw [hop]; rfl) (wordsAre_shift x y 29 rfl rfl h)
  · exact decode_field he (by rw [hop]; rfl) (wordsAre_shift x y 30 rfl rfl h)
  · exact decode_field he (by rw [hop]; rfl) (wordsAre_shift x y 31 rfl rfl h)

theorem immediateAndConstantForms_complete : Sys2Proof.Parts.ImmediateAndConstantForms :=
  have alu {mk : Fin 32 → Src → Instr} {f : W64 → W64} (hmk : ∀ d a s, exec (mk d a) s = alu1 f d a s := by intros; rfl) :
      ComputesOne mk f := .of_alu1 (fun _ => rfl) hmk
  ⟨fun _ => alu, fun _ => alu, fun _ => alu, fun _ => alu, fun _ => alu, fun _ => alu, fun _ => alu,
    fun _ _ _ he hlo hhi h => shift_amount_refused he hlo hhi h, fun _ => .of_setReg, fun _ => .of_setReg, fun _ _ => .of_setReg,
    fun s => ctl_done (ready_nil s) rfl⟩

/-- Settles O2: every form is `alu2`, `alu1` or `setReg` of its function, and a shift's word with a bit set above its amount is not the word of
the form that it names (`wordsAre_shift`). -/
theorem scalarArithmetic : Obligations.ScalarArithmetic :=
  ⟨registerArithmetic_computes, division_never_traps, immediateAndConstantForms_complete⟩

end Sys2Proof.Machine
end

section
namespace Sys2Proof.Machine

/-! ## Branches, calls and returns (O9) -/

/-- A branch to a good target writes what it has to write and jumps. -/
theorem takeBranch_ok {t : W64} {s s' : State} (f : State → State) (h : checkTarget t s = .ok () s') :
    takeBranch t f s = .done (goto t (f s')) := by
  rw [takeBranch, h]
  rfl

/-- A jump goes to the address that its source gives (R208). -/
theorem jumpTo_read {a : Src} {t : W64} {s s' : State} (f : State → State) (h : readSrc a s = .ok t s') : jumpTo a f s = takeBranch t f s' := by
  rw [jumpTo, h]
  rfl

theorem branches_go_to_target : Sys2Proof.Parts.Branches := by
  refine ⟨fun pc disp slot => rfl,
    fun disp slot s s' ht => ⟨ctl_done (ready_nil s) (takeBranch_ok _ ht), ctl_done (ready_nil s) (takeBranch_ok _ ht)⟩,
    fun r disp slot s s' hr => ⟨fun h => ?_, fun h => ?_, fun h ht => ?_, fun h ht => ?_⟩, fun d a s s1 s2 t hr ha ht => ?_⟩
  · exact ctl_done hr (if_pos h)
  · exact ctl_done hr (if_neg h)
  · exact ctl_done hr ((if_pos h).trans (takeBranch_ok id ht))
  · exact ctl_done hr ((if_neg h).trans (takeBranch_ok id ht))
  · have jump (f : State → State) : jumpTo a f s = .done (goto t (f s2)) := (jumpTo_read f ha).trans (takeBranch_ok f ht)
    exact ⟨ctl_done hr (jump _), ctl_done hr (jump id), ctl_done hr (jump id)⟩

/-- The target of a branch is no START word of a code line with its TARGET bit set (R179). -/
theorem checkTarget_bad {t : W64} {s s' : State} {l : Nat} (hf : fetchLine (t.toNat / 128 * 128) s = .ok l s')
    (hbad : t.toNat % 4 ≠ 0 ∨ t.toNat % 128 / 4 < 2 ∨ lineKind l = 1 ∨ lineKind l = 2 ∨ lineTarget l (t.toNat % 128 / 4) = false) :
    checkTarget t s = .stop (.trap cTARGET t 0 s') := by
  rw [checkTarget, hf]
  refine if_neg ?_
  rintro ⟨halign, hword, hdata, hlabel, htarget⟩
  rcases hbad with h | h | h | h | h
  · exact h halign
  · omega
  · exact hdata h
  · exact hlabel h
  · exact absurd htarget (by rw [h]; decide)

theorem badTarget_traps : Sys2Proof.Parts.BadTarget := by
  intro a s s1 s2 t l hr ha hf hbad
  have jump : jumpTo a id s = .trap cTARGET t 0 s2 := by
    rw [jumpTo_read id ha, takeBranch, checkTarget_bad hf hbad]
    rfl
  exact ⟨ctl_body hr jump, ctl_body hr jump⟩

/-- Settles O9: a branch to a target that its checks pass is `takeBranch_ok`, and a target that they turn away is TARGET (`checkTarget_bad`). -/
theorem branches : Obligations.Branches := ⟨branches_go_to_target, badTarget_traps⟩

/-! ## Pops and loops (O10) -/

/-- A branch on the head of CQ that is not what it asks for only pops (R207). -/
theorem branchCq_other {want x : Bool} {l : List Bool} {s : State} (disp : BitVec 12) (slot : Fin 32) (hq : s.cx.cq = x :: l) (hx : x ≠ want) :
    branchCq want disp slot s = .done { s with cx := { s.cx with cq := l } } := by
  simp [branchCq, dropCq, hq, hx]

/-- A branch on the head of CQ that is what it asks for pops and jumps (R207). -/
theorem branchCq_taken {want : Bool} {l : List Bool} {disp : BitVec 12} {slot : Fin 32} {s s' : State} (hq : s.cx.cq = want :: l)
    (ht : checkTarget (branchTarget s.cx.pc (disp.signExtend 64) slot) s = .ok () s') :
    branchCq want disp slot s = .done (goto (branchTarget s.cx.pc (disp.signExtend 64) slot) (dropCq s')) := by
  simp [branchCq, hq, ht]

theorem queuePops_move_heads : Sys2Proof.Parts.QueuePops := by
  refine ⟨fun x l disp slot d s s' hq => ⟨?_, fun hx => ?_, fun hx => ?_, fun ht => ⟨fun hx => ?_, fun hx => ?_⟩⟩,
    fun x l d s hq => ctl_done (ready_nil s) (by rw [hq])⟩
  · exact ctl_done (ready_nil s) (by simp [dropCq, hq])
  · exact ctl_done (ready_nil s) (branchCq_other disp slot hq (by simp [hx]))
  · exact ctl_done (ready_nil s) (branchCq_other disp slot hq (by simp [hx]))
  · exact ctl_done (ready_nil s) (branchCq_taken (hx ▸ hq) ht)
  · exact ctl_done (ready_nil s) (branchCq_taken (hx ▸ hq) ht)

section
variable {k : Fin 4} {count : W64} {disp : BitVec 12} {slot : Fin 32} {s s' : State}

/-- A loop closes with a jump back while its counter stays below the count (R211). -/
theorem closeLoop_again (h : (s.cx.cfg.l[k] + 1).toNat < count.toNat)
    (ht : checkTarget (branchTarget s.cx.pc (disp.signExtend 64) slot) s = .ok () s') :
    closeLoop k count disp slot s = .done (goto (branchTarget s.cx.pc (disp.signExtend 64) slot) (setL k (s.cx.cfg.l[k] + 1) s')) :=
  (if_pos (BitVec.ult_iff_lt.mpr h)).trans (takeBranch_ok _ ht)

/-- A loop whose counter has come to the count clears it and goes on (R211). -/
theorem closeLoop_over (disp : BitVec 12) (slot : Fin 32) (h : ¬ (s.cx.cfg.l[k] + 1).toNat < count.toNat) :
    closeLoop k count disp slot s = .done (setL k 0 s) :=
  if_neg (mt BitVec.ult_iff_lt.mp h)

end

theorem setL_counter (k j : Fin 4) (v : W64) (s : State) : (setL k v s).cx.cfg.l[j] = if j = k then v else s.cx.cfg.l[j] := by
  rw [setL, updCfg_cx_cfg]
  simp [Vector.getElem_set, Fin.ext_iff, eq_comm]

/-- A count of 28 bits is the same number as a count of 64. -/
theorem toNat_loopCount (c : BitVec 28) : (c.setWidth 64).toNat = c.toNat := BitVec.toNat_setWidth_of_le (by decide)

theorem hardwareLoops_by_mode : Sys2Proof.Parts.HardwareLoops := by
  refine ⟨fun r k disp slot s s' hr => ⟨fun h ht => ?_, fun h => ?_, ?_⟩, fun c k disp slot s s' => ⟨fun h ht => ?_, fun h => ?_, ?_⟩,
    fun d k s => ctl_done (ready_nil s) rfl, setL_counter⟩
  · exact ctl_done hr (closeLoop_again h ht)
  · exact ctl_done hr (closeLoop_over disp slot h)
  · exact ctl_done hr rfl
  · exact ctl_done (ready_nil s) (closeLoop_again (by rwa [toNat_loopCount]) ht)
  · exact ctl_done (ready_nil s) (closeLoop_over disp slot (by rwa [toNat_loopCount]))
  · exact ctl_done (ready_nil s) rfl

/-- Settles O10: a branch on CQ pops and either jumps or goes on (`branchCq_taken`, `branchCq_other`), and a loop closes either way by its
counter (`closeLoop_again`, `closeLoop_over`). -/
theorem popsAndLoops : Obligations.PopsAndLoops := ⟨queuePops_move_heads, hardwareLoops_by_mode⟩

end Sys2Proof.Machine
end

section
namespace Sys2Proof.Machine

/-! ## Traps (O13) -/

variable {s s' : State} {t : TrapInfo}

/-- A control engine that waits for nothing has no word to withdraw (R335). -/
theorem withdrawWait_idle (keep : Option Nat) (hw : s.cx.fl.wait = .none)
    (hp : ∀ e ∈ s.cx.fl.pend, holdsControl e.ins = true → e.retained = true) : withdrawWait keep s = s := by
  have hfind : s.cx.fl.pend.find? (fun e => holdsControl e.ins && !e.retained && some e.uid != keep) = none := by
    rw [List.find?_eq_none]
    intro e he
    cases hc : holdsControl e.ins with
    | false => simp
    | true => simp [hp e he hc]
  have hsame : { s with cx := { s.cx with fl := { s.cx.fl with wait := .none } } } = s := by rw [← hw]
  simp only [withdrawWait, hw, sentWait, hfind, hsame]

/-- A trap that nothing stands before starts the drain with the tile that the context has noted (R334, R335). -/
theorem startTrap_idle (hw : s.cx.fl.wait = .none) (hp : ∀ e ∈ s.cx.fl.pend, holdsControl e.ins = true → e.retained = true)
    (hd : s.cx.fl.drain = none) (hf : s.cx.fl.pf = none) :
    startTrap t s = { s with cx := { s.cx with fl := { s.cx.fl with tile := 0, pf := none, drain := some { t with tile := s.cx.fl.tile } } } } := by
  simp [startTrap, withdrawWait_idle _ hw hp, earlierFault, giveUpFault, hd, hf]

theorem trapWord_begins_drain : Sys2Proof.Parts.TrapWord := fun _ s hd hf hw hp =>
  ⟨_, congrArg Host.Outcome.next (startTrap_idle hw hp hd hf), rfl, rfl, rfl, fun _ _ => rfl, ⟨rfl, rfl, rfl⟩, ⟨rfl, rfl, rfl⟩, rfl,
    sameDevice_of_cx s _ _⟩

/-- A drained trap whose handler can be fetched enters it (R336). -/
theorem enterTrap_handler (hd : s.cx.fl.drain = some t) (hecc : ¬ (t.cause = cECC ∧ inputLost s = true)) (hin : s.cx.pr.intrap = false)
    (hv : s.cx.pr.tvec ≠ 0) (hc : checkHandler s = .ok () s') : enterTrap s = enterAt t s' := by
  simp only [enterTrap, hd, hecc, hin, hv, hc, if_false, Bool.false_eq_true]

theorem trapEntry_writes_registers : Sys2Proof.Parts.TrapEntry := by
  intro s s' t hd hecc hin hv hc hcx
  rw [enterTrap_handler hd hecc hin hv hc, ← hcx]
  exact ⟨rfl, rfl, rfl, rfl, rfl, rfl, rfl, rfl, rfl, rfl, rfl, rfl, rfl, rfl, rfl, rfl, rfl, rfl,
    by rw [SameVector, ← hcx]; exact ⟨rfl, rfl, rfl⟩, by rw [SameControl, ← hcx]; exact ⟨rfl, rfl, rfl⟩⟩

/-- Settles O13: TRAP begins the drain (`startTrap_idle`), and the entry of a drained trap is `enterAt` (`enterTrap_handler`). -/
theorem traps : Obligations.Traps := ⟨trapWord_begins_drain, trapEntry_writes_registers⟩

end Sys2Proof.Machine
end

section
namespace Sys2Proof.Machine

/-! ## The frame of scalar words (O3) -/

variable {s t u : State} {d : Fin 32}

/-! ### What an attempt at a control word leaves (R191, R192, R335) -/

/-- From `s` to `t` only the streams, the program counter, the retired count and what is in flight of the moving context have changed, and the
fault processor's lists where a page fault was waited for. -/
def OnlyBookkeeping (s t : State) : Prop :=
  ∃ st pc n f x, t = { s with cx := { s.cx with streams := st, pc := pc, retired := n, fl := f }, xl := x }
    ∧ (s.cx.fl.pf = none → f.pf = none ∧ x = s.xl)

theorem OnlyBookkeeping.trans (h : OnlyBookkeeping s t) (h' : OnlyBookkeeping t u) : OnlyBookkeeping s u := by
  obtain ⟨_, _, _, _, _, rfl, hpf⟩ := h
  obtain ⟨_, _, _, _, _, rfl, hpf'⟩ := h'
  refine ⟨_, _, _, _, _, rfl, fun h => ?_⟩
  obtain ⟨hf, hx⟩ := hpf h
  obtain ⟨hf', hx'⟩ := hpf' hf
  exact ⟨hf', hx'.trans hx⟩

/-- What is in flight may change as long as no page fault begins. -/
theorem OnlyBookkeeping.of_flight {f : Flight} (h : s.cx.fl.pf = none → f.pf = none) :
    OnlyBookkeeping s { s with cx := { s.cx with fl := f } } :=
  ⟨_, _, _, _, _, rfl, fun hp => ⟨h hp, rfl⟩⟩

theorem complete_onlyBookkeeping (s : State) : OnlyBookkeeping s (complete s) := ⟨_, _, _, _, _, rfl, fun h => ⟨h, rfl⟩⟩

theorem giveUpFault_onlyBookkeeping (s : State) : OnlyBookkeeping s (giveUpFault s) := by
  cases h : s.cx.fl.pf with
  | none => exact ⟨_, _, _, _, _, by rw [giveUpFault, h], fun _ => ⟨rfl, rfl⟩⟩
  | some p => exact ⟨_, _, _, _, _, by rw [giveUpFault, h]; rfl, fun hn => nomatch h.symm.trans hn⟩

/-- A trap of a context that waits for nothing starts a drain, or leaves the one of an earlier word to go on (R335). -/
theorem startTrap_onlyBookkeeping (i : TrapInfo) (hw : s.cx.fl.wait = .none)
    (hp : ∀ e ∈ s.cx.fl.pend, holdsControl e.ins = true → e.retained = true) : OnlyBookkeeping s (startTrap i s) := by
  unfold startTrap
  rw [withdrawWait_idle _ hw hp]
  refine iteInduction (motive := OnlyBookkeeping s) (fun _ => .of_flight id) fun _ => ?_
  have hgive := OnlyBookkeeping.trans (t := { s with cx := { s.cx with fl := { s.cx.fl with tile := 0 } } }) (.of_flight id)
    (giveUpFault_onlyBookkeeping _)
  exact hgive.trans (.of_flight id)

/-- What a word has taken from the streams is put back, and nothing else changes. -/
theorem unread_eq (s0 s : State) : ∃ st, unread s0 s = { s with cx := { s.cx with streams := st } } := by
  unfold unread
  split <;> exact ⟨_, rfl⟩

/-- A control word at which an earlier load's error is taken is not run. -/
theorem finish_late_onlyBookkeeping (c : BitVec 8) (pc a : W64) (l : List LateEcc) (hw : s.cx.fl.wait = .none)
    (hp : ∀ e ∈ s.cx.fl.pend, holdsControl e.ins = true → e.retained = true) :
    OnlyBookkeeping s (finish s (.late c pc a { s with cx := { s.cx with fl := { s.cx.fl with late := l } } })) := by
  obtain ⟨st, h⟩ := unread_eq s { s with cx := { s.cx with retired := s.cx.retired - 1, fl := { s.cx.fl with late := l } } }
  refine .trans (t := { s with cx := { s.cx with streams := st, retired := s.cx.retired - 1, fl := { s.cx.fl with late := l } } })
    ⟨_, _, _, _, _, rfl, fun h => ⟨h, rfl⟩⟩ ?_
  rw [finish, h]
  exact startTrap_onlyBookkeeping _ hw hp

/-- A control word that waits is not run. -/
theorem finish_wait_onlyBookkeeping (w : Wait) (s : State) : OnlyBookkeeping s (finish s (.wait w s)) := by
  obtain ⟨st, h⟩ := unread_eq s s
  rw [finish, h]
  exact ⟨_, _, _, _, _, rfl, fun h => ⟨h, rfl⟩⟩

/-- An error of an earlier load is taken off the list and changes nothing else (R192). -/
theorem lateOf_some {rs : Option (List (Fin 32))} {x : Act} (h : lateOf rs s = some x) :
    ∃ c pc a l, x = .late c pc a { s with cx := { s.cx with fl := { s.cx.fl with late := l } } } := by
  unfold lateOf at h
  dsimp only at h
  split at h
  · cases h
    exact ⟨_, _, _, _, rfl⟩
  · cases h

/-- At its interlocks a control word takes the error of an earlier load, or waits, or comes to its body. -/
theorem interlock_cases (rs : List (Fin 32)) (body : State → Act) (s : State) :
    (∃ c pc a l, interlock rs body s = .late c pc a { s with cx := { s.cx with fl := { s.cx.fl with late := l } } })
      ∨ interlock rs body s = .wait .other s ∨ interlock rs body s = body s := by
  unfold interlock
  split
  · next x hx =>
    obtain ⟨_, _, _, _, rfl⟩ := lateOf_some hx
    exact .inl ⟨_, _, _, _, rfl⟩
  · exact .inr (ite_eq_or_eq _ _ _)

/-! ### What a scalar word leaves (R193 to R197, R221) -/

/-- The frame of a scalar word that names register `d`. -/
def InScalarFrame (d : Fin 32) (s t : State) : Prop :=
  SameS [d] s t ∧ SameVector s t ∧ SameControl s t ∧ SamePriv s t ∧ SameMemory s t ∧ SameDevice { s with xl := t.xl } t
    ∧ (s.cx.fl.pf = none → t.xl = s.xl)

theorem OnlyBookkeeping.inScalarFrame (h : OnlyBookkeeping s t) : InScalarFrame d s t := by
  obtain ⟨st, pc, n, f, x, rfl, hx⟩ := h
  exact ⟨fun _ _ => rfl, ⟨rfl, rfl, rfl⟩, ⟨rfl, rfl, rfl⟩, rfl, ⟨fun _ => rfl, rfl⟩,
    sameDevice_of_cx { s with xl := x } _ _, fun h => (hx h).2⟩

/-- A word that completes with its register written stays in its frame. -/
theorem complete_wr_inScalarFrame (d : Fin 32) (v : W64) (s : State) : InScalarFrame d s (complete (wr s d v)) :=
  ⟨fun _ hr => sget_wr_other s v (List.ne_of_not_mem_cons hr), ⟨wr_cx_v s d v, wr_cx_m s d v, wr_cx_t s d v⟩,
    ⟨wr_cx_cfg s d v, wr_cx_flags s d v, wr_cx_qdepth s d v⟩, wr_cx_pr s d v, ⟨fun _ => rfl, rfl⟩,
    sameDevice_of_cx s _ _, fun _ => rfl⟩

/-- In `s`, a word is one of the control engine whose body completes with nothing changed but, where it has one, its register `d`. -/
def AtMostWrites (d : Fin 32) (s : State) (i : Instr) : Prop :=
  ∃ rs body, exec i s = ctl rs body s ∧ (body s = .done s ∨ ∃ v, body s = .done (wr s d v))

theorem AtMostWrites.inScalarFrame {i : Instr} (h : AtMostWrites d s i) (hi : exec i s = .next t) (hw : s.cx.fl.wait = .none)
    (hp : ∀ e ∈ s.cx.fl.pend, holdsControl e.ins = true → e.retained = true) : InScalarFrame d s t := by
  obtain ⟨rs, body, hexec, hbody⟩ := h
  cases hexec.symm.trans hi
  rcases interlock_cases rs body s with ⟨c, pc, a, l, hl⟩ | hl | hl
  · rw [hl]
    exact (finish_late_onlyBookkeeping c pc a l hw hp).inScalarFrame
  · rw [hl]
    exact (finish_wait_onlyBookkeeping _ s).inScalarFrame
  · rw [hl]
    rcases hbody with hb | ⟨v, hb⟩
    · rw [hb]
      exact (complete_onlyBookkeeping s).inScalarFrame
    · rw [hb]
      exact complete_wr_inScalarFrame d v s

/-- A word of two sources, whose meaning is `g`. -/
theorem AtMostWrites.of_alu2 {i : Instr} {f : W64 → W64 → W64} {a b : Fin 32}
    (g : Fin 32 → Src → Src → State → Host.Outcome State Fault Refusal) (h : exec i s = g d (.s a) (.s b) s := by rfl)
    (hg : g d (.s a) (.s b) s = alu2 f d (.s a) (.s b) s := by rfl) : AtMostWrites d s i :=
  ⟨_, _, h.trans hg, .inr ⟨_, rfl⟩⟩

/-- A word of one source, whose meaning is `g`. -/
theorem AtMostWrites.of_alu1 {i : Instr} {f : W64 → W64} {a : Fin 32} (g : Fin 32 → Src → State → Host.Outcome State Fault Refusal)
    (h : exec i s = g d (.s a) s := by rfl) (hg : g d (.s a) s = alu1 f d (.s a) s := by rfl) : AtMostWrites d s i :=
  ⟨_, _, h.trans hg, .inr ⟨_, rfl⟩⟩

/-- A word without sources, which writes what `v` reads in the state. -/
theorem AtMostWrites.of_read {i : Instr} (v : State → W64) (h : exec i s = ctl [] (fun s => .done (wr s d (v s))) s := by rfl) :
    AtMostWrites d s i := ⟨_, _, h, .inr ⟨_, rfl⟩⟩

/-- Settles O3: a word whose interlocks do not pass leaves bookkeeping alone (`OnlyBookkeeping`), and the body of each of these words completes
with at most `d` written. -/
theorem scalarFrame : Obligations.ScalarFrame := by
  intro d ra rb k sh c x y i s t hi ht hw hp
  refine AtMostWrites.inScalarFrame ?_ ht hw hp
  clear ht
  revert i
  simp only [List.forall_mem_cons]
  -- NOP writes nothing
  exact ⟨⟨_, _, rfl, .inl rfl⟩,
    -- register forms
    .of_alu2 execAdd, .of_alu2 execSub, .of_alu2 execAnd, .of_alu2 execOr, .of_alu2 execXor, .of_alu2 execShl, .of_alu2 execShr,
    .of_alu2 execSar, .of_alu2 execMul, .of_alu2 execMulh, .of_alu2 execMulhu, .of_alu2 execDiv, .of_alu2 execDivu, .of_alu2 execRem,
    .of_alu2 execRemu, .of_alu2 execMin, .of_alu2 execMax, .of_alu2 execMinu, .of_alu2 execMaxu, .of_alu2 execSlt, .of_alu2 execSltu,
    .of_alu2 execSeq, .of_alu1 execClz, .of_alu1 execPopc,
    -- immediate forms
    .of_alu1 (execAddi · · k), .of_alu1 (execAndi · · k), .of_alu1 (execOri · · k), .of_alu1 (execXori · · k),
    .of_alu1 (execShli · · sh), .of_alu1 (execShri · · sh), .of_alu1 (execSari · · sh),
    -- constant forms and counter reads
    .of_read fun _ => c.signExtend 64, .of_read fun _ => x.signExtend 64, .of_read fun _ => y ++ x, .of_read fun s => s.cx.energy,
    .of_read fun s => BitVec.ofNat 64 s.clock, .of_read fun s => s.cx.retired, List.forall_mem_nil _⟩

end Sys2Proof.Machine
end

section
namespace Sys2Proof.Machine

/-! ## Words of the arithmetic queue (O15, O17, O18) -/

section
variable {i : Instr} {q : Queue} {m : VMod} {rs : List (Fin 32)} {srcs : List VSrc} {extra : List VReg} {push : Option Bool}
  {late : LaneEnv → Nat} {out : LaneEnv → List Nat → Ctx → VOut} {e : QEntry} {s p' : State}

/-- A VEC word whose format is allowed is routed with its draws taken (R155, R174). -/
theorem vecRoute_allowed (body : QEntry → State → QAct) (h : vecOk (vecFmt m s.cx.cfg) i = true) :
    vecRoute q i m rs body s = routeQ q i rs (fun _ => none) (drawn i) body s := if_pos h

/-- The attempt of an arithmetic word with no source in a shadow and room for what it pushes reads its sources in order and writes what
it gives (R20, R21, R228). -/
theorem vecArith_done {rows : List Nat} (hsh : inShadow (srcReads m srcs ++ extra) s = false)
    (hroom : ∀ x, push = some x → queueFull s.cx x = false)
    (hread : Res.mapM (readVSrc (vecEnv m e s.cx).f e) srcs s = .ok rows p') :
    vecArith m srcs extra push late out e s
      = (.done (writeOut (out (vecEnv m e s.cx) rows p'.cx) (late (vecEnv m e s.cx)) p'), 0) := by
  cases push with
  | none => simp only [vecArith, hsh, Bool.false_eq_true, if_false, hread, Res.bind, unreadQ]
  | some x => simp only [vecArith, hsh, hroom x rfl, Bool.false_eq_true, if_false, hread, Res.bind, unreadQ]

/-- A word of the arithmetic queue that is routed as a VEC word with the attempt `vecArith` runs. `body` is the model's name of that
attempt. -/
theorem VecRuns.of_body (body : QEntry → State → QAct) (hexec : exec i = vecRoute .varith i m (vsrcRegs srcs) body := by rfl)
    (hbody : body = vecArith m srcs extra (pushesTo i) late out := by rfl) (hfree : holdsControl i = false := by rfl) :
    VecRuns i m srcs extra late out := by
  intro s p' rows hs hok e p env hsh hroom hread
  rw [hexec, vecRoute_allowed body hok]
  exact routeQ_arith hs rfl hfree (hbody ▸ vecArith_done hsh hroom hread)

end

/-- A word with one source and a row as its result runs where its attempt is `vec1`. -/
theorem RowOfOne.of_body {mk : Fin 128 → VSrc → VMod → Instr} {late : LaneEnv → Nat} {f : VMod → LaneEnv → Nat → Nat × Flg}
    (body : Fin 128 → VSrc → VMod → QEntry → State → QAct)
    (hexec : ∀ d a m, exec (mk d a m) = vecRoute .varith (mk d a m) m (vsrcRegs [a]) (body d a m) := by intros; rfl)
    (hbody : ∀ d a m, body d a m = vec1 d a m late (f m) := by intros; rfl)
    (hpush : ∀ d a m, pushesTo (mk d a m) = none := by intros; rfl)
    (hfree : ∀ d a m, holdsControl (mk d a m) = false := by intros; rfl) : RowOfOne mk late f := fun d a m =>
  .of_body (body d a m) (hexec d a m) ((hbody d a m).trans (by rw [hpush]; rfl)) (hfree d a m)

/-- A word with two sources and a row as its result runs where its attempt is `vec2`. -/
theorem RowOfTwo.of_body {mk : Fin 128 → VSrc → VSrc → VMod → Instr} {late : LaneEnv → Nat} {f : VMod → LaneEnv → Nat → Nat → Nat × Flg}
    (body : Fin 128 → VSrc → VSrc → VMod → QEntry → State → QAct)
    (hexec : ∀ d a b m, exec (mk d a b m) = vecRoute .varith (mk d a b m) m (vsrcRegs [a, b]) (body d a b m) := by intros; rfl)
    (hbody : ∀ d a b m, body d a b m = vec2 d a b m late (f m) := by intros; rfl)
    (hpush : ∀ d a b m, pushesTo (mk d a b m) = none := by intros; rfl)
    (hfree : ∀ d a b m, holdsControl (mk d a b m) = false := by intros; rfl) : RowOfTwo mk late f := fun d a b m =>
  .of_body (body d a b m) (hexec d a b m) ((hbody d a b m).trans (by rw [hpush]; rfl)) (hfree d a b m)

/-- A word with two sources that reads its destination too runs where its attempt is `vec3`. -/
theorem RowOfThree.of_body {mk : Fin 128 → VSrc → VSrc → VMod → Instr} {late : LaneEnv → Nat} {f : LaneEnv → Nat → Nat → Nat → Nat × Flg}
    (body : Fin 128 → VSrc → VSrc → VMod → QEntry → State → QAct)
    (hexec : ∀ d a b m, exec (mk d a b m) = vecRoute .varith (mk d a b m) m (vsrcRegs [a, b]) (body d a b m) := by intros; rfl)
    (hbody : ∀ d a b m, body d a b m = vec3 d a b m late f := by intros; rfl)
    (hpush : ∀ d a b m, pushesTo (mk d a b m) = none := by intros; rfl)
    (hfree : ∀ d a b m, holdsControl (mk d a b m) = false := by intros; rfl) : RowOfThree mk late f := fun d a b m =>
  .of_body (body d a b m) (hexec d a b m) ((hbody d a b m).trans (by rw [hpush]; rfl)) (hfree d a b m)

/-! ### Lane by lane (O15) -/

theorem vectorSumsAndProducts : Sys2Proof.Parts.VectorArithmetic :=
  ⟨.of_body bodyVadd, .of_body bodyVsub, .of_body bodyVmul, .of_body bodyVfma, .of_body bodyVfms, .of_body bodyVfnma⟩

theorem vectorElementwise : Sys2Proof.Parts.VectorElementwise :=
  ⟨.of_body bodyVmin, .of_body bodyVmax, .of_body bodyVabs, .of_body bodyVneg, .of_body bodyVand, .of_body bodyVor, .of_body bodyVxor,
    .of_body bodyVshl, .of_body bodyVshr, .of_body bodyVsar, .of_body bodyVmov, .of_body bodyVsel, .of_body bodyViota, .of_body bodyVclass⟩

/-- Settles O15: each form is routed as a VEC word, and its attempt is `vec1`, `vec2` or `vec3` of its lanes, which completes
(`vecArith_done`). -/
theorem vectorArithmetic : Obligations.VectorArithmetic := ⟨vectorSumsAndProducts, vectorElementwise⟩

/-! ### Conversions, functions and cross-lane forms (O17) -/

theorem vectorConversions : Sys2Proof.Parts.VectorConversions :=
  ⟨fun df part => .of_body (bodyVcvt · · df part ·), fun df => .of_body (bodyVquant · · df ·), fun df => .of_body (bodyVdeq · · df ·)⟩

theorem vectorLaneFunctions : Sys2Proof.Parts.VectorFunctions :=
  ⟨.of_body bodyVrcp, .of_body bodyVrsq, .of_body bodyVsqrt, .of_body bodyVexp2f, .of_body bodyVlog2f, .of_body bodyVrint,
    .of_body bodyVfint, .of_body bodyVexpi, .of_body bodyVgetexp, .of_body bodyVgetmant⟩

theorem vectorCrossLane : Sys2Proof.Parts.VectorCrossLane :=
  ⟨.of_body bodyVredadd, .of_body bodyVredmax, .of_body bodyVredamax, .of_body bodyVredmin, .of_body bodyVscan,
    .of_body bodyVperm, .of_body bodyVbcast, fun pat => .of_body (bodyVshuf · · · pat ·), .of_body bodyVrot, .of_body bodyVslide,
    fun k => .of_body (bodyVcomp · · k ·), fun d m => .of_body (bodyVrng d m)⟩

/-- Settles O17: each form is routed as a VEC word, and its attempt is `vec1` or `vec2` of its row, for VRNG `vecArith` without sources. -/
theorem vectorFunctions : Obligations.VectorFunctions := ⟨vectorConversions, vectorLaneFunctions, vectorCrossLane⟩

/-! ### Masks (O18) -/

/-- The masks that a word reads besides its modifier's; M0 is no register (R229, R232). -/
def maskReads (l : List (Fin 8)) : List VReg := l.filterMap fun r => if r = 0 then none else some (true, r.val)

theorem maskReads_one (a : Fin 8) : maskReads [a] = if a = 0 then [] else [(true, a.val)] := by
  by_cases h : a = 0 <;> simp [maskReads, h]

/-- A word that reads one mask and no source runs where its attempt is `vecArith` with that mask as its read. -/
theorem VecRuns.of_mask {i : Instr} {m : VMod} {a : Fin 8} {late : LaneEnv → Nat} {out : LaneEnv → List Nat → Ctx → VOut}
    (body : QEntry → State → QAct) (hexec : exec i = vecRoute .varith i m [] body := by rfl)
    (hbody : body = vecArith m [] (if a = 0 then [] else [(true, a.val)]) (pushesTo i) late out := by rfl)
    (hfree : holdsControl i = false := by rfl) : VecRuns i m [] (maskReads [a]) late out :=
  .of_body body hexec (maskReads_one a ▸ hbody) hfree

/-- Settles O18: the attempt of a compare and of VXQ is `vecArith` of their sources, that of a mask form `vecArith` of the masks that it
reads. -/
theorem maskForms : Obligations.MaskForms :=
  ⟨fun p d a b m => .of_body (bodyVcmp p d a b m), fun d a b m => .of_body (bodyMand d a b m), fun d a b m => .of_body (bodyMor d a b m),
    fun d a b m => .of_body (bodyMxor d a b m), fun d a m => .of_body (bodyMnot d a m), fun d a m => .of_mask (bodyMfirst d a m),
    fun a m => .of_mask (bodyMpop a m), fun a m => .of_mask (bodyVanyq a m), fun a m => .of_mask (bodyVallq a m),
    fun a b m => .of_body (bodyVxq a b m)⟩

/-! ## Vector loads and stores (O19) -/

section
variable {i : Instr} {q : Queue} {m : VMod} {rs : List (Fin 32)} {body : QEntry → State → QAct} {e : QEntry} {s t : State} {n : Nat}
  {d b : Fin 128} {a c : Fin 32} {bs : List (List Byte)} {gs : List (List Seg)}

/-- A word of a load or store queue that starts and whose attempt completes leaves its queue. -/
theorem vecRoute_done (hs : Starts q i rs (drawn i) s) (hok : vecOk (vecFmt m s.cx.cfg) i = true) (hq : q ≠ .varith)
    (hfree : holdsControl i = false) (hb : body (entryOf q i s) (placedWord q i (drawn i) s) = (.done t, n)) :
    vecRoute q i m rs body s = .next (dropEntry s.uid t) :=
  (vecRoute_allowed body hok).trans (routeQ_done hs rfl hfree hq hb)

/-- Block j of a strided access lies at A + j · B (R256). -/
theorem strided_get (x y : W64) {j : Nat} (h : j < 12) : (strided x y)[j]? = some (x + BitVec.ofNat 64 j * y, 0) := by
  simp [strided, h]

/-! ### The attempts of loads (R255 to R257) -/

theorem bodyVld_done (h : readPieces 64 768 [(qs e a, 0)] s = .ok bs t) :
    bodyVld d a m e s = (.done { t with cx := setV d (maskRow (vecEnv m e t.cx) (natOf bs.flatten)) t.cx }, 0) := by
  rw [bodyVld, h]
  rfl

theorem bodyVlds_done (h : readPieces 64 64 (strided (qs e a) (qs e c)) s ((qs e c).slt 0) = .ok bs t) :
    bodyVlds d a c m e s = (.done { t with cx := setV d (maskRow (vecEnv m e t.cx) (natOf bs.flatten)) t.cx }, 0) := by
  rw [bodyVlds, h]
  rfl

theorem bodyVgath_done (h : readPieces (vecEnv m e s.cx).f.width (vecEnv m e s.cx).f.width
      ((activeLanes (vecEnv m e s.cx)).map (elemAddr e s.cx a b)) s = .ok bs t) :
    bodyVgath d a b m e s = (.done { t with cx := setV d (((activeLanes (vecEnv m e s.cx)).zip bs).foldl
      (fun row (i, l) => row + natOf l * 2 ^ (8 * (vecEnv m e s.cx).f.width * i)) 0) t.cx }, 0) := by
  simp only [bodyVgath, h]
  rfl

/-! ### The attempts of stores, which no FREL holds (R98, R255 to R257) -/

theorem bodyVst_done (h : checkPieces 64 768 [(qs e a, 0)] s = .ok gs t) (hheld : piecesHeld e.uid gs t = false) :
    bodyVst d a m e s = (.done (writePieces gs [activeBytes (vecEnv m e t.cx) (t.cx.v[d]) 0 768] t), 0) := by
  simp only [bodyVst, h, Res.bind, hheld, Bool.false_eq_true, if_false]

theorem bodyVsts_done (h : checkPieces 64 64 (strided (qs e a) (qs e c)) s ((qs e c).slt 0) = .ok gs t)
    (hheld : piecesHeld e.uid gs t = false) : bodyVsts d a c m e s = (.done (writePieces gs
      ((List.range 12).map fun j => activeBytes (vecEnv m e t.cx) (t.cx.v[d]) (64 * j) 64) t), 0) := by
  simp only [bodyVsts, h, Res.bind, hheld, Bool.false_eq_true, if_false]

theorem bodyVscat_done (h : checkPieces (vecEnv m e s.cx).f.width (vecEnv m e s.cx).f.width
      ((activeLanes (vecEnv m e s.cx)).map (elemAddr e s.cx a b)) s = .ok gs t) (hheld : piecesHeld e.uid gs t = false) :
    bodyVscat d a b m e s = (.done (writePieces gs ((activeLanes (vecEnv m e s.cx)).map fun i =>
      (bytesOf (vecEnv m e s.cx).f.width (laneOf (vecEnv m e s.cx).f.width (t.cx.v[d]).toNat i)).map some) t), 0) := by
  simp only [bodyVscat, h, Res.bind, hheld, Bool.false_eq_true, if_false, withLane]

end

/-- Settles O19: an attempt whose pieces are read or checked completes (`bodyVld_done` and its neighbours), so its word leaves its queue. -/
theorem vectorMemory : Obligations.VectorMemory :=
  ⟨fun _ _ _ h => strided_get _ _ h,
    fun _ _ _ _ _ _ hs hok hread => vecRoute_done hs hok (by decide) rfl (bodyVld_done hread),
    fun _ _ _ _ _ _ _ hs hok hread => vecRoute_done hs hok (by decide) rfl (bodyVlds_done hread),
    fun _ _ _ _ _ _ _ hs hok hread => vecRoute_done hs hok (by decide) rfl (bodyVgath_done hread),
    fun _ _ _ _ _ _ hs hok hchk hheld => vecRoute_done hs hok (by decide) rfl (bodyVst_done hchk hheld),
    fun _ _ _ _ _ _ _ hs hok hchk hheld => vecRoute_done hs hok (by decide) rfl (bodyVsts_done hchk hheld),
    fun _ _ _ _ _ _ _ hs hok hchk hheld => vecRoute_done hs hok (by decide) rfl (bodyVscat_done hchk hheld)⟩

end Sys2Proof.Machine
end

section
namespace Sys2Proof.Machine

/-! ## Words that run at their routing -/

/-- A word of another queue than the arithmetic one that its routing checks let pass, and whose attempt completes, runs to what the attempt
leaves. -/
theorem RunsTo.of_body {q : Queue} {i : Instr} {rs : State → List (Fin 32)} {chk : State → Option Act} {atRoute : State → State}
    {ok : State → QEntry → State → Prop} {after : QEntry → State → State} {n : Nat} (body : QEntry → State → QAct)
    (hexec : ∀ s, exec i s = routeQ q i (rs s) chk atRoute body s)
    (hchk : ∀ s, ok s (entryOf q i s) (placedWord q i atRoute s) → chk s = none)
    (hbody : ∀ s, ok s (entryOf q i s) (placedWord q i atRoute s) →
      body (entryOf q i s) (placedWord q i atRoute s) = (.done (after (entryOf q i s) (placedWord q i atRoute s)), n))
    (hq : q ≠ .varith := by decide) (hfree : holdsControl i = false := by rfl) : RunsTo q i rs atRoute ok after := fun s hs hok =>
  (hexec s).trans (routeQ_done hs (hchk s hok) hfree hq (hbody s hok))

/-- The value at a place of a vector after a write of one place. -/
theorem getElem_set_fin {α : Type} {n : Nat} (v : Vector α n) (k j : Fin n) (x : α) : (v.set k x)[j] = if j = k then x else v[j] := by
  simp only [Fin.getElem_fin, Vector.getElem_set, Fin.ext_iff, eq_comm (a := j.val)]

/-! ## Zeroed rows and tiles (O23) -/

/-- A row of Z after a write of one row of Z. -/
theorem setV_row {d : Nat} (hd : d < 128) (x : Nat) (c : Ctx) (r : Fin 128) :
    (setV (Fin.ofNat 128 d) x c).v[r] = if r.val = d then BitVec.ofNat 6144 x else c.v[r] := by
  rw [setV_v, getElem_set_fin]
  simp only [Fin.ext_iff, Fin.val_ofNat, Nat.mod_eq_of_lt hd]

/-- Writing rows of Z is writing the first and then the others. -/
theorem setZ_cons (d x : Nat) (l : List Nat) (c : Ctx) : setZ d (x :: l) c = setZ (d + 1) l (setV (Fin.ofNat 128 d) x c) := by
  simp only [setZ, List.zipIdx_cons, List.zipIdx_succ, List.foldl_cons, List.foldl_map, Nat.add_zero, Nat.zero_add, Nat.add_assoc,
    Nat.add_comm 1]

/-- A row of Z after a write of rows that end within Z: the row written to it, or what it held. -/
theorem setZ_row (l : List Nat) {d : Nat} (c : Ctx) (r : Fin 128) (hd : d + l.length ≤ 128) :
    (setZ d l c).v[r] = if d ≤ r.val ∧ r.val < d + l.length then BitVec.ofNat 6144 (l.getD (r.val - d) 0) else c.v[r] := by
  induction l generalizing d c with
  | nil => exact (if_neg fun h => Nat.lt_irrefl d (h.1.trans_lt h.2)).symm
  | cons x l ih =>
    rw [List.length_cons] at hd ⊢
    rw [setZ_cons, ih _ (by omega), setV_row (by omega)]
    by_cases h : r.val = d
    · rw [if_neg (by omega), if_pos h, if_pos (by omega), h, Nat.sub_self, List.getD_cons_zero]
    · rw [if_neg h]
      refine ite_congr (propext (by omega)) (fun hr => ?_) fun _ => rfl
      rw [show r.val - d = r.val - (d + 1) + 1 by omega, List.getD_cons_succ]

/-- A tile register of no rows is a zero tile (R261). -/
theorem mkTile_nil : mkTile [] = {} := by
  simp [mkTile, Vector.ext_iff]

theorem zeroedRegisters : Sys2Proof.Parts.ZeroedRegisters := by
  refine ⟨fun d n c r h => ?_, fun t u s => ?_⟩
  · rw [setZ_row _ c r (by rw [List.length_replicate]; omega), List.length_replicate]
    refine ite_congr (propext (by omega)) (fun hr => ?_) fun _ => rfl
    rw [List.getD_replicate _ (by omega)]
    rfl
  · exact (getElem_set_fin s.cx.t t u (mkTile [])).trans (by rw [mkTile_nil])

/-! ## Tiles reshaped (O23) -/

/-- A conversion between formats that fit their shapes writes the converted tile and gathers its flags (R279). -/
theorem bodyMcvt_fits {d a : Fin 8} {sf df : MFmt} {rm : RmSel} {sat : Bool} {e : QEntry} {s : State} {x y : Fmt}
    (h : cvtFmts d a sf df e.cfg = some (x, y)) :
    let r := cvtTile x y (selRm rm e.cfg) sat (drawOf e.cfg.key.toNat e.cfg.ctr.toNat) (shCols (shOf e.cfg a))
      (tileRows s.cx.t[a] (shRows (shOf e.cfg a)))
    bodyMcvt d a sf df rm sat e s = (.done { setT d r.1 s with cx := addFlags r.2 (setT d r.1 s).cx }, 0) := by
  simp only [bodyMcvt, h]

theorem tileReshaping_completes : Sys2Proof.Parts.TileReshaping :=
  ⟨fun d n => .of_body (bodyMzero d n) (fun _ => rfl) (fun _ _ => rfl) fun _ _ => rfl,
    fun t => .of_body (bodyMzeroT t) (fun _ => rfl) (fun _ _ => rfl) fun _ _ => rfl,
    fun d a => .of_body (bodyMtrn d a) (fun _ => rfl) (fun _ h => need_pass h) fun _ _ => rfl,
    fun d a sf df rm sat x y => .of_body (bodyMcvt d a sf df rm sat) (fun _ => rfl)
      (fun _ h => need_pass (Option.isSome_iff_exists.mpr ⟨_, h⟩)) fun _ h => bodyMcvt_fits h,
    fun n code => .of_body bodyMfmt (fun _ => rfl) (fun _ _ => rfl) fun _ _ => rfl,
    fun n k v s => getElem_set_fin s.cx.cfg.fmt n k v⟩

/-- Settles O23: each word's attempt completes as soon as it is routed (`RunsTo.of_body`), and what MZERO and MZERO.t write is zero
(`setZ_row`, `mkTile_nil`). -/
theorem tileReshaping : Obligations.TileReshaping := ⟨tileReshaping_completes, zeroedRegisters⟩

end Sys2Proof.Machine
end

section
namespace Sys2Proof.Machine

/-! ## Draining Z and checking the array (O25) -/

/-- A store to the local window by a word changes its bytes of memory alone (R84). -/
theorem writeSegBy_window {g : Seg} (hg : g.own = true) (q : Nat) (e : Option QEntry) (bs : List Byte) (s : State) :
    writeSegBy q e g bs s = { s with mem := s.mem.write none g.pa bs } := if_pos hg

/-! ### MDRAIN (R280, R281) -/

/-- The state after one piece of a copy of MDRAIN, with its place behind the copy's first byte, has been written. -/
def drainPiece (base : W64) (s : State) (p : Nat × List Byte) : State :=
  writeSeg 4 { ty := 3, own := true, rdev := 0, pa := spadBase s.me + base.toNat + p.1, len := p.2.length, key := none,
               rkey := none, va := base.toNat + p.1 } p.2 s

theorem drainPiece_eq (base : W64) (s : State) (p : Nat × List Byte) :
    drainPiece base s p = { s with mem := s.mem.write none (spadBase s.me + base.toNat + p.1) p.2 } := by
  rw [drainPiece, writeSeg, writeSegBy_window rfl]

/-- The state after one copy of MDRAIN has been written, piece by piece, and its flags have been gathered. -/
def drainPut (base : W64) (x : List (Nat × List Byte) × Flg) (s : State) : State :=
  let s := x.1.foldl (drainPiece base) s
  { s with cx := addFlags x.2 s.cx }

/-- A drained copy changes memory and FLAGS alone. -/
theorem drainPut_eq (base : W64) (x : List (Nat × List Byte) × Flg) (s : State) :
    ∃ m f, drainPut base x s = { s with mem := m, cx := { s.cx with flags := f } } := by
  have hpieces : ∃ m, x.1.foldl (drainPiece base) s = { s with mem := m } := by
    refine List.foldlRecOn (motive := fun t => ∃ m, t = { s with mem := m }) x.1 _ ⟨s.mem, rfl⟩ fun t ht p _ => ?_
    obtain ⟨m, rfl⟩ := ht
    exact ⟨_, drainPiece_eq _ _ _⟩
  obtain ⟨m, hm⟩ := hpieces
  exact ⟨m, _, by rw [drainPut, hm]; rfl⟩

/-- MDRAIN completes, and changes memory and FLAGS alone. -/
theorem bodyMdrain_done (d : Fin 128) (a : Fin 32) (df : Fmt) (tr : Option DrainT) (rm : RmSel) (sat : Bool) (rows : Fin 128) (cols : BitVec 8)
    (e : QEntry) (s : State) :
    ∃ m f, bodyMdrain d a df tr rm sat rows cols e s = (.done { s with mem := m, cx := { s.cx with flags := f } }, 0) := by
  cases tr with
  | none =>
    obtain ⟨x, hput⟩ : ∃ x, bodyMdrain d a df none rm sat rows cols e s = (.done (drainPut (qs e a) x s), 0) := ⟨_, rfl⟩
    obtain ⟨m, f, h⟩ := drainPut_eq (qs e a) x s
    exact ⟨m, f, hput.trans (by rw [h])⟩
  | some t =>
    obtain ⟨x, y, hput⟩ : ∃ x y, bodyMdrain d a df (some t) rm sat rows cols e s
      = (.done (drainPut (qs e t.b) y (drainPut (qs e a) x s)), 0) := ⟨_, _, rfl⟩
    obtain ⟨m, f, h⟩ := drainPut_eq (qs e a) x s
    obtain ⟨m', f', h'⟩ := drainPut_eq (qs e t.b) y (drainPut (qs e a) x s)
    exact ⟨m', f', hput.trans (by rw [h', h])⟩

/-! ### MKAT and MWAIT (R271, R284) -/

/-- MKAT passes the array's check where the digest of its range is the constant of its label (R284). -/
theorem bodyMkat_matches {a b slot : Fin 32} {disp : BitVec 17} {e : QEntry} {s t : State} {l : Nat}
    (hf : fetchLine (mkatLabel e.pc disp).toNat s = .ok l t) (hk : lineKind l = 1)
    (hd : (sealDigest (t.mem.raw (spadBase t.me + (qs e a).toNat) (qs e b).toNat)).toNat
      = lineWord l slot.val + lineWord l (slot.val + 1) * 2 ^ 32) :
    bodyMkat a b disp slot e s = (.done (passCheck (quadOf t.me) t), 0) := by
  simp only [bodyMkat, hf, Res.bind, hk, hd, ne_eq, not_true_eq_false, if_false, if_true]

/-- MWAIT goes on at its first attempt where it waits for no gang lease, or the context holds none (R271). -/
theorem bodyMwait_done {g : Bool} {e : QEntry} {s : State} (h : g = false ∨ s.cx.lease.held = false ∨ s.cx.lease.gang = false) :
    bodyMwait g e s = (.done s, e.done) := by
  rcases h with h | h | h <;> simp [bodyMwait, h]

/-- MDRAIN is routed with its draws taken (R155, R280). -/
theorem exec_mdrain (d : Fin 128) (a : Fin 32) (df : Fmt) (tr : Option DrainT) (rm : RmSel) (sat : Bool) (rows : Fin 128) (cols : BitVec 8)
    (s : State) : exec (.mdrain d a df tr rm sat rows cols) s = routeQ .matrix (.mdrain d a df tr rm sat rows cols)
      (a :: (match tr with | some t => [t.b] | none => [])) (drainChk d a df tr rows cols)
      (fun s => takeDraws (drainDraws rm tr rows cols s.cx.cfg) s) (bodyMdrain d a df tr rm sat rows cols) s := rfl

/-- Settles O25: MDRAIN by what its copies change (`drainPut_eq`), MCHKN, MKAT and MWAIT by their attempts. -/
theorem drainAndChecks : Obligations.DrainAndChecks := by
  refine ⟨fun d a df tr rm sat rows cols s hs hc => ?_,
    fun a => .of_body (bodyMchkn a) (fun _ => rfl) (fun _ h => need_pass (decide_eq_true h)) fun _ _ => rfl,
    fun a b disp slot s p' l hs hc hf hk hd => routeQ_done hs hc rfl (by decide) (bodyMkat_matches hf hk hd),
    fun z g => .of_body (bodyMwait g) (fun _ => rfl) (fun _ _ => rfl) fun _ h => bodyMwait_done h⟩
  obtain ⟨m, f, hb⟩ := bodyMdrain_done d a df tr rm sat rows cols (entryOf .matrix (.mdrain d a df tr rm sat rows cols) s)
    (placedWord .matrix (.mdrain d a df tr rm sat rows cols) (fun s => takeDraws (drainDraws rm tr rows cols s.cx.cfg) s) s)
  exact ⟨_, hb, (exec_mdrain d a df tr rm sat rows cols s).trans (routeQ_done hs hc rfl (by decide) hb), rfl, rfl, fun _ _ => rfl⟩

end Sys2Proof.Machine
end

section
namespace Sys2Proof.Machine

/-! ## Beats within the local window (R32, R80, R83) -/

section
variable {q n a : Nat} {cls : AccCls} {s : State}

/-- The segment of bytes of the moving core's local window. -/
def windowSeg (s : State) (a n : Nat) : Seg :=
  { ty := 3, own := true, rdev := 0, pa := spadBase s.me + a, len := n, key := none, rkey := none, va := a }

/-- A task's part of the local window ends within it. -/
theorem spadPart_le (k : Nat) : (spadPart k).2 ≤ 0x180000 := by
  unfold spadPart
  split <;> decide

theorem InWindow.end_le (h : InWindow a n s) : a + n ≤ 0x180000 := h.2.trans (spadPart_le _)

/-- Bytes among bytes of the task's part lie in it. -/
theorem InWindow.mono {b k : Nat} (h : InWindow a n s) (hlo : a ≤ b) (hhi : b + k ≤ a + n) : InWindow b k s :=
  ⟨h.1.trans hlo, hhi.trans h.2⟩

/-- Which part of the window is the task's depends on the context's task alone. -/
theorem InWindow.congr {t : State} (h : InWindow a n s) (ht : t.cx.task = s.cx.task) : InWindow a n t := by
  have hspad : ctxSpad t.cx = ctxSpad s.cx := by simp only [ctxSpad, ht]
  simpa only [InWindow, hspad] using h

/-- The checks pass an access that lies in the task's part of the window, of a class that a scratchpad admits. -/
theorem checkAcc_window (perm : Perm) (h : InWindow a n s) (hn : 0 < n) (hcls : admits 3 cls = true) :
    checkAcc q s cls perm a n = (.ok [windowSeg s a n], s) := by
  have hend := h.end_le
  obtain ⟨hlo, hhi⟩ := h
  have hwin : checkWindow s (ctxSpad s.cx) cls a n = .ok [windowSeg s a n] := by
    simp only [checkWindow, if_neg (Nat.not_lt.mpr hend), if_neg (Nat.not_lt.mpr hlo), if_neg (Nat.not_lt.mpr hhi), hcls, Bool.not_true,
      Bool.false_eq_true, if_false, windowSeg]
  rw [checkAcc, check, if_neg (by omega), if_pos (by omega), hwin]

/-- Nothing is translated ahead for addresses below those that are mapped (R80, R415). -/
theorem prefetchPage_low {va : Nat} (h : va < 0x200000) : prefetchPage q va s = s := if_pos (.inl h)

/-- The page behind bytes of the window begins at its end at the latest. -/
theorem nextPage_window (down : Bool) (h : a + n ≤ 0x180000) : nextPage a n down < 0x200000 := by
  unfold nextPage
  split <;> omega

theorem access_window (perm : Perm) (down : Bool) (h : InWindow a n s) (hn : 0 < n) (hcls : admits 3 cls = true) :
    access q cls perm a n s down = .ok [windowSeg s a n] s := by
  simp [access, checkAcc_window perm h hn hcls, prefetchPage_low (nextPage_window down h.end_le), windowSeg]

/-- The local window is a target region of its own (R80). -/
theorem regionAt_window (h : a < 0x180000) : regionAt q s a = (.region (100, 0), s) := if_pos h

/-- Bytes below the end of the window are in the region of a command whose first byte is in the window. -/
theorem leavesRegion_window (c : Nat) {l : List (Nat × Nat)} (h : ∀ x ∈ l, x.1 < 0x180000) :
    leavesRegion q c (.region (100, 0)) l s = (false, s) := by
  induction l with
  | nil => rfl
  | cons x l ih =>
    obtain ⟨hx, hl⟩ := List.forall_mem_cons.mp h
    simp [leavesRegion, regionAt_window hx, oneRun, ih hl]

/-- A slice of some bytes begins before their end. -/
theorem slices_lt {va : Nat} (hn : 0 < n) : ∀ x ∈ slices va n, x.1 < va + n := by
  intro x hx
  obtain ⟨i, hi, rfl⟩ := List.mem_map.mp hx
  have hi := List.mem_range.mp hi
  exact Nat.max_lt.mpr ⟨by omega, by omega⟩

/-- A beat within the task's part of the window, of a command that begins in the window, is that segment. -/
theorem beatAccess_window {c va : W64} (perm : Perm) (hc : c.toNat < 0x180000) (h : InWindow va.toNat n s) (hn : 0 < n) :
    beatAccess q c perm va n s = .ok [windowSeg s va.toNat n] s := by
  have hslices : ∀ x ∈ slices va.toNat n, x.1 < 0x180000 := fun x hx => (slices_lt hn x hx).trans_le h.end_le
  simp only [beatAccess, regionAt_window hc, leavesRegion_window c.toNat hslices]
  exact access_window perm _ h hn rfl

/-- A store of a segment of the window puts its bytes there. -/
theorem writeSegs_window (q : Nat) (bs : List Byte) (h : bs.length ≤ n) : writeSegs q [windowSeg s a n] bs s = windowPut a bs s := by
  have htake : bs.take (windowSeg s a n).len = bs := List.take_of_length_le h
  simp only [writeSegs, mergeHost, writeSegsBy, htake, writeSegBy_window (g := windowSeg s a n) rfl]
  rfl

/-- A read of a segment of the window gives its bytes. -/
theorem readSegs_window (q : Nat) : readSegs q [windowSeg s a n] s = .ok (windowRaw s a n) s := by
  simp [readSegs, mergeHost, Res.mapM, Res.andThen, readSeg, windowSeg, windowRaw]

/-- No release holds a store to the window (R98). -/
theorem storeHeld_window (u : Nat) : storeHeld u [windowSeg s a n] s = false := rfl

/-- Beats that all complete, each in a state with `P`, come to their effects one after another. -/
theorem runBeats_foldl {α : Type} {f : α → State → Act} {g : State → α → State} {P : State → Prop} {l : List α}
    (h : ∀ x ∈ l, ∀ t, P t → f x t = .done (g t x) ∧ P (g t x)) {k n : Nat} {s : State} (hs : P s) (hn : k + l.length = n) :
    runBeats f l k s = (.done (l.foldl g s), n) := by
  induction l generalizing k s with
  | nil => exact congrArg _ hn
  | cons x l ih =>
    obtain ⟨hx, hl⟩ := List.forall_mem_cons.mp h
    obtain ⟨hf, hP⟩ := hx s hs
    rw [List.length_cons] at hn
    rw [runBeats, hf]
    exact ih hl hP (by omega)

end

end Sys2Proof.Machine
end

section
namespace Sys2Proof.Machine

/-! ## The gauge stage (O30) -/

/-! ### Routing checks -/

theorem firstOf_pass {l : List (State → Option Act)} {s : State} (h : ∀ f ∈ l, f s = none) : firstOf l s = none :=
  List.findSome?_eq_none_iff.mpr h

theorem firstOf_fail {f : State → Option Act} (l : List (State → Option Act)) {s : State} {x : Act} (h : f s = some x) :
    firstOf (f :: l) s = some x := by
  simp only [firstOf, List.findSome?_cons, h]

theorem gaugeOn_pass {s : State} (h : gK s.cx.cfg ≠ 0) : gaugeOn s = none := need_pass (bne_iff_ne.mpr h)

theorem gaugeOn_fail {s : State} (h : gK s.cx.cfg = 0) : gaugeOn s = some (illegal s.cx.pc s) := need_fail (by simp [h])

/-- A gauge word with a check of its own behind that of K passes where both hold (R285). -/
theorem gaugeChecks_pass {b : State → Bool} {s : State} (hk : gK s.cx.cfg ≠ 0) (hb : b s = true) : firstOf [gaugeOn, need b] s = none :=
  firstOf_pass (by simp [gaugeOn_pass hk, need_pass hb])

theorem alignChk_pass {a : Fin 32} {n : Nat} {s : State} (h : (sget s.cx a).toNat % n = 0) : alignChk a n s = none := if_neg (not_not.mpr h)

theorem alignChk_fail {a : Fin 32} {n : Nat} {s : State} (h : (sget s.cx a).toNat % n ≠ 0) :
    alignChk a n s = some (.trap cALIGN (sget s.cx a) 0 s) := if_pos h

/-! ### Configuration (R285 to R287) -/

/-- The fields of what GCFG writes: LIVE is the old one (R286). -/
theorem gcfgWord_fields {k bw : BitVec 7} {f : BitVec 4} {old v : W64} (h : gcfgWord k bw f old = some v) :
    bits v 4 0 = k.toNat ∧ bits v 11 8 = bw.toNat ∧ bits v 19 12 = bits old 19 12 ∧ bits v 23 20 = f.toNat := by
  obtain ⟨⟨hk, hbw, -⟩, hv⟩ := Option.ite_none_right_eq_some.mp h
  obtain rfl := Option.some.inj hv
  have hlive : bits old 19 12 < 2 ^ 8 := bits_lt old 19 12
  have hf := f.isLt
  generalize bits old 19 12 = live at hlive ⊢
  have hw : (fields [(f.toNat, 20), (live, 12), (bw.toNat, 8), (k.toNat, 0)]).toNat
      = f.toNat * 2 ^ 20 + live * 2 ^ 12 + bw.toNat * 2 ^ 8 + k.toNat := by
    simp only [fields, List.foldl_cons, List.foldl_nil, BitVec.toNat_ofNat]
    omega
  simp only [bits, hw]
  omega

theorem gaugeConfiguration : Sys2Proof.Parts.GaugeConfiguration :=
  ⟨fun k bw f => .of_body bodyGcfg (fun _ => rfl) (fun _ h => need_pass h) fun _ _ => rfl, fun _ _ _ _ _ => gcfgWord_fields,
    fun a b => .of_body (bodyGplane a b) (fun _ => rfl) (fun _ h => gaugeOn_pass h) fun _ _ => rfl,
    fun k bw f s hr h => routeQ_refused hr (need_fail (by rw [h]; rfl))⟩

/-! ### The words on rows (R288 to R293) -/

theorem bodyGpack_done {d a : Fin 8} {b : Fin 128} {e : QEntry} {s : State}
    (h : packOk (shRows (shOf e.cfg a)) (lanes32 s.cx.v[b]) (liveLanes (s.cx.v[b.val - 1]?.getD 0).toNat) = true) :
    let rows := ((lanes32 s.cx.v[b]).take (shRows (shOf e.cfg a))).mapIdx fun j l =>
      packRow e.cfg s.cx.t[a] (shOf e.cfg a) (liveLanes (s.cx.v[b.val - 1]?.getD 0).toNat) l j
    bodyGpack d a b e s
      = (.done (setT d (rows.map fun x => (x.1, 0)) { s with cx := addFlags (rows.foldl (fun fl x => fl ||| x.2) 0) s.cx }), 0) := by
  simp only [bodyGpack, h, Bool.not_true, Bool.false_eq_true, if_false]

theorem bodyGscat_done {d a b : Fin 128} {e : QEntry} {s : State}
    (h : ∀ m ∈ liveLanes (s.cx.v[b]).toNat, d.val + m.1 ≤ 127 ∧ a.val + m.2 ≤ 127) :
    bodyGscat d a b e s = (.done { s with
      cx := (liveLanes (s.cx.v[b]).toNat).foldl
        (fun c m => setV (Fin.ofNat 128 (d.val + m.1)) (s.cx.v[a.val + m.2]?.getD 0).toNat c) s.cx }, 0) := by
  refine if_neg fun hbad => ?_
  obtain ⟨m, hm, hout⟩ := List.any_eq_true.mp hbad
  have hin := h m hm
  simp only [Bool.or_eq_true, decide_eq_true_eq] at hout
  omega

/-- The buckets whose sums lie within Z are at most as many as rows are left there. -/
theorem buckets_within {d : Nat} {l : List (Nat × Nat)} (hd : d ≤ 128) (h : ∀ m ∈ l, d + m.2 < 128) :
    d + l.foldl (fun n m => Nat.max n (m.2 + 1)) 0 ≤ 128 :=
  List.foldlRecOn (motive := fun n => d + n ≤ 128) l _ hd fun n hn m hm => by
    have hm := h m hm
    show d + max n (m.2 + 1) ≤ 128
    omega

/-- Rows and buckets that GGSUM names within Z give no fault (R293). -/
theorem ggsum_inRange {d a : Fin 128} {l : List (Nat × Nat)} (h : ∀ m ∈ l, a.val + m.1 ≤ 127 ∧ d.val + m.2 < 128) :
    ((l.any fun m => 127 < a.val + m.1) || 128 < d.val + l.foldl (fun n m => Nat.max n (m.2 + 1)) 0) = false := by
  have hrows : (l.any fun m => decide (127 < a.val + m.1)) = false :=
    List.any_eq_false.mpr fun m hm => by simpa using (h m hm).1
  have hbuckets := buckets_within (Nat.le_of_lt d.isLt) fun m hm => (h m hm).2
  rw [hrows, Bool.false_or]
  exact decide_eq_false (Nat.not_lt.mpr hbuckets)

theorem gaugeWords : Sys2Proof.Parts.GaugeWords :=
  ⟨fun d a => .of_body (bodyGhash d a) (fun _ => rfl) (fun _ ⟨hk, hf⟩ => gaugeChecks_pass hk hf) fun _ _ => rfl,
    fun d a t rule => .of_body (bodyGrep d a t rule) (fun _ => rfl) (fun _ ⟨hk, hf⟩ => gaugeChecks_pass hk hf) fun _ _ => rfl,
    fun d a b => .of_body (bodyGpack d a b) (fun _ => rfl) (fun _ ⟨hk, hb, hf, hsh, _⟩ => gaugeChecks_pass hk (by simp [hb, hf, hsh]))
      fun _ ⟨_, _, _, _, hok⟩ => bodyGpack_done hok,
    fun d a b => .of_body (bodyGscat d a b) (fun _ => rfl) (fun _ ⟨hk, _⟩ => gaugeOn_pass hk) fun _ ⟨_, h⟩ => bodyGscat_done h,
    fun d a b => .of_body (bodyGgsum d a b) (fun _ => rfl) (fun _ ⟨hk, _⟩ => gaugeOn_pass hk) fun _ ⟨_, h⟩ =>
      if_neg (Bool.eq_false_iff.mp (ggsum_inRange h)),
    fun d a s hr hk => routeQ_refused hr (firstOf_fail _ (gaugeOn_fail hk))⟩

/-! ### The maps (R294) -/

theorem gaugeMaps : Sys2Proof.Parts.GaugeMaps :=
  ⟨fun _ _ _ _ _ hs hal hb => routeQ_done hs (alignChk_pass hal) rfl (by decide) hb,
    fun _ _ _ _ _ hs hal hb => routeQ_done hs (alignChk_pass hal) rfl (by decide) hb,
    fun _ _ _ hr hal => ⟨routeQ_refused hr (alignChk_fail hal), routeQ_refused hr (alignChk_fail hal)⟩⟩

section
variable {a : Fin 32} {m : Fin 128} {e : QEntry} {s : State}

/-- Beat k of a map lies 64 × k bytes behind its first byte. -/
theorem mapBeat_toNat {x : W64} {k : Nat} (h : x.toNat + 1536 ≤ 0x180000) (hk : k < 24) : (mapBeat x k).toNat = x.toNat + 64 * k := by
  rw [mapBeat, BitVec.toNat_add_of_lt] <;> rw [BitVec.toNat_ofNat] <;> omega

/-- Each beat of a map within the task's part of the window, in a state of the same task, passes its checks. -/
theorem mapBeat_access {x : W64} {t : State} {k : Nat} (perm : Perm) (h : InWindow x.toNat 1536 s) (ht : t.cx.task = s.cx.task) (hk : k < 24) :
    beatAccess 6 x perm (mapBeat x k) 64 t = .ok [windowSeg t (x.toNat + 64 * k) 64] t := by
  have hend := h.end_le
  have hbeat := mapBeat_toNat hend hk
  rw [beatAccess_window perm (by omega) (by rw [hbeat]; exact (h.mono (by omega) (by omega)).congr ht) (by decide), hbeat]

/-- GMAP within the window writes the 24 blocks of the two rows. -/
theorem bodyGmap_window (he : e.done = 0) (h : InWindow (qs e a).toNat 1536 s) :
    bodyGmap a m e s = (.done ((List.range 24).foldl (fun u k =>
      windowPut ((qs e a).toNat + 64 * k) (((mapBytes s.cx m).drop (64 * k)).take 64) u) s), 24) := by
  rw [bodyGmap, he, List.drop_zero]
  refine runBeats_foldl (P := fun t => t.cx = s.cx) (l := List.range 24) ?_ rfl rfl
  refine fun k hk t ht => ⟨?_, ht⟩
  rw [mapBeat_access .wr h (by rw [ht]) (List.mem_range.mp hk)]
  simp only [Res.bind, storeHeld_window, Bool.false_eq_true, if_false, ht]
  rw [writeSegs_window 6 _ (List.length_take_le _ _)]

/-- GLMAP within the window reads the 24 blocks of the two rows. -/
theorem bodyGlmap_window (he : e.done = 0) (h : InWindow (qs e a).toNat 1536 s) :
    bodyGlmap a m e s = (.done ((List.range 24).foldl (fun u k =>
      { u with cx := setV (Fin.ofNat 128 (m.val + k / 12)) (putBlock (u.cx.v[m.val + k / 12]?.getD 0) (k % 12)
        (windowRaw s ((qs e a).toNat + 64 * k) 64)).toNat u.cx }) s), 24) := by
  rw [bodyGlmap, he, List.drop_zero]
  refine runBeats_foldl (P := fun t => t.cx.task = s.cx.task ∧ t.me = s.me ∧ t.mem = s.mem) (l := List.range 24) ?_ ⟨rfl, rfl, rfl⟩ rfl
  refine fun k hk t ⟨htask, hme, hmem⟩ => ⟨?_, htask, hme, hmem⟩
  rw [mapBeat_access .rd h htask (List.mem_range.mp hk)]
  simp only [Res.bind, readSegs_window, windowRaw, hme, hmem]

end

theorem gaugeMapsComplete : Sys2Proof.Parts.GaugeMapsComplete := fun _ _ _ hal hwin =>
  ⟨fun hs => routeQ_done hs (alignChk_pass hal) rfl (by decide) (bodyGmap_window rfl hwin),
    fun hs => routeQ_done hs (alignChk_pass hal) rfl (by decide) (bodyGlmap_window rfl hwin)⟩

/-- Settles O30: the fields of GCFG0 (`gcfgWord_fields`), the attempts on rows that their checks let pass, and the maps' beats one after
another (`runBeats_foldl`). -/
theorem gauge : Obligations.Gauge := ⟨gaugeConfiguration, gaugeWords, gaugeMaps, gaugeMapsComplete⟩

end Sys2Proof.Machine
end

section
namespace Sys2Proof.Machine

/-! ## System words -/

variable {rs : List (Fin 32)} {body : State → Act} {s u : State} {x : Act}

/-- A system word in privileged mode, outside a replayable task, leaves what its body comes to (R355). -/
theorem sysWord_body (hr : Ready rs s) (hp : s.cx.pr.priv = true) (hn : replayable s = false) (hb : body s = x) :
    sysWord rs body s = .next (finish s x) := by
  rw [sysWord, hp, hn]
  exact ctl_body hr hb

/-- Such a word whose body completes. -/
theorem sysWord_done (hr : Ready rs s) (hp : s.cx.pr.priv = true) (hn : replayable s = false) (hb : body s = .done u) :
    sysWord rs body s = .next (complete u) :=
  sysWord_body hr hp hn hb

/-- A system word that is ILLEGAL by itself is so in a replayable task too (R355). -/
theorem sysWord_illegal (hr : Ready rs s) (hp : s.cx.pr.priv = true) (hb : body s = illegal s.cx.pc s) :
    sysWord rs body s = .next (finish s (illegal s.cx.pc s)) := by
  cases hn : replayable s with
  | false => exact sysWord_body hr hp hn hb
  | true =>
    rw [sysWord, hp, hn]
    rfl

end Sys2Proof.Machine
end

section
namespace Sys2Proof.Machine

/-! ## Returning from an exception (O14) -/

variable {s : State}

/-- A field of one bit is set where its bit is. -/
theorem bits_single_beq_one (v : W64) (k : Nat) : (bits v k k == 1) = v.getLsbD k := by
  rw [bits, Nat.sub_self, BitVec.getLsbD, Nat.testBit_eq_decide_div_mod_eq, beq_eq_decide]
  rfl

theorem sretBody_outside (h : s.cx.pr.intrap = false) : sretBody s = illegal s.cx.pc s := by
  rw [sretBody, h]
  rfl

/-- With ACTION 0, once the other member of a pair has returned, the handler is left for TNPC (R337, R350). -/
theorem sretBody_retry (hin : s.cx.pr.intrap = true) (hpair : pairReturned s = true) (ha : sretAction s = 0) :
    sretBody s = .left (leaveTo false s.cx.pr.tnpc s) := by
  rw [sretBody, hin, hpair, ha]
  rfl

/-- A task without another member waits for none and takes its own action. -/
theorem sret_alone (h : otherMember s = none) : pairReturned s = true ∧ sretAction s = bits s.cx.pr.tret 1 0 := by
  rw [pairReturned, sretAction, h]
  exact ⟨rfl, rfl⟩

/-- Settles O14: SRET outside a handler is ILLEGAL (`sretBody_outside`), and with ACTION 0 it is `leaveTo` at TNPC (`sretBody_retry`), which
changes the moving context alone. -/
theorem returnFromException : Obligations.ReturnFromException :=
  ⟨fun s hp hin => sysWord_illegal (ready_nil s) hp (sretBody_outside hin),
    fun s hp hn hin hpair ha => ⟨leaveTo false s.cx.pr.tnpc s, sysWord_body (ready_nil s) hp hn (sretBody_retry hin hpair ha), rfl, rfl,
      bits_single_beq_one _ 30, rfl, rfl, rfl, ⟨rfl, rfl, rfl⟩, ⟨rfl, rfl, rfl⟩, sameDevice_of_cx s _ _⟩,
    fun _ => sret_alone⟩

end Sys2Proof.Machine
end

section
namespace Sys2Proof.Machine

/-! ## Saving and loading contexts (O36) -/

variable {a b : Fin 32} {s s1 : State} {pa : Nat} {c d : Ctx}

theorem leaveLease_me (core : Nat) (c : Ctx) (keep : Bool) (s : State) : (leaveLease core c keep s).me = s.me := by
  unfold leaveLease
  split
  · exact endLease_me _ _
  · rfl

/-! ### CTXSAVE -/

theorem ctxsaveBody_empty (hi : imageSlot (sget s.cx b) .wr s = .ok pa s1) (hb : s1.co.standby = none) :
    ctxsaveBody a b s = .done (wr s1 a 0) := by
  simp only [ctxsaveBody, hi, Res.bind, hb]

/-- A task that has never run goes back to the deque. -/
theorem ctxsaveBody_unstarted {t : TaskRun} (hi : imageSlot (sget s.cx b) .wr s = .ok pa s1) (hb : s1.co.standby = some c)
    (ht : c.task = some t) (hst : t.started = none) : ctxsaveBody a b s = .done (wr (unloadStandby s1.me s1) a 0) := by
  simp only [ctxsaveBody, hi, Res.bind, hb, ht, hst, Option.isNone_none, if_true]

/-- What CTXSAVE leaves of a context `d` that has given up its lease, but for the register: its image in the slot and its bank free, with
the choice of the image's length used up. -/
def contextSaved (core : Nat) (d : Ctx) (pa : Nat) (u : State) : Nat × State :=
  let r := takeFree (writeImage u { d with task := d.task.map fun t => { t with preload := false } } core pa true).2
  (r.1, { r.2 with co := { r.2.co with standby := none } })

/-- The length that CTXSAVE gives for a choice of one (log 16). -/
def imageBytes (k : Nat) : Nat := 2 + Config.imageLength k % (2 ^ 22 - 1)

theorem imageBytes_bounds (k : Nat) : 2 ≤ imageBytes k ∧ imageBytes k ≤ 2 ^ 22 := by
  have h := Nat.mod_lt (Config.imageLength k) (show 0 < 2 ^ 22 - 1 by decide)
  unfold imageBytes
  omega

/-- Any other context is written to the slot, once its lease is given up. -/
theorem ctxsaveBody_saves (hi : imageSlot (sget s.cx b) .wr s = .ok pa s1) (hb : s1.co.standby = some c)
    (ht : ∀ t, c.task = some t → t.started.isSome = true) (hd : (leaveLease s1.me c false s1).co.standby = some d) :
    let r := contextSaved s1.me d pa (leaveLease s1.me c false s1)
    ctxsaveBody a b s = .done (wr r.2 a (BitVec.ofNat 64 (imageBytes r.1))) := by
  simp only [ctxsaveBody, hi, Res.bind, hb, hd, Option.getD_some, leaveLease_me]
  cases hc : c.task with
  | none => rfl
  | some t => exact if_neg (Bool.eq_false_iff.mp (Option.isNone_eq_false_iff.mpr (ht t hc)))

/-! ### CTXLOAD -/

theorem ctxloadBody_occupied (hi : imageSlot (sget s.cx b) .rd s = .ok pa s1)
    (h : s1.co.standby.isSome = true ∨ bankOut s1 s1.me (!s1.co.bank) = true) : ctxloadBody a b s = .done (wr s1 a 1) := by
  simp only [ctxloadBody, hi, Res.bind, Bool.or_eq_true]
  exact if_pos h

theorem ctxloadBody_noImage (hi : imageSlot (sget s.cx b) .rd s = .ok pa s1) (hs : s1.co.standby = none)
    (ho : bankOut s1 s1.me (!s1.co.bank) = false) (hf : s1.dist.images.find? (·.addr == pa) = none) :
    ctxloadBody a b s = .done (wr s1 a 2) := by
  simp only [ctxloadBody, hi, Res.bind, hs, ho, hf, Option.isSome_none, Bool.or_self, Bool.false_eq_true, if_false]

/-- What CTXLOAD leaves of an image, but for the register: its slot free and its context in the standby bank, to be selected (R126). -/
def contextLoaded (i : Image) (p : State) : State :=
  let q := { p with dist := { p.dist with images := p.dist.images.filter (·.id != i.id) } }
  let r := reissue (deliverAll i.ctx) (putSpad q.me i.spad (ctxSpad i.ctx) q)
  let c := refresh { r.1 with task := (r.1.task.map fun t => { t with preload := true }) } r.2.mem
  { r.2 with co := { r.2.co with standby := some c } }

theorem ctxloadBody_loads {i : Image} (hi : imageSlot (sget s.cx b) .rd s = .ok pa s1) (hs : s1.co.standby = none)
    (ho : bankOut s1 s1.me (!s1.co.bank) = false) (hf : s1.dist.images.find? (·.addr == pa) = some i) :
    let p := purgeWaiting (fun w => w.image != some i.id) s1
    versionKnown p i.addr = true → imageReadable p i.id = true → asidBound p i.ctx.pr.asid = true → restorable i.ctx p = true →
    ctxloadBody a b s = .done (wr (contextLoaded i p) a 0) := by
  intro p hv hr hasid hrest
  simp only [ctxloadBody, hi, Res.bind, hs, ho, hf, Option.isSome_none, Bool.or_self, Bool.false_eq_true, if_false]
  simp only [hv, hr, hasid, hrest, p, Bool.not_true, Bool.false_eq_true, if_false]
  rfl

/-- Settles O36: each case of CTXSAVE and CTXLOAD is one branch of its body, once the slot has been checked. -/
theorem contextImages : Obligations.ContextImages := by
  intro a b s s1 pa hr hp hn
  refine ⟨fun hi => ⟨fun hb => sysWord_done hr hp hn (ctxsaveBody_empty hi hb),
      fun c t hb ht hst => sysWord_done hr hp hn (ctxsaveBody_unstarted hi hb ht hst), fun c d hb ht hd => ?_⟩,
    fun hi => ⟨fun h => sysWord_done hr hp hn (ctxloadBody_occupied hi h), fun hs ho hf => sysWord_done hr hp hn (ctxloadBody_noImage hi hs ho hf),
      fun i hs ho hf hv hread hasid hrest => sysWord_done hr hp hn (ctxloadBody_loads hi hs ho hf hv hread hasid hrest)⟩⟩
  obtain ⟨hlo, hhi⟩ := imageBytes_bounds (contextSaved s1.me d pa (leaveLease s1.me c false s1)).1
  exact ⟨_, hlo, hhi, sysWord_done hr hp hn (ctxsaveBody_saves hi hb ht hd)⟩

end Sys2Proof.Machine
end

section
namespace Sys2Proof.Machine

/-! ## Translations and ASIDs (O37) -/

variable {a b c : Fin 32} {s s1 s2 : State} {asid : BitVec 16} {range : Option (Nat × Nat)} {e : TlbEnt}

/-- The ASID that a word's register names. -/
abbrev asidIn (a : Fin 32) (s : State) : BitVec 16 := (sget s.cx a).setWidth 16

/-! ### TLBINV (R358, R416) -/

theorem mem_dropTlb (h : e ∈ (dropTlb asid range s).xl.tlb) : e ∈ s.xl.tlb := (List.mem_filter.mp h).1

/-- The translations of another ASID stay. -/
theorem mem_dropTlb_other (h : e ∈ s.xl.tlb) (hne : e.asid ≠ asid) : e ∈ (dropTlb asid range s).xl.tlb :=
  List.mem_filter.mpr ⟨h, by simp [hne]⟩

theorem dropTlb_all_tlb (h : e ∈ (dropTlb asid none s).xl.tlb) : e.asid ≠ asid := by
  simpa using (List.mem_filter.mp h).2

theorem dropTlb_all_ptrs {p : PtrEnt} (h : p ∈ (dropTlb asid none s).xl.ptrs) : p.asid ≠ asid := by
  simpa using (List.mem_filter.mp h).2

/-- No translation of the ASID that covers the first byte of a range stays. -/
theorem not_mem_dropTlb_range {va n : Nat} (ha : e.asid = asid) (hn : 0 < n) (hlo : e.page * 2 ^ 16 ≤ va)
    (hhi : va < (e.page + e.pages) * 2 ^ 16) : e ∉ (dropTlb asid (some (va, n)) s).xl.tlb := by
  intro hmem
  have hstays := (List.mem_filter.mp hmem).2
  simp only [ha, beq_self_eq_true, Bool.true_and, Bool.not_eq_true', Bool.and_eq_false_iff, decide_eq_false_iff_not] at hstays
  omega

@[simp] theorem dropTlb_cx (asid : BitVec 16) (range : Option (Nat × Nat)) (s : State) : (dropTlb asid range s).cx = s.cx := rfl

@[simp] theorem bindOf_dropTlb (asid k : BitVec 16) (range : Option (Nat × Nat)) (s : State) :
    bindOf (dropTlb asid range s).xl k = bindOf s.xl k := rfl

/-- TLBINV of a legal range completes where no access is outstanding and no holder has to be told. -/
theorem tlbinvBody_done {all pod : Bool} (hasid : (sget s.cx a).toNat < 2 ^ 16)
    (hrange : all = true ∨ ((sget s.cx c).toNat ≠ 0 ∧ (sget s.cx b).toNat + (sget s.cx c).toNat ≤ 2 ^ 52))
    (hw : s.cx.fl.wait = .none) :
    let t := dropTlb (asidIn a s) (if all then none else some ((sget s.cx b).toNat, (sget s.cx c).toNat)) s
    farAccess t (asidIn a s) = false →
    (∀ e, bindOf s.xl (asidIn a s) = some e → pod = false ∨ holders t e = []) →
    tlbinvBody a b c all pod s = .done t := by
  intro t hfar hhold
  have hlegal : ¬ (2 ^ 16 ≤ (sget s.cx a).toNat ∨ (!all && ((sget s.cx c).toNat == 0 || 2 ^ 52 < (sget s.cx c).toNat
      || 2 ^ 52 < (sget s.cx b).toNat + (sget s.cx c).toNat)) = true) := by
    rcases hrange with rfl | ⟨hn, hend⟩
    · simpa using hasid
    · simp only [not_or, Bool.and_eq_true, Bool.or_eq_true, beq_iff_eq, decide_eq_true_eq]
      omega
  rw [tlbinvBody]
  dsimp only
  rw [if_neg hlegal]
  simp only [bindOf_dropTlb, dropTlb_cx, hw]
  cases hb : bindOf s.xl (asidIn a s) with
  | none => exact if_neg (Bool.eq_false_iff.mp hfar)
  | some e =>
    have hnone : (pod && !(holders t e).isEmpty) = false := by
      rcases hhold e hb with h | h <;> simp [h]
    simp only [t] at hnone hfar
    simp only [hnone, hfar, Bool.false_and, Bool.false_eq_true, if_false, t]

/-! ### ASIDBIND (R362, R420) -/

/-- A descriptor of ASIDBIND whose fields are legal (R362). -/
def LegalDescriptor (bs : List Byte) (m : Memory) : Prop :=
  let root := (winWord bs 0).toNat
  root < 2 ^ 44 ∧ (winWord bs 1).toNat < 2 ^ 52 ∧ bits (winWord bs 2) 62 52 = 0 ∧ winWord bs 3 = 0 ∧ root % 8192 = 0
    ∧ (inHbm m.partU root || inHbmP m.partU root) = true

/-- What a descriptor and its holder mask bind an ASID to. -/
def boundBy (asid : BitVec 16) (bs ms : List Byte) : AsidEnt :=
  ⟨asid, false, (winWord bs 0).toNat, BitVec.ofNat 1024 (natOf ms), winWord bs 1, (winWord bs 2).getLsbD 63, [], 0⟩

/-- ASIDBIND with a legal descriptor is ASID_STATE for an ASID that is bound, and else binds it. -/
theorem asidbindBody_legal {bs ms : List Byte} (h0 : asidIn a s ≠ 0)
    (hd : windowBytes (sget s.cx b) 32 false s = .ok bs s1) (hl : LegalDescriptor bs s1.mem)
    (hm : windowBytes (BitVec.ofNat 64 (bits (winWord bs 2) 51 0)) 128 false s1 = .ok ms s2) :
    asidbindBody a b s = if (bindOf s2.xl (asidIn a s)).isSome then .trap cASID s2.cx.pc 0 s2
      else .done { s2 with xl := { s2.xl with asids := boundBy (asidIn a s) bs ms :: s2.xl.asids } } := by
  obtain ⟨hroot, htv, hzero, hlast, halign, hhbm⟩ := hl
  simp only [asidbindBody, if_neg h0, hd, Res.bind, hzero, hlast, halign, hhbm, hm, Nat.not_le.mpr hroot, Nat.not_le.mpr htv, ne_eq,
    not_true_eq_false, Bool.not_true, Bool.false_eq_true, or_self, if_false]
  rfl

/-! ### ASIDRET (R421) -/

theorem asidretBody_free (h0 : asidIn a s ≠ 0) (hb : bindOf s.xl (asidIn a s) = none) : asidretBody a s = .trap cASID s.cx.pc 0 s := by
  simp only [asidretBody, if_neg h0, hb]

section
variable {x : AsidEnt} (h0 : asidIn a s ≠ 0) (hb : bindOf s.xl (asidIn a s) = some x)
include h0 hb

theorem asidretBody_running (hrun : (banks s).any (fun b => b.2.2.pr.asid == asidIn a s) = true) :
    asidretBody a s = .trap cASID s.cx.pc 0 s := by
  simp only [asidretBody, if_neg h0, hb, hrun, if_true]

/-- A bound ASID without a running task retires, where its holders can be told. -/
theorem asidretBody_retires (hrun : (banks s).any (fun b => b.2.2.pr.asid == asidIn a s) = false) (hret : x.retiring = false)
    (hup : holders s x = [] ∨ chanUp s 6 = true) : asidretBody a s = .done (retireAsid (asidIn a s) s) := by
  have htold : (!(holders s x).isEmpty && !chanUp s 6) = false := by
    rcases hup with h | h <;> simp [h]
  simp only [asidretBody, if_neg h0, hb, hrun, hret, htold, Bool.not_false, Bool.true_and, Bool.false_eq_true, if_false]

end

/-- Settles O37: TLBINV by what its filter keeps and drops (`mem_dropTlb` and its neighbours), ASIDBIND by `asidbindBody_legal`, and each case of
ASIDRET as one branch of its body. -/
theorem translationWords : Obligations.TranslationWords := by
  refine ⟨fun a b c all pod s hr hp hn hasid hrange hw hfar hhold => sysWord_done hr hp hn (tlbinvBody_done hasid hrange hw hfar hhold),
    fun asid range s => ⟨fun _ => mem_dropTlb, fun _ => dropTlb_all_tlb, fun _ => dropTlb_all_ptrs, fun _ => mem_dropTlb_other,
      fun _ _ _ _ ha hn hlo hhi => not_mem_dropTlb_range ha hn hlo hhi⟩,
    fun a b s s1 s2 bs ms hr hp hn h0 hd hroot htv hzero hlast halign hhbm hm => ?_,
    fun a s e hr hp hn h0 => ⟨fun hb => sysWord_body hr hp hn (asidretBody_free h0 hb),
      fun hb hrun => sysWord_body hr hp hn (asidretBody_running h0 hb hrun),
      fun hb hrun hret hup => sysWord_done hr hp hn (asidretBody_retires h0 hb hrun hret hup)⟩⟩
  have hbody := asidbindBody_legal h0 hd ⟨hroot, htv, hzero, hlast, halign, hhbm⟩ hm
  exact ⟨fun hfree => sysWord_done hr hp hn (hbody.trans (if_neg (by rw [hfree]; decide))),
    fun hbound => sysWord_body hr hp hn (hbody.trans (if_pos hbound))⟩

end Sys2Proof.Machine
end

section
namespace Sys2Proof.Machine

/-! ## Keys and ownership (O38) -/

variable {a b : Fin 32} {s s1 : State} {bs : List Byte}

/-- Reading the window changes nothing. -/
theorem windowBytes_state {v : W64} {n : Nat} {wr : Bool} (h : windowBytes v n wr s = .ok bs s1) : s1 = s := by
  unfold windowBytes at h
  dsimp only at h
  split at h
  · cases h
  · split at h
    · cases h
    · split at h
      · cases h
      · exact (Res.ok.inj h).2.symm

theorem keyldBody_loads (hid : (sget s.cx a).toNat < 1024) (hk : assoc s.xl.keys (sget s.cx a).toNat = none)
    (hw : windowBytes (sget s.cx b) 64 true s = .ok bs s1) :
    keyldBody a b s = .done { s1 with
      xl := { s1.xl with keys := ((sget s.cx a).toNat, BitVec.ofNat 512 (natOf bs)) :: s1.xl.keys }
      mem := s1.mem.write none (spadBase s1.me + (sget s.cx b).toNat) (List.replicate 64 0) } := by
  obtain rfl := windowBytes_state hw
  simp only [keyldBody, hk, hw, Res.bind, Nat.not_le.mpr hid, Option.isSome_none, Bool.false_eq_true, or_self, if_false]

/-- No key is loaded twice, and none above ID 1,023 (R363). -/
theorem keyldBody_illegal (h : 1024 ≤ (sget s.cx a).toNat ∨ (assoc s.xl.keys (sget s.cx a).toNat).isSome = true) :
    keyldBody a b s = illegal s.cx.pc s := if_pos h

/-- The two words of a descriptor that ARTSET takes (R417). -/
def LegalRange (bs : List Byte) : Prop :=
  let x := winWord bs 0
  let y := winWord bs 1
  bits x 62 52 = 0 ∧ bits y 53 52 = 0 ∧ bits y 15 0 = 0 ∧ bits x 51 16 ≤ bits y 51 16 ∧ 0x20 ≤ bits x 51 16

/-- The ownership table after ARTSET of an entry (R417). -/
def artAfter (ix : Nat) (bs : List Byte) (art : List ArtEnt) : List ArtEnt :=
  let x := winWord bs 0
  let y := winWord bs 1
  if x.getLsbD 63 then artInsert ⟨ix, bits x 51 16, bits y 51 16, x.setWidth 16, Fin.ofNat 1024 (bits y 63 54)⟩ art
  else art.filter (·.ix != ix)

theorem artsetBody_sets (hix : (sget s.cx a).toNat < 4096) (hw : windowBytes (sget s.cx b) 16 false s = .ok bs s1) (hl : LegalRange bs) :
    artsetBody a b s = .done { s1 with xl := { s1.xl with art := artAfter (sget s.cx a).toNat bs s1.xl.art } } := by
  obtain ⟨hx, hy, hlow, hle, hbase⟩ := hl
  simp only [artsetBody, hw, Res.bind, hx, hy, hlow, Nat.not_le.mpr hix, Nat.not_lt.mpr hle, Nat.not_lt.mpr hbase, ne_eq, not_true_eq_false,
    or_self, if_false]
  rfl

/-- A station's keys after LINKKEY, for the direction that bit 5 of its selector names (R404). -/
def linkKeyed (x : Nat) (bs : List Byte) (t : Station) : Station :=
  if x < 32 then nextSend (BitVec.ofNat 256 (natOf bs)) t else nextReceive (BitVec.ofNat 256 (natOf bs)) t

theorem linkkeyBody_installs {t : Station} (hx : (sget s.cx a).toNat < 64) (hst : (sget s.cx a).toNat % 32 < 24)
    (hw : windowBytes (sget s.cx b) 32 false s = .ok bs s1) (ht : s1.fab.st[(sget s.cx a).toNat % 32]? = some t) :
    linkkeyBody a b s = .done (retryFrozen { s1 with fab := { s1.fab with
      st := s1.fab.st.set! ((sget s.cx a).toNat % 32) (linkKeyed (sget s.cx a).toNat bs t) } }) := by
  simp only [linkkeyBody, hw, Res.bind, ht, Nat.not_le.mpr hx, Nat.not_le.mpr hst, or_self, if_false]
  rfl

theorem keysAndOwnership : Sys2Proof.Parts.KeysAndOwnership :=
  ⟨fun _ _ _ _ _ hr hp hn hid hk hw => sysWord_done hr hp hn (keyldBody_loads hid hk hw),
    fun _ _ _ hr hp hn h => sysWord_body hr hp hn (keyldBody_illegal h),
    fun _ _ hr hp hn => sysWord_done hr hp hn rfl,
    fun _ _ _ _ _ hr hp hn hix hw hx hy hlow hle hbase => sysWord_done hr hp hn (artsetBody_sets hix hw ⟨hx, hy, hlow, hle, hbase⟩),
    fun _ _ _ _ _ _ hr hp hn hx hst hw ht => sysWord_done hr hp hn (linkkeyBody_installs hx hst hw ht)⟩

end Sys2Proof.Machine
end

section
namespace Sys2Proof.Machine

/-! ## Units, power and waiting (O38) -/

variable {a b : Fin 32} {s : State}

/-- QUAR has completed before its unit changes (R359, R438). -/
theorem quarBody_ok (rel : Bool) (h : unitOk ((sget s.cx a).setWidth 16) = true) :
    let u : BitVec 16 := (sget s.cx a).setWidth 16
    let t := event 1 3 u (if rel then 1 else 0) 0 (complete s)
    quarBody a rel s = .left (if rel then unquarantine u t else quarantine u t) := by
  rw [quarBody]
  exact if_neg (by rw [h]; decide)

/-- PWRCFG after PWRCAP: the cap within its limits, the other fields as they were (R135, R360). -/
def cappedWord (cap : Nat) (old : W64) : W64 := fields [(clampCap cap, 32), (bits old 21 16, 16), (bits old 7 0, 0)]

theorem cappedWord_fields (cap : Nat) (old : W64) : bits (cappedWord cap old) 47 32 = clampCap cap % 2 ^ 16
    ∧ bits (cappedWord cap old) 21 16 = bits old 21 16 ∧ bits (cappedWord cap old) 7 0 = bits old 7 0 := by
  have hcap : clampCap cap < 2 ^ 16 := Nat.lt_of_le_of_lt (clampCap_mem cap).2 (by decide)
  obtain ⟨hc, -, -, -, hramp, hginc⟩ := bits_pwrcfg_fields hcap (bits_lt old 21 16) (bits_lt old 7 0)
  exact ⟨hc.trans (Nat.mod_eq_of_lt hcap).symm, hramp, hginc⟩

/-- A state with a value in PWRCFG and one external step on every die. -/
def withPower (w : W64) (ext : Nat) (s : State) : State :=
  let t := updMmio (fun m => { m with pwrcfg := w }) s
  { t with pow := t.pow.map fun d => { d with ext := ext } }

theorem pwrcapBody_eq (a b : Fin 32) (s : State) : pwrcapBody a b s = if 8 ≤ (sget s.cx b).toNat then illegal s.cx.pc s
    else .done (withPower (cappedWord (bits (sget s.cx a) 15 0) s.mmio.pwrcfg) (sget s.cx b).toNat s) := rfl

theorem complete_withPower_pwrcfg (w : W64) (ext : Nat) (s : State) : (complete (withPower w ext s)).mmio.pwrcfg = w := rfl

/-- What a word that completes so leaves: the steps of the dies, and what it does not touch. -/
theorem complete_withPower_frame (w : W64) (ext : Nat) (s : State) :
    let t := complete (withPower w ext s)
    (∀ d : Fin 4, t.pow[d] = { s.pow[d] with ext := ext }) ∧ t.cx.pc = s.cx.npc ∧ t.mem = s.mem
      ∧ SameS [] s t ∧ SamePriv s t ∧ SameControl s t ∧ SameVector s t :=
  ⟨fun _ => Vector.getElem_map _ _, rfl, rfl, fun _ _ => rfl, rfl, ⟨rfl, rfl, rfl⟩, ⟨rfl, rfl, rfl⟩⟩

/-- What MCACK leaves of the dies' queues (R361). -/
def recordDropped (die : Nat) (mcq : Vector McQueue 4) : Vector McQueue 4 :=
  match mcq[die]? with
  | some q => mcq.set! die { q with recs := q.recs.drop 1 }
  | none => mcq

/-- The head record of one die's queue goes, and the other queues stand. -/
theorem recordDropped_recs {die : Nat} (h : die < 4) (mcq : Vector McQueue 4) (d : Fin 4) :
    (recordDropped die mcq)[d].recs = if d.val = die then mcq[d].recs.drop 1 else mcq[d].recs := by
  obtain ⟨k, rfl⟩ : ∃ k : Fin 4, k.val = die := ⟨⟨die, h⟩, rfl⟩
  have hset : recordDropped k.val mcq = mcq.set k { mcq[k] with recs := mcq[k].recs.drop 1 } := by
    rw [recordDropped, getElem?_pos mcq k.val k.isLt]
    exact vector_set!_val _ _ _
  rw [hset]
  simp only [Fin.getElem_fin, Vector.getElem_set, eq_comm (a := k.val)]
  split
  · next hk => simp only [hk]
  · rfl

theorem unitsPowerIdle : Sys2Proof.Parts.UnitsPowerIdle := by
  refine ⟨fun a rel s hr hp hn hu => sysWord_body hr hp hn (quarBody_ok rel hu), fun a b s hr hp hn hb => ?_,
    fun s hp hn => ⟨fun h => sysWord_done (ready_nil s) hp hn (if_pos h), fun h => ?_⟩, fun s hp hn hme => ?_⟩
  · have hbody := (pwrcapBody_eq a b s).trans (if_neg (Nat.not_le.mpr hb))
    refine ⟨_, sysWord_done hr hp hn hbody, ?_⟩
    rw [complete_withPower_pwrcfg]
    obtain ⟨hcap, hramp, hginc⟩ := cappedWord_fields (bits (sget s.cx a) 15 0) s.mmio.pwrcfg
    exact ⟨hcap, hramp, hginc, complete_withPower_frame _ _ s⟩
  · obtain ⟨st, hst⟩ := unread_eq s s
    refine ⟨_, sysWord_body (x := .wait .idle s) (ready_nil s) hp hn (if_neg (Bool.eq_false_iff.mp h)), rfl, ?_, ?_⟩ <;>
      simp only [finish, hst]
  · have hdie : dieOf s.me < 4 := Nat.div_lt_of_lt_mul hme
    exact ⟨_, sysWord_done (ready_nil s) hp hn rfl, rfl, fun _ _ => rfl, rfl, recordDropped_recs hdie s.mcq⟩

/-- Settles O38: each word's body goes to its one branch; PWRCFG is put together from fields within their bounds (`cappedWord_fields`), and
MCACK changes one die's queue (`recordDropped_recs`). -/
theorem keysUnitsPower : Obligations.KeysUnitsPower := ⟨keysAndOwnership, unitsPowerIdle⟩

end Sys2Proof.Machine
end

section
namespace Sys2Proof.Machine

/-! ## The meaning of an occurrence that takes place now -/

/-- A row's meaning under the event that takes place now: it is enough to know it in the states whose event is written out. -/
theorem exec_of_now {i : Instr} {e : Event} {f : State → State} {s : State} (h : s.now = some e)
    (hf : ∀ t : State, exec i { t with now := some e } = .next (f { t with now := some e })) : exec i s = .next (f s) := by
  have hs : { s with now := some e } = s := by rw [← h]
  rw [← hs]
  exact hf s

/-! ## Sessions of the host port (R383, R384) -/

/-- A session that is found has the number it was sought by. -/
theorem sessionOf_num {s : State} {n : Nat} {x : Session} (h : sessionOf s n = some x) : x.num = n :=
  eq_of_beq (List.find?_some (p := fun x : Session => x.num == n) h)

/-- A change of one session is seen there, where it leaves the session's number. -/
theorem sessionOf_updSession {n : Nat} {f : Session → Session} (hf : ∀ x, (f x).num = x.num) (s : State) :
    sessionOf (updSession n f s) n = (sessionOf s n).map f := by
  have hpred : ((fun x : Session => x.num == n) ∘ fun x => if x.num = n then f x else x) = fun x => x.num == n := by
    funext x
    by_cases hx : x.num = n <;> simp [hx, hf]
  have hfind : sessionOf (updSession n f s) n = (sessionOf s n).map fun x => if x.num = n then f x else x := by
    simp only [sessionOf, updSession, List.find?_map, hpred]
  rw [hfind]
  cases hx : sessionOf s n with
  | none => rfl
  | some x => simp [sessionOf_num hx]

/-- What only sends leaves the host port. -/
theorem OnlySends.port {s t : State} (h : OnlySends s t) : t.port = s.port := (congrArg State.port h :)

@[simp] theorem sessionOf_send (m : Msg) (s : State) (n : Nat) : sessionOf (send m s) n = sessionOf s n := by
  rw [sessionOf, (send_onlySends m s).port, sessionOf]

/-! ## Sequenced packets (O47) -/

/-- A packet is kept for its turn. -/
def keepEarly (n : Nat) (psn : BitVec 32) (e : Event) (s : State) : State :=
  updSession n (fun x => { x with early := x.early ++ [(psn, e)] }) s

/-- A packet takes its turn: the next PSN is due, and it is kept no longer. -/
def takeTurn (n : Nat) (psn : BitVec 32) (s : State) : State :=
  updSession n (fun x => { x with rx := x.rx + 1, early := x.early.filter (·.1 != psn) }) s

theorem sessionOf_keepEarly {n : Nat} {s : State} {x : Session} (psn : BitVec 32) (e : Event) (h : sessionOf s n = some x) :
    sessionOf (keepEarly n psn e s) n = some { x with early := x.early ++ [(psn, e)] } := by
  rw [keepEarly, sessionOf_updSession, h, Option.map_some]
  exact fun _ => rfl

theorem sessionOf_takeTurn {n : Nat} {s : State} {x : Session} (psn : BitVec 32) (h : sessionOf s n = some x) :
    sessionOf (takeTurn n psn s) n = some { x with rx := x.rx + 1, early := x.early.filter (·.1 != psn) } := by
  rw [takeTurn, sessionOf_updSession, h, Option.map_some]
  exact fun _ => rfl

section
variable {n k : Nat} {psn : BitVec 32} {e : Event} {s t : State} {x : Session}

theorem packetIn_closed (h : sessionOf s n = none) : packetIn n psn e s = s := by simp only [packetIn, h]

theorem packetIn_below (h : sessionOf s n = some x) (hd : 2 ^ 31 ≤ (psn - x.rx).toNat) : packetIn n psn e s = sendAck n s := by
  have hout : ¬ (psn - x.rx).toNat < psnWindow := fun hlt => by simp only [psnWindow] at hlt; omega
  simp only [packetIn, h, if_neg hout, if_pos hd]

theorem packetIn_above (h : sessionOf s n = some x) (hlo : 256 ≤ (psn - x.rx).toNat) (hhi : (psn - x.rx).toNat < 2 ^ 31) :
    packetIn n psn e s = s := by
  simp only [packetIn, h, if_neg (Nat.not_lt.mpr hlo : ¬ _ < psnWindow), if_neg (Nat.not_le.mpr hhi)]

/-- The packet that is due, where none is kept, is kept and has its turn at once. -/
theorem packetIn_due (h : sessionOf s n = some x) (hpsn : psn = x.rx) (hearly : x.early = []) :
    packetIn n psn e s = sendAck n (processReady n (psnWindow + 1) (keepEarly n psn e s)) := by
  have hin : (psn - x.rx).toNat < psnWindow := by simp [hpsn, psnWindow]
  have hnew : ¬ x.early.any (·.1 == psn) = true := by simp [hearly]
  simp only [packetIn, h, if_pos hin, if_neg hnew, keepEarly]

/-- A packet other than a LAUNCH whose turn has come is processed once it has taken its turn. -/
theorem processReady_next (h : sessionOf s n = some x) (hfind : x.early.find? (·.1 == x.rx) = some (psn, e))
    (hne : ∀ k p ws, e ≠ .launch k p ws) : processReady n (k + 1) s = processReady n k (processPacket e (takeTurn n psn s)) := by
  rw [processReady]
  simp only [h, hfind, takeTurn]

/-- A LAUNCH whose turn has come takes it once it is over, and keeps it while it waits. -/
theorem processReady_launch {m : Fin 65} {p : BitVec 32} {ws : List W64} {waits : Bool} (h : sessionOf s n = some x)
    (hfind : x.early.find? (·.1 == x.rx) = some (psn, .launch m p ws)) (hl : launch n ws s = (waits, t)) :
    processReady n (k + 1) s = if waits then { t with held := t.held ++ [.launch m p ws] } else processReady n k (takeTurn n psn t) := by
  rw [processReady]
  simp only [h, hfind, hl]
  cases waits <;> rfl

/-- The packet that is kept alone is the one found at its PSN. -/
theorem find_keepEarly (hpsn : psn = x.rx) (hearly : x.early = []) : (x.early ++ [(psn, e)]).find? (·.1 == x.rx) = some (psn, e) := by
  simp [hearly, hpsn]

/-- The packet that is due is processed with the session's next PSN advanced, and acknowledged. -/
theorem packetIn_next (h : sessionOf s n = some x) (hpsn : psn = x.rx) (hearly : x.early = []) (hne : ∀ k p ws, e ≠ .launch k p ws) :
    packetIn n psn e s = sendAck n (processReady n psnWindow (processPacket e (takeTurn n psn (keepEarly n psn e s)))) := by
  rw [packetIn_due h hpsn hearly, processReady_next (sessionOf_keepEarly psn e h) (find_keepEarly hpsn hearly) hne]

/-- A packet that took its turn leaves its session as it was but for the PSN that is due. -/
theorem sessionOf_turn (h : sessionOf s n = some x) (hearly : x.early = []) :
    sessionOf (takeTurn n psn (keepEarly n psn e s)) n = some { x with rx := x.rx + 1 } := by
  have hnone : (x.early ++ [(psn, e)]).filter (·.1 != psn) = x.early := by simp [hearly]
  simp only [sessionOf_takeTurn psn (sessionOf_keepEarly psn e h), hnone]

end

theorem packetsInTurn : Sys2Proof.Parts.SequencedPackets := by
  refine ⟨fun n psn ws s h => exec_of_now h fun _ => rfl,
    fun n psn a i l bs => ⟨fun s h => exec_of_now h fun _ => rfl, fun s h => exec_of_now h fun _ => rfl⟩,
    fun n psn t st bs => ⟨fun s h => exec_of_now h fun _ => rfl, fun s h => exec_of_now h fun _ => rfl⟩,
    fun n psn k hs w o b => ⟨fun s h => exec_of_now h fun _ => rfl, fun s h => exec_of_now h fun _ => rfl, fun s h => exec_of_now h fun _ => rfl,
      fun s h => exec_of_now h fun _ => rfl, fun s h => exec_of_now h fun _ => rfl⟩,
    fun n psn e s h => packetIn_closed h, fun n psn e s x h => ⟨packetIn_below h, packetIn_above h, fun hpsn hearly hne => ?due⟩,
    ?launch⟩
  case due => exact ⟨_, packetIn_next h hpsn hearly hne, sessionOf_turn h hearly, rfl, rfl, rfl, rfl⟩
  case launch =>
    intro n psn k p ws s t x waits e h hpsn hearly hl
    rw [packetIn_due h hpsn hearly, processReady_launch (sessionOf_keepEarly psn e h) (find_keepEarly hpsn hearly) hl]
    rfl

/-! ## Acknowledgement, resending and drops (O47) -/

section
variable {n : Nat} {psn : BitVec 32} {s : State} {x : Session} {k : Kept} {overtaken : Bool}

/-- Sends a packet once more. -/
def sendAgain (n : Nat) (psn : BitVec 32) (k : Kept) (s : State) : State :=
  send k.msg (updSession n (fun x => { x with
    kept := x.kept.map fun y => if y.psn = psn then { y with sent := y.sent + 1, last := s.clock } else y }) s)

/-- What becomes of a packet that is kept (R384, R385). -/
theorem resend_kept (h : sessionOf s n = some x) (hk : x.kept.find? (·.psn == psn) = some k) : resend overtaken n psn s =
    if k.sent = 0 ∨ (s.clock < k.last + micros x.rto ∧ (overtaken && k.sent == 1) = false) then s
    else if 32 ≤ k.sent then failSession n s
    else if !inCredit x psn then s else sendAgain n psn k s := by
  simp only [resend, h, hk, sendAgain]

/-- A packet in credit that has been sent less than 32 times is sent again, after its timeout or where a mark has overtaken its first sending. -/
theorem resend_again (h : sessionOf s n = some x) (hk : x.kept.find? (·.psn == psn) = some k) (hsent : k.sent ≠ 0) (hfew : k.sent < 32)
    (htime : k.last + micros x.rto ≤ s.clock ∨ (overtaken && k.sent == 1) = true) (hcred : inCredit x psn = true) :
    resend overtaken n psn s = sendAgain n psn k s := by
  have hnow : ¬ (k.sent = 0 ∨ (s.clock < k.last + micros x.rto ∧ (overtaken && k.sent == 1) = false)) := by
    rintro (h0 | ⟨hearly, hno⟩)
    · exact hsent h0
    · rcases htime with hlate | hmark
      · exact Nat.not_lt.mpr hlate hearly
      · exact Bool.noConfusion (hno.symm.trans hmark)
  rw [resend_kept h hk, if_neg hnow, if_neg (Nat.not_le.mpr hfew), if_neg (by simp [hcred])]

theorem resend_fails (h : sessionOf s n = some x) (hk : x.kept.find? (·.psn == psn) = some k) (hsent : k.sent ≠ 0)
    (hlate : k.last + micros x.rto ≤ s.clock) (hmany : 32 ≤ k.sent) : resend overtaken n psn s = failSession n s := by
  have hnow : ¬ (k.sent = 0 ∨ (s.clock < k.last + micros x.rto ∧ (overtaken && k.sent == 1) = false)) := by
    rintro (h0 | ⟨hearly, -⟩)
    · exact hsent h0
    · exact Nat.not_lt.mpr hlate hearly
  rw [resend_kept h hk, if_neg hnow, if_pos hmany]

/-- A packet waits until it has been sent, and for its timeout, unless a mark has overtaken its first sending. -/
theorem resend_waits (h : sessionOf s n = some x) (hk : x.kept.find? (·.psn == psn) = some k)
    (hwait : k.sent = 0 ∨ (s.clock < k.last + micros x.rto ∧ (overtaken = false ∨ k.sent ≠ 1))) : resend overtaken n psn s = s := by
  rw [resend_kept h hk, if_pos]
  simpa [Classical.or_iff_not_imp_left] using hwait

end

theorem frameOk_iff (s : State) (f : Frame) : frameOk s f = true ↔
    f.bytes ≤ 9216 ∧ f.tags ≤ 1 ∧ f.ethertype = 0x86DD ∧ f.nextHeader = 17 ∧ f.port = s.port.udp ∧ f.sumOk = true := by
  simp [frameOk, and_assoc]

theorem frameOk_bad {f : Frame} {s : State}
    (h : 9216 < f.bytes ∨ 1 < f.tags ∨ f.ethertype ≠ 0x86DD ∨ f.nextHeader ≠ 17 ∨ f.port ≠ s.port.udp ∨ f.sumOk = false) :
    frameOk s f = false := by
  rw [← Bool.not_eq_true, frameOk_iff]
  rintro ⟨hbytes, htags, hether, hnext, hport, hsum⟩
  rcases h with h | h | h | h | h | h
  exacts [Nat.not_lt.mpr hbytes h, Nat.not_lt.mpr htags h, h hether, h hnext, h hport, Bool.noConfusion (h.symm.trans hsum)]

theorem frameArrives_dropped {f : Frame} {s : State} (h : frameOk s f = false ∨ headerOk f.payload = false) :
    frameArrives f s = { s with port := { s.port with drops := s.port.drops + 1 } } := by
  have hbad : (!frameOk s f || !headerOk f.payload) = true := by simpa using h
  simp only [frameArrives, if_pos hbad, dropOne]

theorem acknowledgementAndDrops : Sys2Proof.Parts.AcknowledgementAndDrops := by
  refine ⟨fun n a c k s h => exec_of_now h fun _ => rfl, fun n psn s h => exec_of_now h fun _ => rfl,
    fun s h => exec_of_now (f := dropOne) h fun _ => rfl, fun s h => exec_of_now (f := dropOne) h fun _ => rfl,
    fun n psn s x k h hk => ⟨fun overtaken => ⟨fun h0 => ?_, fun hearly hmark => ?_, ?_, ?_⟩, ?_⟩,
    fun f s h => exec_of_now h fun _ => rfl,
    fun f s => ⟨fun h => frameArrives_dropped (.inl (frameOk_bad h)), fun h => frameArrives_dropped (.inr h), fun hf hh => ?_⟩⟩
  · exact resend_waits h hk (.inl h0)
  · exact resend_waits h hk (.inr ⟨hearly, hmark⟩)
  · exact fun hsent hlate hmany => resend_fails h hk hsent hlate hmany
  · exact fun hsent hlate hfew hcred => resend_again h hk hsent hfew (.inl hlate) hcred
  · exact fun hone hcred => resend_again h hk (by omega) (by omega) (.inr (by simp [hone])) hcred
  · simp [frameArrives, hf, hh]

/-- Settles O47: a packet goes by where its PSN stands to the window (`packetIn_below`, `packetIn_above`, `packetIn_due`), the one that is due
takes one turn (`processReady_next`, `processReady_launch`), and sending again is decided by `resend_kept`. -/
theorem sequencedPackets : Obligations.SequencedPackets := ⟨packetsInTurn, acknowledgementAndDrops⟩

end Sys2Proof.Machine
end

section
namespace Sys2Proof.Machine

/-! ## OPEN and host accesses (O48) -/

/-- A session that OPEN makes (R383). -/
def opened (host n : Nat) (mgmt : Bool) (rx tx : BitVec 32) : Session := { num := n, host := host, mgmt := mgmt, rx := rx, tx := tx, ackd := tx }

/-- OPEN of a free session from a listed address of a READY device: the session is there. -/
theorem sessionOf_openSession {h n : Nat} {rx tx : BitVec 32} {m : Bool} {s : State} (hhost : assoc s.bob.hosts h = some m)
    (hready : s.bob.phase = 6) (hlo : 1 ≤ n) (hhi : n ≤ 64) (hfree : sessionOf s n = none) :
    sessionOf (openSession h n rx tx s) n = some (opened h n m rx tx) := by
  have hok : (1 ≤ n && n ≤ 64 && (sessionOf s n).isNone) = true := by simp [hlo, hhi, hfree]
  simp only [openSession, hhost, hready, ne_eq, not_true_eq_false, if_false, if_pos hok, sessionOf_send]
  simp [sessionOf, opened]

theorem openSession_refused {h n : Nat} {rx tx : BitVec 32} {s : State} (href : assoc s.bob.hosts h = none ∨ s.bob.phase ≠ 6) :
    openSession h n rx tx s = s := by
  unfold openSession
  split
  · rfl
  · next m hhost =>
    have hphase : s.bob.phase ≠ 6 := href.resolve_left (by simp [hhost])
    simp only [if_pos hphase]

theorem openSessions : Sys2Proof.Parts.OpenSession :=
  ⟨fun _ _ _ _ _ h => exec_of_now h fun _ => rfl, fun _ _ _ _ _ href => openSession_refused href,
    fun _ _ _ _ _ _ hhost hready hlo hhi hfree => ⟨_, sessionOf_openSession hhost hready hlo hhi hfree, rfl, rfl, rfl, rfl, rfl, rfl, rfl⟩⟩

theorem hostAccesses : Sys2Proof.Parts.HostAccesses := by
  refine ⟨fun n a i l bs s s1 gs hlen hsegs => ?_, fun n a i l bs s s1 st hlen hsegs => ?_, fun n a i l s s1 s2 gs bs hsegs hread => ?_,
    fun perm a i n s hbad => ?_⟩
  · simp only [serveWrite, if_neg (not_not.mpr hlen), hsegs]
  · simp only [serveWrite, if_neg (not_not.mpr hlen), hsegs]
  · simp only [serveRead, hsegs, hread]
  · have hcond : (n = 0 || 8176 < n || !asidBound s i) = true := by simpa [or_assoc] using hbad
    simp only [hostSegs, if_pos hcond]

/-- Settles O48: an OPEN is refused or makes the session `opened`; an access is decided by the checks of its range. -/
theorem sessionsAndHostAccesses : Obligations.SessionsAndHostAccesses := ⟨openSessions, hostAccesses⟩

end Sys2Proof.Machine
end

section
namespace Sys2Proof.Machine

/-! ## Rails and clocks (O50) -/

theorem leaveGroup_bob (g : Fin 4096) (d : Fin 1024) (s : State) : (leaveGroup g d s).bob = s.bob := by
  simp only [leaveGroup]
  split <;> rfl

theorem foldl_leaveGroup_bob (d : Fin 1024) (l : List (Fin 4096)) (s : State) : (l.foldl (fun s g => leaveGroup g d s) s).bob = s.bob :=
  List.foldlRecOn (motive := fun t => t.bob = s.bob) l _ rfl fun t ht g _ => (leaveGroup_bob g d t).trans ht

/-- Leaving the groups is nothing to Bobbin. -/
theorem removeMember_bob (d : Fin 1024) (s : State) : (removeMember d s).bob = s.bob := foldl_leaveGroup_bob d _ _

/-! ## What R427's choice reads (O50) -/

section
variable {b c : Bobbin}

theorem flashBytes_congr (hflash : b.flash = c.flash) : flashBytes b = flashBytes c := by
  funext a n
  simp only [flashBytes, hflash]

theorem flashNat_congr (hflash : b.flash = c.flash) : flashNat b = flashNat c := by
  funext a n
  simp only [flashNat, flashBytes_congr hflash]

theorem imageSvn_congr (hflash : b.flash = c.flash) : imageSvn b = imageSvn c := by
  funext slot kind
  simp only [imageSvn, flashNat_congr hflash]

theorem imageValid_congr (hflash : b.flash = c.flash) (hfuses : b.fuses = c.fuses) : imageValid b = imageValid c := by
  funext slot kind
  unfold imageValid
  rw [flashNat_congr hflash, flashBytes_congr hflash, imageSvn_congr hflash, hfuses]

/-- The slot to boot from depends on the flash and the fuses alone. -/
theorem chooseSlot_congr (hflash : b.flash = c.flash) (hfuses : b.fuses = c.fuses) (kind : Nat) : chooseSlot b kind = chooseSlot c kind := by
  unfold chooseSlot
  rw [imageValid_congr hflash hfuses, imageSvn_congr hflash]

end

/-! ## Raising a rail (O50) -/

section
variable {r : Nat} {s : State}

/-- A rail that is not the next one of the order is not raised. -/
theorem railUp_other (h : nextRail s.bob ≠ some r) : railUp r s = s := if_neg fun hup => h hup.2.2

/-- The next rail is raised at once where Bobbin runs already. -/
theorem railUp_booted (hup : bobbinUp s.bob = true ∧ (s.bob.phase = 0 ∨ s.bob.phase = 1) ∧ nextRail s.bob = some r) (hb : s.bob.booted = true) :
    railUp r s = updBob (fun b => { b with phase := 1, rails := b.rails + 1 }) s := by
  simp only [railUp, if_pos hup, hb, if_true, updBob]

/-- Where Bobbin has not started, it starts from the image that R427 chooses, without which the boot has failed. -/
theorem railUp_starts (hup : bobbinUp s.bob = true ∧ (s.bob.phase = 0 ∨ s.bob.phase = 1) ∧ nextRail s.bob = some r) (hb : s.bob.booted = false) :
    railUp r s = match chooseSlot s.bob 1 with
      | some slot => updBob (fun b => { b with phase := 1, rails := b.rails + 1, bobbinSlot := slot, svn := imageSvn b slot 1, booted := true }) s
      | none => bootFail (updBob (fun b => { b with phase := 1, booted := false }) s) := by
  have hsame : updBob (fun b => { b with phase := 1, booted := false }) s = updBob (fun b => { b with phase := 1 }) s := by
    simp only [updBob, ← hb]
  simp only [railUp, if_pos hup, hb, startBobbin, hsame]
  cases chooseSlot s.bob 1 <;> rfl

end

/-! ## Resets (O50) -/

theorem startBobbin_frame (b : Bobbin) : ∃ slot svn booted, startBobbin b = { b with bobbinSlot := slot, svn := svn, booted := booted } := by
  unfold startBobbin
  split <;> exact ⟨_, _, _, rfl⟩

theorem startBobbin_some {b : Bobbin} {slot : Bool} (h : chooseSlot b 1 = some slot) :
    startBobbin b = { b with bobbinSlot := slot, svn := imageSvn b slot 1, booted := true } := by
  simp only [startBobbin, h]

/-- What a device reset leaves of Bobbin (R426). -/
theorem deviceReset_bob (s : State) : (deviceReset s).bob = { s.bob with
    before := s.bob.before + (removeMember s.dev s).clock, phase := 0, error := 0, pll := false, ports := false, mgmtmap := 0, hosts := []
    poolKey := 0 } := by
  simp only [deviceReset, removeMember_bob]

/-- Bobbin's registers at a cold reset, before it starts: the flash, the fuses and the quarantine list stand (R426, R427, R440). -/
def coldBobbin (b : Bobbin) : Bobbin :=
  { flash := b.flash, fuses := b.fuses, quarList := b.quarList, deviceSlot := (chooseSlot b 2).getD false }

theorem coldReset_bob (s : State) : (coldReset s).bob = startBobbin (coldBobbin s.bob) := by
  have hslot := chooseSlot_congr (b := { flash := s.bob.flash, fuses := s.bob.fuses, quarList := s.bob.quarList }) (c := s.bob) rfl rfl 2
  simp only [coldReset, coldBobbin, hslot]

/-- The cold reset's Bobbin keeps its memory, starts the rest again and boots from the images that R427 chooses. -/
theorem coldReset_keeps (s : State) : let b := (coldReset s).bob
    b.flash = s.bob.flash ∧ b.fuses = s.bob.fuses ∧ b.quarList = s.bob.quarList ∧ b.phase = 0 ∧ b.capstep = 0 ∧ b.loghead = 0
      ∧ b.deviceSlot = (chooseSlot s.bob 2).getD false := by
  obtain ⟨slot, svn, booted, h⟩ := startBobbin_frame (coldBobbin s.bob)
  simp only [coldReset_bob, h]
  exact ⟨rfl, rfl, rfl, rfl, rfl, rfl, rfl⟩

theorem coldReset_starts {s : State} {slot : Bool} (h : chooseSlot s.bob 1 = some slot) :
    (coldReset s).bob.bobbinSlot = slot ∧ (coldReset s).bob.svn = imageSvn s.bob slot 1 ∧ (coldReset s).bob.booted = true := by
  have hcold : chooseSlot (coldBobbin s.bob) 1 = some slot := (chooseSlot_congr rfl rfl 1).trans h
  rw [coldReset_bob, startBobbin_some hcold]
  exact ⟨rfl, congrFun₂ (imageSvn_congr rfl) slot 1, rfl⟩

/-- A reset device has no station key. -/
theorem deviceReset_keyless (s : State) (k : Fin 24) : ((deviceReset s).fab.st[k]).tx = none ∧ ((deviceReset s).fab.st[k]).rx = none := by
  have hst : (deviceReset s).fab.st = State.reset.fab.st := rfl
  rw [hst]
  revert k
  decide

theorem exec_clockLockLoss {ser : Bool} {s : State} (h : s.now = some (.clockLockLoss ser)) : exec .clockLockLoss s =
    .next (if s.bob.pll then warmReset (event 5 2 wholeDevice (if ser then 1 else 0) 0 s) else s) := by
  show execClockLockLoss s = _
  rw [execClockLockLoss, h]

/-- The rails fall, VDD_AUX last (R424, R436). -/
def losePower (s : State) : State := updBob (fun b => { b with rails := 0, power := false, updopen := false }) (deviceReset s)

/-- Settles O50: a device reset leaves Bobbin's flash, fuses, log and CAPSTEP (`deviceReset_bob`), a cold one what `coldBobbin` names, from which
Bobbin starts by the image that flash and fuses give (`chooseSlot_congr`). -/
theorem railsAndResets : Obligations.RailsAndResets := by
  refine ⟨fun r s h hup => ?rail, fun r s h hother => (exec_of_now (f := railUp r.val) h fun _ => rfl).trans (congrArg _ (railUp_other hother)),
    fun ok s h hup => ?lock, fun r s h => exec_of_now h fun _ => rfl, fun b => ?loss,
    fun s h _ => exec_of_now h fun _ => rfl, fun s h => exec_of_now h fun _ => rfl, fun s h => exec_of_now (f := losePower) h fun _ => rfl,
    fun s => ?device, fun s => ?cold⟩
  case rail =>
    obtain ⟨hpower, htrip, hphase, hnext⟩ := hup
    have hup : bobbinUp s.bob = true ∧ (s.bob.phase = 0 ∨ s.bob.phase = 1) ∧ nextRail s.bob = some r.val :=
      ⟨by simp [bobbinUp, hpower, htrip], hphase, hnext⟩
    have hexec : exec .railEnable s = .next (railUp r.val s) := exec_of_now h fun _ => rfl
    exact ⟨fun hb => hexec.trans (congrArg _ (railUp_booted hup hb)), fun hb => hexec.trans (congrArg _ (railUp_starts hup hb))⟩
  case lock =>
    obtain ⟨hpower, htrip, hphase, hrails⟩ := hup
    have hup : bobbinUp s.bob = true ∧ s.bob.phase = 1 ∧ nextRail s.bob = none := ⟨by simp [bobbinUp, hpower, htrip], hphase, by simp [nextRail, hrails]⟩
    show execPllLock s = _
    simp only [execPllLock, h, if_pos hup]
  case loss =>
    exact ⟨fun s h hp => (exec_clockLockLoss h).trans (congrArg _ (if_pos hp)),
      fun s h hp => (exec_clockLockLoss h).trans (congrArg _ (if_neg (Bool.eq_false_iff.mp hp)))⟩
  case device =>
    refine ⟨rfl, rfl, rfl, rfl, deviceReset_keyless s, ?_, ?_, ?_, ?_, rfl, rfl⟩ <;> rw [deviceReset_bob]
  case cold =>
    obtain ⟨hflash, hfuses, hquar, hphase, hcap, hlog, hslot⟩ := coldReset_keeps s
    exact ⟨rfl, rfl, rfl, rfl, hflash, hfuses, hquar, hphase, hcap, hlog, fun slot h => by rw [hslot, h, Option.getD_some],
      fun slot h => coldReset_starts h⟩

end Sys2Proof.Machine
end

section
namespace Sys2Proof.Machine

/-! ## The boot's phases (O51) -/

/-- A failed phase leaves the boot FAILED; its event tells no session, since the device is not READY. -/
theorem bootFail_phase (s : State) : (bootFail s).bob.phase = 15 := rfl

theorem chooseSlot_none (b : Bobbin) (kind : Nat) : chooseSlot b kind = none ↔ (imageValid b false kind = false ∧ imageValid b true kind = false) := by
  unfold chooseSlot
  cases imageValid b false kind <;> cases imageValid b true kind <;> simp

/-- An event out of its phase has no effect. -/
theorem trainMemory_out {l d : List Nat} {s : State} (h : s.bob.phase ≠ 3) : trainMemory l d s = s := if_neg fun hup => h hup.2

theorem portsUp_out {m : BitVec 24} {w : List (Fin 4)} {s : State} (h : s.bob.phase ≠ 5) : portsUp m w s = s := if_neg fun hup => h hup.2

theorem phaseFails_out {p : Nat} {s : State} (h : s.bob.phase ≠ p) : phaseFails p s = s := if_neg fun hup => h hup.2

theorem phaseFails_in {p : Nat} {s : State} (hup : bobbinUp s.bob = true) (h : s.bob.phase = p) : phaseFails p s = bootFail s := if_pos ⟨hup, h⟩

/-- IMAGE goes on with the slot that R427 chooses, or fails. -/
theorem loadImage_in {s : State} (hup : bobbinUp s.bob = true ∧ s.bob.phase = 2) : loadImage s = match chooseSlot s.bob 2 with
    | some slot => updBob (fun b => { b with phase := 3, deviceSlot := slot, running := imageSvn b slot 2 }) s
    | none => bootFail s := by
  simp only [loadImage, if_pos hup]
  cases chooseSlot s.bob 2 <;> rfl

/-- What CONFIG does in its phase is decided by the block (R429, R430). -/
theorem configure_in {s : State} (hup : bobbinUp s.bob = true) (h : s.bob.phase = 4) : configure s =
    if configOk (configBlock s.bob) && poolsFit (configBlock s.bob) then applyConfig (configBlock s.bob) s else bootFail s := if_pos ⟨hup, h⟩

theorem exec_bootMemory {ok : Bool} {l : List (Fin 8)} {d : List (Fin 4)} {s : State} (h : s.now = some (.bootMemory ok l d)) :
    exec .bootMemory s = .next (if ok then trainMemory (l.map (·.val)) (d.map (·.val)) s else phaseFails 3 s) :=
  exec_of_now (f := fun s => if ok then trainMemory (l.map (·.val)) (d.map (·.val)) s else phaseFails 3 s) h fun _ => by cases ok <;> rfl

theorem exec_bootPorts {ok : Bool} {m : BitVec 24} {w : List (Fin 4)} {s : State} (h : s.now = some (.bootPorts ok m w)) :
    exec .bootPorts s = .next (if ok then portsUp m w s else phaseFails 5 s) :=
  exec_of_now (f := fun s => if ok then portsUp m w s else phaseFails 5 s) h fun _ => by cases ok <;> rfl

theorem exec_bootConfig {s : State} (h : s.now = some .bootConfig) : exec .bootConfig s = .next (configure s) := exec_of_now h fun _ => rfl

theorem exec_bootReady {s : State} (h : s.now = some .bootReady) : exec .bootReady s =
    .next (if bobbinUp s.bob ∧ s.bob.phase = 5 ∧ s.bob.ports then updBob (fun b => { b with phase := 6, fuses := Nat.max b.fuses (Nat.min 64 b.running) }) s
      else s) := by
  show execBootReady s = _
  rw [execBootReady, h]

theorem bootPhases : Sys2Proof.Parts.BootPhases := by
  refine ⟨fun s h hup => ?image, fun l d => ⟨fun s h => exec_bootMemory h, fun s h hup hp => ?_, fun ok s h hp => ?_⟩, fun s h hup => ?config,
    fun s h hup => ?badConfig, fun m w => ⟨fun s h => exec_bootPorts h, fun s h hup hp => ?_, fun ok s h hp => ?_⟩, fun s h hup => ?_, fun s h hp => ?_,
    bootFail_phase, fun b => chooseSlot_none b 2⟩
  case image => exact (exec_of_now (f := loadImage) h fun _ => rfl).trans (congrArg _ (loadImage_in hup))
  case config =>
    obtain ⟨hup, hp, hok, hfit⟩ := hup
    rw [exec_bootConfig h, configure_in hup hp, if_pos (by rw [hok, hfit]; rfl)]
  case badConfig =>
    obtain ⟨hup, hp, hbad⟩ := hup
    rw [exec_bootConfig h, configure_in hup hp, if_neg (by simp [hbad])]
  · rw [exec_bootMemory h, if_neg Bool.false_ne_true, phaseFails_in hup hp]
  · rw [exec_bootMemory h, trainMemory_out hp, phaseFails_out hp, ite_self]
  · rw [exec_bootPorts h, if_neg Bool.false_ne_true, phaseFails_in hup hp]
  · rw [exec_bootPorts h, portsUp_out hp, phaseFails_out hp, ite_self]
  · rw [exec_bootReady h, if_pos hup]
  · rw [exec_bootReady h, if_neg fun hup => hp hup.2.1]

/-! ## Bobbin's registers and updates (O51) -/

theorem onBus_up {f : State → State} {s : State} (h : s.bob.power = true) : onBus f s = f s := if_pos h

theorem onBus_down {f : State → State} {s : State} (h : s.bob.power = false) : onBus f s = s := if_neg (Bool.eq_false_iff.mp h)

/-- A row of the bus under its event, with power. -/
theorem exec_onBus {i : Instr} {e : Event} {f : State → State} {s : State} (h : s.now = some e) (hp : s.bob.power = true)
    (hf : ∀ t : State, exec i { t with now := some e } = .next (onBus f { t with now := some e })) : exec i s = .next (f s) :=
  (exec_of_now (f := onBus f) h hf).trans (congrArg _ (onBus_up hp))

/-- A word other than 0x5A orders no reset. -/
theorem resetctl_other {v : BitVec 32} (h : v ≠ 0x5A) (s : State) : bobWrite 0x08 v s = bobOffset 0x08 s := if_neg h

theorem exec_i3cRegisterWrite_unpowered {s : State} (hp : s.bob.power = false) : exec .i3cRegisterWrite s = .next s := by
  show execI3cRegisterWrite s = _
  unfold execI3cRegisterWrite
  generalize s.now = e
  rcases e with _ | e
  · rfl
  · cases e with
    | i3cRegisterWrite | i3cOffset | i3cRegisterRead => exact congrArg _ (onBus_down hp)
    | _ => rfl

/-- The rows of the bus do nothing without power. -/
theorem exec_bus_unpowered {i : Instr} {s : State} (hp : s.bob.power = false)
    (hi : i ∈ [.resetctl, .capstepWrite, .updateErase, .updateOpen, .updateVerify, .upddataWrite, .i3cRegisterWrite]) : exec i s = .next s := by
  simp only [List.mem_cons, List.not_mem_nil, or_false] at hi
  rcases hi with rfl | rfl | rfl | rfl | rfl | rfl | rfl
  on_goal 7 => exact exec_i3cRegisterWrite_unpowered hp
  all_goals
    unfold exec
    dsimp only [execResetctl, execCapstepWrite, execUpdateErase, execUpdateOpen, execUpdateVerify, execUpddataWrite]
    split <;> simp only [onBus_down hp]

/-- UPDDATA while no slot is open notes its operand alone. -/
theorem upddata_closed {v : BitVec 32} {s : State} (h : s.bob.updopen = false) : upddata v s = updBob (fun b => { b with updlast := v }) s := by
  simp only [upddata, updBob, h]

/-- The first 24 MiB of offsets lie in the inactive slot. -/
theorem updPlace_isSome {b : Bobbin} {off : Nat} (h : off < slotBytes) : (updPlace b off).isSome = true := by
  unfold updPlace
  split <;> rfl

/-- UPDDATA in the open slot moves UPDADDR on by 4. -/
theorem upddata_open {v : BitVec 32} {s : State} (h : s.bob.updopen = true) (ha : s.bob.updaddr.toNat < slotBytes) :
    (upddata v s).bob.updaddr = s.bob.updaddr + 4 := by
  obtain ⟨a, hplace⟩ := Option.isSome_iff_exists.mp (updPlace_isSome (b := (updBob (fun b => { b with updlast := v }) s).bob) ha)
  have hopen : (updBob (fun b => { b with updlast := v }) s).bob.updopen = true := h
  have haddr : (updBob (fun b => { b with updlast := v }) s).bob.updaddr = s.bob.updaddr := rfl
  simp only [upddata, hopen, haddr, hplace]
  rfl

theorem updVerify_closes (s : State) : (updVerify s).bob.updopen = false := by
  simp only [updVerify]
  split <;> rfl

/-- A verify that fails leaves the flash. -/
theorem updVerify_bad {s : State} (h : imageValid s.bob (!activeSlot s.bob 1) 1 = false) :
    updVerify s = updBob (fun b => { b with updst := 2, updopen := false }) s := by
  simp only [updVerify, h, Bool.false_and, Bool.false_eq_true, if_false]

theorem bobbinRegisters : Sys2Proof.Parts.BobbinRegisters := by
  refine ⟨fun s h hp => exec_onBus (f := bobWrite 0x08 0x5A) h hp fun _ => rfl, fun v hv s h hp => ?other,
    fun v s h hp => exec_onBus (f := bobWrite 0x0C v) h hp fun _ => rfl,
    fun s h hp => exec_onBus (f := bobWrite 0x24 0x10000000) h hp fun _ => rfl,
    fun s h hp => exec_onBus (f := bobWrite 0x24 0x30000000) h hp fun _ => rfl,
    fun s h hp => exec_onBus (f := bobWrite 0x24 0x20000000) h hp fun _ => rfl,
    fun v s h hp => exec_onBus (f := bobWrite 0x2C v) h hp fun _ => rfl,
    fun o s h hp => exec_onBus (f := bobOffset o) h hp fun _ => rfl, fun i s hp hi => exec_bus_unpowered hp hi,
    fun o v => ⟨fun s h hp => exec_onBus (f := bobWrite o.toNat v) h hp fun _ => rfl, fun s h hp => exec_i3cRegisterWrite_unpowered hp⟩,
    fun s h hp => ?read,
    fun st d => ⟨fun s h hup => ?_, fun s h hst => ?_, fun s h hup => ?_⟩, fun v s h => ?_, fun v s h ha => upddata_open h ha,
    fun s => ⟨rfl, rfl, updVerify_closes s, fun hbad => ?_⟩⟩
  case read => exact exec_onBus (f := fun s => send (.i3c (bobRead s.bob.reg.toNat s).1) (bobRead s.bob.reg.toNat s).2) h hp fun _ => rfl
  case other => exact (exec_onBus (f := bobWrite 0x08 v) h hp fun _ => rfl).trans (congrArg _ (resetctl_other hv s))
  · show execSetdasa s = _
    simp only [execSetdasa, h, if_pos hup]
  · show execSetdasa s = _
    simp only [execSetdasa, h, if_neg fun hup : s.bob.power = true ∧ st = 0x4C => hst hup.2]
  · obtain ⟨hp, hd⟩ := hup
    show execEntdaa s = _
    simp [execEntdaa, h, hp, hd]
  · rw [upddata_closed h]
    exact ⟨rfl, rfl⟩
  · rw [updVerify_bad hbad]
    exact ⟨rfl, rfl⟩

/-- Settles O51: a boot phase is decided by the phase that the device stands in (`loadImage_in`, `configure_in`, `phaseFails_in` and their
counterparts out of the phase), and a row of Bobbin's bus is its register's write where there is power (`exec_onBus`, `exec_bus_unpowered`). -/
theorem bootAndBobbin : Obligations.BootAndBobbin := ⟨bootPhases, bobbinRegisters⟩

end Sys2Proof.Machine
end

section
namespace Sys2Proof.Machine

/-! ## Operands and their codes (R139, R151, R171, R181) -/

/-- `rd` reads the operand `a` back from its code `v`, which a field of `k` bits holds. -/
structure Coded {α : Type} (k : Nat) (rd : Nat → α) (v : Nat) (a : α) : Prop where
  lt : v < 2 ^ k
  read : rd v = a

namespace Coded

theorem wider {α : Type} {j k v : Nat} {rd : Nat → α} {a : α} (h : Coded j rd v a) (hk : j ≤ k := by decide) : Coded k rd v a :=
  ⟨Nat.lt_of_lt_of_le h.lt (Nat.pow_le_pow_right (by decide) hk), h.read⟩

/-- An operand that a form does not have is read from a field of zeros. -/
theorem absent (k : Nat) : Coded k (fun _ => ()) 0 () := ⟨Nat.two_pow_pos k, rfl⟩

theorem fin {n k : Nat} [NeZero n] (a : Fin n) (h : n ≤ 2 ^ k := by decide) : Coded k (Fin.ofNat n) a.val a :=
  ⟨Nat.lt_of_lt_of_le a.isLt h, Fin.ofNat_val_eq_self a⟩

theorem bits {n k : Nat} (v : BitVec n) (h : n ≤ k := by decide) : Coded k (BitVec.ofNat n) v.toNat v :=
  ⟨Nat.lt_of_lt_of_le v.isLt (Nat.pow_le_pow_right (by decide) h), by simp⟩

theorem flag {k : Nat} (b : Bool) (h : 1 ≤ k := by decide) : Coded k (· == 1) b.toNat b :=
  ⟨Nat.lt_of_lt_of_le b.toNat_lt (Nat.pow_le_pow_right (n := 2) (i := 1) (by decide) h), by cases b <;> rfl⟩

theorem src (a : Src) : Coded 7 srcOf a.code a := by
  cases a with
  | s r => exact ⟨by simp only [Src.code]; omega, by simp [srcOf, Src.code]⟩
  | q r => exact ⟨by simp only [Src.code]; omega, by revert r; decide⟩

theorem stream (q : Option (Fin 8)) : Coded 7 qOf (optQ q) q := by
  cases q with
  | none => exact ⟨by decide, rfl⟩
  | some q => exact ⟨by simp only [optQ]; omega, by revert q; decide⟩

theorem fmt (f : Fmt) : Coded 4 fmtOf f.code f := by cases f <;> exact ⟨by decide, rfl⟩

theorem mfmt (f : MFmt) : Coded 4 mfmtOf f.code f := by
  rcases f with f | _
  · cases f <;> exact ⟨by decide, rfl⟩
  · exact ⟨by decide, rfl⟩

theorem rmSel (m : RmSel) : Coded 3 rmSelOf m.code m := by
  rcases m with m | _
  · cases m <;> exact ⟨by decide, rfl⟩
  · exact ⟨by decide, rfl⟩

theorem scope (c : Scope) : Coded 3 scopeOf c.code c := by cases c <;> exact ⟨by decide, rfl⟩

theorem pred (p : Pred) : Coded 4 predOf p.code p := by cases p <;> exact ⟨by decide, rfl⟩

theorem shuf (p : ShufPat) : Coded 8 shufOf p.code p := by cases p <;> exact ⟨by decide, rfl⟩

theorem streamKind (c : StreamKind) : Coded 2 streamKindOf c.code c := by cases c <;> exact ⟨by decide, rfl⟩

theorem redOp (o : RedOp) : Coded 3 redOpOf o.code o := by cases o <;> exact ⟨by decide, rfl⟩

theorem repRule (r : RepRule) : Coded 2 repRuleOf r.code r := by cases r <;> exact ⟨by decide, rfl⟩

theorem tileTgt (t : TileTgt) : Coded 2 tileTgtOf t.code t := by cases t <;> exact ⟨by decide, rfl⟩

end Coded

/-! ## Codes in their fields (R171) -/

/-- `w` has the engine and the opcode of `base`, and from bit `lo` down only what `base` has there. -/
structure Packed (base w lo : Nat) : Prop where
  top : w / 2 ^ 22 = base / 2 ^ 22
  low : w % 2 ^ lo = base % 2 ^ 22

theorem Packed.empty (base : Nat) : Packed base base 22 := ⟨rfl, rfl⟩

section
variable {base w lo k j v : Nat}

/-- A code that is put in below bit `lo`, above the bits that are taken there, leaves what stands from bit `lo` up. -/
theorem add_field_div (hv : v < 2 ^ j) (hk : k + j ≤ lo) (hw : w % 2 ^ lo < 2 ^ k) : (w + v * 2 ^ k) / 2 ^ lo = w / 2 ^ lo := by
  have hfit : w % 2 ^ lo + v * 2 ^ k < 2 ^ lo := calc
    w % 2 ^ lo + v * 2 ^ k < (v + 1) * 2 ^ k := by rw [Nat.add_mul, Nat.one_mul, Nat.add_comm]; exact Nat.add_lt_add_left hw _
    _ ≤ 2 ^ j * 2 ^ k := Nat.mul_le_mul_right _ hv
    _ = 2 ^ (k + j) := by rw [Nat.mul_comm, Nat.pow_add]
    _ ≤ 2 ^ lo := Nat.pow_le_pow_right (by decide) hk
  calc (w + v * 2 ^ k) / 2 ^ lo
    _ = (2 ^ lo * (w / 2 ^ lo) + (w % 2 ^ lo + v * 2 ^ k)) / 2 ^ lo := by rw [← Nat.add_assoc, Nat.div_add_mod]
    _ = w / 2 ^ lo := by rw [Nat.mul_add_div (Nat.two_pow_pos lo), Nat.div_eq_of_lt hfit, Nat.add_zero]

/-- A code put in between two fields: it is read back there, and the fields above it read as before. -/
theorem Packed.field (h : Packed base w lo) (hv : v < 2 ^ j) (hk : k + j ≤ lo) (hlo : lo ≤ 22) (hb : base % 2 ^ 22 < 2 ^ k) :
    Packed base (w + sh v k) k ∧ fld (w + sh v k) k j = v ∧ ∀ p n, lo ≤ p → fld (w + sh v k) p n = fld w p n := by
  have hdiv : (w + sh v k) / 2 ^ lo = w / 2 ^ lo := add_field_div hv hk (by rwa [h.low])
  have hup {p : Nat} (hp : lo ≤ p) : (w + sh v k) / 2 ^ p = w / 2 ^ p := by
    obtain ⟨e, rfl⟩ := Nat.exists_eq_add_of_le hp
    rw [Nat.pow_add, ← Nat.div_div_eq_div_mul, hdiv, Nat.div_div_eq_div_mul]
  have hlow {n : Nat} (hkn : k ≤ n) (hn : n ≤ lo) : w % 2 ^ n = base % 2 ^ 22 := by
    rw [← Nat.mod_mod_of_dvd w (Nat.pow_dvd_pow 2 hn), h.low, Nat.mod_eq_of_lt (hb.trans_le (Nat.pow_le_pow_right (by decide) hkn))]
  have hfield : w / 2 ^ k % 2 ^ j = 0 := by
    rw [← Nat.mod_mul_right_div_self, ← Nat.pow_add, hlow (Nat.le_add_right k j) hk, Nat.div_eq_of_lt hb]
  refine ⟨⟨(hup hlo).trans h.top, ?_⟩, ?_, fun p n hp => ?_⟩
  · rw [sh, Nat.add_mul_mod_self_right, hlow (Nat.le_refl k) (Nat.le_of_add_right_le hk)]
  · rw [fld, sh, Nat.add_mul_div_right _ _ (Nat.two_pow_pos k), Nat.add_mod, hfield, Nat.zero_add, Nat.mod_mod, Nat.mod_eq_of_lt hv]
  · rw [fld, hup hp, fld]

end

end Sys2Proof.Machine
end

section
namespace Sys2Proof.Machine

/-! ## What the words of an instruction name (R168, R169) -/

/-- The form of an engine and an opcode, its fields read from the words, for every engine but VEC. -/
def rawOf (engine op w x y : Nat) : Option Instr :=
  match engine with
  | 0 => rawCtl op w x y
  | 2 => rawMtx op w x
  | 3 => rawCpy op w x
  | 4 => rawGau op w
  | 5 => rawTsk op w
  | 6 => rawSys op w
  | _ => none

theorem rawInstr_of_rawOf {w x y : Nat} {i : Instr} (h : rawOf (fld w 29 3) (fld w 22 7) w x y = some i) : rawInstr w x y = some i := by
  unfold rawOf at h
  unfold rawInstr
  split at h <;> simp_all only [reduceCtorEq]

theorem rawOf_vec (op w x y : Nat) : rawOf 1 op w x y = none := rfl

/-- The words `w`, `x`, `y` name `i`, of which they hold `n` words. -/
def Names (i : Instr) (w x y n : Nat) : Prop := rawInstr w x y = some i ∧ wordCount w x = n

section
variable {base w x y p q r s t j k l m : Nat}

theorem fld_of_top (h : w / 2 ^ 22 = base / 2 ^ 22) : fld w 29 3 = fld base 29 3 ∧ fld w 22 7 = fld base 22 7 := by
  simp only [fld]
  omega

theorem wordCount_of_top (h : w / 2 ^ 22 = base / 2 ^ 22) (hv : fld base 29 3 ≠ 1) : wordCount w x = wordCount base x := by
  unfold wordCount
  rw [(fld_of_top h).1, (fld_of_top h).2]
  split
  case h_5 he => exact absurd he hv
  all_goals rfl

/-- A word with the engine and the opcode of `base` names what its form reads from its fields. -/
theorem names_of_top {i : Instr} (h : rawOf (fld base 29 3) (fld base 22 7) w x y = some i)
    (top : w / 2 ^ 22 = base / 2 ^ 22 := by simp only [sh]; omega) : Names i w x y (wordCount base x) := by
  refine ⟨rawInstr_of_rawOf ?_, wordCount_of_top top fun hv => ?_⟩
  · rwa [(fld_of_top top).1, (fld_of_top top).2]
  · rw [hv, rawOf_vec] at h
    cases h

variable {α β γ δ : Type} {va vb vc vd : Nat} {ra : Nat → α} {rb : Nat → β} {rc : Nat → γ} {rd : Nat → δ}
  {a : α} {b : β} {c : γ} {d : δ}

/-- An operand is read from the field that holds its code. -/
theorem Coded.readAt (ha : Coded k ra va a) (h : fld w p k = va := by simp only [fld, fD, fA, fB, sh]; omega) : ra (fld w p k) = a := by
  rw [h, ha.read]

/-- A code that the word writes as it is starts at bit 0. -/
theorem sh_zero (v : Nat) : v = sh v 0 := (Nat.mul_one v).symm

/-! Words of up to four operands in fields that follow one another downwards, whatever the format. `h` says which fields the form reads, and
holds by computation; `ht` writes the last code as shifted. An operand that is not there is one without bits, at the top. -/

theorem names₄ {mk : α → β → γ → δ → Instr} (ha : Coded j ra va a) (hb : Coded k rb vb b) (hc : Coded l rc vc c) (hd : Coded m rd vd d)
    (h : ∀ w, rawOf (fld base 29 3) (fld base 22 7) w x y
      = some (mk (ra (fld w p j)) (rb (fld w q k)) (rc (fld w r l)) (rd (fld w s m))))
    (ht : t = sh vd s := by rfl) (hp : p + j ≤ 22 ∧ q + k ≤ p ∧ r + l ≤ q ∧ s + m ≤ r ∧ base % 2 ^ 22 < 2 ^ s := by decide) :
    Names (mk a b c d) (base + sh va p + sh vb q + sh vc r + t) x y (wordCount base x) := by
  subst ht
  obtain ⟨hj, hk, hl, hm, hbase⟩ := hp
  have low {n : Nat} (hn : s ≤ n) : base % 2 ^ 22 < 2 ^ n := hbase.trans_le (Nat.pow_le_pow_right (by decide) hn)
  obtain ⟨h1, ea, -⟩ := (Packed.empty base).field ha.lt hj (Nat.le_refl 22) (low (by omega))
  obtain ⟨h2, eb, keep2⟩ := h1.field hb.lt hk (by omega) (low (by omega))
  obtain ⟨h3, ec, keep3⟩ := h2.field hc.lt hl (by omega) (low (by omega))
  obtain ⟨h4, ed, keep4⟩ := h3.field hd.lt hm (by omega) hbase
  refine names_of_top ?_ h4.top
  rw [h, keep4 p _ (by omega), keep3 p _ (by omega), keep2 p _ (by omega), keep4 q _ (by omega), keep3 q _ (by omega), keep4 r _ (by omega),
    ea, eb, ec, ed, ha.read, hb.read, hc.read, hd.read]

theorem names₃ {mk : α → β → γ → Instr} (ha : Coded j ra va a) (hb : Coded k rb vb b) (hc : Coded l rc vc c)
    (h : ∀ w, rawOf (fld base 29 3) (fld base 22 7) w x y = some (mk (ra (fld w p j)) (rb (fld w q k)) (rc (fld w r l))))
    (ht : t = sh vc r := by rfl) (hp : p + j ≤ 22 ∧ q + k ≤ p ∧ r + l ≤ q ∧ base % 2 ^ 22 < 2 ^ r := by decide) :
    Names (mk a b c) (base + sh va p + sh vb q + t) x y (wordCount base x) :=
  names₄ (p := 22) (mk := fun _ => mk) (.absent 0) ha hb hc h ht ⟨Nat.le_refl 22, hp⟩

theorem names₂ {mk : α → β → Instr} (ha : Coded j ra va a) (hb : Coded k rb vb b)
    (h : ∀ w, rawOf (fld base 29 3) (fld base 22 7) w x y = some (mk (ra (fld w p j)) (rb (fld w q k))))
    (ht : t = sh vb q := by rfl) (hp : p + j ≤ 22 ∧ q + k ≤ p ∧ base % 2 ^ 22 < 2 ^ q := by decide) :
    Names (mk a b) (base + sh va p + t) x y (wordCount base x) :=
  names₃ (p := 22) (mk := fun _ => mk) (.absent 0) ha hb h ht ⟨Nat.le_refl 22, hp⟩

theorem names₁ {mk : α → Instr} (ha : Coded j ra va a) (h : ∀ w, rawOf (fld base 29 3) (fld base 22 7) w x y = some (mk (ra (fld w p j))))
    (ht : t = sh va p := by rfl) (hp : p + j ≤ 22 ∧ base % 2 ^ 22 < 2 ^ p := by decide) : Names (mk a) (base + t) x y (wordCount base x) :=
  names₂ (p := 22) (mk := fun _ => mk) (.absent 0) ha h ht ⟨Nat.le_refl 22, hp⟩

theorem names₀ {i : Instr} (h : rawOf (fld base 29 3) (fld base 22 7) base x y = some i) : Names i base x y (wordCount base x) :=
  names_of_top h rfl

end

/-- A property of three words and of how many of them belong to an instruction holds of that instruction's words, whatever follows them. -/
def AtWords (P : Nat → Nat → Nat → Nat → Prop) : List Nat → Prop
  | [w] => ∀ x y, P w x y 1
  | [w, x] => ∀ y, P w x y 2
  | [w, x, y] => P w x y 3
  | _ => False

/-- `i` is a form of another engine than VEC, and its words name it. -/
def NamedByWords (i : Instr) : Prop := vecInfo i = none ∧ AtWords (Names i) (fullWords i)

end Sys2Proof.Machine
end

section
namespace Sys2Proof.Machine

/-! ## The forms of every engine but VEC (R180)

The words of each form name it: most list their operands in the order of their fields; the others, whose fields stand in another order or in
the second word too, read each operand from its field. -/

section
variable {base x y : Nat} (a b c : Fin 32) (dbl u : Bool)

/-- The atomics have bit 1 of F set; bit 0 is the size, bit 2 the order that AMOMIN and AMOMAX compare in (R200). -/
theorem names_amoOrdered {mk : Fin 32 → Fin 32 → Fin 32 → Bool → Bool → Instr}
    (h : ∀ w, rawOf (fld base 29 3) (fld base 22 7) w x y = some (mk (Fin.ofNat 32 (fld w 17 5)) (Fin.ofNat 32 (fld w 12 5))
      (Fin.ofNat 32 (fld w 7 5)) (fld w 0 1 == 1) (fld w 2 1 == 1))) (hbase : base % 2 ^ 22 = 2 := by decide) :
    Names (mk a b c dbl u) (base + sh a.val 17 + sh b.val 12 + sh c.val 7 + dbl.toNat + sh u.toNat 2) x y (wordCount base x) := by
  have hd := dbl.toNat_lt
  have hu := u.toNat_lt
  refine names_of_top ?_
  rw [h, (Coded.fin a).readAt, (Coded.fin b).readAt, (Coded.fin c).readAt, (Coded.flag dbl (k := 1)).readAt,
    (Coded.flag u (k := 1)).readAt]

theorem names_amo {mk : Fin 32 → Fin 32 → Fin 32 → Bool → Instr}
    (h : ∀ w, rawOf (fld base 29 3) (fld base 22 7) w x y = some (mk (Fin.ofNat 32 (fld w 17 5)) (Fin.ofNat 32 (fld w 12 5))
      (Fin.ofNat 32 (fld w 7 5)) (fld w 0 1 == 1))) (hbase : base % 2 ^ 22 = 2 := by decide) :
    Names (mk a b c dbl) (base + sh a.val 17 + sh b.val 12 + sh c.val 7 + dbl.toNat) x y (wordCount base x) :=
  names_amoOrdered (mk := fun a b c dbl _ => mk a b c dbl) a b c dbl false h hbase

end

/-! LOOP and LOOPI hold their mode in the second word (R210). -/

theorem named_loop (op : LoopOp) (k : Fin 4) : NamedByWords (.loop op k) := by
  refine ⟨by cases op <;> rfl, ?_⟩
  cases op with
  | close s disp slot =>
    have hm : fld k.val 2 2 = 0 := by simp only [fld]; omega
    refine fun y => names_of_top (base := 0x10C00000) (congrArg some ?_)
    simp only [hm]
    congr 2
    exacts [(Coded.fin s).readAt, (Coded.bits disp).readAt, (Coded.fin slot).readAt, (Coded.fin k).readAt]
  | set s =>
    have hm : fld (sh 1 2 + k.val) 2 2 = 1 := by simp only [fld, sh]; omega
    refine fun y => names_of_top (base := 0x10C00000) (congrArg some ?_)
    simp only [hm]
    congr 2
    exacts [(Coded.fin s).readAt, (Coded.fin k).readAt]
  | get d =>
    have hm : fld (sh 2 2 + k.val) 2 2 = 2 := by simp only [fld, sh]; omega
    refine fun y => names_of_top (base := 0x10C00000) (congrArg some ?_)
    simp only [hm]
    congr 2
    exacts [(Coded.fin d).readAt, (Coded.fin k).readAt]

theorem named_loopi (op : LoopIOp) (k : Fin 4) : NamedByWords (.loopi op k) := by
  refine ⟨by cases op <;> rfl, ?_⟩
  cases op with
  | close n disp slot =>
    have hm : fld (sh n.toNat 4 + k.val) 2 2 = 0 := by simp only [fld, sh]; omega
    refine fun y => names_of_top (base := 0x11000000) (congrArg some ?_)
    simp only [hm]
    congr 2
    exacts [(Coded.bits n).readAt, (Coded.bits disp).readAt, (Coded.fin slot).readAt, (Coded.fin k).readAt]
  | set v =>
    have hm : fld (sh v.toNat 4 + sh 1 2 + k.val) 2 2 = 1 := by simp only [fld, sh]; omega
    refine fun y => names_of_top (base := 0x11000000) (congrArg some ?_) rfl
    simp only [hm]
    congr 2
    exacts [(Coded.bits v).readAt, (Coded.fin k).readAt]

theorem named_ctl (i : Instr) (h : wordsCtl i ≠ []) : NamedByWords i := by
  cases i with
  | nop | fence => exact ⟨rfl, fun x y => names₀ rfl⟩
  | add d a b | sub d a b | and d a b | or d a b | xor d a b | shl d a b | shr d a b | sar d a b | mul d a b | mulh d a b | mulhu d a b
  | div d a b | divu d a b | rem d a b | remu d a b | min d a b | max d a b | minu d a b | maxu d a b | slt d a b | sltu d a b | seq d a b =>
    exact ⟨rfl, fun x y => names₃ (.fin d) (.src a) (.src b) fun _ => rfl⟩
  | clz d a | popc d a | callr d a => exact ⟨rfl, fun x y => names₂ (.fin d) (.src a) fun _ => rfl⟩
  | addi d a n | andi d a n | ori d a n | xori d a n | shli d a n | shri d a n | sari d a n
  | ld8 d a n | ld16 d a n | ld32 d a n | ld64 d a n | lds8 d a n | lds16 d a n | lds32 d a n =>
    exact ⟨rfl, fun x y => names₃ (.fin d) (.src a) (.bits n) (fun _ => rfl) (sh_zero _)⟩
  | st8 d a n | st16 d a n | st32 d a n | st64 d a n =>
    exact ⟨rfl, fun x y => names₃ (.src d) (.src a) (.bits n) (fun _ => rfl) (sh_zero _)⟩
  | li d n | movcr d n => exact ⟨rfl, fun x y => names₂ (.fin d) (.bits n) (fun _ => rfl) (sh_zero _)⟩
  | lix d v =>
    refine ⟨rfl, fun y => names_of_top (base := 0x08400000) (congrArg some ?_)⟩
    congr 1
    exacts [(Coded.fin d).readAt, (Coded.bits v).readAt]
  | lix64 d lo hi =>
    refine ⟨rfl, names_of_top (base := 0x08800000) (congrArg some ?_)⟩
    congr 1
    exacts [(Coded.fin d).readAt, (Coded.bits lo).readAt, (Coded.bits hi).readAt]
  | amoadd a b c dbl | amoswp a b c dbl | amocas a b c dbl | amoand a b c dbl | amoor a b c dbl | amoxor a b c dbl =>
    exact ⟨rfl, fun x y => names_amo a b c dbl fun _ => rfl⟩
  | amomin a b c dbl u | amomax a b c dbl u => exact ⟨rfl, fun x y => names_amoOrdered a b c dbl u fun _ => rfl⟩
  | amocas2 a b c | lenq a b c | ldeq a b c => exact ⟨rfl, fun x y => names₃ (.fin a) (.fin b) (.fin c) fun _ => rfl⟩
  | pchase a b c f => exact ⟨rfl, fun x y => names₄ (.fin a) (.fin b) (.fin c) (.bits f) (fun _ => rfl) (sh_zero _)⟩
  | b disp slot | call disp slot | bcq disp slot | bcqn disp slot =>
    exact ⟨rfl, fun x y => names₂ (.bits disp) (.fin slot) (fun _ => rfl) (sh_zero _)⟩
  | bz s disp slot | bnz s disp slot =>
    exact ⟨rfl, fun x y => names₃ (.fin s) (.bits disp) (.fin slot) (fun _ => rfl) (sh_zero _)⟩
  | jr a | ret a => exact ⟨rfl, fun x y => names₁ (.src a) fun _ => rfl⟩
  | loop op k => exact named_loop op k
  | loopi op k => exact named_loopi op k
  | cqpop d | xqpop d | rnext d | rden d | rdpwr d | rdcyc d | rdret d => exact ⟨rfl, fun x y => names₁ (.fin d) fun _ => rfl⟩
  | movc a n => exact ⟨rfl, fun x y => names₂ (.src a) (.bits n) (fun _ => rfl) (sh_zero _)⟩
  | bar c | phase c => exact ⟨rfl, fun x y => names₁ (.wider (.scope c)) (fun _ => rfl) (sh_zero _)⟩
  | qfence m => exact ⟨rfl, fun x y => names₁ (.bits m) (fun _ => rfl) (sh_zero _)⟩
  | rkey a b | rctr a b | rskip a b => exact ⟨rfl, fun x y => names₂ (.src a) (.src b) fun _ => rfl⟩
  | trap c => exact ⟨rfl, fun x y => names₁ (.bits c) (fun _ => rfl) (sh_zero _)⟩
  | _ => exact absurd rfl h

/-- MDRAIN holds the address register of its transposed copy in field B, and its format in the second word, where bit 23 says that there is one
(R280). -/
theorem named_mdrain (d : Fin 128) (a : Fin 32) (df : Fmt) (tr : Option DrainT) (rm : RmSel) (sat : Bool) (rows : Fin 128) (cols : BitVec 8) :
    NamedByWords (.mdrain d a df tr rm sat rows cols) := by
  have hdf := (Coded.fmt df).lt
  have hrm := (Coded.rmSel rm).lt
  have hsat := sat.toNat_lt
  refine ⟨rfl, fun y => ?_⟩
  cases tr with
  | none =>
    refine names_of_top (base := 0x42400001) (congrArg some ?_)
    congr 1
    exacts [(Coded.fin d).readAt, (Coded.fin a).readAt, (Coded.fmt df).readAt, if_neg (by simp only [fld, sh]; omega),
      (Coded.rmSel rm).readAt, (Coded.flag sat).readAt, (Coded.fin rows).readAt, (Coded.bits cols).readAt]
  | some t =>
    have htf := (Coded.fmt t.tf).lt
    refine names_of_top (base := 0x42400001) (congrArg some ?_)
    congr 1
    exacts [(Coded.fin d).readAt, (Coded.fin a).readAt, (Coded.fmt df).readAt,
      (if_pos (by simp only [fld, sh]; omega)).trans (congrArg some (congrArg₂ DrainT.mk (Coded.fin t.b).readAt (Coded.fmt t.tf).readAt)),
      (Coded.rmSel rm).readAt, (Coded.flag sat).readAt, (Coded.fin rows).readAt, (Coded.bits cols).readAt]

theorem named_mtx (i : Instr) (h : wordsMtx i ≠ []) : NamedByWords i := by
  cases i with
  | mlease gang => exact ⟨rfl, fun x y => names₁ (.flag gang) (fun _ => rfl) (sh_zero _)⟩
  | mrel => exact ⟨rfl, fun x y => names₀ rfl⟩
  | mldt a b c t | mstt a b c t => exact ⟨rfl, fun x y => names₄ (.fin a) (.fin b) (.fin c) (.fin t) (fun _ => rfl) (sh_zero _)⟩
  | mcvt d a sf df rm sat =>
    have hsf := (Coded.mfmt sf).lt
    have hdf := (Coded.mfmt df).lt
    have hrm := (Coded.rmSel rm).lt
    have hsat := sat.toNat_lt
    refine ⟨rfl, fun y => names_of_top (base := 0x41000001) (congrArg some ?_)⟩
    congr 1
    exacts [(Coded.fin d).readAt, (Coded.fin a).readAt, (Coded.mfmt sf).readAt, (Coded.mfmt df).readAt, (Coded.rmSel rm).readAt,
      (Coded.flag sat).readAt]
  | mtrn d a => exact ⟨rfl, fun x y => names₂ (.fin d) (.fin a) fun _ => rfl⟩
  | mzero d n =>
    have hx : fld (0x41800000 + sh d.val 15 + sh n.val 8) 0 8 ≠ 1 := by simp only [fld, sh]; omega
    refine ⟨rfl, fun x y => names_of_top (base := 0x41800000) (congrArg some ((if_neg hx).trans ?_))⟩
    congr 1
    exacts [(Coded.fin d).readAt, (Coded.fin n).readAt]
  | mzeroT t =>
    have hx : fld (0x41800000 + sh t.val 15 + 1) 0 8 = 1 := by simp only [fld, sh]; omega
    refine ⟨rfl, fun x y => names_of_top (base := 0x41800000) (congrArg some ((if_pos hx).trans ?_))⟩
    congr 1
    exact (Coded.fin t).readAt
  | mma d a b f acc zc =>
    have hf := (Coded.mfmt f).lt
    have hacc := acc.toNat_lt
    refine ⟨rfl, fun y => names_of_top (base := 0x41C00001) (congrArg some ?_)⟩
    congr 1
    exacts [(Coded.fin d).readAt, (Coded.fin a).readAt, (Coded.fin b).readAt, (Coded.mfmt f).readAt, (Coded.flag acc).readAt,
      (Coded.bits zc).readAt]
  | mmag a b f acc =>
    have hf := (Coded.mfmt f).lt
    have hacc := acc.toNat_lt
    refine ⟨rfl, fun y => names_of_top (base := 0x42000001) (congrArg some ?_)⟩
    congr 1
    exacts [(Coded.fin a).readAt, (Coded.fin b).readAt, (Coded.mfmt f).readAt, (Coded.flag acc).readAt]
  | mdrain d a df tr rm sat rows cols => exact named_mdrain d a df tr rm sat rows cols
  | mfmt n code => exact ⟨rfl, fun x y => names₂ (.fin n) (.wider (.fmt code)) (fun _ => rfl) (sh_zero _)⟩
  | mchkn a => exact ⟨rfl, fun x y => names₁ (.fin a) fun _ => rfl⟩
  | mkat a b disp slot =>
    refine ⟨rfl, fun y => names_of_top (base := 0x43000001) (congrArg some ?_)⟩
    congr 1
    exacts [(Coded.fin a).readAt, (Coded.fin b).readAt, (Coded.bits disp).readAt, (Coded.fin slot).readAt]
  | mwait z gang =>
    have hz := z.toNat_lt
    have hgang := gang.toNat_lt
    refine ⟨rfl, fun x y => names_of_top (base := 0x43400000) (congrArg some ?_)⟩
    congr 1
    exacts [(Coded.flag z).readAt, (Coded.flag gang).readAt]
  | _ => exact absurd rfl h

theorem named_cpy (i : Instr) (h : wordsCpy i ≠ []) : NamedByWords i := by
  cases i with
  | copy a b c => exact ⟨rfl, fun x y => names₃ (.fin a) (.fin b) (.fin c) fun _ => rfl⟩
  | copy2 a b c len rows =>
    refine ⟨rfl, fun y => names_of_top (base := 0x60400000) (congrArg some ?_)⟩
    congr 1
    exacts [(Coded.fin a).readAt, (Coded.fin b).readAt, (Coded.fin c).readAt, (Coded.bits len).readAt, (Coded.bits rows).readAt]
  | gather a b c q esz count =>
    have hq := (Coded.stream q).lt
    refine ⟨rfl, fun y => names_of_top (base := 0x60800000) (congrArg some ?_)⟩
    congr 1
    exacts [(Coded.fin a).readAt, (Coded.fin b).readAt, (Coded.fin c).readAt, (Coded.stream q).readAt, (Coded.fin esz).readAt,
      (Coded.bits count).readAt]
  | scatter a b c esz count =>
    refine ⟨rfl, fun y => names_of_top (base := 0x60C00000) (congrArg some ?_)⟩
    congr 1
    exacts [(Coded.fin a).readAt, (Coded.fin b).readAt, (Coded.fin c).readAt, (Coded.fin esz).readAt, (Coded.bits count).readAt]
  | sbind a b c kind q =>
    have hkind := (Coded.streamKind kind).lt
    refine ⟨rfl, fun x y => names_of_top (base := 0x61000000) (congrArg some ?_)⟩
    congr 1
    exacts [(Coded.fin a).readAt, (Coded.fin b).readAt, (Coded.fin c).readAt, (Coded.streamKind kind).readAt, (Coded.fin q).readAt]
  | sunbind q => exact ⟨rfl, fun x y => names₁ (.fin q) (fun _ => rfl) (sh_zero _)⟩
  | sout a b c f => exact ⟨rfl, fun x y => names₄ (.fin a) (.fin b) (.fin c) (.fin f) (fun _ => rfl) (sh_zero _)⟩
  | pref a b | cwait a b => exact ⟨rfl, fun x y => names₂ (.fin a) (.fin b) fun _ => rfl⟩
  | opk a b c q | cstore a b c q =>
    exact ⟨rfl, fun x y => names₄ (.fin a) (.fin b) (.fin c) (.stream q) (fun _ => rfl) (sh_zero _)⟩
  | cjoin a b c q | fredw a b c q => exact ⟨rfl, fun x y => names₄ (.fin a) (.fin b) (.fin c) (.fin q) (fun _ => rfl) (sh_zero _)⟩
  | cleave a => exact ⟨rfl, fun x y => names₁ (.fin a) fun _ => rfl⟩
  | fred a b c op int nan =>
    have hop := (Coded.redOp op).lt
    have hint := int.toNat_lt
    have hnan := nan.toNat_lt
    refine ⟨rfl, fun x y => names_of_top (base := 0x63400000) (congrArg some ?_)⟩
    congr 1
    exacts [(Coded.fin a).readAt, (Coded.fin b).readAt, (Coded.fin c).readAt, (Coded.redOp op).readAt, (Coded.flag int).readAt,
      (Coded.flag nan).readAt]
  | frel => exact ⟨rfl, fun x y => names₀ rfl⟩
  | _ => exact absurd rfl h

theorem named_gau (i : Instr) (h : wordsGau i ≠ []) : NamedByWords i := by
  cases i with
  | gcfg k bw f => exact ⟨rfl, fun x y => names₃ (.bits k) (.bits bw) (.bits f) (fun _ => rfl) (sh_zero _)⟩
  | gplane a b => exact ⟨rfl, fun x y => names₂ (.fin a) (.fin b) fun _ => rfl⟩
  | ghash d a => exact ⟨rfl, fun x y => names₂ (.fin d) (.fin a) fun _ => rfl⟩
  | grep d a t rule =>
    have hrule := (Coded.repRule rule).lt
    refine ⟨rfl, fun x y => names_of_top (base := 0x80C00000) (congrArg some ?_)⟩
    congr 1
    exacts [(Coded.fin d).readAt, (Coded.fin a).readAt, (Coded.fin t).readAt, (Coded.repRule rule).readAt]
  | gpack d a b | gscat d a b | ggsum d a b => exact ⟨rfl, fun x y => names₃ (.fin d) (.fin a) (.fin b) fun _ => rfl⟩
  | gmap a m | glmap a m => exact ⟨rfl, fun x y => names₂ (.fin a) (.fin m) (fun _ => rfl) (sh_zero _)⟩
  | _ => exact absurd rfl h

theorem named_tsk (i : Instr) (h : wordsTsk i ≠ []) : NamedByWords i := by
  cases i with
  | tspawn a b f | tspawnl a b f | tstat a b f => exact ⟨rfl, fun x y => names₃ (.fin a) (.fin b) (.flag f) (fun _ => rfl) (sh_zero _)⟩
  | tsig a | tdecl a | tseal a => exact ⟨rfl, fun x y => names₁ (.fin a) fun _ => rfl⟩
  | tnewv a b c tt dsel die =>
    have htt := (Coded.tileTgt tt).lt
    have hdsel := dsel.toNat_lt
    refine ⟨rfl, fun x y => names_of_top (base := 0xA0C00000) (congrArg some ?_)⟩
    congr 1
    exacts [(Coded.fin a).readAt, (Coded.fin b).readAt, (Coded.fin c).readAt, (Coded.tileTgt tt).readAt, (Coded.flag dsel).readAt,
      (Coded.fin die).readAt]
  | treadv a b => exact ⟨rfl, fun x y => names₂ (.fin a) (.fin b) fun _ => rfl⟩
  | trepl a f | tpin a f => exact ⟨rfl, fun x y => names₂ (.fin a) (.flag f) (fun _ => rfl) (sh_zero _)⟩
  | tyield | texit => exact ⟨rfl, fun x y => names₀ rfl⟩
  | _ => exact absurd rfl h

theorem named_sys (i : Instr) (h : wordsSys i ≠ []) : NamedByWords i := by
  cases i with
  | sret | idle | mcack => exact ⟨rfl, fun x y => names₀ rfl⟩
  | ctxsave a b | ctxload a b | asidbind a b | keyld a b | pwrcap a b | artset a b | linkkey a b =>
    exact ⟨rfl, fun x y => names₂ (.fin a) (.fin b) fun _ => rfl⟩
  | tlbinv a b c all pod =>
    have hall := all.toNat_lt
    have hpod := pod.toNat_lt
    refine ⟨rfl, fun x y => names_of_top (base := 0xC0C00000) (congrArg some ?_)⟩
    congr 1
    exacts [(Coded.fin a).readAt, (Coded.fin b).readAt, (Coded.fin c).readAt, (Coded.flag all).readAt, (Coded.flag pod).readAt]
  | asidret a | keyinv a => exact ⟨rfl, fun x y => names₁ (.fin a) fun _ => rfl⟩
  | quar a f => exact ⟨rfl, fun x y => names₂ (.fin a) (.flag f) (fun _ => rfl) (sh_zero _)⟩
  | smovc a n | smovcr a n => exact ⟨rfl, fun x y => names₂ (.fin a) (.bits n) (fun _ => rfl) (sh_zero _)⟩
  | _ => exact absurd rfl h

end Sys2Proof.Machine
end

section
namespace Sys2Proof.Machine

/-! ## The words of VEC (R173, R175) -/

/-- The codes that a VEC word `w` and its modifier word `e` hold: of D, A and B, of the two classes and GARG; and the modifier. -/
structure VecFields (w e vd va vb ca cb g : Nat) (m : VMod) : Prop where
  d : fD w = vd
  a : fA w = va
  b : fB w = vb
  ca : fld e 21 2 = ca
  cb : fld e 19 2 = cb
  garg : fld e 3 8 = g
  mod : vMod e = m

/-- The words of a VEC form with X = 1: `w`, its modifier word `e`, and its immediate word, if it has one. -/
structure VecNamed (i : Instr) (w e : Nat) (imm : List Nat) : Prop where
  words : wordsVec i = w :: e :: imm
  engine : fld w 29 3 = 1
  long : fld w 0 1 = 1
  raw : ∀ y, rawVec (fld w 22 7) w e (imm.headD y) = some i
  count : imm.length = if fld e 21 2 = 3 ∨ fld e 19 2 = 3 then 1 else 0

/-- `i` is a form of VEC, and its words name it. -/
def NamedByVec (i : Instr) : Prop := (vecInfo i).isSome = true ∧ ∃ w e imm, VecNamed i w e imm

section
variable {base vd va vb ca cb g : Nat} {m : VMod} {imm : List Nat}

theorem vMod_vExt (hca : ca < 2 ^ 2) (hcb : cb < 2 ^ 2) (hg : g < 2 ^ 8) : vMod (vExt m ca cb g) = m := by
  obtain ⟨mask, ty, rm, sat, gsz⟩ := m
  have hr := (Coded.rmSel rm).lt
  have hs := sat.toNat_lt
  cases ty with
  | none =>
    simp only [vMod, vExt]
    congr 1
    exacts [(Coded.fin mask).readAt, if_neg (by simp only [fld]; omega), (Coded.rmSel rm).readAt, (Coded.flag sat).readAt,
      (Coded.fin gsz).readAt]
  | some f =>
    have hf := (Coded.fmt f).lt
    simp only [vMod, vExt]
    congr 1
    exacts [(Coded.fin mask).readAt, (if_pos (by simp only [fld]; omega)).trans (congrArg some (Coded.fmt f).readAt),
      (Coded.rmSel rm).readAt,
      (Coded.flag sat).readAt, (Coded.fin gsz).readAt]

theorem vExt_fields (hca : ca < 2 ^ 2) (hcb : cb < 2 ^ 2) (hg : g < 2 ^ 8) :
    fld (vExt m ca cb g) 21 2 = ca ∧ fld (vExt m ca cb g) 19 2 = cb ∧ fld (vExt m ca cb g) 3 8 = g := by
  obtain ⟨mask, ty, rm, sat, gsz⟩ := m
  have hr := (Coded.rmSel rm).lt
  have hs := sat.toNat_lt
  cases ty with
  | none => simp only [vExt, fld]; omega
  | some f => simp only [vExt, fld]; omega

/-- The words that hold a form's codes name the form if it is what its opcode reads from them. -/
theorem vecNamed {i : Instr} (hbase : base % 2 ^ 22 = 0) (he : fld base 29 3 = 1) (hd : vd < 2 ^ 7) (ha : va < 2 ^ 7) (hb : vb < 2 ^ 7)
    (hca : ca < 2 ^ 2) (hcb : cb < 2 ^ 2) (hg : g < 2 ^ 8) (hn : imm.length = if ca = 3 ∨ cb = 3 then 1 else 0)
    (hw : wordsVec i = vWords base vd va vb (vExt m ca cb g) imm)
    (h : ∀ w e y, VecFields w e vd va vb ca cb g m → rawVec (fld base 22 7) w e (imm.headD y) = some i) :
    ∃ w e imm, VecNamed i w e imm := by
  obtain ⟨eca, ecb, eg⟩ := vExt_fields (m := m) hca hcb hg
  have top : (base + vd * 2 ^ 15 + va * 2 ^ 8 + vb * 2 + 1) / 2 ^ 22 = base / 2 ^ 22 := by omega
  refine ⟨_, _, _, hw, (fld_of_top top).1.trans he, by simp only [fld]; omega, fun y => ?_, by rw [eca, ecb, hn]⟩
  rw [(fld_of_top top).2]
  refine h _ _ y ⟨?_, ?_, ?_, eca, ecb, eg, vMod_vExt hca hcb hg⟩ <;> simp only [fD, fA, fB, fld] <;> omega

end

/-! ### Vector sources (R175) -/

section
variable {a b : VSrc}

theorem cls_lt (a : VSrc) : a.cls < 2 ^ 2 := by cases a <;> simp [VSrc.cls]

theorem field_lt (a : VSrc) : a.field < 2 ^ 7 := by cases a <;> simp only [VSrc.field] <;> omega

theorem length_vImm (a : VSrc) : (vImm a).length = if a.cls = 3 then 1 else 0 := by cases a <;> rfl

theorem vImm_eq_nil (h : a.cls ≠ 3) : vImm a = [] := by
  cases a with
  | imm v => exact absurd rfl h
  | _ => rfl

/-- A source is read back from its class, its field and its immediate word. -/
theorem vsrcOf_codes (a : VSrc) (l : List Nat) (y : Nat) : vsrcOf a.cls a.field ((vImm a ++ l).headD y) = a := by
  cases a <;> simp [vsrcOf, VSrc.cls, VSrc.field, vImm]

theorem notBothImm_iff : notBothImm a b = true ↔ a.cls ≠ 3 ∨ b.cls ≠ 3 := by
  simp [notBothImm]

/-- The immediate word of B is the first one, since A has none beside it (R174). -/
theorem vsrcOf_second (h : notBothImm a b = true) (y : Nat) : vsrcOf b.cls b.field ((vImm a ++ vImm b).headD y) = b := by
  rcases notBothImm_iff.mp h with ha | hb
  · rw [vImm_eq_nil ha, List.nil_append, ← List.append_nil (vImm b), vsrcOf_codes]
  · cases b with
    | imm v => exact absurd rfl hb
    | _ => simp [vsrcOf, VSrc.cls, VSrc.field]

theorem length_two (h : notBothImm a b = true) : (vImm a ++ vImm b).length = if a.cls = 3 ∨ b.cls = 3 then 1 else 0 := by
  rcases notBothImm_iff.mp h with ha | hb
  · simp [length_vImm, ha]
  · simp [length_vImm, hb]

theorem length_one (a : VSrc) : (vImm a).length = if a.cls = 3 ∨ (0 : Nat) = 3 then 1 else 0 := by simp [length_vImm]

theorem ofNat_fD (d : Fin 128) (w : Nat) (h : fD w = d.val) : Fin.ofNat 128 (fD w) = d := by rw [h, Fin.ofNat_val_eq_self]

/-! ### Forms by their sources

`hd` and `hb` read what a form holds in D, and in B where no source is there; GARG is read by `rg` where the form has it. -/

variable {base vd va vb vg : Nat} {m : VMod} {α β γ δ : Type} {rd : Nat → α} {ra : Nat → β} {rb : Nat → γ} {rg : Nat → δ}
  {d : α} {c : β} {e : γ} {g : δ}

theorem vec_two {mk : α → VSrc → VSrc → δ → VMod → Instr} (hab : notBothImm a b = true) (hlt : vd < 2 ^ 7) (hd : ∀ w, fD w = vd → rd w = d)
    (hg : Coded 8 rg vg g) (hbase : base % 2 ^ 22 = 0) (he : fld base 29 3 = 1)
    (hw : wordsVec (mk d a b g m) = vWords base vd a.field b.field (vExt m a.cls b.cls vg) (vImm a ++ vImm b))
    (h : ∀ w e y, rawVec (fld base 22 7) w e y
      = some (mk (rd w) (vsrcOf (fld e 21 2) (fA w) y) (vsrcOf (fld e 19 2) (fB w) y) (rg (fld e 3 8)) (vMod e))) :
    ∃ w e imm, VecNamed (mk d a b g m) w e imm :=
  vecNamed hbase he hlt (field_lt a) (field_lt b) (cls_lt a) (cls_lt b) hg.lt (length_two hab) hw fun w e y f => by
    rw [h, hd w f.d, f.ca, f.a, f.cb, f.b, f.garg, f.mod, hg.read, vsrcOf_codes, vsrcOf_second hab]

theorem vec_dab {mk : Fin 128 → VSrc → VSrc → VMod → Instr} (d : Fin 128) (hab : notBothImm a b = true)
    (hbase : base % 2 ^ 22 = 0) (he : fld base 29 3 = 1)
    (hw : wordsVec (mk d a b m) = vWords base d.val a.field b.field (vExt m a.cls b.cls 0) (vImm a ++ vImm b))
    (h : ∀ w x y, rawVec (fld base 22 7) w x y
      = some (mk (Fin.ofNat 128 (fD w)) (vsrcOf (fld x 21 2) (fA w) y) (vsrcOf (fld x 19 2) (fB w) y) (vMod x))) :
    ∃ w x imm, VecNamed (mk d a b m) w x imm :=
  vec_two (mk := fun d a b _ => mk d a b) hab d.isLt (ofNat_fD d) (.absent 8) hbase he hw h

theorem vec_one {mk : Fin 128 → VSrc → γ → δ → VMod → Instr} (d : Fin 128) (hlt : vb < 2 ^ 7) (hb : ∀ w, fB w = vb → rb w = e)
    (hg : Coded 8 rg vg g) (hbase : base % 2 ^ 22 = 0) (he : fld base 29 3 = 1)
    (hw : wordsVec (mk d a e g m) = vWords base d.val a.field vb (vExt m a.cls 0 vg) (vImm a))
    (h : ∀ w x y, rawVec (fld base 22 7) w x y
      = some (mk (Fin.ofNat 128 (fD w)) (vsrcOf (fld x 21 2) (fA w) y) (rb w) (rg (fld x 3 8)) (vMod x))) :
    ∃ w x imm, VecNamed (mk d a e g m) w x imm :=
  vecNamed hbase he d.isLt (field_lt a) hlt (cls_lt a) (by decide) hg.lt (length_one a) hw fun w x y f => by
    rw [h, f.d, f.ca, f.a, hb w f.b, f.garg, f.mod, hg.read, Fin.ofNat_val_eq_self, ← List.append_nil (vImm a), vsrcOf_codes]

theorem vec_da {mk : Fin 128 → VSrc → VMod → Instr} (d : Fin 128) (hbase : base % 2 ^ 22 = 0) (he : fld base 29 3 = 1)
    (hw : wordsVec (mk d a m) = vWords base d.val a.field 0 (vExt m a.cls 0 0) (vImm a))
    (h : ∀ w x y, rawVec (fld base 22 7) w x y = some (mk (Fin.ofNat 128 (fD w)) (vsrcOf (fld x 21 2) (fA w) y) (vMod x))) :
    ∃ w x imm, VecNamed (mk d a m) w x imm :=
  vec_one (mk := fun d a _ _ => mk d a) (rb := fun _ => ()) d (by decide) (fun _ _ => rfl) (.absent 8) hbase he hw h

theorem vec_registers {mk : α → β → γ → VMod → Instr} (hd : Coded 7 rd vd d) (ha : Coded 7 ra va c) (hb : Coded 7 rb vb e)
    (hbase : base % 2 ^ 22 = 0) (he : fld base 29 3 = 1) (hw : wordsVec (mk d c e m) = vWords base vd va vb (vExt m 0 0 0) [])
    (h : ∀ w x y, rawVec (fld base 22 7) w x y = some (mk (rd (fD w)) (ra (fA w)) (rb (fB w)) (vMod x))) :
    ∃ w x imm, VecNamed (mk d c e m) w x imm :=
  vecNamed hbase he hd.lt ha.lt hb.lt (by decide) (by decide) (by decide) rfl hw fun w x y f => by
    rw [h, f.d, f.a, f.b, f.mod, hd.read, ha.read, hb.read]

theorem vec_registersDA {mk : α → β → VMod → Instr} (hd : Coded 7 rd vd d) (ha : Coded 7 ra va c)
    (hbase : base % 2 ^ 22 = 0) (he : fld base 29 3 = 1) (hw : wordsVec (mk d c m) = vWords base vd va 0 (vExt m 0 0 0) [])
    (h : ∀ w x y, rawVec (fld base 22 7) w x y = some (mk (rd (fD w)) (ra (fA w)) (vMod x))) :
    ∃ w x imm, VecNamed (mk d c m) w x imm :=
  vec_registers (mk := fun d c _ => mk d c) hd ha (.absent 7) hbase he hw h

end

/-- A format code in the low bits of field B. -/
theorem fmtOf_fB (f : Fmt) (w : Nat) (h : fB w = f.code) : fmtOf (fld w 1 4) = f := by
  have hf := (Coded.fmt f).lt
  simp only [fB, fld] at h
  exact (Coded.fmt f).readAt

theorem named_vec (i : Instr) (h : wordsVec i ≠ []) (wf : i.WellFormed) : NamedByVec i := by
  cases i with
  | vadd d a b m | vsub d a b m | vmul d a b m | vfma d a b m | vfms d a b m | vfnma d a b m | vmin d a b m | vmax d a b m | vand d a b m
  | vor d a b m | vxor d a b m | vshl d a b m | vshr d a b m | vsar d a b m | vsel d a b m | vbcast d a b m | vexpi d a b m | vperm d a b m
  | vrot d a b m | vslide d a b m =>
    exact ⟨rfl, vec_dab d (Bool.and_elim_right wf) rfl rfl rfl fun _ _ _ => rfl⟩
  | vcmp p d a b m =>
    have hp := (Coded.pred p).lt
    refine ⟨rfl, vec_two (d := (p, d)) (mk := fun p a b _ => .vcmp p.1 p.2 a b) (Bool.and_elim_right (Bool.and_elim_right wf))
      (vd := p.code * 8 + d.val) (by omega) (rd := fun w => (predOf (fld w 18 4), Fin.ofNat 8 (fld w 15 3))) (fun w ed => ?_)
      (.absent 8) rfl rfl rfl fun _ _ _ => rfl⟩
    simp only [fD, fld] at ed
    rw [(Coded.pred p).readAt, (Coded.fin d).readAt]
  | vshuf d a b pat m =>
    exact ⟨rfl, vec_two (Bool.and_elim_right wf) d.isLt (ofNat_fD d) (.shuf pat) rfl rfl rfl fun _ _ _ => rfl⟩
  | vxq a b m =>
    exact ⟨rfl, vec_two (rd := fun _ => ()) (mk := fun _ a b _ => .vxq a b) (Bool.and_elim_right wf) (by decide) (fun _ _ => rfl)
      (.absent 8) rfl rfl rfl fun _ _ _ => rfl⟩
  | vabs d a m | vneg d a m | vmov d a m | viota d a m | vclass d a m | vrcp d a m | vrsq d a m | vsqrt d a m | vexp2f d a m | vlog2f d a m
  | vrint d a m | vfint d a m | vgetexp d a m | vgetmant d a m | vredadd d a m | vredmax d a m | vredamax d a m | vredmin d a m
  | vscan d a m => exact ⟨rfl, vec_da d rfl rfl rfl fun _ _ _ => rfl⟩
  | vcvt d a df part m =>
    have hf := (Coded.fmt df).lt
    refine ⟨rfl, vec_one (e := (df, part)) (mk := fun d a p _ => .vcvt d a p.1 p.2) d (vb := part.val * 16 + df.code) (by omega)
      (rb := fun w => (fmtOf (fld w 1 4), Fin.ofNat 4 (fld w 5 2))) (fun w eb => ?_) (.absent 8) rfl rfl rfl fun _ _ _ => rfl⟩
    simp only [fB, fld] at eb
    rw [(Coded.fmt df).readAt, (Coded.fin part).readAt]
  | vquant d a df m =>
    exact ⟨rfl, vec_one (mk := fun d a f _ => .vquant d a f) d (Coded.fmt df).wider.lt (fmtOf_fB df) (.absent 8) rfl rfl rfl fun _ _ _ => rfl⟩
  | vdeq d a df m =>
    exact ⟨rfl, vec_one (mk := fun d a f _ => .vdeq d a f) d (Coded.fmt df).wider.lt (fmtOf_fB df) (.absent 8) rfl rfl rfl fun _ _ _ => rfl⟩
  | vcomp d a k m =>
    exact ⟨rfl, vec_one (rb := fun _ => ()) (mk := fun d a _ k => .vcomp d a k) d (Nat.two_pow_pos 7) (fun _ _ => rfl) (.bits k)
      rfl rfl rfl fun _ _ _ => rfl⟩
  | vlds d a b m | vsts d a b m | vgath d a b m | vscat d a b m | mand d a b m | mor d a b m | mxor d a b m =>
    exact ⟨rfl, vec_registers (.fin d) (.fin a) (.fin b) rfl rfl rfl fun _ _ _ => rfl⟩
  | vld d a m | vst d a m | mnot d a m | mfirst d a m => exact ⟨rfl, vec_registersDA (.fin d) (.fin a) rfl rfl rfl fun _ _ _ => rfl⟩
  | vrng d m => exact ⟨rfl, vec_registersDA (mk := fun d _ => .vrng d) (.fin d) (.absent 7) rfl rfl rfl fun _ _ _ => rfl⟩
  | mpop a m => exact ⟨rfl, vec_registersDA (mk := fun _ a => .mpop a) (.absent 7) (.fin a) rfl rfl rfl fun _ _ _ => rfl⟩
  | vanyq a m => exact ⟨rfl, vec_registersDA (mk := fun _ a => .vanyq a) (.absent 7) (.fin a) rfl rfl rfl fun _ _ _ => rfl⟩
  | vallq a m => exact ⟨rfl, vec_registersDA (mk := fun _ a => .vallq a) (.absent 7) (.fin a) rfl rfl rfl fun _ _ _ => rfl⟩
  | _ => exact absurd rfl h
end Sys2Proof.Machine
end

section
namespace Sys2Proof.Machine

/-! ## Decoding an encoding (O52, O53, O54; R168, R169) -/

/-- The words `w`, `x`, `y` decode to `i`, which occupies `n` of them. -/
def DecodesTo (i : Instr) (w x y n : Nat) : Prop := decode w x y = .ok i ∧ wordCount w x = n

section
variable {i : Instr} {w x y : Nat}

theorem decode_ok (h : rawInstr w x y = some i) (hw : wordsAre i w x y = true) (wf : i.WellFormed) : decode w x y = .ok i := by
  have engine : fld w 29 3 ≠ 7 := fun h7 => by simp [rawInstr, h7] at h
  simp [decode, engine, h, hw, wf]

/-- What holds of an instruction's words may be weakened, with the words known. -/
theorem AtWords.imp {P Q : Nat → Nat → Nat → Nat → Prop} {ws : List Nat} (h : AtWords P ws)
    (hPQ : ∀ w x y n, ws = [w] ∨ ws = [w, x] ∨ ws = [w, x, y] → P w x y n → Q w x y n) : AtWords Q ws :=
  match ws, h with
  | [w], h => fun x y => hPQ w x y 1 (.inl rfl) (h x y)
  | [w, x], h => fun y => hPQ w x y 2 (.inr (.inl rfl)) (h y)
  | [w, x, y], h => hPQ w x y 3 (.inr (.inr rfl)) h

/-- A form of another engine than VEC is encoded by its words. -/
theorem NamedByWords.decodes (hn : NamedByWords i) (wf : i.WellFormed) : AtWords (DecodesTo i) (encode i) := by
  obtain ⟨hv, hn⟩ := hn
  have he : encode i = fullWords i := by simp [encode, hv]
  rw [he]
  refine hn.imp fun w x y n hw ⟨hraw, hcount⟩ => ⟨decode_ok hraw ?_ wf, hcount⟩
  simpa [wordsAre, hv, or_assoc] using hw

/-- An instruction that is a form of none of the other six engines has the words of a VEC form. -/
theorem fullWords_of_not_named (h : ¬ NamedByWords i) : fullWords i = wordsVec i := by
  have nil {words : Instr → List Nat} (named : ∀ i, words i ≠ [] → NamedByWords i) : words i = [] := by_contra fun hw => h (named i hw)
  simp [fullWords, nil named_ctl, nil named_mtx, nil named_cpy, nil named_gau, nil named_tsk, nil named_sys]

theorem fullWords_of_vec (h : (vecInfo i).isSome = true) : fullWords i = wordsVec i :=
  fullWords_of_not_named fun hn => by simp [hn.1] at h

/-- With X = 0 a VEC word stands for the word with X = 1 and the plain modifier (R173). -/
theorem VecNamed.short (h : VecNamed i w plainExt []) (x y : Nat) :
    rawInstr (w - 1) x y = some i ∧ w - 1 + 1 = w ∧ fld (w - 1) 0 1 = 0 ∧ wordCount (w - 1) x = 1 := by
  have hlong := h.long
  simp only [fld] at hlong
  have hw : w - 1 + 1 = w := by omega
  have hx : fld (w - 1) 0 1 = 0 := by simp only [fld]; omega
  have top : (w - 1) / 2 ^ 22 = w / 2 ^ 22 := by omega
  have he : fld (w - 1) 29 3 = 1 := (fld_of_top top).1.trans h.engine
  refine ⟨?_, hw, hx, by simp [wordCount, he, hx]⟩
  simpa [rawInstr, he, hx, hw, (fld_of_top top).2] using h.raw x

theorem VecNamed.full {e : Nat} {imm : List Nat} (h : VecNamed i w e imm) (y : Nat) :
    rawInstr w e (imm.headD y) = some i ∧ wordCount w e = 2 + imm.length := by
  refine ⟨by simpa [rawInstr, h.engine, h.long] using h.raw y, ?_⟩
  rw [h.count]
  simp only [wordCount, h.engine, h.long, Nat.one_ne_zero, if_false]
  split <;> rfl

theorem NamedByVec.decodes (hn : NamedByVec i) (wf : i.WellFormed) : AtWords (DecodesTo i) (encode i) := by
  obtain ⟨hs, w, e, imm, h⟩ := hn
  obtain ⟨info, hv⟩ := Option.isSome_iff_exists.mp hs
  have hf : fullWords i = w :: e :: imm := (fullWords_of_vec hs).trans h.words
  have hc := h.count
  match imm, h with
  | [], h =>
    by_cases hp : e = plainExt
    · subst hp
      have he : encode i = [w - 1] := by simp [encode, hv, hf]
      rw [he]
      intro x y
      obtain ⟨hraw, hw, hx, hcount⟩ := h.short x y
      exact ⟨decode_ok hraw (by simp [wordsAre, hv, hf, hx, hw]) wf, hcount⟩
    · have he : encode i = [w, e] := by simp [encode, hv, hf, hp]
      rw [he]
      intro y
      obtain ⟨hraw, hcount⟩ := h.full y
      exact ⟨decode_ok hraw (by simp [wordsAre, hv, hf, h.long]) wf, hcount⟩
  | [v], h =>
    have he : encode i = [w, e, v] := by simp [encode, hv, hf]
    rw [he]
    obtain ⟨hraw, hcount⟩ := h.full 0
    exact ⟨decode_ok hraw (by simp [wordsAre, hv, hf, h.long]) wf, hcount⟩
  | _ :: _ :: _, _ =>
    simp only [List.length_cons] at hc
    split at hc <;> omega

/-- The encoding of a well-formed instruction decodes to it, whatever words follow. -/
theorem encode_decodes (hw : fullWords i ≠ []) (wf : i.WellFormed) : AtWords (DecodesTo i) (encode i) := by
  by_cases hn : NamedByWords i
  · exact hn.decodes wf
  · rw [fullWords_of_not_named hn] at hw
    exact (named_vec i hw wf).decodes wf

/-- An encoding of one word is decoded with the two words that follow it, one of two words with one. -/
theorem decodesBack_of_fullWords {words : Instr → List Nat} (h : ∀ i, words i ≠ [] → fullWords i ≠ []) : DecodesBack words := by
  intro i x y hw wf _ _
  have hd := encode_decodes (h i hw) wf
  match encode i, hd with
  | [w], hd => exact ⟨w, x, y, [], rfl, (hd x y).1⟩
  | [w, u], hd => exact ⟨w, u, x, [y], rfl, (hd x).1⟩
  | [w, u, v], hd => exact ⟨w, u, v, [x, y], rfl, hd.1⟩

end

/-- Settles O52: the words of every CTL form name it (`named_ctl`), so its encoding decodes to it (`encode_decodes`). -/
theorem decodeEncodeControl : Obligations.DecodeEncodeControl := decodesBack_of_fullWords fun i h => by simp [fullWords, h]

/-- Settles O53: the words of every VEC form name it, with its modifier word and its immediate word (`named_vec`), and where `encode` leaves the
plain modifier out the decoder puts it in (`VecNamed.short`). -/
theorem decodeEncodeVector : Obligations.DecodeEncodeVector := decodesBack_of_fullWords fun i h => by simp [fullWords, h]

/-- Settles O54: the words of every form of these engines name it (`named_mtx`, `named_cpy`, `named_gau`, `named_tsk`, `named_sys`). -/
theorem decodeEncodeOthers : Obligations.DecodeEncodeOthers :=
  ⟨decodesBack_of_fullWords fun i h => by simp [fullWords, h], decodesBack_of_fullWords fun i h => by simp [fullWords, h],
    decodesBack_of_fullWords fun i h => by simp [fullWords, h], decodesBack_of_fullWords fun i h => by simp [fullWords, h],
    decodesBack_of_fullWords fun i h => by simp [fullWords, h]⟩

end Sys2Proof.Machine
end

section
namespace Sys2Proof.Machine

/-! ## What decodes (O55; R169) -/

section
variable {w x y : Nat}

theorem decode_sound {i : Instr} (h : decode w x y = .ok i) : i.WellFormed ∧ wordsAre i w x y = true := by
  unfold decode at h
  split at h
  · cases h
  · split at h
    · cases h
    · split at h
      · next j hj hc =>
        cases h
        obtain ⟨hw, wf⟩ := (Bool.and_eq_true ..).mp hc
        exact ⟨wf, hw⟩
      · cases h

/-- An opcode past an engine's last form names none. -/
theorem rawInstr_unlisted (h7 : fld w 29 3 < 7) (h : [86, 61, 14, 16, 9, 12, 16].getD (fld w 29 3) 0 ≤ fld w 22 7) :
    rawInstr w x y = none := by
  unfold rawInstr
  generalize fld w 29 3 = e at h7 h
  obtain ⟨n, hn⟩ := Nat.exists_eq_add_of_le' h
  rw [hn]
  interval_cases e
  exacts [rfl, ite_self none, rfl, rfl, rfl, rfl, rfl]

theorem decode_unlisted (h7 : fld w 29 3 < 7) (h : [86, 61, 14, 16, 9, 12, 16].getD (fld w 29 3) 0 ≤ fld w 22 7) :
    decode w x y = .error .opcode := by
  simp [decode, Nat.ne_of_lt h7, rawInstr_unlisted h7 h]

end

/-- Two CTL instructions with one encoding are what it decodes to. -/
theorem encode_ctl_injective {i j : Instr} (wi : i.WellFormed) (wj : j.WellFormed) (hi : wordsCtl i ≠ []) (hj : wordsCtl j ≠ [])
    (h : encode i = encode j) : i = j := by
  obtain ⟨a, b, c, r, hab, hdi⟩ := decodeEncodeControl i 0 0 hi wi (by decide) (by decide)
  obtain ⟨a', b', c', r', hab', hdj⟩ := decodeEncodeControl j 0 0 hj wj (by decide) (by decide)
  rw [h, hab'] at hab
  cases hab
  exact Except.ok.inj (hdi.symm.trans hdj)

theorem decodeChecks : Sys2Proof.Parts.DecodeChecks :=
  ⟨fun _ _ _ _ => decode_sound, fun _ _ _ h => if_pos h, fun _ _ _ => decode_unlisted,
    fun _ _ _ _ wi wj hi hj _ _ => encode_ctl_injective wi wj hi hj⟩

theorem decodeWords : Sys2Proof.Parts.DecodeWords := by
  unfold Sys2Proof.Parts.DecodeWords
  decide +kernel

theorem wordCounts : Sys2Proof.Parts.WordCounts := by
  intro i x hw wf _
  have hd := encode_decodes hw wf
  match encode i, hd with
  | [w], hd => exact ⟨w, [], rfl, (hd x 0).2, by simp⟩
  | [w, u], hd => exact ⟨w, [u], rfl, (hd 0).2, by simp⟩
  | [w, u, v], hd => exact ⟨w, [u, v], rfl, hd.2, by simp⟩

/-- Settles O55: the decoder's own checks are `decode_sound`, an opcode that no form has names none (`rawInstr_unlisted`), and an encoding is as
long as its words say (`encode_decodes`). -/
theorem decodeIsRight : Obligations.DecodeIsRight := ⟨decodeChecks, decodeWords, wordCounts⟩

end Sys2Proof.Machine
end

section
namespace Sys2Proof.Machine

/-! ## The generator, the counters and the control registers (O11) -/

variable {a b : Src} {d : Fin 32} {n : BitVec 8} {s s' s1 s2 : State} {v x y : W64}

/-- A word of two sources that changes the captured registers (R220). -/
theorem ctl_updCfg {f : W64 × W64 → Cfg → Cfg} (hr : Ready (srcRegs [a, b]) s) (h : readSrc2 a b s = .ok (x, y) s') :
    ctl (srcRegs [a, b]) (fun s => (readSrc2 a b s).bind fun x s => .done (updCfg (f x) s)) s = .next (complete (updCfg (f (x, y)) s')) :=
  ctl_done hr (by rw [h]; rfl)

theorem generator_words : Sys2Proof.Parts.Generator :=
  ⟨fun _ _ _ _ _ _ hr h => ⟨ctl_updCfg hr h, ctl_updCfg hr h, ctl_updCfg hr h⟩, fun _ s => ctl_done (ready_nil s) rfl⟩

theorem counter_reads : Sys2Proof.Parts.CounterReads :=
  ⟨fun _ s => ctl_done (ready_nil s) rfl, fun _ s => ctl_done (ready_nil s) rfl, fun _ s => ctl_done (ready_nil s) rfl,
    fun _ s => ⟨ctl_done (ready_nil s) rfl, rfl⟩⟩

/-- The assigned numbers of the user registers (R183). -/
def userNumber (n : Nat) : Prop := n ≤ 4 ∨ 8 ≤ n ∧ n < 40 ∨ 48 ≤ n ∧ n ≤ 52

theorem readUser_eq_none {n : Nat} : readUser n s = none ↔ ¬ userNumber n := by
  unfold readUser userNumber
  simp only [ite_eq_iff, reduceCtorEq, and_false, false_or, and_true]
  omega

theorem writeUser_eq_none {n : Nat} : writeUser n v s = none ↔ ¬ userNumber n := by
  unfold writeUser userNumber
  simp only [ite_eq_iff, reduceCtorEq, and_false, false_or, and_true]
  omega

/-- Of the writes only that of FLAGS, register 2, waits for its writers (R213). -/
theorem write_passes (hf : n = 2 → regPending 2 s = false) : ¬ (n = 2 && regPending 2 s) = true := by
  simpa using hf

/-- MOVC goes by what the register's write answers: an unassigned number and a refused value are ILLEGAL. -/
theorem movc_user (hr : Ready (srcRegs [a]) s) (hn : n.toNat < 0x80) (hp : regPending n.toNat s = false) (h : readSrc a s = .ok v s1) :
    exec (.movc a n) s = .next (finish s ((writeUser n.toNat v s1).join.elim (illegal s1.cx.pc s1) .done)) := by
  have hf : n = 2 → regPending 2 s = false := by
    rintro rfl
    exact hp
  refine ctl_body hr ?_
  rw [if_neg (Nat.not_le.mpr hn), if_neg (write_passes hf), h, Res.bind]
  rcases writeUser n.toNat v s1 with _ | _ | t <;> rfl

theorem movcr_user (hn : n.toNat < 0x80) (hp : regPending n.toNat s = false) :
    exec (.movcr d n) s = .next (finish s ((readUser n.toNat s).elim (illegal s.cx.pc s) fun r => .done (wr r.2 d r.1))) := by
  refine ctl_body (ready_nil s) ?_
  rw [if_neg (Nat.not_le.mpr hn), hp, if_neg Bool.false_ne_true]
  rcases readUser n.toNat s with _ | ⟨v, t⟩ <;> rfl

/-- A number of a privileged register is ILLEGAL in privileged mode and PRIVILEGE in user mode (R183). -/
theorem movcPriv_eq (s : State) : movcPriv s = .trap (if s.cx.pr.priv then cILLEGAL else cPRIVILEGE) s.cx.pc 0 s := by
  unfold movcPriv
  split <;> rfl

theorem movc_privileged (hr : Ready (srcRegs [a]) s) (hn : 0x80 ≤ n.toNat) :
    exec (.movc a n) s = .next (finish s (.trap (if s.cx.pr.priv then cILLEGAL else cPRIVILEGE) s.cx.pc 0 s)) :=
  ctl_body hr ((if_pos hn).trans (movcPriv_eq s))

theorem movcr_privileged (hn : 0x80 ≤ n.toNat) :
    exec (.movcr d n) s = .next (finish s (.trap (if s.cx.pr.priv then cILLEGAL else cPRIVILEGE) s.cx.pc 0 s)) :=
  ctl_body (ready_nil s) ((if_pos hn).trans (movcPriv_eq s))

theorem control_register_moves : Sys2Proof.Parts.ControlRegisterMoves := by
  refine ⟨fun a n s s1 s2 v hr hn hp h => ⟨fun hw => ?_, fun hw => ?_⟩, fun d n s s1 v hn hp => ⟨fun hu => ?_, fun hu => ?_⟩,
    fun a d n s hr hn => ⟨movc_privileged hr hn, movcr_privileged hn⟩, fun n v s _ => writeUser_eq_none.trans readUser_eq_none.symm⟩
  · rw [movc_user hr hn hp h, hw]
    rfl
  · rw [movc_user hr hn hp h, hw]
    rfl
  · rw [movcr_user hn hp, hu]
    rfl
  · rw [movcr_user hn hp, hu]
    rfl

/-- Settles O11: the generator's words and the counter reads are their bodies (`ctl_updCfg`, `ctl_done`); MOVC and MOVCR go by what the
register's write and read answer (`movc_user`, `movcr_user`), which know the same numbers (`userNumber`). -/
theorem controlRegisterWords : Obligations.ControlRegisterWords := ⟨generator_words, counter_reads, control_register_moves⟩

end Sys2Proof.Machine
end

section
namespace Sys2Proof.Machine

/-! ## The guards of the system words, SMOVC and SMOVCR (O35) -/

section
variable {rs : List (Fin 32)} {body : State → Act} {s : State}

theorem sysWord_user (hp : s.cx.pr.priv = false) : sysWord rs body s = .next (finish s (.trap cPRIVILEGE s.cx.pc 0 s)) := by
  simp [sysWord, hp]

theorem sysWord_replayable (hp : s.cx.pr.priv = true) (h : replayable s = true) : sysWord rs body s = .next (finish s (illegal s.cx.pc s)) := by
  simp [sysWord, hp, h]

end

theorem system_guards : Sys2Proof.Parts.SystemGuards := by
  intro a b c n f g i s hi
  have guarded : ∃ rs body, exec i = sysWord rs body := by fin_cases hi <;> exact ⟨_, _, rfl⟩
  obtain ⟨rs, body, hexec⟩ := guarded
  rw [hexec]
  exact ⟨sysWord_user, sysWord_replayable⟩

section
variable {a d : Fin 32} {n : BitVec 8} {s : State}

/-- SMOVC and SMOVCR go by what the register's write or read answers, as MOVC and MOVCR do (R356). -/
theorem smovc_privileged (hr : Ready [a] s) (hp : s.cx.pr.priv = true) (hs : replayable s = false) (hn : 0x80 ≤ n.toNat) :
    exec (.smovc a n) s = .next (finish s ((writePriv n.toNat (sget s.cx a) s).elim (illegal s.cx.pc s) .done)) := by
  have hf : n = 2 → regPending 2 s = false := by
    rintro rfl
    exact absurd hn (by decide)
  refine sysWord_body hr hp hs ?_
  rw [if_neg (write_passes hf)]
  refine (if_pos hn).trans ?_
  rcases writePriv n.toNat (sget s.cx a) s with _ | t <;> rfl

theorem smovc_user (hr : Ready [a] s) (hp : s.cx.pr.priv = true) (hs : replayable s = false) (hn : n.toNat < 0x80)
    (hf : regPending 2 s = false) :
    exec (.smovc a n) s = .next (finish s ((writeUser n.toNat (sget s.cx a) s).join.elim (illegal s.cx.pc s) .done)) := by
  refine sysWord_body hr hp hs ?_
  rw [if_neg (write_passes fun _ => hf)]
  refine (if_neg (Nat.not_le.mpr hn)).trans ?_
  rcases writeUser n.toNat (sget s.cx a) s with _ | _ | t <;> rfl

theorem smovcr_privileged (hp : s.cx.pr.priv = true) (hs : replayable s = false) (hn : 0x80 ≤ n.toNat) :
    exec (.smovcr d n) s = .next (finish s ((readPriv n.toNat s).elim (illegal s.cx.pc s) fun v => .done (wr s d v))) := by
  refine sysWord_body (ready_nil s) hp hs ?_
  rw [if_pos hn]
  rcases readPriv n.toNat s with _ | v <;> rfl

theorem smovcr_user (hp : s.cx.pr.priv = true) (hs : replayable s = false) (hn : n.toNat < 0x80) (hf : regPending n.toNat s = false) :
    exec (.smovcr d n) s = .next (finish s ((readUser n.toNat s).elim (illegal s.cx.pc s) fun r => .done (wr r.2 d r.1))) := by
  refine sysWord_body (ready_nil s) hp hs ?_
  rw [if_neg (Nat.not_le.mpr hn), hf, if_neg Bool.false_ne_true]
  rcases readUser n.toNat s with _ | ⟨v, t⟩ <;> rfl

end

section
variable {n : Nat} {v : W64} {s t : State}

/-- The numbers of the privileged registers end at 0x8F (R331). -/
theorem writePriv_unassigned (h : 0x90 ≤ n) : writePriv n v s = none := by
  obtain ⟨k, rfl⟩ := Nat.exists_eq_add_of_le' h
  rfl

theorem readPriv_unassigned (h : 0x90 ≤ n) : readPriv n s = none := by
  obtain ⟨k, rfl⟩ := Nat.exists_eq_add_of_le' h
  rfl

theorem writePriv_readOnly (h : n ∈ [0x80, 0x82, 0x84, 0x85, 0x86, 0x8A, 0x8E, 0x8F]) : writePriv n v s = some s := by
  fin_cases h <;> rfl

theorem readPriv_writePriv (h : n ∈ [0x83, 0x88, 0x89, 0x8D]) (hw : writePriv n v s = some t) : readPriv n t = some v := by
  fin_cases h <;> cases hw <;> rfl

end

theorem privileged_registers : Sys2Proof.Parts.PrivilegedRegisters := by
  refine ⟨fun a n s s1 hr hp hs hn hw => ?_, fun a n s s1 hr hp hs hn hf hw => ?_, fun d n s v hp hs hn hv => ?_,
    fun d n s s1 v hp hs hn hf hv => ?_, fun a d n s hr hp hs hn => ⟨?_, ?_⟩, fun _ _ _ => writePriv_readOnly,
    fun _ _ _ _ => readPriv_writePriv⟩
  · rw [smovc_privileged hr hp hs hn, hw]
    rfl
  · rw [smovc_user hr hp hs hn hf, hw]
    rfl
  · rw [smovcr_privileged hp hs hn, hv]
    rfl
  · rw [smovcr_user hp hs hn hf, hv]
    rfl
  · rw [smovc_privileged hr hp hs (by omega), writePriv_unassigned hn]
    rfl
  · rw [smovcr_privileged hp hs (by omega), readPriv_unassigned hn]
    rfl

/-- Settles O35: every system word stands behind the two guards of `sysWord`; past them SMOVC and SMOVCR go by what the register's write and
read answer (`smovc_privileged`, `smovc_user`, `smovcr_privileged`, `smovcr_user`). -/
theorem privilegedWords : Obligations.PrivilegedWords := ⟨system_guards, privileged_registers⟩

end Sys2Proof.Machine
end
